-- ==== Sys2Proof/Word.lean ====
section
/-! DEFINITION. The word types of the Garup G9 (00 R4, R5; 03 R28). -/

namespace Sys2Proof

/-- A 64-bit register (R14). -/
abbrev Word := BitVec 64

/-- A byte of memory. -/
abbrev Byte := BitVec 8

/-- A 32-bit instruction word (R53). -/
abbrev IWord := BitVec 32

/-- One bit per lane of a group (R17). -/
abbrev LaneMask := BitVec 32

/-- A lane counter (R120). -/
abbrev Pc := BitVec 56

end Sys2Proof
end

