-- ==== Sys2Proof/Syntax.lean ====
section
/-! DEFINITION. The syntax of the Garup G9: one constructor of Instr for every row of the opcode
table. Rows 0 to 209 are instructions of the opcode map (05 R53-R75); the other rows, and
BWPHASE_WRITE, are events of the machine (95), which no word encodes. Operand payloads keep every field of
the instruction word, so that the encoder of Decode.lean drops nothing; which field values are an
instruction at all is WellFormed.lean. -/

namespace Sys2Proof

/-- The type codes 0x00-0x13 (R57), in the order of their codes. -/
inductive Ty where
  | i64 | n64 | i32 | n32 | i16 | n16 | i8 | n8 | i4 | n4
  | f64 | f32 | f16 | bf16 | e4m3 | e5m2 | e3m2 | e2m3 | e2m1 | c4
  deriving DecidableEq, Repr, Inhabited

/-- The rnd field of an X-word (R61): the instruction's default, or a rounding mode of R36. -/
inductive Rnd where
  | dflt | rn | rna | rz | rp | rm
  deriving DecidableEq, Repr, Inhabited

/-- The orders of an M-word (R63). -/
inductive Order where
  | rlx | acq | rel | ar
  deriving DecidableEq, Repr, Inhabited

/-- The scopes of an M-word (R63, R175). -/
inductive Scope where
  | grp | team | clu | die | pkg | sys
  deriving DecidableEq, Repr, Inhabited

/-- The three register-file forms of the extended majors 0x1E, 0x1F, 0x20 (R56), and of the memory
majors 0x23 (per lane), 0x24 (lane-strided), 0x25 (uniform) (R150). -/
inductive Form where
  | v | m | s
  deriving DecidableEq, Repr, Inhabited

/-- F3 with a short type (R54, R59). Every payload's sp is the S bit (R53). -/
structure R3 where
  sp : Bool
  d : BitVec 7
  a : BitVec 7
  b : BitVec 7
  ty : Ty
  deriving DecidableEq, Repr, Inhabited

/-- F3 whose low field is fixed (R54, R66). -/
structure R3L where
  sp : Bool
  d : BitVec 7
  a : BitVec 7
  b : BitVec 7
  deriving DecidableEq, Repr, Inhabited

/-- A short shift: w is the width code 0b00 64, 0b01 32, 0b10 16, 0b11 8 (R59). -/
structure R3W where
  sp : Bool
  d : BitVec 7
  a : BitVec 7
  b : BitVec 7
  w : BitVec 2
  deriving DecidableEq, Repr, Inhabited

/-- A short unary instruction: b is its unary code (R59). -/
structure R2 where
  sp : Bool
  d : BitVec 7
  a : BitVec 7
  ty : Ty
  deriving DecidableEq, Repr, Inhabited

/-- movi, FI form (R60). -/
structure MoviImm where
  sp : Bool
  d : BitVec 7
  ty : Ty
  imm : BitVec 11
  deriving DecidableEq, Repr, Inhabited

/-- movi, FW form (R60). -/
structure MoviWord where
  sp : Bool
  d : BitVec 7
  ty : Ty
  imm : BitVec 32
  deriving DecidableEq, Repr, Inhabited

/-- The immediate add (R60). -/
structure AddImm where
  sp : Bool
  d : BitVec 7
  a : BitVec 7
  imm : BitVec 11
  deriving DecidableEq, Repr, Inhabited

/-- An extended instruction: first word of R92 with its guard, X-word of R61. -/
structure XArgs where
  sp : Bool
  form : Form
  neg : Bool
  p : BitVec 3
  d : BitVec 7
  a : BitVec 7
  b : BitVec 7
  c : BitVec 7
  ty : Ty
  aux : BitVec 5
  rnd : Rnd
  sat : Bool
  imm : BitVec 5
  deriving DecidableEq, Repr, Inhabited

/-- rdsr and csrr: the register number n stands in the b field (R118, R294). -/
structure SrRead where
  sp : Bool
  d : BitVec 7
  n : BitVec 7
  deriving DecidableEq, Repr, Inhabited

/-- wrsr and csrw (R119, R294). -/
structure SrWrite where
  sp : Bool
  a : BitVec 7
  n : BitVec 7
  deriving DecidableEq, Repr, Inhabited

/-- An instruction with an M-word (R63): majors 0x23-0x25 by form, 0x26 and 0x27 with form s.
look is bits 3:0 of the first word. -/
structure MArgs where
  sp : Bool
  form : Form
  d : BitVec 7
  a : BitVec 7
  b : BitVec 7
  look : BitVec 4
  aop : BitVec 4
  ty : Ty
  ord : Order
  sc : Scope
  off : BitVec 14
  deriving DecidableEq, Repr, Inhabited

/-- An instruction with an E-word (R64). -/
structure EArgs where
  sp : Bool
  d : BitVec 7
  a : BitVec 7
  b : BitVec 7
  handle : BitVec 12
  shape : BitVec 4
  cls : BitVec 4
  param : BitVec 12
  deriving DecidableEq, Repr, Inhabited

/-- bra (R65): a signed count of words. -/
structure BraArgs where
  sp : Bool
  imm : BitVec 32
  deriving DecidableEq, Repr, Inhabited

/-- brp (R65). -/
structure BrpArgs where
  sp : Bool
  p : BitVec 3
  neg : Bool
  imm : BitVec 32
  deriving DecidableEq, Repr, Inhabited

/-- call (R65, R127): u is U. -/
structure CallArgs where
  sp : Bool
  d : BitVec 7
  u : Bool
  imm : BitVec 32
  deriving DecidableEq, Repr, Inhabited

/-- rep (R72): cnt is count - 1; the steps are the two-bit codes. -/
structure RepArgs where
  sp : Bool
  cnt : BitVec 6
  sd : BitVec 2
  sa : BitVec 2
  sb : BitVec 2
  deriving DecidableEq, Repr, Inhabited

/-- win, trap, brk (R67). -/
structure ImmArgs where
  sp : Bool
  imm : BitVec 11
  deriving DecidableEq, Repr, Inhabited

/-- The units that owner entries assign (R350, R354). -/
inductive UnitKind where
  | core | slice | slot | bin
  deriving DecidableEq, Repr, Inhabited

/-- Where an uncorrectable error is found (R302). -/
inductive ErrPlace where
  | line (line : Nat)                  -- cellar or home slice line
  | proxy (die line : Nat)             -- a line of a die's proxy slice that holds dirty MANUAL bytes, R203
  | shadow (line : Nat)                -- a slice's copy of a line for SHADOW pages, R201
  | view (part win line : Nat)         -- a view line in its slice, R340
  | l1 (core line : Nat)               -- an L1 line, clean or dirty MANUAL
  | sram (core granule : Nat)          -- scratchpad or operand-buffer granule
  | group (gid laneReg : Nat)          -- register file or group state
  | engine (ctx : Nat)                 -- engine, graft-unit or Trellis state
  deriving DecidableEq, Repr, Inhabited

/-- A register written by REGISTER_WRITE: a control register of a partition's supervisor (R294), or
a register of a function's BAR0, function 0 the PF and v the VF v (R353, R354, R356, R360). -/
inductive RegTarget where
  | csr (part num : Nat)
  | bar (fn off : Nat)
  deriving DecidableEq, Repr, Inhabited

/-- What a requester selects in NEGOTIATE_ALGORITHMS (R368). -/
structure AlgSel where
  mlDsa87 : Bool
  sha3 : Bool
  mlKem1024 : Bool
  aesGcm : Bool
  deriving DecidableEq, Repr, Inhabited

/-- A KEY_EXCHANGE: whether it asks for all measurements, and whether its exchange data is good (log entry 20). -/
structure KeyAsk where
  all : Bool
  good : Bool
  deriving DecidableEq, Repr
/-- A FINISH: its session, and whether its proof is good (log entry 20). -/
structure FinishAsk where
  session : Nat
  good : Bool
  deriving DecidableEq, Repr

/-- A Theush flit (R364). Bytes that the layout says are zero have no field. -/
structure Flit where
  typ : BitVec 8
  len : BitVec 8
  src : BitVec 16
  dst : BitVec 16
  seq : BitVec 16
  window : BitVec 12
  offset : BitVec 48
  payload : List Byte
  poison : BitVec 7
  crc : BitVec 64
  deriving DecidableEq, Repr, Inhabited

/-- What an Ultra Ethernet packet does here (R366, R367, R210): it delivers put bytes into a window,
or acknowledges or refuses this device's put, or acknowledges its message. -/
inductive UePacket where
  | deliver (win offset : Nat) (payload : List Byte) (rise : Nat)
  | acked (xfer : Nat)
  | refused (xfer : Nat)
  deriving DecidableEq, Repr, Inhabited

/-- The instructions and events: one constructor per row of the opcode table. -/
inductive Instr where
  -- short arithmetic, logic, shift and unary majors 0x01-0x18 (R59, R93, R99)
  | addVVV (x : R3)
  | addVVS (x : R3)
  | addSSS (x : R3)
  | faddVVV (x : R3)
  | faddVVS (x : R3)
  | faddSSS (x : R3)
  | subVVV (x : R3)
  | subVVS (x : R3)
  | subSSS (x : R3)
  | fsubVVV (x : R3)
  | fsubVVS (x : R3)
  | fsubSSS (x : R3)
  | mulVVV (x : R3)
  | mulVVS (x : R3)
  | mulSSS (x : R3)
  | fmulVVV (x : R3)
  | fmulVVS (x : R3)
  | fmulSSS (x : R3)
  | minVVV (x : R3)
  | minVVS (x : R3)
  | minSSS (x : R3)
  | fminVVV (x : R3)
  | fminVVS (x : R3)
  | fminSSS (x : R3)
  | maxVVV (x : R3)
  | maxVVS (x : R3)
  | maxSSS (x : R3)
  | fmaxVVV (x : R3)
  | fmaxVVS (x : R3)
  | fmaxSSS (x : R3)
  | andVVV (x : R3L)
  | andVVS (x : R3L)
  | andSSS (x : R3L)
  | orVVV (x : R3L)
  | orVVS (x : R3L)
  | orSSS (x : R3L)
  | xorVVV (x : R3L)
  | xorVVS (x : R3L)
  | xorSSS (x : R3L)
  | shlVVV (x : R3W)
  | shlVVS (x : R3W)
  | shlSSS (x : R3W)
  | shrVVV (x : R3W)
  | shrVVS (x : R3W)
  | shrSSS (x : R3W)
  | sarVVV (x : R3W)
  | sarVVS (x : R3W)
  | sarSSS (x : R3W)
  | rotVVV (x : R3W)
  | rotVVS (x : R3W)
  | rotSSS (x : R3W)
  | absVV (x : R2)
  | absVS (x : R2)
  | absSS (x : R2)
  | negVV (x : R2)
  | negVS (x : R2)
  | negSS (x : R2)
  | notVV (x : R2)
  | notVS (x : R2)
  | notSS (x : R2)
  | popcVV (x : R2)
  | popcVS (x : R2)
  | popcSS (x : R2)
  | clzVV (x : R2)
  | clzVS (x : R2)
  | clzSS (x : R2)
  | brevVV (x : R2)
  | brevVS (x : R2)
  | brevSS (x : R2)
  | movVV (x : R2)
  | movVS (x : R2)
  | movSS (x : R2)
  -- immediates (R60)
  | moviVecImm (x : MoviImm)
  | moviUniImm (x : MoviImm)
  | moviVecIword (x : MoviWord)
  | moviUniIword (x : MoviWord)
  | addImm (x : AddImm)
  -- extended majors 0x1E-0x20 (R61, R62)
  | addX (x : XArgs)
  | subX (x : XArgs)
  | mulX (x : XArgs)
  | mulhi (x : XArgs)
  | mad (x : XArgs)
  | minX (x : XArgs)
  | maxX (x : XArgs)
  | absX (x : XArgs)
  | negX (x : XArgs)
  | andX (x : XArgs)
  | orX (x : XArgs)
  | xorX (x : XArgs)
  | notX (x : XArgs)
  | shlX (x : XArgs)
  | shrX (x : XArgs)
  | sarX (x : XArgs)
  | rotX (x : XArgs)
  | popcX (x : XArgs)
  | clzX (x : XArgs)
  | brevX (x : XArgs)
  | bfx (x : XArgs)
  | bfi (x : XArgs)
  | sel (x : XArgs)
  | cmp (x : XArgs)
  | movX (x : XArgs)
  | dot4 (x : XArgs)
  | sad (x : XArgs)
  | faddX (x : XArgs)
  | fsubX (x : XArgs)
  | fmulX (x : XArgs)
  | ffma (x : XArgs)
  | fminX (x : XArgs)
  | fmaxX (x : XArgs)
  | fcmp (x : XArgs)
  | frnd (x : XArgs)
  | cvt (x : XArgs)
  | pack (x : XArgs)
  | unpack (x : XArgs)
  | exp2 (x : XArgs)
  | log2 (x : XArgs)
  | rcp (x : XArgs)
  | rsqrt (x : XArgs)
  | sqrt (x : XArgs)
  | sin (x : XArgs)
  | cos (x : XArgs)
  | tanh (x : XArgs)
  | cbld (x : XArgs)
  | cbrd (x : XArgs)
  | cbq (x : XArgs)
  | shfl (x : XArgs)
  | bcast (x : XArgs)
  | ballot (x : XArgs)
  | vote (x : XArgs)
  | gscan (x : XArgs)
  | gred (x : XArgs)
  | matchEq (x : XArgs)
  -- special registers (R118, R119); a BWPHASE write on its way to the controllers (R348)
  | rdsrVector (x : SrRead)
  | rdsrUniform (x : SrRead)
  | wrsr (x : SrWrite)
  | bwphaseWrite (part : Nat) (v : Word)
  -- memory (R150)
  | ld (x : MArgs)
  | st (x : MArgs)
  | lds (x : MArgs)
  | sts (x : MArgs)
  | ldc (x : MArgs)
  | atom (x : MArgs)
  | atoms (x : MArgs)
  | pref (x : MArgs)
  | fence (x : MArgs)
  | fenceEng (x : MArgs)
  | wbr (x : MArgs)
  | invr (x : MArgs)
  | put (x : MArgs)
  | get (x : MArgs)
  | ctrw (x : MArgs)
  -- renaming (R237)
  | mapCat (x : MArgs)
  | mapSplit (x : MArgs)
  | mapPerm (x : MArgs)
  | mapXchg (x : MArgs)
  | mapAlias (x : MArgs)
  | mapDrop (x : MArgs)
  | mapQuery (x : MArgs)
  -- Racking engine and Press (R261, R266, R273)
  | cpG2s (x : EArgs)
  | cpS2g (x : EArgs)
  | cpS2s (x : EArgs)
  | cpMc (x : EArgs)
  | cpNet (x : EArgs)
  | cpxTr (x : EArgs)
  | cpxQ4r (x : EArgs)
  | cpxDq (x : EArgs)
  | cpxZbc (x : EArgs)
  | cpxZbx (x : EArgs)
  | mm (x : EArgs)
  | mmLd (x : EArgs)
  | mmSt (x : EArgs)
  -- transaction words (R255)
  | txInit (x : R3L)
  | txAim (x : R3L)
  | txArrive (x : R3L)
  | txWait (x : R3L)
  | txTest (x : R3L)
  | txDrop (x : R3L)
  -- Trellis (R308, R312, R319, R321, R324-R327)
  | taskSpawn (x : R3L)
  | tileSet (x : R3L)
  | tileGet (x : R3L)
  | ridgeArrive (x : R3L)
  | ridgeWait (x : R3L)
  | ridgeJoin (x : R3L)
  | ridgeLeave (x : R3L)
  | leadStep (x : R3L)
  | tasteNext (x : R3L)
  | tasteAdd (x : R3L)
  | tasteStat (x : R3L)
  -- control (R125)
  | bra (x : BraArgs)
  | brp (x : BrpArgs)
  | call (x : CallArgs)
  | jmpi (x : R3L)
  | ret (x : R3L)
  | exit (x : R3L)
  | yield (x : R3L)
  | nop (x : R3L)
  | gsync (x : R3L)
  | wait (x : R3L)
  | waitClk (x : R3L)
  | rep (x : RepArgs)
  | win (x : ImmArgs)
  | trap (x : ImmArgs)
  | brk (x : ImmArgs)
  -- system (R294)
  | tret (x : R3L)
  | csrr (x : SrRead)
  | csrw (x : SrWrite)
  | gsave (x : R3L)
  | grest (x : R3L)
  | scall (x : R3L)
  -- events of the machine: steps that no instruction word encodes (95)
  | runPromoted (gid : Nat) (lanes : LaneMask)
  | waitClkDeadline (gid : Nat) (lanes : LaneMask)
  | groupLeave (gid : Nat)
  | latchedCauseDelivery (gid : Nat)
  | requestAtHomeSlice (id : Nat)
  | requestRetranslation (id : Nat)
  | tableWalk (core ctx va : Nat)
  | loadResponse (id : Nat)
  | atomicResponse (id : Nat)
  | storeAcknowledgement (id : Nat)
  | l1Eviction (core line : Nat)
  | proxySliceEviction (die line : Nat)
  | putArrival (id : Nat)
  | putAcknowledged (id : Nat)
  | getComplete (id : Nat)
  | pressEntryExecute (id : Nat)
  | enginePartArrival (id part : Nat)
  | engineOperationComplete (id : Nat)
  | editCommit (id : Nat)
  | editComplete (id : Nat)
  | zeroPageCommit (id : Nat)
  | frameRelease (frame : Nat)
  | teamPlacement (node : Nat)
  | placementWaitExpiry (ctx : Nat)
  | preemption (node : Nat)
  | teamSave (team : Nat)
  | forcedSave (team : Nat)
  | nodeComplete (node : Nat)
  | nodeFailInput (node : Nat)
  | gridBudgetExpired (node : Nat)
  | watchdogKill (node : Nat)
  | killComplete (ctx : Nat)
  | uncorrectableError (place : ErrPlace) (retryOk : Bool)
  | linkError (part die port : Nat)
  | switchPoint (part : Nat)
  | slwbDone (part : Nat)
  | viewLineFill (part win line : Nat)
  | keySlotEmptied (slot : Nat)
  | binToStandby (bin : Nat)
  | binToRetention (bin : Nat)
  | binWakeDone (bin : Nat)
  | binPowerDown (bin : Nat)
  | bwphaseArrival (part : Nat)
  | bankroleWrite (part : Nat) (v : Word)
  | bankpinWrite (part : Nat) (v : Word)
  | wtctlRegister (part : Nat) (v : Word)
  | wtctlDeregister (part : Nat) (v : Word)
  | fpbaseWrite (part : Nat) (v : Word)
  | fpaddWrite (part : Nat) (v : Word)
  | ptbaseWrite (part : Nat) (v : Word)
  | pteInstall (part : Nat) (v : Word)
  | pteRemove (part : Nat) (v : Word)
  | pteRead (part : Nat) (v : Word)
  | gctlResume (part : Nat) (v : Word)
  | gctlReflect (part : Nat) (v : Word)
  | gctlKill (part : Nat) (v : Word)
  | ctxctlWrite (part : Nat) (v : Word)
  | slhashWrite (part : Nat) (v : Word)
  | slctlGo (part : Nat) (v : Word)
  | slwbWrite (part : Nat) (v : Word)
  | binmapAllocClear (part : Nat) (v : Word)
  | binmapAllocSet (part : Nat) (v : Word)
  | binmapDomWrite (part : Nat) (v : Word)
  | fwctlValidSet (part : Nat) (v : Word)
  | fwctlValidClear (part : Nat) (v : Word)
  | registerWrite (target : RegTarget) (v : Word)
  | perstDeassert
  | trainingDone
  | ownerEntryWrite (unit : UnitKind) (idx : Nat) (v : BitVec 8)
  | numvfsWrite (n : Nat)
  | feataccWrite (part n : Nat) (v : Word)
  | mbxdbPost (part : Nat) (v : Word)
  | mailboxPostResult (part : Nat)
  | mailboxMessage (part : Nat)
  | mbxreplyWrite (part : Nat) (v : Word)
  | getVersion (fn arg : Nat)
  | getCapabilities (fn arg : Nat)
  | negotiateAlgorithms (fn : Nat) (sel : AlgSel)
  | getDigests (fn arg : Nat)
  | getCertificate (fn arg : Nat)
  | challenge (fn arg : Nat)
  | getMeasurements (fn arg : Nat)
  | keyExchange (fn : Nat) (ask : KeyAsk)
  | finish (fn : Nat) (ask : FinishAsk)
  | heartbeat (fn arg : Nat)
  | keyUpdate (fn arg : Nat)
  | endSession (fn arg : Nat)
  | keyload (fn session slot : Nat) (key : BitVec 512)
  | keydrop (fn session slot : Nat)
  | putDataFlit (port : Nat) (f : Flit)
  | counterRiseFlit (port : Nat) (f : Flit)
  | acknowledgementFlit (port : Nat) (f : Flit)
  | creditFlit (port : Nat) (f : Flit)
  | retryRequestFlit (port : Nat) (f : Flit)
  | idleFlit (port : Nat) (f : Flit)
  | portDown (port : Nat)
  | laneLoss (port : Nat)
  | throttleStep
  | thermalPowerDown
  | mbxptrWrite (part : Nat) (v : Word)
  | ultraEthernetPacket (p : UePacket)
  | theushPortRetrain (port : Nat)
  | correctedError (part : Nat)
  deriving DecidableEq, Repr, Inhabited

end Sys2Proof
end

