-- ==== Sys2Proof/Machine/Forms.lean ====
section
/-! DEFINITION. The fields that each instruction accepts (05 R57-R68 and the tables of 07, 09, 11,
17, 19, 21, 23): the decode causes that a candidate instruction's fields raise. A candidate is an
instruction exactly when it raises none; of several causes the decoder reports the lowest (R68). -/

namespace Sys2Proof.Machine

/-- The type code (R57). -/
def tyCode : Ty → BitVec 5
  | .i64 => 0x00 | .n64 => 0x01 | .i32 => 0x02 | .n32 => 0x03 | .i16 => 0x04 | .n16 => 0x05
  | .i8 => 0x06 | .n8 => 0x07 | .i4 => 0x08 | .n4 => 0x09 | .f64 => 0x0A | .f32 => 0x0B
  | .f16 => 0x0C | .bf16 => 0x0D | .e4m3 => 0x0E | .e5m2 => 0x0F | .e3m2 => 0x10 | .e2m3 => 0x11
  | .e2m1 => 0x12 | .c4 => 0x13

/-- The type of a code; codes 0x14-0x1F are unassigned (R57). -/
def tyOf (c : BitVec 5) : Option Ty :=
  match c.toNat with
  | 0x00 => some .i64 | 0x01 => some .n64 | 0x02 => some .i32 | 0x03 => some .n32
  | 0x04 => some .i16 | 0x05 => some .n16 | 0x06 => some .i8 | 0x07 => some .n8
  | 0x08 => some .i4 | 0x09 => some .n4 | 0x0A => some .f64 | 0x0B => some .f32
  | 0x0C => some .f16 | 0x0D => some .bf16 | 0x0E => some .e4m3 | 0x0F => some .e5m2
  | 0x10 => some .e3m2 | 0x11 => some .e2m3 | 0x12 => some .e2m1 | 0x13 => some .c4
  | _ => none

/-- Element width in bits (R28). -/
def tyWidth : Ty → Nat
  | .i64 | .n64 | .f64 => 64
  | .i32 | .n32 | .f32 => 32
  | .i16 | .n16 | .f16 | .bf16 => 16
  | .i8 | .n8 | .e4m3 | .e5m2 => 8
  | .e3m2 | .e2m3 => 6
  | .i4 | .n4 | .e2m1 | .c4 => 4

/-- Sub-elements per register (R28). -/
def tyCount (t : Ty) : Nat := 64 / tyWidth t

/-- The integer types (R29). -/
def tyIsInt : Ty → Bool
  | .i64 | .n64 | .i32 | .n32 | .i16 | .n16 | .i8 | .n8 | .i4 | .n4 => true
  | _ => false

/-- iN, as against nN (R29). -/
def tySigned : Ty → Bool
  | .i64 | .i32 | .i16 | .i8 | .i4 => true
  | _ => false

/-- Floating-point types, c4 not among them. -/
def tyIsFloat (t : Ty) : Bool := !tyIsInt t && t != .c4

/-- Types with a short code (R57). -/
def tyShort : Ty → Bool
  | .e3m2 | .e2m3 | .e2m1 | .c4 => false
  | _ => true

/-- Access size in bytes of a memory instruction, 0 where the type has none (R152). -/
def tyBytes (t : Ty) : Nat := if tyWidth t < 8 then 0 else tyWidth t / 8

/-- c when the condition is met. -/
def bad (b : Bool) (c : BitVec 8) : List (BitVec 8) := if b then [c] else []

/-- Unassigned code, or an operation in a major it does not accept (R68). -/
abbrev cUnassigned : BitVec 8 := 0x01
/-- Nonzero reserved or unused field, or a modifier on an operation that has none (R68). -/
abbrev cReserved : BitVec 8 := 0x02
/-- Unassigned type, or a type the operation does not accept (R68). -/
abbrev cType : BitVec 8 := 0x03

/-! ### Short majors -/

/-- A short arithmetic instruction: its type is short and of its kind (R59). -/
def causesR3 (int : Bool) (x : R3) : List (BitVec 8) :=
  bad (!(tyShort x.ty && tyIsInt x.ty == int)) cType

/-- A short unary instruction: not, popc, clz and brev accept only integer types (R59). -/
def causesR2 (intOnly : Bool) (x : R2) : List (BitVec 8) :=
  bad (!tyShort x.ty || (intOnly && !tyIsInt x.ty)) cType

/-- movi, FI form (R60). -/
def causesMoviImm (x : MoviImm) : List (BitVec 8) := bad (!tyShort x.ty) cType

/-- movi, FW form: for a width of at most 32 the I-word's other bits are zero (R60). -/
def causesMoviWord (x : MoviWord) : List (BitVec 8) :=
  bad (decide (tyWidth x.ty < 32) && x.imm >>> tyWidth x.ty != 0) cReserved

/-! ### Extended majors -/

/-- How an extended operation uses its c field (R61). -/
inductive CUse where
  | none | reg | pred
  deriving DecidableEq, Repr

/-- What an operation of the extended majors accepts (R93, R99, R102-R116). Each field says whether
the candidate's field is acceptable. -/
structure XSpec where
  forms : Form → Bool := fun _ => true
  tys : Ty → Bool
  dZero : Bool := false
  aZero : Bool := false
  bZero : Bool := false
  c : CUse := .none
  rnd : Bool := false
  sat : Bool := false
  /-- Further unassigned codes are absent. -/
  ok1 : Bool := true
  /-- aux and imm5 and further reserved fields are as the operation gives. -/
  ok2 : Bool := true
  /-- The source type is one (cvt, pack, unpack). -/
  ok3 : Bool := true

/-- The causes of a candidate against what its operation accepts. tyOk is false where the type
field holds an unassigned code; conditions on the type then raise nothing else. -/
def causesX (tyOk : Bool) (x : XArgs) (p : XSpec) : List (BitVec 8) :=
  bad (!p.forms x.form) cUnassigned ++
  bad (x.neg && x.p == 0) cUnassigned ++
  bad (!p.ok1) cUnassigned ++
  bad (x.form == .s && (x.neg || x.p != 0)) cReserved ++
  bad (p.dZero && x.d != 0) cReserved ++
  bad (p.aZero && x.a != 0) cReserved ++
  bad (p.bZero && x.b != 0) cReserved ++
  bad (match p.c with
    | .none => x.c != 0
    | .reg => false
    | .pred => x.c.extractLsb' 3 4 != 0) cReserved ++
  bad (!p.rnd && x.rnd != .dflt) cReserved ++
  bad (!p.sat && x.sat) cReserved ++
  bad (!p.ok2) cReserved ++
  bad (!tyOk || !p.tys x.ty || !p.ok3) cType

/-- Every type. -/
def anyTy (_ : Ty) : Bool := true
/-- Floating-point types and c4 (R99). -/
def fltC4 (t : Ty) : Bool := !tyIsInt t
/-- The types of the special-function instructions (R105). -/
def sfuTy : Ty → Bool
  | .f32 | .f16 | .bf16 | .c4 => true
  | _ => false

/-- The compare destination of R98: PD is bit 4 of imm5, k its bits 3:0. -/
def cmpDestOk (tyOk : Bool) (x : XArgs) : Bool :=
  let pd := x.imm.getLsbD 4
  let k := (x.imm.extractLsb' 0 4).toNat
  if pd then x.d.extractLsb' 3 4 == 0 && x.d.extractLsb' 0 3 != 0 && (!tyOk || decide (k < tyCount x.ty))
  else k == 0

/-- Part h of a conversion from U to T is valid (R102). -/
def partOk (t u : Ty) (h : Nat) : Bool :=
  decide (h * min (tyCount t) (tyCount u) < max (tyCount t) (tyCount u))

/-- An integer binary operation; s says whether it has .sat. -/
def spInt (s : Bool) (x : XArgs) : XSpec :=
  { tys := tyIsInt, sat := s, ok2 := x.aux == 0 && x.imm == 0 }
/-- A float operation; r says whether it has rounding modes and .sat. -/
def spFlt (r : Bool) (x : XArgs) : XSpec :=
  { tys := fltC4, rnd := r, sat := r, ok2 := x.aux == 0 && x.imm == 0 }
/-- A special-function operation; r says whether it has every rounding mode (R105). -/
def spSfu (r : Bool) (x : XArgs) : XSpec :=
  { tys := sfuTy, bZero := true, rnd := r || x.rnd == .rn, sat := true,
    ok2 := x.aux == 0 && x.imm == 0 }
/-- cmp and fcmp; m is the greatest condition code (R98, R100). -/
def spCmp (tyOk : Bool) (int : Bool) (m : Nat) (x : XArgs) : XSpec :=
  { tys := fun t => tyIsInt t == int, ok1 := decide (x.aux.toNat ≤ m),
    ok2 := cmpDestOk tyOk x }
/-- sel (R98). -/
def spSel (x : XArgs) : XSpec :=
  { tys := tyIsInt, c := .pred, ok2 := x.aux == 0 && x.imm == 0 }
/-- cvt (R103). -/
def spCvt (tyOk : Bool) (x : XArgs) : XSpec :=
  { tys := anyTy, bZero := true, rnd := true, sat := true, ok3 := (tyOf x.aux).isSome,
    ok2 := match tyOf x.aux with
      | some u => !tyOk || partOk x.ty u x.imm.toNat
      | none => true }
/-- pack (R104). -/
def spPack (tyOk : Bool) (x : XArgs) : XSpec :=
  { tys := fun t => match tyOf x.aux with
      | some u => decide (tyCount t > tyCount u)
      | none => false
    rnd := true, sat := true, ok3 := (tyOf x.aux).isSome,
    ok2 := match tyOf x.aux with
      | some u => !tyOk || (partOk x.ty u x.imm.toNat && partOk x.ty u (x.imm.toNat + 1))
      | none => true }
/-- unpack; it has no form with a uniform source and a vector destination (R104). -/
def spUnpack (tyOk : Bool) (x : XArgs) : XSpec :=
  { tys := fun t => match tyOf x.aux with
      | some u => decide (tyCount t < tyCount u)
      | none => false
    forms := fun f => f != .m, bZero := true,
    rnd := true, sat := true, ok3 := (tyOf x.aux).isSome,
    ok2 := x.d != 127 && (match tyOf x.aux with
      | some u => !tyOk || (partOk x.ty u x.imm.toNat && partOk x.ty u (x.imm.toNat + 1))
      | none => true) }
/-- cbld: quarter mask in imm5 (R107). -/
def spCbld (x : XArgs) : XSpec :=
  { tys := fun t => t == .bf16, forms := fun f => f == .s, dZero := true, bZero := true,
    ok2 := x.aux == 0 && !x.imm.getLsbD 4 && x.imm.extractLsb' 0 4 != 0 &&
      (List.range 4).all (fun q => !x.imm.getLsbD q || decide (x.a.toNat + q ≤ 127)) }
/-- cbrd: quarter in imm5 (R108). -/
def spCbrd (x : XArgs) : XSpec :=
  { tys := fun t => t == .bf16, forms := fun f => f != .m, aZero := true, bZero := true,
    ok2 := x.aux == 0 && x.imm.extractLsb' 2 3 == 0 }
/-- cbq (R109). -/
def spCbq (x : XArgs) : XSpec :=
  { tys := fun t => t == .f32 || t == .f16 || t == .bf16, forms := fun f => f != .m,
    bZero := true, rnd := true, sat := true, ok2 := x.aux == 0 && x.imm == 0 }
/-- shfl: mode in imm5 (R112). -/
def spShfl (x : XArgs) : XSpec :=
  { tys := fun t => t != .c4, forms := fun f => f != .s,
    c := if x.imm.extractLsb' 0 2 == 1 then .reg else .none,
    ok2 := x.aux == 0 && x.imm.extractLsb' 2 3 == 0 }
/-- bcast: in major 0x1F the lane stands in imm5 (R113). -/
def spBcast (x : XArgs) : XSpec :=
  { tys := fun t => x.form == .v || t == .n64, forms := fun f => f != .s, dZero := x.form == .m,
    ok2 := x.aux == 0 && (x.form == .m || x.imm == 0) }
/-- ballot (R114). -/
def spBallot (x : XArgs) : XSpec :=
  { tys := fun t => t == .n64, forms := fun f => f != .s, c := .pred, dZero := x.form == .m,
    aZero := true, bZero := x.form == .v, ok2 := x.aux == 0 && x.imm == 0 }
/-- vote: condition and NEG in aux, quorum in imm5 (R114). -/
def spVote (x : XArgs) : XSpec :=
  { tys := fun t => t == .n64, forms := fun f => f != .s, c := .pred, dZero := x.form == .m,
    aZero := true, bZero := x.form == .v, ok1 := decide ((x.aux.extractLsb' 0 3).toNat ≤ 5),
    ok2 := !x.aux.getLsbD 4 &&
      (x.form == .m || (x.d.extractLsb' 3 4 == 0 && x.d.extractLsb' 0 3 != 0)) }
/-- The reduction op of gscan and gred takes this type (R115). -/
def redTy (op : Nat) (t : Ty) : Bool := tyIsInt t || (tyIsFloat t && decide (op ≤ 2))
/-- gscan (exc) and gred: op in imm5 bits 2:0 (R115). -/
def spRed (tyOk scan : Bool) (x : XArgs) : XSpec :=
  let op := (x.imm.extractLsb' 0 3).toNat
  { tys := redTy op, forms := fun f => f == .v || (!scan && f == .m),
    bZero := x.form == .v, dZero := !scan && x.form == .m,
    ok1 := decide (op ≤ 5), rnd := op == 0 && (!tyOk || tyIsFloat x.ty), sat := op == 0 && (!tyOk || x.ty != .c4),
    ok2 := x.aux == 0 && !x.imm.getLsbD 4 && (scan || !x.imm.getLsbD 3) }
/-- match: k in imm5 (R116). -/
def spMatch (tyOk : Bool) (x : XArgs) : XSpec :=
  { tys := anyTy, forms := fun f => f == .v, bZero := true,
    ok2 := x.aux == 0 && !x.imm.getLsbD 4 &&
      (!tyOk || decide ((x.imm.extractLsb' 0 4).toNat < tyCount x.ty)) }

/-! ### Memory, renaming and engine majors -/

/-- How a field of an M-word is used: free, zero, or one of the listed values. -/
structure MSpec where
  forms : Form → Bool := fun _ => true
  /-- the aop codes accepted; none: the field is zero -/
  aops : Option (BitVec 4 → Bool) := none
  /-- the types accepted; none: the field is zero -/
  tys : Option (Ty → Bool) := none
  ords : Option (Order → Bool) := none
  scs : Option (Scope → Bool) := none
  off : Bool := false
  dest : Bool := false
  dZero : Bool := false
  aZero : Bool := false
  bZero : Bool := false
  ok1 : Bool := true
  ok2 : Bool := true

/-- The causes of a candidate with an M-word (R63, R68, R150, R154). -/
def causesM (tyOk : Bool) (x : MArgs) (p : MSpec) : List (BitVec 8) :=
  bad (!p.forms x.form) cUnassigned ++
  bad (!p.ok1) cUnassigned ++
  (match p.aops with
    | some f => bad (!f x.aop) cUnassigned
    | none => bad (x.aop != 0) cReserved) ++
  (match p.ords with
    | some f => bad (!f x.ord) cUnassigned
    | none => bad (x.ord != .rlx) cReserved) ++
  (match p.scs with
    | some f => bad (!f x.sc) cUnassigned
    | none => bad (x.sc != .grp) cReserved) ++
  (match p.tys with
    | some f => bad (!tyOk || !f x.ty) cType
    | none => bad (!tyOk || x.ty != .i64) cReserved) ++
  bad (!p.off && x.off != 0) cReserved ++
  bad (!p.dest && x.look != 0) cReserved ++
  bad (p.dZero && x.d != 0) cReserved ++
  bad (p.aZero && x.a != 0) cReserved ++
  bad (p.bZero && x.b != 0) cReserved ++
  bad (!p.ok2) cReserved

/-- Types of at least 8 bits, with an access size (R152). -/
def memTy (t : Ty) : Bool := decide (8 ≤ tyWidth t)
/-- The types of the atomic operation with this aop (R159). -/
def atomTy (op : Nat) (t : Ty) : Bool :=
  let w := tyWidth t == 32 || tyWidth t == 64
  match op with
  | 1 | 2 | 3 | 7 | 8 => w
  | 4 | 5 | 6 => w && tyIsInt t
  | _ => w
def ordLd (o : Order) : Bool := o == .rlx || o == .acq
def ordSt (o : Order) : Bool := o == .rlx || o == .rel
def scAll (_ : Scope) : Bool := true
def scSram (s : Scope) : Bool := s == .grp || s == .team || s == .clu
def scFar (s : Scope) : Bool := s == .pkg || s == .sys
def scWin (s : Scope) : Bool := s == .die || s == .pkg || s == .sys

/-- ld (scratch false), lds (scratch true) (R150, R154). -/
def mLoad (scratch : Bool) (_x : MArgs) : MSpec :=
  { tys := some memTy, ords := some ordLd, scs := some (if scratch then scSram else scAll),
    off := true, dest := true, bZero := true }
/-- st and sts: in the vector forms d is a guard (R150). -/
def mStore (scratch : Bool) (x : MArgs) : MSpec :=
  { tys := some memTy, ords := some ordSt, scs := some (if scratch then scSram else scAll),
    off := true, dZero := x.form == .s,
    ok1 := x.form == .s || x.d.extractLsb' 0 4 != 8,
    ok2 := x.form == .s || x.d.extractLsb' 4 3 == 0 }
/-- ldc (R150). -/
def mLdc (_x : MArgs) : MSpec := { tys := some memTy, off := true, dest := true, bZero := true }
/-- atom and atoms (R150, R159). -/
def mAtom (scratch : Bool) (x : MArgs) : MSpec :=
  { aops := some (fun o => decide (1 ≤ o.toNat ∧ o.toNat ≤ 8)), tys := some (atomTy x.aop.toNat),
    ords := some (fun _ => true), scs := some (if scratch then scSram else scAll), off := true,
    dest := true }
/-- pref (R150, R154). -/
def mPref (_x : MArgs) : MSpec :=
  { tys := some memTy, scs := some (fun s => s == .grp || s == .die), off := true,
    dZero := true, bZero := true }
/-- fence (R150, R154). -/
def mFence (_x : MArgs) : MSpec :=
  { forms := fun f => f == .s, ords := some (fun o => o != .rlx), scs := some scAll,
    dZero := true, aZero := true, bZero := true }
/-- fence.eng (R150). -/
def mFenceEng (_x : MArgs) : MSpec :=
  { forms := fun f => f == .s, dZero := true, aZero := true, bZero := true }
/-- wbr and invr (R150, R154). -/
def mRange (inv : Bool) (_x : MArgs) : MSpec :=
  { forms := fun f => f == .s, ords := some (if inv then ordLd else ordSt), scs := some scFar,
    dZero := true }
/-- put and get (R150, R154). -/
def mPut (_x : MArgs) : MSpec :=
  { forms := fun f => f == .s, ords := some ordSt, scs := some scWin }
/-- ctrw (R150, R154). -/
def mCtrw (_x : MArgs) : MSpec :=
  { forms := fun f => f == .s, ords := some ordLd, scs := some scWin }
/-- The renaming instructions (R237). -/
def mMap (x : MArgs) (bZ dZ : Bool) (pairs : List (BitVec 7)) (isAlias query : Bool) : MSpec :=
  { forms := fun f => f == .s,
    aops := if isAlias then some (fun o => decide (o.toNat ≤ 1)) else none,
    scs := if query then none else some scAll, bZero := bZ, dZero := dZ,
    ok2 := pairs.all (fun r => r != 127) && (x.look == 0) }

/-- The causes of a candidate with an E-word: which of handle, shape and class are used, which bits
of param (as a mask) (R64, R261, R266, R273). -/
def causesE (x : EArgs) (handle shape cls : Bool) (mask : BitVec 12) (ok1 tyOk : Bool) :
    List (BitVec 8) :=
  bad (!handle && x.handle != 0) cReserved ++
  (if shape then bad (decide (x.shape.toNat > 3)) cUnassigned else bad (x.shape != 0) cReserved) ++
  (if cls then bad (decide (x.cls.toNat > 6)) cUnassigned else bad (x.cls != 0) cReserved) ++
  bad (x.param &&& ~~~mask != 0) cReserved ++
  bad (!ok1) cUnassigned ++
  bad (!tyOk) cType

/-- The type in param bits 4:0. -/
def eTy (x : EArgs) : Option Ty := tyOf (x.param.extractLsb' 0 5)
/-- The type of an E-word is one of these. -/
def eTyIn (x : EArgs) (l : List Ty) : Bool :=
  match eTy x with
  | some t => l.contains t
  | none => false
/-- The delivered types of cpx.dq, mm.ld and mm.st (R266, R273). -/
def eOutTys : List Ty := [.f32, .bf16, .f16, .e4m3, .e5m2]

/-! ### Register-only system formats -/

/-- The fields of an F3 instruction that must be zero (R68). -/
def causesZ (x : R3L) (d a b : Bool) : List (BitVec 8) :=
  bad (d && x.d != 0) cReserved ++ bad (a && x.a != 0) cReserved ++ bad (b && x.b != 0) cReserved

/-- The special registers of R117. -/
def srListed (n : Nat) : Bool :=
  decide (n ≤ 0x0C) || [0x10, 0x18, 0x19, 0x1A, 0x20].contains n
/-- The special registers that wrsr may write: STICKY, STALE, EPC, TRAPBASE, BWPHASE (R117, R119). -/
def srWritable (n : Nat) : Bool := [0x07, 0x08, 0x19, 0x1A, 0x20].contains n

/-- The decode causes that the fields of a candidate raise; tk is false where a full type field
holds an unassigned code. An event has no encoding, so none of its fields is one. -/
def causesOf (tk : Bool) : Instr → List (BitVec 8)
  | .addVVV x => causesR3 true x
  | .addVVS x => causesR3 true x
  | .addSSS x => causesR3 true x
  | .faddVVV x => causesR3 false x
  | .faddVVS x => causesR3 false x
  | .faddSSS x => causesR3 false x
  | .subVVV x => causesR3 true x
  | .subVVS x => causesR3 true x
  | .subSSS x => causesR3 true x
  | .fsubVVV x => causesR3 false x
  | .fsubVVS x => causesR3 false x
  | .fsubSSS x => causesR3 false x
  | .mulVVV x => causesR3 true x
  | .mulVVS x => causesR3 true x
  | .mulSSS x => causesR3 true x
  | .fmulVVV x => causesR3 false x
  | .fmulVVS x => causesR3 false x
  | .fmulSSS x => causesR3 false x
  | .minVVV x => causesR3 true x
  | .minVVS x => causesR3 true x
  | .minSSS x => causesR3 true x
  | .fminVVV x => causesR3 false x
  | .fminVVS x => causesR3 false x
  | .fminSSS x => causesR3 false x
  | .maxVVV x => causesR3 true x
  | .maxVVS x => causesR3 true x
  | .maxSSS x => causesR3 true x
  | .fmaxVVV x => causesR3 false x
  | .fmaxVVS x => causesR3 false x
  | .fmaxSSS x => causesR3 false x
  | .andVVV _ => []
  | .andVVS _ => []
  | .andSSS _ => []
  | .orVVV _ => []
  | .orVVS _ => []
  | .orSSS _ => []
  | .xorVVV _ => []
  | .xorVVS _ => []
  | .xorSSS _ => []
  | .shlVVV _ => []
  | .shlVVS _ => []
  | .shlSSS _ => []
  | .shrVVV _ => []
  | .shrVVS _ => []
  | .shrSSS _ => []
  | .sarVVV _ => []
  | .sarVVS _ => []
  | .sarSSS _ => []
  | .rotVVV _ => []
  | .rotVVS _ => []
  | .rotSSS _ => []
  | .absVV x => causesR2 false x
  | .absVS x => causesR2 false x
  | .absSS x => causesR2 false x
  | .negVV x => causesR2 false x
  | .negVS x => causesR2 false x
  | .negSS x => causesR2 false x
  | .notVV x => causesR2 true x
  | .notVS x => causesR2 true x
  | .notSS x => causesR2 true x
  | .popcVV x => causesR2 true x
  | .popcVS x => causesR2 true x
  | .popcSS x => causesR2 true x
  | .clzVV x => causesR2 true x
  | .clzVS x => causesR2 true x
  | .clzSS x => causesR2 true x
  | .brevVV x => causesR2 true x
  | .brevVS x => causesR2 true x
  | .brevSS x => causesR2 true x
  | .movVV x => causesR2 false x
  | .movVS x => causesR2 false x
  | .movSS x => causesR2 false x
  | .moviVecImm x => causesMoviImm x
  | .moviUniImm x => causesMoviImm x
  | .moviVecIword x => bad (!tk) cType ++ causesMoviWord x
  | .moviUniIword x => bad (!tk) cType ++ causesMoviWord x
  | .addImm _ => []
  | .addX x => causesX tk x (spInt true x)
  | .subX x => causesX tk x (spInt true x)
  | .mulX x => causesX tk x (spInt true x)
  | .mulhi x => causesX tk x (spInt false x)
  | .mad x => causesX tk x { spInt true x with c := .reg }
  | .minX x => causesX tk x (spInt false x)
  | .maxX x => causesX tk x (spInt false x)
  | .absX x => causesX tk x { spInt true x with bZero := true }
  | .negX x => causesX tk x { spInt true x with bZero := true }
  | .andX x => causesX tk x (spInt false x)
  | .orX x => causesX tk x (spInt false x)
  | .xorX x => causesX tk x (spInt false x)
  | .notX x => causesX tk x { spInt false x with bZero := true }
  | .shlX x => causesX tk x (spInt false x)
  | .shrX x => causesX tk x (spInt false x)
  | .sarX x => causesX tk x (spInt false x)
  | .rotX x => causesX tk x (spInt false x)
  | .popcX x => causesX tk x { spInt false x with bZero := true }
  | .clzX x => causesX tk x { spInt false x with bZero := true }
  | .brevX x => causesX tk x { spInt false x with bZero := true }
  | .bfx x => causesX tk x { spInt false x with c := .reg }
  | .bfi x => causesX tk x { spInt false x with c := .reg }
  | .sel x => causesX tk x (spSel x)
  | .cmp x => causesX tk x (spCmp tk true 5 x)
  | .movX x => causesX tk x { spInt false x with bZero := true, tys := anyTy }
  | .dot4 x => causesX tk x { spInt true x with c := .reg, tys := fun t => t == .i8 || t == .n8 }
  | .sad x => causesX tk x { spInt true x with c := .reg, tys := fun t => tyIsInt t && (tyWidth t == 8 || tyWidth t == 16) }
  | .faddX x => causesX tk x (spFlt true x)
  | .fsubX x => causesX tk x (spFlt true x)
  | .fmulX x => causesX tk x (spFlt true x)
  | .ffma x => causesX tk x { spFlt true x with c := .reg }
  | .fminX x => causesX tk x (spFlt false x)
  | .fmaxX x => causesX tk x (spFlt false x)
  | .fcmp x => causesX tk x (spCmp tk false 7 x)
  | .frnd x => causesX tk x { spFlt true x with bZero := true, sat := false }
  | .cvt x => causesX tk x (spCvt tk x)
  | .pack x => causesX tk x (spPack tk x)
  | .unpack x => causesX tk x (spUnpack tk x)
  | .exp2 x => causesX tk x (spSfu false x)
  | .log2 x => causesX tk x (spSfu false x)
  | .rcp x => causesX tk x (spSfu true x)
  | .rsqrt x => causesX tk x (spSfu false x)
  | .sqrt x => causesX tk x (spSfu true x)
  | .sin x => causesX tk x (spSfu false x)
  | .cos x => causesX tk x (spSfu false x)
  | .tanh x => causesX tk x (spSfu false x)
  | .cbld x => causesX tk x (spCbld x)
  | .cbrd x => causesX tk x (spCbrd x)
  | .cbq x => causesX tk x (spCbq x)
  | .shfl x => causesX tk x (spShfl x)
  | .bcast x => causesX tk x (spBcast x)
  | .ballot x => causesX tk x (spBallot x)
  | .vote x => causesX tk x (spVote x)
  | .gscan x => causesX tk x (spRed tk true x)
  | .gred x => causesX tk x (spRed tk false x)
  | .matchEq x => causesX tk x (spMatch tk x)
  | .rdsrVector x => bad (!srListed x.n.toNat) cUnassigned
  | .rdsrUniform x => bad (!srListed x.n.toNat || x.n == 0) cUnassigned
  | .wrsr x => bad (!srWritable x.n.toNat) cUnassigned
  | .ld x => causesM tk x (mLoad false x)
  | .st x => causesM tk x (mStore false x)
  | .lds x => causesM tk x (mLoad true x)
  | .sts x => causesM tk x (mStore true x)
  | .ldc x => causesM tk x (mLdc x)
  | .atom x => causesM tk x (mAtom false x)
  | .atoms x => causesM tk x (mAtom true x)
  | .pref x => causesM tk x (mPref x)
  | .fence x => causesM tk x (mFence x)
  | .fenceEng x => causesM tk x (mFenceEng x)
  | .wbr x => causesM tk x (mRange false x)
  | .invr x => causesM tk x (mRange true x)
  | .put x => causesM tk x (mPut x)
  | .get x => causesM tk x (mPut x)
  | .ctrw x => causesM tk x (mCtrw x)
  | .mapCat x => causesM tk x (mMap x true false [x.d, x.a] false false)
  | .mapSplit x => causesM tk x (mMap x false false [x.a] false false)
  | .mapPerm x => causesM tk x (mMap x false false [] false false)
  | .mapXchg x => causesM tk x (mMap x false false [] false false)
  | .mapAlias x => causesM tk x (mMap x false false [] true false)
  | .mapDrop x => causesM tk x (mMap x false true [] false false)
  | .mapQuery x => causesM tk x (mMap x true false [] false true)
  | .cpG2s x => causesE x false false false 0 true true
  | .cpS2g x => causesE x false false false 1 true true
  | .cpS2s x => causesE x false false false 0 true true
  | .cpMc x => causesE x false false false 0xFFF true true
  | .cpNet x => causesE x false false false 0 true true
  | .cpxTr x => causesE x true false false 0 true true
  | .cpxQ4r x => causesE x true false false 0x1F true (eTyIn x [.f32, .bf16])
  | .cpxDq x => causesE x true false false 0x1F true (eTyIn x eOutTys)
  | .cpxZbc x => causesE x false false false 0 true true
  | .cpxZbx x => causesE x false false false 0 true true
  | .mm x => causesE x false true true 0x0FF true true
  | .mmLd x => causesE x false true false 0x81F true (eTyIn x eOutTys)
  | .mmSt x => causesE x false true false 0x9FF (decide ((x.param.extractLsb' 5 3).toNat ≤ 5)) (eTyIn x eOutTys)
  | .txInit x => causesZ x true false false
  | .txAim x => causesZ x true false false
  | .txArrive x => causesZ x true false false
  | .txWait x => bad (x.b == 127) cReserved
  | .txTest x => bad (x.b == 127) cReserved
  | .txDrop x => causesZ x true false true
  | .taskSpawn x => causesZ x false false true
  | .tileSet x => causesZ x true false false
  | .tileGet x => causesZ x false false true
  | .ridgeArrive x => causesZ x false false true
  | .ridgeWait x => causesZ x true false false
  | .ridgeJoin x => causesZ x false false true
  | .ridgeLeave x => causesZ x true false true
  | .leadStep x => causesZ x false true true
  | .tasteNext x => causesZ x false false true ++ bad (x.a.extractLsb' 1 6 != 0) cReserved
  | .tasteAdd x => bad (x.d.extractLsb' 1 6 != 0) cReserved
  | .tasteStat x => causesZ x false true false
  | .bra _ => []
  | .brp _ => []
  | .call _ => []
  | .jmpi x => causesZ x true false false ++ bad (x.b.extractLsb' 1 6 != 0) cReserved
  | .ret x => causesZ x true false false ++ bad (x.b.extractLsb' 1 6 != 0) cReserved
  | .exit x => causesZ x true true true
  | .yield x => causesZ x true true true
  | .nop x => causesZ x true true true
  | .gsync x => causesZ x true false true
  | .wait x => causesZ x true true true
  | .waitClk x => causesZ x true false false ++ bad (x.b != 1) cReserved
  | .rep _ => []
  | .win x => bad (x.imm.extractLsb' 0 3 != 0) cReserved
  | .trap x => bad (x.imm.extractLsb' 8 3 != 0) cReserved
  | .brk _ => []
  | .tret x => causesZ x true true true
  | .csrr _ => []
  | .csrw _ => []
  | .gsave x => causesZ x true false false
  | .grest x => causesZ x true false false
  | .scall x => causesZ x true false true
  | .bwphaseWrite _ _ | .runPromoted _ _ | .waitClkDeadline _ _ | .groupLeave _ | .latchedCauseDelivery _ | .requestAtHomeSlice _
  | .requestRetranslation _ | .tableWalk _ _ _ | .loadResponse _ | .atomicResponse _ | .storeAcknowledgement _ | .l1Eviction _ _
  | .proxySliceEviction _ _ | .putArrival _ | .putAcknowledged _ | .getComplete _ | .pressEntryExecute _ | .enginePartArrival _ _
  | .engineOperationComplete _ | .editCommit _ | .editComplete _ | .zeroPageCommit _ | .frameRelease _ | .teamPlacement _
  | .placementWaitExpiry _ | .preemption _ | .teamSave _ | .forcedSave _ | .nodeComplete _ | .nodeFailInput _
  | .gridBudgetExpired _ | .watchdogKill _ | .killComplete _ | .uncorrectableError _ _ | .linkError _ _ _ | .switchPoint _
  | .slwbDone _ | .viewLineFill _ _ _ | .keySlotEmptied _ | .binToStandby _ | .binToRetention _ | .binWakeDone _
  | .binPowerDown _ | .bwphaseArrival _ | .bankroleWrite _ _ | .bankpinWrite _ _ | .wtctlRegister _ _ | .wtctlDeregister _ _
  | .fpbaseWrite _ _ | .fpaddWrite _ _ | .ptbaseWrite _ _ | .pteInstall _ _ | .pteRemove _ _ | .pteRead _ _
  | .gctlResume _ _ | .gctlReflect _ _ | .gctlKill _ _ | .ctxctlWrite _ _ | .slhashWrite _ _ | .slctlGo _ _
  | .slwbWrite _ _ | .binmapAllocClear _ _ | .binmapAllocSet _ _ | .binmapDomWrite _ _ | .fwctlValidSet _ _ | .fwctlValidClear _ _
  | .registerWrite _ _ | .perstDeassert | .trainingDone | .ownerEntryWrite _ _ _ | .numvfsWrite _ | .feataccWrite _ _ _
  | .mbxdbPost _ _ | .mailboxPostResult _ | .mailboxMessage _ | .mbxreplyWrite _ _ | .getVersion _ _ | .getCapabilities _ _
  | .negotiateAlgorithms _ _ | .getDigests _ _ | .getCertificate _ _ | .challenge _ _ | .getMeasurements _ _ | .keyExchange _ _
  | .finish _ _ | .heartbeat _ _ | .keyUpdate _ _ | .endSession _ _ | .keyload _ _ _ _ | .keydrop _ _ _
  | .putDataFlit _ _ | .counterRiseFlit _ _ | .acknowledgementFlit _ _ | .creditFlit _ _ | .retryRequestFlit _ _ | .idleFlit _ _
  | .portDown _ | .laneLoss _ | .throttleStep | .thermalPowerDown | .mbxptrWrite _ _ | .ultraEthernetPacket _
  | .theushPortRetrain _ | .correctedError _ => []

/-- Whether the row is an instruction of the opcode map, and not an event. -/
def isEncoded : Instr → Bool
  | .bwphaseWrite _ _ | .runPromoted _ _ | .waitClkDeadline _ _ | .groupLeave _ | .latchedCauseDelivery _ | .requestAtHomeSlice _
  | .requestRetranslation _ | .tableWalk _ _ _ | .loadResponse _ | .atomicResponse _ | .storeAcknowledgement _ | .l1Eviction _ _
  | .proxySliceEviction _ _ | .putArrival _ | .putAcknowledged _ | .getComplete _ | .pressEntryExecute _ | .enginePartArrival _ _
  | .engineOperationComplete _ | .editCommit _ | .editComplete _ | .zeroPageCommit _ | .frameRelease _ | .teamPlacement _
  | .placementWaitExpiry _ | .preemption _ | .teamSave _ | .forcedSave _ | .nodeComplete _ | .nodeFailInput _
  | .gridBudgetExpired _ | .watchdogKill _ | .killComplete _ | .uncorrectableError _ _ | .linkError _ _ _ | .switchPoint _
  | .slwbDone _ | .viewLineFill _ _ _ | .keySlotEmptied _ | .binToStandby _ | .binToRetention _ | .binWakeDone _
  | .binPowerDown _ | .bwphaseArrival _ | .bankroleWrite _ _ | .bankpinWrite _ _ | .wtctlRegister _ _ | .wtctlDeregister _ _
  | .fpbaseWrite _ _ | .fpaddWrite _ _ | .ptbaseWrite _ _ | .pteInstall _ _ | .pteRemove _ _ | .pteRead _ _
  | .gctlResume _ _ | .gctlReflect _ _ | .gctlKill _ _ | .ctxctlWrite _ _ | .slhashWrite _ _ | .slctlGo _ _
  | .slwbWrite _ _ | .binmapAllocClear _ _ | .binmapAllocSet _ _ | .binmapDomWrite _ _ | .fwctlValidSet _ _ | .fwctlValidClear _ _
  | .registerWrite _ _ | .perstDeassert | .trainingDone | .ownerEntryWrite _ _ _ | .numvfsWrite _ | .feataccWrite _ _ _
  | .mbxdbPost _ _ | .mailboxPostResult _ | .mailboxMessage _ | .mbxreplyWrite _ _ | .getVersion _ _ | .getCapabilities _ _
  | .negotiateAlgorithms _ _ | .getDigests _ _ | .getCertificate _ _ | .challenge _ _ | .getMeasurements _ _ | .keyExchange _ _
  | .finish _ _ | .heartbeat _ _ | .keyUpdate _ _ | .endSession _ _ | .keyload _ _ _ _ | .keydrop _ _ _
  | .putDataFlit _ _ | .counterRiseFlit _ _ | .acknowledgementFlit _ _ | .creditFlit _ _ | .retryRequestFlit _ _ | .idleFlit _ _
  | .portDown _ | .laneLoss _ | .throttleStep | .thermalPowerDown | .mbxptrWrite _ _ | .ultraEthernetPacket _
  | .theushPortRetrain _ | .correctedError _ => false
  | _ => true

end Sys2Proof.Machine
end

