-- ==== Sys2Proof/WellFormed.lean ====
section
/-! DEFINITION. Which terms of Instr are instructions: those whose fields raise no decode cause
(05 R68). Causes that depend on the state (0x05, 0x06, 0x07, 0x08, features) belong to the machine. -/

namespace Sys2Proof

/-- The decode causes of an instruction's fields, none for an instruction of the map (R68). -/
def Instr.causes (i : Instr) : List (BitVec 8) := Machine.causesOf true i

/-- An instruction of the opcode map whose fields all have an assigned meaning. -/
abbrev Instr.WellFormed (i : Instr) : Prop := Machine.isEncoded i = true ∧ i.causes = []

end Sys2Proof
end

