-- ==== Sys2Proof/Decode.lean ====
section
/-! DEFINITION. The decoder: total on any words, rejecting by cause (05 R53-R68), and the encoder, from the
same tables. The decoder first reads the fields of the row that the major and minor codes select (a
candidate), then asks causesOf which causes the fields raise; the lowest is reported (R68). -/

namespace Sys2Proof

/-- What the decoder answers: an instruction, or the cause of the decode trap. -/
inductive Decoded where
  | ok (i : Instr)
  | reject (cause : BitVec 8)
  deriving DecidableEq, Repr

namespace Dec

/-! ### Fields of the words (R53, R61, R63, R64) -/

def fS (w : IWord) : Bool := w.getLsbD 31
def fMajor (w : IWord) : BitVec 6 := w.extractLsb' 25 6
def fD (w : IWord) : BitVec 7 := w.extractLsb' 18 7
def fA (w : IWord) : BitVec 7 := w.extractLsb' 11 7
def fB (w : IWord) : BitVec 7 := w.extractLsb' 4 7
def fLow (w : IWord) : BitVec 4 := w.extractLsb' 0 4
def fImm11 (w : IWord) : BitVec 11 := w.extractLsb' 0 11

def xC (w : IWord) : BitVec 7 := w.extractLsb' 25 7
def xOp (w : IWord) : BitVec 6 := w.extractLsb' 19 6
def xTy (w : IWord) : BitVec 5 := w.extractLsb' 14 5
def xAux (w : IWord) : BitVec 5 := w.extractLsb' 9 5
def xRnd (w : IWord) : BitVec 3 := w.extractLsb' 6 3
def xSat (w : IWord) : Bool := w.getLsbD 5
def xImm (w : IWord) : BitVec 5 := w.extractLsb' 0 5

def mMop (w : IWord) : BitVec 4 := w.extractLsb' 28 4
def mAop (w : IWord) : BitVec 4 := w.extractLsb' 24 4
def mTy (w : IWord) : BitVec 5 := w.extractLsb' 19 5
def mOrd (w : IWord) : BitVec 2 := w.extractLsb' 17 2
def mSc (w : IWord) : BitVec 3 := w.extractLsb' 14 3
def mOff (w : IWord) : BitVec 14 := w.extractLsb' 0 14

def eHandle (w : IWord) : BitVec 12 := w.extractLsb' 20 12
def eShape (w : IWord) : BitVec 4 := w.extractLsb' 16 4
def eCls (w : IWord) : BitVec 4 := w.extractLsb' 12 4
def eParam (w : IWord) : BitVec 12 := w.extractLsb' 0 12

/-- The rnd codes of R61; 0b110 and 0b111 are unassigned. -/
def rndOf (c : BitVec 3) : Option Rnd :=
  match c.toNat with
  | 0 => some .dflt | 1 => some .rn | 2 => some .rna | 3 => some .rz | 4 => some .rp | 5 => some .rm
  | _ => none
def rndCode : Rnd → BitVec 3
  | .dflt => 0 | .rn => 1 | .rna => 2 | .rz => 3 | .rp => 4 | .rm => 5

/-- The order codes of R63. -/
def ordOf (c : BitVec 2) : Order :=
  match c.toNat with
  | 0 => .rlx | 1 => .acq | 2 => .rel | _ => .ar
def ordCode : Order → BitVec 2
  | .rlx => 0 | .acq => 1 | .rel => 2 | .ar => 3

/-- The scope codes of R63; 0b110 and 0b111 are unassigned. -/
def scOf (c : BitVec 3) : Option Scope :=
  match c.toNat with
  | 0 => some .grp | 1 => some .team | 2 => some .clu | 3 => some .die | 4 => some .pkg | 5 => some .sys
  | _ => none
def scCode : Scope → BitVec 3
  | .grp => 0 | .team => 1 | .clu => 2 | .die => 3 | .pkg => 4 | .sys => 5

/-- The type of a four-bit short code (R57): every one is assigned. -/
def shortTy (c : BitVec 4) : Ty := (Machine.tyOf (c.zeroExtend 5)).getD .i64

/-- A candidate: the row the codes select, with causes of fields that its payload does not hold, and
whether its full type code is assigned. -/
structure Cand where
  i : Instr
  extra : List (BitVec 8) := []
  tk : Bool := true

/-- A cause that holds (R68). -/
abbrev bad := Machine.bad
abbrev c1 := Machine.cUnassigned
abbrev c2 := Machine.cReserved

/-- The lowest of the causes (R68). -/
def lowest : List (BitVec 8) → Option (BitVec 8)
  | [] => none
  | c :: cs => match lowest cs with
    | none => some c
    | some e => some (if c.toNat ≤ e.toNat then c else e)

/-- What a candidate is: an instruction, or the trap of the lowest cause. -/
def Cand.finish (k : Cand) : Decoded :=
  match lowest (k.extra ++ Machine.causesOf k.tk k.i) with
  | none => .ok k.i
  | some c => .reject c

/-! ### Payloads of the formats -/

def r3 (w : IWord) : R3 := { sp := fS w, d := fD w, a := fA w, b := fB w, ty := shortTy (fLow w) }
def r3l (w : IWord) : R3L := { sp := fS w, d := fD w, a := fA w, b := fB w }
def r3w (w : IWord) : R3W := { sp := fS w, d := fD w, a := fA w, b := fB w, w := w.extractLsb' 0 2 }
def r2 (w : IWord) : R2 := { sp := fS w, d := fD w, a := fA w, ty := shortTy (fLow w) }
def xargs (form : Form) (w x : IWord) : XArgs :=
  { sp := fS w, form := form, neg := w.getLsbD 3, p := w.extractLsb' 0 3, d := fD w, a := fA w, b := fB w,
    c := xC x, ty := (Machine.tyOf (xTy x)).getD .i4, aux := xAux x,
    rnd := (rndOf (xRnd x)).getD .dflt, sat := xSat x, imm := xImm x }
def margs (form : Form) (w m : IWord) : MArgs :=
  { sp := fS w, form := form, d := fD w, a := fA w, b := fB w, look := fLow w, aop := mAop m,
    ty := (Machine.tyOf (mTy m)).getD .i4, ord := ordOf (mOrd m), sc := (scOf (mSc m)).getD .grp,
    off := mOff m }
def eargs (w e : IWord) : EArgs :=
  { sp := fS w, d := fD w, a := fA w, b := fB w, handle := eHandle e, shape := eShape e, cls := eCls e,
    param := eParam e }
def srRead (w : IWord) : SrRead := { sp := fS w, d := fD w, n := fB w }
def srWrite (w : IWord) : SrWrite := { sp := fS w, a := fA w, n := fB w }
def immArgs (w : IWord) : ImmArgs := { sp := fS w, imm := fImm11 w }

/-- The rep word (R72). -/
def repArgs (w : IWord) : RepArgs :=
  { sp := fS w, cnt := w.extractLsb' 19 6, sd := w.extractLsb' 17 2, sa := w.extractLsb' 15 2,
    sb := w.extractLsb' 13 2 }

/-! ### Candidates by major -/

/-- An unassigned minor, op or mop (R68). -/
def noRow : Option Cand := none

/-- A short arithmetic word: the type selects the integer or the float row (R59). -/
def candR3 (int flt : R3 → Instr) (w : IWord) : Option Cand :=
  some { i := if Machine.tyIsInt (shortTy (fLow w)) then int (r3 w) else flt (r3 w) }

/-- A logic word: minor 0 and, 1 or, 2 xor (R59). -/
def candLogic (f0 f1 f2 : R3L → Instr) (w : IWord) : Option Cand :=
  match (fLow w).toNat with
  | 0 => some { i := f0 (r3l w) }
  | 1 => some { i := f1 (r3l w) }
  | 2 => some { i := f2 (r3l w) }
  | _ => noRow

/-- A shift word: bits 3:2 select the operation (R59). -/
def candShift (f0 f1 f2 f3 : R3W → Instr) (w : IWord) : Option Cand :=
  match (w.extractLsb' 2 2).toNat with
  | 0 => some { i := f0 (r3w w) }
  | 1 => some { i := f1 (r3w w) }
  | 2 => some { i := f2 (r3w w) }
  | _ => some { i := f3 (r3w w) }

/-- A unary word: b is the unary code (R59). -/
def candUnary (f : List (R2 → Instr)) (w : IWord) : Option Cand :=
  match f[(fB w).toNat]? with
  | some g => some { i := g (r2 w) }
  | none => noRow

/-- The rows of the X-word's op (R62). -/
def rowX (op : Nat) : Option (XArgs → Instr) :=
  match op with
  | 0x00 => some .addX | 0x01 => some .subX | 0x02 => some .mulX | 0x03 => some .mulhi
  | 0x04 => some .mad | 0x05 => some .minX | 0x06 => some .maxX | 0x07 => some .absX
  | 0x08 => some .negX | 0x09 => some .andX | 0x0A => some .orX | 0x0B => some .xorX
  | 0x0C => some .notX | 0x0D => some .shlX | 0x0E => some .shrX | 0x0F => some .sarX
  | 0x10 => some .rotX | 0x11 => some .popcX | 0x12 => some .clzX | 0x13 => some .brevX
  | 0x14 => some .bfx | 0x15 => some .bfi | 0x16 => some .sel | 0x17 => some .cmp
  | 0x18 => some .movX | 0x19 => some .dot4 | 0x1A => some .sad | 0x20 => some .faddX
  | 0x21 => some .fsubX | 0x22 => some .fmulX | 0x23 => some .ffma | 0x24 => some .fminX
  | 0x25 => some .fmaxX | 0x26 => some .fcmp | 0x27 => some .frnd | 0x28 => some .cvt
  | 0x29 => some .pack | 0x2A => some .unpack | 0x2C => some .exp2 | 0x2D => some .log2
  | 0x2E => some .rcp | 0x2F => some .rsqrt | 0x30 => some .sqrt | 0x31 => some .sin
  | 0x32 => some .cos | 0x33 => some .tanh | 0x34 => some .cbld | 0x35 => some .cbrd
  | 0x36 => some .cbq | 0x38 => some .shfl | 0x39 => some .bcast | 0x3A => some .ballot
  | 0x3B => some .vote | 0x3C => some .gscan | 0x3D => some .gred | 0x3E => some .matchEq
  | _ => none

/-- An extended word (R61, R92). -/
def candX (form : Form) (w x : IWord) : Option Cand :=
  match rowX (xOp x).toNat with
  | some g => some { i := g (xargs form w x), tk := (Machine.tyOf (xTy x)).isSome,
                     extra := bad (rndOf (xRnd x)).isNone c1 }
  | none => noRow

/-- The rows of mop in majors 0x23 and 0x24, and 0x25 (R63). -/
def rowM (u : Bool) (mop : Nat) : Option (MArgs → Instr) :=
  match mop with
  | 0x0 => some .ld | 0x1 => some .st | 0x2 => some .lds | 0x3 => some .sts | 0x4 => some .ldc
  | 0x5 => some .atom | 0x6 => some .atoms | 0x7 => some .pref
  | 0x8 => if u then some .fence else none
  | 0x9 => if u then some .fenceEng else none
  | 0xA => if u then some .wbr else none
  | 0xB => if u then some .invr else none
  | _ => none

/-- The rows of mop in major 0x26 (R63). -/
def rowWin (mop : Nat) : Option (MArgs → Instr) :=
  match mop with
  | 0x0 => some .put | 0x1 => some .get | 0x2 => some .ctrw
  | _ => none

/-- The rows of mop in major 0x27 (R63). -/
def rowMap (mop : Nat) : Option (MArgs → Instr) :=
  match mop with
  | 0x0 => some .mapCat | 0x1 => some .mapSplit | 0x2 => some .mapPerm | 0x3 => some .mapXchg
  | 0x4 => some .mapAlias | 0x5 => some .mapDrop | 0x6 => some .mapQuery
  | _ => none

/-- A word with an M-word (R63). -/
def candM (row : Option (MArgs → Instr)) (form : Form) (w m : IWord) : Option Cand :=
  match row with
  | some g => some { i := g (margs form w m), tk := (Machine.tyOf (mTy m)).isSome,
                     extra := bad (scOf (mSc m)).isNone c1 }
  | none => noRow

/-- A word with an E-word: the minor selects the row (R64, R66). -/
def candE (f : List (EArgs → Instr)) (w e : IWord) : Option Cand :=
  match f[(fLow w).toNat]? with
  | some g => some { i := g (eargs w e) }
  | none => noRow

/-- A register-only word: the minor selects the row (R66). -/
def candZ (f : List (R3L → Instr)) (w : IWord) : Option Cand :=
  match f[(fLow w).toNat]? with
  | some g => some { i := g (r3l w) }
  | none => noRow

/-- Fields that must be zero and that the payload does not hold (R68). -/
def zeros (l : List Bool) : List (BitVec 8) := bad (l.any id) c2

/-- A wait: bit 0 of b is CLK (R125). -/
def candWait (w : IWord) : Option Cand :=
  if (fB w).getLsbD 0 then some { i := .waitClk (r3l w) } else some { i := .wait (r3l w) }

/-- The rows of major 0x33 (R66, R125). -/
def cand33 (w : IWord) : Option Cand :=
  if fLow w == 6 then candWait w else candZ [.jmpi, .ret, .exit, .yield, .nop, .gsync] w

/-- The rows of major 0x38 (R66, R294). -/
def cand38 (w : IWord) : Option Cand :=
  match (fLow w).toNat with
  | 0 => some { i := .tret (r3l w) }
  | 1 => some { i := .csrr (srRead w), extra := zeros [fA w != 0] }
  | 2 => some { i := .csrw (srWrite w), extra := zeros [fD w != 0] }
  | 3 => some { i := .gsave (r3l w) }
  | 4 => some { i := .grest (r3l w) }
  | 5 => some { i := .scall (r3l w) }
  | _ => noRow

/-- The candidate of a word whose major is assigned; none where the code below the major is not (R58, R66). -/
def candOf (major : Nat) (w x : IWord) : Option Cand :=
  match major with
  | 0x01 => candR3 .addVVV .faddVVV w
  | 0x02 => candR3 .addVVS .faddVVS w
  | 0x03 => candR3 .addSSS .faddSSS w
  | 0x04 => candR3 .subVVV .fsubVVV w
  | 0x05 => candR3 .subVVS .fsubVVS w
  | 0x06 => candR3 .subSSS .fsubSSS w
  | 0x07 => candR3 .mulVVV .fmulVVV w
  | 0x08 => candR3 .mulVVS .fmulVVS w
  | 0x09 => candR3 .mulSSS .fmulSSS w
  | 0x0A => candR3 .minVVV .fminVVV w
  | 0x0B => candR3 .minVVS .fminVVS w
  | 0x0C => candR3 .minSSS .fminSSS w
  | 0x0D => candR3 .maxVVV .fmaxVVV w
  | 0x0E => candR3 .maxVVS .fmaxVVS w
  | 0x0F => candR3 .maxSSS .fmaxSSS w
  | 0x10 => candLogic .andVVV .orVVV .xorVVV w
  | 0x11 => candLogic .andVVS .orVVS .xorVVS w
  | 0x12 => candLogic .andSSS .orSSS .xorSSS w
  | 0x13 => candShift .shlVVV .shrVVV .sarVVV .rotVVV w
  | 0x14 => candShift .shlVVS .shrVVS .sarVVS .rotVVS w
  | 0x15 => candShift .shlSSS .shrSSS .sarSSS .rotSSS w
  | 0x16 => candUnary [.absVV, .negVV, .notVV, .popcVV, .clzVV, .brevVV, .movVV] w
  | 0x17 => candUnary [.absVS, .negVS, .notVS, .popcVS, .clzVS, .brevVS, .movVS] w
  | 0x18 => candUnary [.absSS, .negSS, .notSS, .popcSS, .clzSS, .brevSS, .movSS] w
  | 0x19 => some { i := .moviVecImm { sp := fS w, d := fD w, ty := shortTy (w.extractLsb' 11 4), imm := fImm11 w },
                   extra := zeros [w.extractLsb' 15 3 != 0] }
  | 0x1A => some { i := .moviUniImm { sp := fS w, d := fD w, ty := shortTy (w.extractLsb' 11 4), imm := fImm11 w },
                   extra := zeros [w.extractLsb' 15 3 != 0] }
  | 0x1B => some { i := .moviVecIword { sp := fS w, d := fD w, ty := (Machine.tyOf (w.extractLsb' 11 5)).getD .i64, imm := x },
                   tk := (Machine.tyOf (w.extractLsb' 11 5)).isSome,
                   extra := zeros [w.extractLsb' 16 2 != 0, fB w != 0, fLow w != 0] }
  | 0x1C => some { i := .moviUniIword { sp := fS w, d := fD w, ty := (Machine.tyOf (w.extractLsb' 11 5)).getD .i64, imm := x },
                   tk := (Machine.tyOf (w.extractLsb' 11 5)).isSome,
                   extra := zeros [w.extractLsb' 16 2 != 0, fB w != 0, fLow w != 0] }
  | 0x1D => some { i := .addImm { sp := fS w, d := fD w, a := fA w, imm := fImm11 w } }
  | 0x1E => candX .v w x
  | 0x1F => candX .m w x
  | 0x20 => candX .s w x
  | 0x21 => if fLow w == 0 then some { i := .rdsrVector (srRead w), extra := zeros [fA w != 0] } else noRow
  | 0x22 => match (fLow w).toNat with
    | 0 => some { i := .rdsrUniform (srRead w), extra := zeros [fA w != 0] }
    | 1 => some { i := .wrsr (srWrite w), extra := zeros [fD w != 0] }
    | _ => noRow
  | 0x23 => candM (rowM false (mMop x).toNat) .v w x
  | 0x24 => candM (rowM false (mMop x).toNat) .m w x
  | 0x25 => candM (rowM true (mMop x).toNat) .s w x
  | 0x26 => candM (rowWin (mMop x).toNat) .s w x
  | 0x27 => candM (rowMap (mMop x).toNat) .s w x
  | 0x28 => candE [.cpG2s, .cpS2g, .cpS2s, .cpMc, .cpNet] w x
  | 0x29 => candE [.cpxTr, .cpxQ4r, .cpxDq, .cpxZbc, .cpxZbx] w x
  | 0x2A => candZ [.txInit, .txAim, .txArrive, .txWait, .txTest, .txDrop] w
  | 0x2B => candE [.mm, .mmLd, .mmSt] w x
  | 0x2C => candZ [.taskSpawn, .tileSet, .tileGet] w
  | 0x2D => candZ [.ridgeArrive, .ridgeWait, .ridgeJoin, .ridgeLeave, .leadStep] w
  | 0x2E => candZ [.tasteNext, .tasteAdd, .tasteStat] w
  | 0x30 => some { i := .bra { sp := fS w, imm := x }, extra := zeros [fD w != 0, fA w != 0, fB w != 0, fLow w != 0] }
  | 0x31 => some { i := .brp { sp := fS w, p := w.extractLsb' 11 3, neg := w.getLsbD 0, imm := x },
                   extra := zeros [fD w != 0, fB w != 0, w.extractLsb' 14 4 != 0, w.extractLsb' 1 3 != 0] }
  | 0x32 => some { i := .call { sp := fS w, d := fD w, u := w.getLsbD 11, imm := x },
                   extra := zeros [w.extractLsb' 12 6 != 0, fB w != 0, fLow w != 0] }
  | 0x33 => cand33 w
  | 0x34 => some { i := .rep (repArgs w),
                   extra := zeros [w.extractLsb' 0 13 != 0] }
  | 0x35 => some { i := .win (immArgs w), extra := zeros [w.extractLsb' 11 14 != 0] }
  | 0x36 => some { i := .trap (immArgs w), extra := zeros [w.extractLsb' 11 14 != 0] }
  | 0x37 => some { i := .brk (immArgs w), extra := zeros [w.extractLsb' 11 14 != 0] }
  | 0x38 => cand38 w
  | _ => noRow

/-- The assigned majors: all but 0x00, 0x2F and 0x39-0x3F (R58). -/
def majorAssigned (m : Nat) : Bool := decide (1 ≤ m ∧ m ≤ 0x38 ∧ m ≠ 0x2F)

end Dec

/-- Whether a second word follows the first (R58). -/
def hasSecond (w : IWord) : Bool :=
  let m := (Dec.fMajor w).toNat
  decide (m = 0x1B ∨ m = 0x1C ∨ (0x1E ≤ m ∧ m ≤ 0x20) ∨ (0x23 ≤ m ∧ m ≤ 0x29) ∨ m = 0x2B ∨
    (0x30 ≤ m ∧ m ≤ 0x32))

/-- The decoder (R58-R68): the first word, and the word after it for the majors that take one. -/
def decode (w x : IWord) : Decoded :=
  let m := (Dec.fMajor w).toNat
  if Dec.majorAssigned m then
    match Dec.candOf m w x with
    | some k => k.finish
    | none => .reject Dec.c1
  else .reject 0x00

/-- A little-endian word of bytes (R53); bytes that are not there read as zero. -/
def wordOfBytes (bs : List Byte) : IWord :=
  (bs.getD 3 0 ++ bs.getD 2 0 ++ bs.getD 1 0 ++ bs.getD 0 0 : BitVec (8 + 8 + 8 + 8))

/-- The bytes of a word, the lowest first (R53). -/
def bytesOfWord (w : IWord) : List Byte :=
  [w.extractLsb' 0 8, w.extractLsb' 8 8, w.extractLsb' 16 8, w.extractLsb' 24 8]

/-- The decoder on the bytes at a counter. -/
def decodeBytes (bs : List Byte) : Decoded := decode (wordOfBytes bs) (wordOfBytes (bs.drop 4))

/-- The instruction read from bits numbered as the opcode table numbers them: bit 0 is the lowest bit of the
first word, and the second word's bits count on from it. -/
def decodeTableWord (nbits w : Nat) : Option Instr :=
  if nbits = 0 then none
  else
    let bytes := bytesOfWord (BitVec.ofNat 32 w) ++ bytesOfWord (BitVec.ofNat 32 (w / 2 ^ 32))
    match decodeBytes bytes with
    | .ok i => some i
    | .reject _ => none

/-! ### The encoder -/

namespace Enc

/-- A first word (R53). -/
def w0 (sp : Bool) (major : BitVec 6) (d a b : BitVec 7) (low : BitVec 4) : IWord :=
  (BitVec.ofBool sp ++ major ++ d ++ a ++ b ++ low : BitVec (1 + 6 + 7 + 7 + 7 + 4))

/-- A first word of format FI (R54). -/
def wI (sp : Bool) (major : BitVec 6) (d a : BitVec 7) (imm : BitVec 11) : IWord :=
  (BitVec.ofBool sp ++ major ++ d ++ a ++ imm : BitVec (1 + 6 + 7 + 7 + 11))

/-- An X-word (R61). -/
def xw (op : BitVec 6) (x : XArgs) : IWord :=
  (x.c ++ op ++ Machine.tyCode x.ty ++ x.aux ++ Dec.rndCode x.rnd ++ BitVec.ofBool x.sat ++ x.imm :
    BitVec (7 + 6 + 5 + 5 + 3 + 1 + 5))

/-- An M-word (R63). -/
def mw (mop : BitVec 4) (x : MArgs) : IWord :=
  (mop ++ x.aop ++ Machine.tyCode x.ty ++ Dec.ordCode x.ord ++ Dec.scCode x.sc ++ x.off :
    BitVec (4 + 4 + 5 + 2 + 3 + 14))

/-- An E-word (R64). -/
def ew (x : EArgs) : IWord :=
  (x.handle ++ x.shape ++ x.cls ++ x.param : BitVec (12 + 4 + 4 + 12))

/-- The low field of a short type (R57). -/
def lowTy (t : Ty) : BitVec 4 := (Machine.tyCode t).setWidth 4

def r3 (major : BitVec 6) (x : R3) : List IWord := [w0 x.sp major x.d x.a x.b (lowTy x.ty)]
def r3l (major : BitVec 6) (low : BitVec 4) (x : R3L) : List IWord := [w0 x.sp major x.d x.a x.b low]
def r3w (major : BitVec 6) (op : BitVec 2) (x : R3W) : List IWord :=
  [w0 x.sp major x.d x.a x.b (op ++ x.w : BitVec (2 + 2))]
def r2 (major : BitVec 6) (code : BitVec 7) (x : R2) : List IWord :=
  [w0 x.sp major x.d x.a code (lowTy x.ty)]
/-- The major of an extended form (R58). -/
def xMajor : Form → BitVec 6
  | .v => 0x1E | .m => 0x1F | .s => 0x20
def xi (op : BitVec 6) (x : XArgs) : List IWord :=
  [w0 x.sp (xMajor x.form) x.d x.a x.b (BitVec.ofBool x.neg ++ x.p : BitVec (1 + 3)), xw op x]
/-- The major of a memory form (R58). -/
def mMajor : Form → BitVec 6
  | .v => 0x23 | .m => 0x24 | .s => 0x25
def mi (mop : BitVec 4) (x : MArgs) : List IWord :=
  [w0 x.sp (mMajor x.form) x.d x.a x.b x.look, mw mop x]
def mj (major : BitVec 6) (mop : BitVec 4) (x : MArgs) : List IWord :=
  [w0 x.sp major x.d x.a x.b x.look, mw mop x]
def ei (major : BitVec 6) (minor : BitVec 4) (x : EArgs) : List IWord :=
  [w0 x.sp major x.d x.a x.b minor, ew x]

end Enc

open Enc in
/-- The words of an instruction, without its liveness word (R69); an event has none. -/
def encode : Instr → List IWord
  | .addVVV x => r3 0x01 x
  | .addVVS x => r3 0x02 x
  | .addSSS x => r3 0x03 x
  | .faddVVV x => r3 0x01 x
  | .faddVVS x => r3 0x02 x
  | .faddSSS x => r3 0x03 x
  | .subVVV x => r3 0x04 x
  | .subVVS x => r3 0x05 x
  | .subSSS x => r3 0x06 x
  | .fsubVVV x => r3 0x04 x
  | .fsubVVS x => r3 0x05 x
  | .fsubSSS x => r3 0x06 x
  | .mulVVV x => r3 0x07 x
  | .mulVVS x => r3 0x08 x
  | .mulSSS x => r3 0x09 x
  | .fmulVVV x => r3 0x07 x
  | .fmulVVS x => r3 0x08 x
  | .fmulSSS x => r3 0x09 x
  | .minVVV x => r3 0x0A x
  | .minVVS x => r3 0x0B x
  | .minSSS x => r3 0x0C x
  | .fminVVV x => r3 0x0A x
  | .fminVVS x => r3 0x0B x
  | .fminSSS x => r3 0x0C x
  | .maxVVV x => r3 0x0D x
  | .maxVVS x => r3 0x0E x
  | .maxSSS x => r3 0x0F x
  | .fmaxVVV x => r3 0x0D x
  | .fmaxVVS x => r3 0x0E x
  | .fmaxSSS x => r3 0x0F x
  | .andVVV x => r3l 0x10 0 x
  | .andVVS x => r3l 0x11 0 x
  | .andSSS x => r3l 0x12 0 x
  | .orVVV x => r3l 0x10 1 x
  | .orVVS x => r3l 0x11 1 x
  | .orSSS x => r3l 0x12 1 x
  | .xorVVV x => r3l 0x10 2 x
  | .xorVVS x => r3l 0x11 2 x
  | .xorSSS x => r3l 0x12 2 x
  | .shlVVV x => r3w 0x13 0 x
  | .shlVVS x => r3w 0x14 0 x
  | .shlSSS x => r3w 0x15 0 x
  | .shrVVV x => r3w 0x13 1 x
  | .shrVVS x => r3w 0x14 1 x
  | .shrSSS x => r3w 0x15 1 x
  | .sarVVV x => r3w 0x13 2 x
  | .sarVVS x => r3w 0x14 2 x
  | .sarSSS x => r3w 0x15 2 x
  | .rotVVV x => r3w 0x13 3 x
  | .rotVVS x => r3w 0x14 3 x
  | .rotSSS x => r3w 0x15 3 x
  | .absVV x => r2 0x16 0 x
  | .absVS x => r2 0x17 0 x
  | .absSS x => r2 0x18 0 x
  | .negVV x => r2 0x16 1 x
  | .negVS x => r2 0x17 1 x
  | .negSS x => r2 0x18 1 x
  | .notVV x => r2 0x16 2 x
  | .notVS x => r2 0x17 2 x
  | .notSS x => r2 0x18 2 x
  | .popcVV x => r2 0x16 3 x
  | .popcVS x => r2 0x17 3 x
  | .popcSS x => r2 0x18 3 x
  | .clzVV x => r2 0x16 4 x
  | .clzVS x => r2 0x17 4 x
  | .clzSS x => r2 0x18 4 x
  | .brevVV x => r2 0x16 5 x
  | .brevVS x => r2 0x17 5 x
  | .brevSS x => r2 0x18 5 x
  | .movVV x => r2 0x16 6 x
  | .movVS x => r2 0x17 6 x
  | .movSS x => r2 0x18 6 x
  | .moviVecImm x => [wI x.sp 0x19 x.d (0#3 ++ lowTy x.ty : BitVec (3 + 4)) x.imm]
  | .moviUniImm x => [wI x.sp 0x1A x.d (0#3 ++ lowTy x.ty : BitVec (3 + 4)) x.imm]
  | .moviVecIword x => [w0 x.sp 0x1B x.d (0#2 ++ Machine.tyCode x.ty : BitVec (2 + 5)) 0 0, x.imm]
  | .moviUniIword x => [w0 x.sp 0x1C x.d (0#2 ++ Machine.tyCode x.ty : BitVec (2 + 5)) 0 0, x.imm]
  | .addImm x => [wI x.sp 0x1D x.d x.a x.imm]
  | .addX x => xi 0x00 x
  | .subX x => xi 0x01 x
  | .mulX x => xi 0x02 x
  | .mulhi x => xi 0x03 x
  | .mad x => xi 0x04 x
  | .minX x => xi 0x05 x
  | .maxX x => xi 0x06 x
  | .absX x => xi 0x07 x
  | .negX x => xi 0x08 x
  | .andX x => xi 0x09 x
  | .orX x => xi 0x0A x
  | .xorX x => xi 0x0B x
  | .notX x => xi 0x0C x
  | .shlX x => xi 0x0D x
  | .shrX x => xi 0x0E x
  | .sarX x => xi 0x0F x
  | .rotX x => xi 0x10 x
  | .popcX x => xi 0x11 x
  | .clzX x => xi 0x12 x
  | .brevX x => xi 0x13 x
  | .bfx x => xi 0x14 x
  | .bfi x => xi 0x15 x
  | .sel x => xi 0x16 x
  | .cmp x => xi 0x17 x
  | .movX x => xi 0x18 x
  | .dot4 x => xi 0x19 x
  | .sad x => xi 0x1A x
  | .faddX x => xi 0x20 x
  | .fsubX x => xi 0x21 x
  | .fmulX x => xi 0x22 x
  | .ffma x => xi 0x23 x
  | .fminX x => xi 0x24 x
  | .fmaxX x => xi 0x25 x
  | .fcmp x => xi 0x26 x
  | .frnd x => xi 0x27 x
  | .cvt x => xi 0x28 x
  | .pack x => xi 0x29 x
  | .unpack x => xi 0x2A x
  | .exp2 x => xi 0x2C x
  | .log2 x => xi 0x2D x
  | .rcp x => xi 0x2E x
  | .rsqrt x => xi 0x2F x
  | .sqrt x => xi 0x30 x
  | .sin x => xi 0x31 x
  | .cos x => xi 0x32 x
  | .tanh x => xi 0x33 x
  | .cbld x => xi 0x34 x
  | .cbrd x => xi 0x35 x
  | .cbq x => xi 0x36 x
  | .shfl x => xi 0x38 x
  | .bcast x => xi 0x39 x
  | .ballot x => xi 0x3A x
  | .vote x => xi 0x3B x
  | .gscan x => xi 0x3C x
  | .gred x => xi 0x3D x
  | .matchEq x => xi 0x3E x
  | .rdsrVector x => [w0 x.sp 0x21 x.d 0 x.n 0]
  | .rdsrUniform x => [w0 x.sp 0x22 x.d 0 x.n 0]
  | .wrsr x => [w0 x.sp 0x22 0 x.a x.n 1]
  | .ld x => mi 0x0 x
  | .st x => mi 0x1 x
  | .lds x => mi 0x2 x
  | .sts x => mi 0x3 x
  | .ldc x => mi 0x4 x
  | .atom x => mi 0x5 x
  | .atoms x => mi 0x6 x
  | .pref x => mi 0x7 x
  | .fence x => mi 0x8 x
  | .fenceEng x => mi 0x9 x
  | .wbr x => mi 0xA x
  | .invr x => mi 0xB x
  | .put x => mj 0x26 0 x
  | .get x => mj 0x26 1 x
  | .ctrw x => mj 0x26 2 x
  | .mapCat x => mj 0x27 0 x
  | .mapSplit x => mj 0x27 1 x
  | .mapPerm x => mj 0x27 2 x
  | .mapXchg x => mj 0x27 3 x
  | .mapAlias x => mj 0x27 4 x
  | .mapDrop x => mj 0x27 5 x
  | .mapQuery x => mj 0x27 6 x
  | .cpG2s x => ei 0x28 0 x
  | .cpS2g x => ei 0x28 1 x
  | .cpS2s x => ei 0x28 2 x
  | .cpMc x => ei 0x28 3 x
  | .cpNet x => ei 0x28 4 x
  | .cpxTr x => ei 0x29 0 x
  | .cpxQ4r x => ei 0x29 1 x
  | .cpxDq x => ei 0x29 2 x
  | .cpxZbc x => ei 0x29 3 x
  | .cpxZbx x => ei 0x29 4 x
  | .mm x => ei 0x2B 0 x
  | .mmLd x => ei 0x2B 1 x
  | .mmSt x => ei 0x2B 2 x
  | .txInit x => r3l 0x2A 0 x
  | .txAim x => r3l 0x2A 1 x
  | .txArrive x => r3l 0x2A 2 x
  | .txWait x => r3l 0x2A 3 x
  | .txTest x => r3l 0x2A 4 x
  | .txDrop x => r3l 0x2A 5 x
  | .taskSpawn x => r3l 0x2C 0 x
  | .tileSet x => r3l 0x2C 1 x
  | .tileGet x => r3l 0x2C 2 x
  | .ridgeArrive x => r3l 0x2D 0 x
  | .ridgeWait x => r3l 0x2D 1 x
  | .ridgeJoin x => r3l 0x2D 2 x
  | .ridgeLeave x => r3l 0x2D 3 x
  | .leadStep x => r3l 0x2D 4 x
  | .tasteNext x => r3l 0x2E 0 x
  | .tasteAdd x => r3l 0x2E 1 x
  | .tasteStat x => r3l 0x2E 2 x
  | .bra x => [w0 x.sp 0x30 0 0 0 0, x.imm]
  | .brp x => [w0 x.sp 0x31 0 (0#4 ++ x.p : BitVec (4 + 3)) 0 (0#3 ++ BitVec.ofBool x.neg : BitVec (3 + 1)), x.imm]
  | .call x => [w0 x.sp 0x32 x.d (0#6 ++ BitVec.ofBool x.u : BitVec (6 + 1)) 0 0, x.imm]
  | .jmpi x => r3l 0x33 0 x
  | .ret x => r3l 0x33 1 x
  | .exit x => r3l 0x33 2 x
  | .yield x => r3l 0x33 3 x
  | .nop x => r3l 0x33 4 x
  | .gsync x => r3l 0x33 5 x
  | .wait x => r3l 0x33 6 x
  | .waitClk x => r3l 0x33 6 x
  | .rep x => [(BitVec.ofBool x.sp ++ 0x34#6 ++ x.cnt ++ x.sd ++ x.sa ++ x.sb ++ 0#13 : BitVec (1 + 6 + 6 + 2 + 2 + 2 + 13))]
  | .win x => [wI x.sp 0x35 0 0 x.imm]
  | .trap x => [wI x.sp 0x36 0 0 x.imm]
  | .brk x => [wI x.sp 0x37 0 0 x.imm]
  | .tret x => r3l 0x38 0 x
  | .csrr x => [w0 x.sp 0x38 x.d 0 x.n 1]
  | .csrw x => [w0 x.sp 0x38 0 x.a x.n 2]
  | .gsave x => r3l 0x38 3 x
  | .grest x => r3l 0x38 4 x
  | .scall x => r3l 0x38 5 x
  | .bwphaseWrite _ _ | .runPromoted _ _ | .waitClkDeadline _ _ | .groupLeave _ | .latchedCauseDelivery _ | .requestAtHomeSlice _
  | .requestRetranslation _ | .tableWalk _ _ _ | .loadResponse _ | .atomicResponse _ | .storeAcknowledgement _ | .l1Eviction _ _
  | .proxySliceEviction _ _ | .putArrival _ | .putAcknowledged _ | .getComplete _ | .pressEntryExecute _ | .enginePartArrival _ _
  | .engineOperationComplete _ | .editCommit _ | .editComplete _ | .zeroPageCommit _ | .frameRelease _ | .teamPlacement _
  | .placementWaitExpiry _ | .preemption _ | .teamSave _ | .forcedSave _ | .nodeComplete _ | .nodeFailInput _
  | .gridBudgetExpired _ | .watchdogKill _ | .killComplete _ | .uncorrectableError _ _ | .linkError _ _ _ | .switchPoint _
  | .slwbDone _ | .viewLineFill _ _ _ | .keySlotEmptied _ | .binToStandby _ | .binToRetention _ | .binWakeDone _
  | .binPowerDown _ | .bwphaseArrival _ | .bankroleWrite _ _ | .bankpinWrite _ _ | .wtctlRegister _ _ | .wtctlDeregister _ _
  | .fpbaseWrite _ _ | .fpaddWrite _ _ | .ptbaseWrite _ _ | .pteInstall _ _ | .pteRemove _ _ | .pteRead _ _
  | .gctlResume _ _ | .gctlReflect _ _ | .gctlKill _ _ | .ctxctlWrite _ _ | .slhashWrite _ _ | .slctlGo _ _
  | .slwbWrite _ _ | .binmapAllocClear _ _ | .binmapAllocSet _ _ | .binmapDomWrite _ _ | .fwctlValidSet _ _ | .fwctlValidClear _ _
  | .registerWrite _ _ | .perstDeassert | .trainingDone | .ownerEntryWrite _ _ _ | .numvfsWrite _ | .feataccWrite _ _ _
  | .mbxdbPost _ _ | .mailboxPostResult _ | .mailboxMessage _ | .mbxreplyWrite _ _ | .getVersion _ _ | .getCapabilities _ _
  | .negotiateAlgorithms _ _ | .getDigests _ _ | .getCertificate _ _ | .challenge _ _ | .getMeasurements _ _ | .keyExchange _ _
  | .finish _ _ | .heartbeat _ _ | .keyUpdate _ _ | .endSession _ _ | .keyload _ _ _ _ | .keydrop _ _ _
  | .putDataFlit _ _ | .counterRiseFlit _ _ | .acknowledgementFlit _ _ | .creditFlit _ _ | .retryRequestFlit _ _ | .idleFlit _ _
  | .portDown _ | .laneLoss _ | .throttleStep | .thermalPowerDown | .mbxptrWrite _ _ | .ultraEthernetPacket _
  | .theushPortRetrain _ | .correctedError _ => []

end Sys2Proof
end

