-- ==== Sys2Proof/Config.lean ====
section
/-! DEFINITION. What the spec leaves to the implementation, and the free values of the model.
Every constant here is opaque: nothing in Lean can evaluate it, so a claim holds whatever it is.
Each is named in notes/assumptions. -/

namespace Sys2Proof.Config

/-- Which of the steps that are possible comes next, for each value of the choice counter
(log entry 2). The spec orders the machine's steps only where its rules say so. -/
opaque pick : Nat → Nat

/-- The code that a special-function instruction returns within the bound of R106: the function
number (its op, R62), the f32 operand code. One fixed code for each input (R105; log entry 15). -/
opaque sfuCode : BitVec 6 → BitVec 32 → BitVec 32

/-- The bytes of an SPDM response (R368): request number, counter of the function's requests.
The manual gives what is signed and agreed, not the bytes (log entry 20). -/
opaque spdmBytes : Nat → Nat → List (BitVec 8)

/-- Whether the boot ROM finds an acceptable firmware image (R371; log entry 20). -/
opaque firmwareOk : Bool

/-- SHA3-512 as the measurements use it (R369; log entry 20). -/
opaque digest : List (BitVec 8) → BitVec 512

/-- The firmware security version measured at index 4 (R369; log entry 20). -/
opaque securityVersion : BitVec 32

/-- The bytes of a peer device's memory that a get reads through a peer window (R168, R208): the number of the
transfer, the byte's index. The peer is not part of this machine (log entry 21). -/
opaque peerByte : Nat → Nat → BitVec 8

/-- The number of a partition's zero frame, which map.query shows (R222, R246). The manual does not say where the frame lies
(log entry 28). -/
opaque zeroFrame : Nat → BitVec 36

end Sys2Proof.Config
end

