-- ==== Sys2Proof/Machine/Number.lean ====
section
/-! DEFINITION. Number formats, rounding and the exact arithmetic behind every floating-point instruction
(03 R28-R52). A finite value is a sign and a magnitude num / den with den positive; every operation is
exact and is encoded once (R42). Flags are six bits in STICKY's positions (R46). -/

namespace Sys2Proof.Machine

/-- Six flags in the bit positions of STICKY (R46). -/
abbrev Flags := BitVec 6

abbrev flNV : Flags := 0b000001
abbrev flDZ : Flags := 0b000010
abbrev flOF : Flags := 0b000100
abbrev flUF : Flags := 0b001000
abbrev flNX : Flags := 0b010000
abbrev flSAT : Flags := 0b100000

/-- The flag where the condition holds. -/
def flagIf (b : Bool) (f : Flags) : Flags := if b then f else 0

/-! ### Formats (R30) -/

/-- How a format writes a NaN (R30, R32). -/
inductive NanKind where
  | none | ieee | e4m3 | e5m3
  deriving DecidableEq, Repr

/-- A format of R30: widths of E and M, bias, and the code of its largest finite magnitude. -/
structure Fmt where
  eb : Nat
  m : Nat
  bias : Int
  signed : Bool
  inf : Bool
  nan : NanKind
  max : Nat
  deriving DecidableEq, Repr

def fmtF64 : Fmt := ⟨11, 52, 1023, true, true, .ieee, 0x7FEFFFFFFFFFFFFF⟩
def fmtF32 : Fmt := ⟨8, 23, 127, true, true, .ieee, 0x7F7FFFFF⟩
def fmtF16 : Fmt := ⟨5, 10, 15, true, true, .ieee, 0x7BFF⟩
def fmtBf16 : Fmt := ⟨8, 7, 127, true, true, .ieee, 0x7F7F⟩
def fmtE4m3 : Fmt := ⟨4, 3, 7, true, false, .e4m3, 0x7E⟩
def fmtE5m2 : Fmt := ⟨5, 2, 15, true, true, .ieee, 0x7B⟩
def fmtE3m2 : Fmt := ⟨3, 2, 3, true, false, .none, 0x1F⟩
def fmtE2m3 : Fmt := ⟨2, 3, 1, true, false, .none, 0x1F⟩
def fmtE2m1 : Fmt := ⟨2, 1, 1, true, false, .none, 0x7⟩
def fmtE5m3 : Fmt := ⟨5, 3, 15, false, false, .e5m3, 0xFE⟩

/-- The format of a floating-point type; c4 is expanded to bf16 when read (R35), and its results
are formed in f32 (R49). Integer types have none; f32 stands for them. -/
def tyFmt : Ty → Fmt
  | .f64 => fmtF64 | .f32 => fmtF32 | .f16 => fmtF16 | .bf16 => fmtBf16 | .e4m3 => fmtE4m3
  | .e5m2 => fmtE5m2 | .e3m2 => fmtE3m2 | .e2m3 => fmtE2m3 | .e2m1 => fmtE2m1
  | _ => fmtF32

/-- The sign bit of a code, 0 in an unsigned format. -/
def fmtSign (f : Fmt) (neg : Bool) : Nat := if f.signed && neg then 2 ^ (f.eb + f.m) else 0

/-- The default NaN (R32). -/
def defaultNan (f : Fmt) : Nat :=
  match f.nan with
  | .ieee => (2 ^ f.eb - 1) * 2 ^ f.m + 2 ^ (f.m - 1)
  | .e4m3 => 0x7F
  | .e5m3 => 0xFF
  | .none => 0

/-! ### Values -/

/-- What a code stands for (R31, R32), and what an operation forms before it is encoded: dnan is the
NaN that arithmetic creates. A NaN carries its mantissa field of ms bits. -/
inductive Val where
  | dnan
  | nan (neg : Bool) (mant ms : Nat) (signalling : Bool)
  | inf (neg : Bool)
  | zero (neg : Bool)
  | fin (neg : Bool) (num den : Nat)
  deriving DecidableEq, Repr

/-- 2^e as a fraction. -/
def pow2 (e : Int) : Nat × Nat := if 0 ≤ e then (2 ^ e.toNat, 1) else (1, 2 ^ (-e).toNat)

/-- Decode(c, fmt) (R31, R40). -/
def decodeF (f : Fmt) (c : Nat) : Val :=
  let mag := c % 2 ^ (f.eb + f.m)
  let neg := f.signed && decide (c / 2 ^ (f.eb + f.m) % 2 = 1)
  let e := mag / 2 ^ f.m
  let m := mag % 2 ^ f.m
  let top := 2 ^ f.eb - 1
  match f.nan, decide (e = top), decide (m = 0) with
  | .ieee, true, true => .inf neg
  | .ieee, true, false => .nan neg m f.m (decide (m < 2 ^ (f.m - 1)))
  | k, t, _ =>
    if k = .e4m3 ∧ t = true ∧ m = 7 then .nan neg m f.m false
    else if k = .e5m3 ∧ mag = 0xFF then .nan neg m f.m false
    else if mag = 0 then .zero neg
    else if e = 0 then
      let p := pow2 (1 - f.bias - f.m)
      .fin neg (m * p.1) p.2
    else
      let p := pow2 (e - f.bias - f.m)
      .fin neg ((2 ^ f.m + m) * p.1) p.2

/-- An E8M0 scale; 0xFF is NaN (R30, R31). -/
def decodeE8m0 (c : Nat) : Val :=
  if c % 256 = 255 then .nan false 0 0 false
  else
    let p := pow2 ((c % 256 : Nat) - 127)
    .fin false p.1 p.2

def valIsNan : Val → Bool
  | .dnan | .nan .. => true
  | _ => false
def valIsSnan : Val → Bool
  | .nan _ _ _ s => s
  | _ => false
def valIsInf : Val → Bool
  | .inf _ => true
  | _ => false
def valNeg : Val → Bool
  | .dnan => false
  | .nan n .. | .inf n | .zero n | .fin n .. => n

/-- The signed numerator and denominator of a finite value. -/
def valFrac : Val → Int × Nat
  | .fin n a b => (if n then -(a : Int) else a, b)
  | _ => (0, 1)

/-- The value of a fraction; zeroNeg is the sign of a zero. -/
def ofFrac (zeroNeg : Bool) (n : Int) (d : Nat) : Val :=
  if n = 0 then .zero zeroNeg else .fin (decide (n < 0)) n.natAbs d

/-- The sum of two fractions; powers of two keep the larger denominator. -/
def fracAdd (a b : Int × Nat) : Int × Nat :=
  if b.2 % a.2 = 0 then (a.1 * (b.2 / a.2 : Nat) + b.1, b.2)
  else if a.2 % b.2 = 0 then (a.1 + b.1 * (a.2 / b.2 : Nat), a.2)
  else (a.1 * b.2 + b.1 * a.2, a.2 * b.2)

/-- a < b for fractions. -/
def fracLt (a b : Int × Nat) : Bool := decide (a.1 * b.2 < b.1 * a.2)

/-- floor(log2(num / den)) for a positive fraction. -/
def floorLog2 (num den : Nat) : Int :=
  let e : Int := (Nat.log2 num : Int) - (Nat.log2 den : Int)
  -- 2^e ≤ num/den, or the power below
  let p := pow2 e
  if p.1 * den ≤ num * p.2 then e else e - 1

/-! ### Rounding and encoding (R36-R40) -/

/-- Whether a magnitude with integer part k and remainder r / d rounds away from zero (R37). -/
def roundsUp (mode : Rnd) (neg : Bool) (k r d : Nat) : Bool :=
  match mode with
  | .dflt | .rn => decide (d < 2 * r) || (decide (2 * r = d) && decide (k % 2 = 1))
  | .rna => decide (d ≤ 2 * r)
  | .rz => false
  | .rp => decide (0 < r) && !neg
  | .rm => decide (0 < r) && neg

/-- RoundInt on a magnitude num / den (R37). -/
def roundMag (mode : Rnd) (neg : Bool) (num den : Nat) : Nat :=
  let k := num / den
  if roundsUp mode neg k (num % den) den then k + 1 else k

/-- The code of a magnitude rounded to a format, before overflow is looked at: codes of magnitudes rise with
the magnitude, so an overflow is a code above the format's largest (R37). -/
def roundCode (f : Fmt) (mode : Rnd) (neg : Bool) (num den : Nat) : Nat × Flags :=
  let emin : Int := 1 - f.bias
  let e := max (floorLog2 num den) emin
  let p := pow2 (f.m - e)
  let k := roundMag mode neg (num * p.1) (den * p.2)
  let exact := decide (k * (den * p.2) = num * p.1)
  let small := decide (floorLog2 num den < emin)
  let code := if k < 2 ^ f.m then k else (e + f.bias).toNat * 2 ^ f.m + (k - 2 ^ f.m)
  (code, flagIf (!exact) flNX ||| flagIf (!exact && small) flUF)

/-- NaNTo (R39). -/
def nanTo (f : Fmt) (neg : Bool) (mant ms : Nat) : Nat × Flags :=
  match f.nan with
  | .none => (f.max + fmtSign f neg, flNV)
  | .e4m3 => (0x7F + fmtSign f neg, 0)
  | .e5m3 => (0xFF, 0)
  | .ieee =>
    let mn := if ms ≤ f.m then mant * 2 ^ (f.m - ms)
      else if mant / 2 ^ (ms - f.m) = 0 then 1 else mant / 2 ^ (ms - f.m)
    ((2 ^ f.eb - 1) * 2 ^ f.m + mn + fmtSign f neg, 0)

/-- The code of an infinity (R30), for formats that have them. -/
def infCode (f : Fmt) (neg : Bool) : Nat := (2 ^ f.eb - 1) * 2 ^ f.m + fmtSign f neg

/-- The end of Encode for an infinity or a value beyond the largest finite one (R39). -/
def encodeBig (f : Fmt) (mode : Rnd) (sat neg isInf : Bool) (fl : Flags) : Nat × Flags :=
  let maxc := f.max + fmtSign f neg
  if sat then
    (if f.signed || !neg then maxc else 0, fl ||| flagIf (!isInf) flNX ||| flSAT)
  else
    let fl := fl ||| flagIf (!isInf) (flOF ||| flNX)
    let big := isInf || (match mode with
      | .dflt | .rn | .rna => true
      | .rz => false
      | .rp => !neg
      | .rm => neg)
    if !big then (maxc, fl)
    else if f.inf then (infCode f neg, fl)
    else
      let fl := fl ||| flagIf isInf flNV
      if f.nan = .e4m3 then (0x7F + fmtSign f neg, fl) else (maxc, fl)

/-- Encode(x, fmt, mode, sat) with the flags it sets (R39). -/
def encodeF (f : Fmt) (mode : Rnd) (sat : Bool) (x : Val) : Nat × Flags :=
  match x with
  | .dnan => (defaultNan f, 0)
  | .nan n m ms _ => nanTo f n m ms
  | .zero n => (fmtSign f n, 0)
  | .inf n => encodeBig f mode sat n true 0
  | .fin n a b =>
    let (c, fl) := roundCode f mode n a b
    if c ≤ f.max then (c + fmtSign f n, fl) else encodeBig f mode sat n false fl

/-- RoundNE(x, fmt) (R40). -/
def roundNE (f : Fmt) (x : Val) : Nat := (encodeF f .rn false x).1

/-- CvtToF32(c, fmt) (R40). -/
def cvtToF32 (f : Fmt) (c : Nat) : Nat := roundNE fmtF32 (decodeF f c)

/-! ### Exact operations (R41-R43) -/

/-- The first NaN of the operands in order (R43). -/
def firstNan : List Val → Option Val
  | [] => none
  | v :: vs => if valIsNan v then some v else firstNan vs

/-- NV of signalling operands (R43). -/
def snanFlag (vs : List Val) : Flags := flagIf (vs.any valIsSnan) flNV

/-- The sign of an exact zero sum: + except under .rm, and - when both operands are -0 (R41). -/
def zeroSumNeg (mode : Rnd) (a b : Val) : Bool :=
  match a, b with
  | .zero true, .zero true => true
  | _, _ => mode == .rm

/-- The exact sum of two operands that are not NaNs (R41, R43). -/
def sumVal (mode : Rnd) (a b : Val) : Val × Flags :=
  match a, b with
  | .inf n, .inf k => if n = k then (.inf n, 0) else (.dnan, flNV)
  | .inf n, _ => (.inf n, 0)
  | _, .inf k => (.inf k, 0)
  | _, _ =>
    let s := fracAdd (valFrac a) (valFrac b)
    (ofFrac (zeroSumNeg mode a b) s.1 s.2, 0)

/-- The exact product of two operands that are not NaNs (R41, R43). -/
def mulVal (a b : Val) : Val × Flags :=
  let neg := valNeg a != valNeg b
  match a, b with
  | .inf _, .zero _ | .zero _, .inf _ => (.dnan, flNV)
  | .inf _, _ | _, .inf _ => (.inf neg, 0)
  | .zero _, _ | _, .zero _ => (.zero neg, 0)
  | _, _ =>
    let x := valFrac a
    let y := valFrac b
    (ofFrac neg (x.1 * y.1) (x.2 * y.2), 0)

/-- -x, for subtraction. -/
def negVal : Val → Val
  | .dnan => .dnan
  | .nan n m ms s => .nan n m ms s
  | .inf n => .inf !n
  | .zero n => .zero !n
  | .fin n a b => .fin (!n) a b

/-- a + b as fadd forms it (R42, R43). -/
def faddVal (mode : Rnd) (a b : Val) : Val × Flags :=
  match firstNan [a, b] with
  | some v => (v, snanFlag [a, b])
  | none => sumVal mode a b

/-- The exact difference of two operands that are not NaNs. A difference of zero is +0, under .rm −0, whatever the signs of its
operands: R41 makes an exception for a sum of two −0 operands alone. -/
def diffVal (mode : Rnd) (a b : Val) : Val × Flags :=
  match sumVal mode a (negVal b) with
  | (.zero _, fl) => (.zero (mode == .rm), fl)
  | r => r

/-- a - b as fsub forms it (R41-R43). -/
def fsubVal (mode : Rnd) (a b : Val) : Val × Flags :=
  match firstNan [a, b] with
  | some v => (v, snanFlag [a, b])
  | none => diffVal mode a b

/-- a × b as fmul forms it (R42, R43). -/
def fmulVal (a b : Val) : Val × Flags :=
  match firstNan [a, b] with
  | some v => (v, snanFlag [a, b])
  | none => mulVal a b

/-- a × b + c as ffma forms it, rounded nowhere inside; 0 × ∞ sets NV even when c is a NaN (R43). -/
def ffmaVal (mode : Rnd) (a b c : Val) : Val × Flags :=
  match firstNan [a, b, c] with
  | some v =>
    let inv := if valIsNan a || valIsNan b then 0 else (mulVal a b).2
    (v, snanFlag [a, b, c] ||| inv)
  | none =>
    let p := mulVal a b
    if valIsNan p.1 then p else sumVal mode p.1 c

/-- a < b for values that are not NaNs, -0 equal to +0 (R100). -/
def valLt (a b : Val) : Bool :=
  match a, b with
  | .inf true, .inf true => false
  | .inf true, _ => true
  | _, .inf false => !(match a with | .inf false => true | _ => false)
  | .inf false, _ => false
  | _, .inf true => false
  | _, _ => fracLt (valFrac a) (valFrac b)

/-- a = b for values that are not NaNs, -0 equal to +0 (R100). -/
def valEq (a b : Val) : Bool := !valLt a b && !valLt b a

/-- a before b in the order of fmin and fmax, which puts -0 below +0 (R43). -/
def valBelow (a b : Val) : Bool :=
  match a, b with
  | .zero true, .zero false => true
  | .zero false, .zero true => false
  | _, _ => valLt a b

/-- Whether fmin (mx false) or fmax selects operand a (R43). -/
def minPicksA (mx : Bool) (a b : Val) : Bool :=
  if valIsNan a then valIsNan b
  else if valIsNan b then true
  else if mx then !valBelow a b else !valBelow b a

/-! ### Integers (R29, R38) -/

/-- The integer value of a w-bit code (R91). -/
def intVal (signed : Bool) (w c : Nat) : Int :=
  let c := c % 2 ^ w
  if signed && decide (2 ^ (w - 1) ≤ c) then (c : Int) - 2 ^ w else c

/-- The w low bits of an integer. -/
def wrapInt (w : Nat) (t : Int) : Nat := (t % (2 ^ w : Int)).toNat

/-- The range of an integer type (R29). -/
def intMin (signed : Bool) (w : Nat) : Int := if signed then -(2 ^ (w - 1) : Int) else 0
def intMax (signed : Bool) (w : Nat) : Int := if signed then 2 ^ (w - 1) - 1 else 2 ^ w - 1

/-- Sat(t, T) for an integer type, with SAT where it changes t (R38). -/
def satInt (signed : Bool) (w : Nat) (t : Int) : Int × Flags :=
  if t < intMin signed w then (intMin signed w, flSAT)
  else if intMax signed w < t then (intMax signed w, flSAT)
  else (t, 0)

/-- An exact integer result: wrapped, or with .sat saturated (R94). -/
def narrowInt (sat signed : Bool) (w : Nat) (t : Int) : Nat × Flags :=
  if sat then
    let s := satInt signed w t
    (wrapInt w s.1, s.2)
  else (wrapInt w t, 0)

/-- Floating-point to integer: rounded, saturating, NaN to 0 (R44). A value beyond the range sets NV and not NX (DEDUCED, log
entry 9: R44 sets NX for an inexact result, and the end of the range stands for the result there). -/
def floatToInt (signed : Bool) (w : Nat) (mode : Rnd) (v : Val) : Nat × Flags :=
  let m := if mode = .dflt then .rz else mode
  match v with
  | .dnan | .nan .. => (0, flNV)
  | .zero _ => (0, 0)
  | .inf n => (wrapInt w (if n then intMin signed w else intMax signed w), flNV)
  | .fin n a b =>
    let k := roundMag m n a b
    let t : Int := if n then -(k : Int) else k
    if t < intMin signed w then (wrapInt w (intMin signed w), flNV)
    else if intMax signed w < t then (wrapInt w (intMax signed w), flNV)
    else (wrapInt w t, flagIf (decide (k * b ≠ a)) flNX)

/-- Integer to floating point: Encode of the exact integer (R44). -/
def intToVal (t : Int) : Val := ofFrac false t 1

/-! ### The codebook (R35, R49) -/

/-- The distance of the codebook search, as an f32 code; infinite where either side is (R49). -/
def cbDist (v e : Val) : Nat :=
  if valEq e v then 0
  else if valIsInf e || valIsInf v then infCode fmtF32 false
  else
    let d := fracAdd (valFrac v) ((-(valFrac e).1), (valFrac e).2)
    roundNE fmtF32 (ofFrac false d.1.natAbs d.2)

/-- The search over the entries from index i on, with the best so far (R49). -/
def cbSearch (v : Val) : Nat → List Nat → Option (Nat × Nat) → Option (Nat × Nat)
  | _, [], best => best
  | i, c :: cs, best =>
    let e := decodeF fmtBf16 c
    if valIsNan e then cbSearch v (i + 1) cs best
    else
      let d := cbDist v e
      let best := match best with
        | none => some (i, d)
        | some (j, db) => if d < db then some (i, d) else some (j, db)
      cbSearch v (i + 1) cs best

/-- The lowest index of a NaN entry. -/
def cbNan : Nat → List Nat → Option Nat
  | _, [] => none
  | i, c :: cs => if valIsNan (decodeF fmtBf16 c) then some i else cbNan (i + 1) cs

/-- CbNearest(v, cb) on the sixteen entries (R49). -/
def cbNearest (cb : List Nat) (v : Val) : Nat × Flags :=
  if valIsNan v then
    match cbNan 0 cb with
    | some i => (i, 0)
    | none => (0, flNV)
  else
    match cbSearch v 0 cb none with
    | some (i, _) => (i, 0)
    | none => (0, flNV)

/-- The value of an element of a floating-point type; a c4 element is an index (R35, R40). -/
def decodeTy (cb : List Nat) (t : Ty) (c : Nat) : Val :=
  if t = .c4 then decodeF fmtBf16 (cb.getD (c % 16) 0) else decodeF (tyFmt t) c

/-- The code of a result in a floating-point type; a c4 result is formed in f32 and searched for
(R39, R49). -/
def encodeTy (cb : List Nat) (t : Ty) (mode : Rnd) (sat : Bool) (v : Val) : Nat × Flags :=
  if t = .c4 then
    let r := encodeF fmtF32 mode sat v
    let i := cbNearest cb (decodeF fmtF32 r.1)
    (i.1, r.2 ||| i.2)
  else encodeF (tyFmt t) mode sat v

/-! ### Conversions (R44, R102) -/

/-- Conv from type u to type t, with its flags (R102). -/
def convCode (cb : List Nat) (t u : Ty) (mode : Rnd) (sat : Bool) (c : Nat) : Nat × Flags :=
  if tyIsInt u then
    let x := intVal (tySigned u) (tyWidth u) c
    if tyIsInt t then
      if sat then narrowInt true (tySigned t) (tyWidth t) x else (wrapInt (tyWidth t) x, 0)
    else encodeTy cb t mode sat (intToVal x)
  else
    let v := decodeTy cb u c
    if tyIsInt t then floatToInt (tySigned t) (tyWidth t) mode v
    else encodeTy cb t mode sat v

/-! ### Square roots -/

/-- The integer square root, by bits from 2^b down. -/
def isqrtFrom (n : Nat) : Nat → Nat → Nat
  | 0, r => r
  | b + 1, r =>
    let t := r + 2 ^ b
    isqrtFrom n b (if t * t ≤ n then t else r)

/-- floor(sqrt n). -/
def isqrt (n : Nat) : Nat := isqrtFrom n (Nat.log2 n / 2 + 1) 0

/-- The square root of a positive value as a fraction that every rounding at f64 precision or below treats as
it treats the root: a floor at 2^140 of the scaled root, with a sticky half step where it is inexact. -/
def sqrtVal (num den : Nat) : Val :=
  -- sqrt(num/den) = sqrt(num den) / den; scale by 4^k so that the root keeps at least 140 bits
  let n := num * den
  let k := 140 + Nat.log2 den
  let r := isqrt (n * 4 ^ k)
  if r * r = n * 4 ^ k then .fin false r (den * 2 ^ k)
  else .fin false (2 * r + 1) (2 * den * 2 ^ k)

/-- sqrt of an operand that is not a NaN (R106). -/
def fsqrtVal (v : Val) : Val × Flags :=
  match v with
  | .zero n => (.zero n, 0)
  | .inf false => (.inf false, 0)
  | .fin false a b => (sqrtVal a b, 0)
  | v => if valIsNan v then (v, snanFlag [v]) else (.dnan, flNV)

/-- 1 / x (R106). -/
def frcpVal (v : Val) : Val × Flags :=
  match v with
  | .zero n => (.inf n, flDZ)
  | .inf n => (.zero n, 0)
  | .fin n a b => (.fin n b a, 0)
  | v => (v, snanFlag [v])

/-! ### Quantising to Q4R (R48) -/

/-- |x| of a value. -/
def absVal : Val → Val
  | .dnan => .dnan
  | .nan _ m ms s => .nan false m ms s
  | .inf _ => .inf false
  | .zero _ => .zero false
  | .fin _ a b => .fin false a b

/-- a / b for a value and a positive finite divisor. -/
def divVal (a b : Val) : Val :=
  match a, b with
  | .fin n x y, .fin k u v => .fin (n != k) (x * v) (y * u)
  | .inf n, _ => .inf n
  | .zero n, _ => .zero n
  | a, _ => a

/-- QuantQ4R: the sub-scale, the codes and the flags of one block (R48). -/
def quantQ4R (xs : List Val) (rs : Val) : Nat × List Nat × Flags :=
  let rsBad := match rs with
    | .fin false _ _ => false
    | _ => true
  if rsBad || xs.any valIsNan then (0xFF, xs.map (fun _ => 0), flNV)
  else
    let amax := xs.foldl (fun m x => if valLt m (absVal x) then absVal x else m) (.zero false)
    if amax = .zero false then (0, xs.map (fun x => if valNeg x then 8 else 0), 0)
    else
      let six := (mulVal (.fin false 6 1) rs).1
      let sub := encodeF fmtE5m3 .rp true (divVal amax six)
      let scale := (mulVal (decodeF fmtE5m3 sub.1) rs).1
      let qs := xs.map (fun x => encodeF fmtE2m1 .rn true (divVal x scale))
      (sub.1, qs.map (·.1), qs.foldl (fun f q => f ||| q.2) sub.2)

/-- The value of a Q4R element (R34): code, sub-scale code, row-scale code. Beside an infinite row scale, the element that is
±0 is the product of the code and the sub-scale, which a sub-scale of 0 makes 0 for every code (DEDUCED, log entry 9). -/
def q4rVal (q sub rs : Nat) : Val :=
  let e := decodeF fmtE2m1 q
  let s := decodeF fmtE5m3 sub
  let r := decodeF fmtBf16 rs
  if valIsNan s || valIsNan r then .dnan
  else
    let p := mulVal e s
    match r, p.1 with
    | .inf _, .zero _ => .dnan
    | _, x => (mulVal x r).1

/-! ### Sums in the Press (R50, R51) -/

/-- The exact sum of values that are finite. -/
def sumFrac (vs : List Val) : Int × Nat := vs.foldl (fun s v => fracAdd s (valFrac v)) (0, 1)

/-- sa × a × sb × b, exact; 0 × ∞ is a NaN. -/
def prodVal (sa a sb b : Val) : Val := (mulVal (mulVal sa a).1 (mulVal sb b).1).1

/-- A product that is a NaN, or whose factors hold 0 and ∞ together (R51). -/
def prodNan (sa a sb b : Val) : Bool :=
  let l := [sa, a, sb, b]
  l.any valIsNan || (l.any valIsInf && l.any (fun v => match v with | .zero _ => true | _ => false))

/-- A product of two scales, decoded exactly; a NaN among them makes it NaN (R34, R50). -/
def scaleMul (a b : Val) : Val := if valIsNan a || valIsNan b then .dnan else (mulVal a b).1

/-- BlockValue: an f32 code (R51). -/
def blockValue (sa sb : Val) (abs : List (Val × Val)) : Nat :=
  if abs.any (fun p => prodNan sa p.1 sb p.2) then 0x7FC00000
  else
    let ps := abs.map (fun p => prodVal sa p.1 sb p.2)
    let pinf := ps.any (fun v => match v with | .inf false => true | _ => false)
    let ninf := ps.any (fun v => match v with | .inf true => true | _ => false)
    if pinf && ninf then 0x7FC00000
    else if pinf then infCode fmtF32 false
    else if ninf then infCode fmtF32 true
    else
      let s := sumFrac ps
      if s.1 = 0 then
        if ps.all (fun v => match v with | .zero true => true | _ => false) then 0x80000000 else 0
      else roundNE fmtF32 (ofFrac false s.1 s.2)

/-- AccAdd: f32 codes (R51). -/
def accAdd (c bv : Nat) : Nat :=
  let x := decodeF fmtF32 c
  let y := decodeF fmtF32 bv
  if valIsNan x then c
  else if valIsNan y then bv
  else
    let s := sumVal .rn x y
    if valIsNan s.1 then 0x7FC00000 else roundNE fmtF32 s.1

end Sys2Proof.Machine
end

