-- ==== Sys2Proof/Machine/Sfu.lean ====
section
/-! DEFINITION. The special-function instructions (07 R105, R106). rcp and sqrt are rounded exactly. The other
six return a code within the bound of R106: the model takes the free value Config.sfuCode wherever
it lies within the bound of the true result, and the true result rounded to nearest elsewhere, so that a claim holds for every
code the bound allows (log entry 15). The true result is computed in fixed point at 2^-256, far finer
than any bound. -/

namespace Sys2Proof.Machine

/-- The fixed-point unit. -/
def fxOne : Nat := 2 ^ 256
/-- pi and ln 2 in fixed point, rounded down. -/
def fxPi : Nat := 363771576891766324280234942777729862653393377328392429958772151117938894466185
def fxLn2 : Nat := 80260960185991308862233904206310070533990667611589946606122867505419956976171

/-- e^t - 1 for t in fixed point: the Taylor terms from term k on. -/
def fxExpm1 : Nat → Nat → Nat → Nat → Nat
  | 0, _, _, _ => 0
  | n + 1, k, t, term =>
    let nt := term * t / fxOne / k
    if nt = 0 then 0 else nt + fxExpm1 n (k + 1) t nt

/-- Alternating Taylor terms: term, minus the next, plus the one after, in steps of two powers. -/
def fxAlt : Nat → Nat → Nat → Nat → Int
  | 0, _, _, _ => 0
  | n + 1, k, t, term =>
    if term = 0 then 0
    else (term : Int) - fxAlt n (k + 2) t (term * t / fxOne * t / fxOne / (k + 1) / (k + 2))

/-- The bits of log2 of a mantissa in [1, 2), scaled by 2^128. -/
def fxLog2 : Nat → Nat → Nat → Nat
  | 0, _, acc => acc
  | n + 1, m, acc =>
    let q := m * m / 2 ^ 128
    if 2 ^ 129 ≤ q then fxLog2 n (q / 2) (2 * acc + 1) else fxLog2 n q (2 * acc)

/-- The six functions with a bound (R106), by their op codes in the X-word (R62). -/
inductive SfuFn where
  | exp2 | log2 | rsqrt | sin | cos | tanh
  deriving DecidableEq, Repr

def sfuOp : SfuFn → BitVec 6
  | .exp2 => 0x2C | .log2 => 0x2D | .rsqrt => 0x2F | .sin => 0x31 | .cos => 0x32 | .tanh => 0x33

/-- The true result for a finite nonzero operand in the function's range, as a signed fraction. -/
def sfuTrue (fn : SfuFn) (neg : Bool) (num den : Nat) : Int × Nat :=
  let x : Int := if neg then -(num : Int) else num
  match fn with
  | .exp2 =>
    let i := max (x / (den : Int)) (-1100)
    let f := if x / (den : Int) < -1100 then 0 else (x % (den : Int)).toNat
    let t := f * fxLn2 / den
    let s := fxOne + fxExpm1 120 1 t fxOne
    let p := pow2 i
    ((s * p.1 : Nat), fxOne * p.2)
  | .log2 =>
    let e := floorLog2 num den
    let p := pow2 (128 - e)
    let m := num * p.1 / (den * p.2)
    (e * 2 ^ 100 + (fxLog2 100 m 0 : Nat), 2 ^ 100)
  | .rsqrt =>
    match sqrtVal num den with
    | .fin _ a b => ((b : Nat), a)
    | _ => (1, 1)
  | .sin | .cos =>
    let t := num * fxOne / den
    let q := t / (fxPi / 2)
    let r := t % (fxPi / 2)
    let s := fxAlt 60 1 r r
    let c := fxAlt 60 0 r fxOne
    let v := match fn, q % 4 with
      | .sin, 0 => s | .sin, 1 => c | .sin, 2 => -s | .sin, _ => -c
      | _, 0 => c | _, 1 => -s | _, 2 => -c | _, _ => s
    (if fn = .sin && neg then -v else v, fxOne)
  | .tanh =>
    let t := 2 * num * fxOne / den
    let e := fxExpm1 200 1 t fxOne
    (if neg then -(e : Int) else e, e + 2 * fxOne)

/-- 2^k times the f32 unit in the last place of a magnitude. -/
def ulpTimes (num den : Nat) (k : Int) : Nat × Nat :=
  pow2 (max (floorLog2 num den) (-126) - 23 + k)

/-- The bound of R106 about the true result y for the operand num / den; a margin of 2^-60 of the
result covers the fixed-point error. -/
def sfuBound (fn : SfuFn) (num den : Nat) (y : Int × Nat) : Nat × Nat :=
  let ulp2 := ulpTimes (max y.1.natAbs 1) y.2 1
  match fn with
  | .log2 => if den ≤ 2 * num ∧ num ≤ 2 * den then (1, 2 ^ 22) else ulp2
  | .sin | .cos => (1, 2 ^ 21)
  | _ => ulp2

/-- A value w lies within b of the true result y; |w - y| + |y| / 2^60 ≤ b. -/
def nearTrue (w y : Int × Nat) (b : Nat × Nat) : Bool :=
  let d := fracAdd w (-y.1, y.2)
  decide ((d.1.natAbs * (y.2 * 2 ^ 60) + y.1.natAbs * d.2) * b.2 ≤ b.1 * (d.2 * (y.2 * 2 ^ 60)))

/-- Whether an f32 code lies within the f32 bound (R106). Beyond 2^14, sin and cos only stay in [-1, 1]. -/
def sfuWithin32 (fn : SfuFn) (neg : Bool) (num den : Nat) (c : Nat) : Bool :=
  match decodeF fmtF32 c with
  | .dnan | .nan .. | .inf _ => false
  | v =>
    let w := valFrac v
    if (fn = .sin || fn = .cos) && decide (2 ^ 14 * den < num) then
      decide (w.1.natAbs ≤ w.2)
    else
      let y := sfuTrue fn neg num den
      nearTrue w y (sfuBound fn num den y)

/-- The unit in the last place of a format at a magnitude. -/
def ulpOf (f : Fmt) (num den : Nat) : Nat × Nat := pow2 (max (floorLog2 num den) (1 - f.bias) - (f.m : Int))

/-- Whether the f16 or bf16 code made of an f32 code by .rn lies within one unit in the last place of the true result (R105,
R106); a result beyond the format's largest value is as R39 encodes it. -/
def sfuWithin16 (f : Fmt) (fn : SfuFn) (neg : Bool) (num den : Nat) (c : Nat) : Bool :=
  match decodeF f (encodeF f .rn false (decodeF fmtF32 c)).1 with
  | .dnan | .nan .. => false
  | .inf _ => true
  | v =>
    let y := sfuTrue fn neg num den
    nearTrue (valFrac v) y (ulpOf f (max y.1.natAbs 1) y.2)

/-- Whether an f32 code is one that an instruction of type t may take (R105, R106). -/
def sfuWithin (fn : SfuFn) (t : Ty) (neg : Bool) (num den : Nat) (c : Nat) : Bool :=
  sfuWithin32 fn neg num den c &&
    (match t with
      | .f16 | .bf16 => sfuWithin16 (tyFmt t) fn neg num den c
      | _ => true)

/-- The code where the free value lies outside the bound: the true result rounded to nearest. -/
def sfuNearest (fn : SfuFn) (neg : Bool) (num den : Nat) : Nat :=
  let y := sfuTrue fn neg num den
  roundNE fmtF32 (ofFrac false y.1 y.2)

/-- A magnitude num / den that is a power of two, with its exponent. -/
def pow2Exp (num den : Nat) : Option Int :=
  let e := floorLog2 num den
  let p := pow2 e
  if num * p.2 = p.1 * den then some e else none

/-- The exact cases of R106 for a finite nonzero operand. -/
def sfuExact (fn : SfuFn) (neg : Bool) (num den : Nat) : Option Val :=
  match fn with
  | .exp2 =>
    if num % den = 0 then
      let i : Int := if neg then -(num / den : Nat) else (num / den : Nat)
      if -149 ≤ i ∧ i ≤ 127 then
        let p := pow2 i
        some (.fin false p.1 p.2)
      else none
    else none
  | .log2 => (pow2Exp num den).map (fun e => ofFrac false e 1)
  | .rsqrt => match pow2Exp num den with
    | some e => if e % 2 = 0 then
        let p := pow2 (-e / 2)
        some (.fin false p.1 p.2) else none
    | none => none
  | _ => none

/-- The special values of R106, with their flags. exp2 of 128 and more raises OF and NX with .sat too, where the encoding of +Inf
then raises SAT beside them (DEDUCED, log entry 15: R106 names the flags without regard to .sat, R46 says of OF 'without
.sat'). -/
def sfuSpecial (fn : SfuFn) (v : Val) : Option (Val × Flags) :=
  let one : Val := .fin false 1 1
  match fn, v with
  | _, .dnan => some (.dnan, 0)
  | _, .nan .. => some (v, snanFlag [v])
  | .exp2, .inf n => some (if n then .zero false else .inf false, 0)
  | .exp2, .zero _ => some (one, 0)
  | .exp2, .fin n a b =>
    if n = false && decide (128 * b ≤ a) then some (.inf false, flOF ||| flNX) else none
  | .log2, .zero _ => some (.inf true, flDZ)
  | .log2, .inf n => some (if n then .dnan else .inf false, flagIf n flNV)
  | .log2, .fin n _ _ => if n then some (.dnan, flNV) else none
  | .rsqrt, .zero n => some (.inf n, flDZ)
  | .rsqrt, .inf n => some (if n then .dnan else .zero false, flagIf n flNV)
  | .rsqrt, .fin n _ _ => if n then some (.dnan, flNV) else none
  | .sin, .zero n | .tanh, .zero n => some (.zero n, 0)
  | .cos, .zero _ => some (one, 0)
  | .sin, .inf _ | .cos, .inf _ => some (.dnan, flNV)
  | .tanh, .inf n => some (.fin n 1 1, 0)
  | .tanh, .fin n a b => if 901 * b ≤ 100 * a then some (.fin n 1 1, flNX) else none
  | _, _ => none

/-- The result as an f32 value with its flags, before the destination type is looked at; the Bool says that the
result is inexact (R105, R106). -/
def sfuResult (fn : SfuFn) (t : Ty) (v : Val) : Val × Flags × Bool :=
  match sfuSpecial fn v with
  | some (r, fl) => (r, fl, false)
  | none =>
    match v with
    | .fin neg num den =>
      match sfuExact fn neg num den with
      | some r => (r, 0, false)
      | none =>
        let cand := (Config.sfuCode (sfuOp fn) (BitVec.ofNat 32 (roundNE fmtF32 v))).toNat
        let c := if sfuWithin fn t neg num den cand then cand else sfuNearest fn neg num den
        let r := decodeF fmtF32 c
        (r, flagIf (valIsInf r) flOF ||| flNX, true)
    | _ => (v, 0, false)

/-- Whether a result is below the smallest normal of a format, zero included. -/
def belowNormal (f : Fmt) (v : Val) : Bool :=
  match v with
  | .zero _ => true
  | .fin _ a b => decide (floorLog2 a b < 1 - f.bias)
  | _ => false

/-- One element of a bounded special function in type t (R105). -/
def sfuElem (cb : List Nat) (fn : SfuFn) (t : Ty) (sat : Bool) (c : Nat) : Nat × Flags :=
  let r := sfuResult fn t (decodeTy cb t c)
  let e := encodeTy cb t .rn sat r.1
  (e.1, r.2.1 ||| e.2 ||| flagIf (r.2.2 && belowNormal (tyFmt t) r.1) flUF)

end Sys2Proof.Machine
end

