-- ==== Sys2Proof/Machine/Flags.lean ====
section
/-! DEFINITION. Element operations of the register instructions with the flags each raises: sub-elements of a register
(03 R28), the integer operations of 07 R93-R98, and the floating-point ones of R99-R109. An operation takes whole
registers and gives a register and the STICKY flags it raises (R46). -/

namespace Sys2Proof.Machine

/-- A register result with the flags it raises. -/
abbrev Res := Word × Flags

/-- Sub-element k of width w (R28). -/
def elemW (w : Nat) (x : Word) (k : Nat) : Nat := x.toNat / 2 ^ (w * k) % 2 ^ w
/-- Sub-element k of a type. -/
def elemOf (t : Ty) (x : Word) (k : Nat) : Nat := elemW (tyWidth t) x k
/-- Its integer value (R91). -/
def elemI (t : Ty) (x : Word) (k : Nat) : Int := intVal (tySigned t) (tyWidth t) (elemOf t x k)
/-- Its unsigned value. -/
def elemN (t : Ty) (x : Word) (k : Nat) : Nat := elemOf t x k

/-- The number whose sub-elements of width w, lowest first, are given. -/
def packNat (w : Nat) : List Nat → Nat
  | [] => 0
  | c :: cs => c % 2 ^ w + 2 ^ w * packNat w cs
/-- A register of sub-elements; a 6-bit type leaves bits 63:60 zero (R28). -/
def packElems (t : Ty) (cs : List Nat) : Word := BitVec.ofNat 64 (packNat (tyWidth t) cs)

/-- All flags of a list of results. -/
def flagsOf (rs : List (Nat × Flags)) : Flags := rs.foldl (fun f r => f ||| r.2) 0

/-- An operation done on every sub-element. -/
def eachElem (t : Ty) (fn : Nat → Nat × Flags) : Res :=
  let rs := (List.range (tyCount t)).map fn
  (packElems t (rs.map (·.1)), flagsOf rs)

/-- The same code in every sub-element (R60, R113, R115). -/
def splat (t : Ty) (c : Nat) : Word := packElems t (List.replicate (tyCount t) c)

/-! ### Integer operations (R93-R98) -/

/-- An exact result of two elements, wrapped or saturated (R94). -/
def intBin (t : Ty) (sat : Bool) (op : Int → Int → Int) (a b : Word) : Res :=
  eachElem t (fun k => narrowInt sat (tySigned t) (tyWidth t) (op (elemI t a k) (elemI t b k)))
/-- An exact result of one element. -/
def intUn (t : Ty) (sat : Bool) (op : Int → Int) (a : Word) : Res :=
  eachElem t (fun k => narrowInt sat (tySigned t) (tyWidth t) (op (elemI t a k)))
/-- An operation on each element's own bits: its width and its unsigned code (R95). -/
def bitUn (t : Ty) (op : Nat → Nat → Nat) (a : Word) : Res :=
  eachElem t (fun k => (op (tyWidth t) (elemN t a k), 0))

def addOp (t : Ty) (sat : Bool) : Word → Word → Res := intBin t sat (· + ·)
def subOp (t : Ty) (sat : Bool) : Word → Word → Res := intBin t sat (· - ·)
def mulOp (t : Ty) (sat : Bool) : Word → Word → Res := intBin t sat (· * ·)
def mulhiOp (t : Ty) : Word → Word → Res := intBin t false (fun x y => x * y / (2 ^ tyWidth t : Int))
def minOp (t : Ty) : Word → Word → Res := intBin t false min
def maxOp (t : Ty) : Word → Word → Res := intBin t false max
def madOp (t : Ty) (sat : Bool) (a b c : Word) : Res :=
  eachElem t (fun k => narrowInt sat (tySigned t) (tyWidth t) (elemI t a k * elemI t b k + elemI t c k))
def negOp (t : Ty) (sat : Bool) : Word → Res := intUn t sat (- ·)
/-- abs: |x| for a signed type, x for an unsigned one (R93). -/
def absOp (t : Ty) (sat : Bool) : Word → Res := intUn t sat (fun x => (x.natAbs : Int))

/-- The shift count: the low 8 bits of the element (R95). -/
def shiftBy (t : Ty) (b : Word) (k : Nat) : Nat := elemN t b k % 256
/-- A shift of each element: width, code and count. -/
def shiftOp (t : Ty) (op : Nat → Nat → Nat → Nat) (a b : Word) : Res :=
  eachElem t (fun k => (op (tyWidth t) (elemN t a k) (shiftBy t b k), 0))
def shlBits (w x s : Nat) : Nat := if s < w then x * 2 ^ s % 2 ^ w else 0
def shrBits (w x s : Nat) : Nat := if s < w then x / 2 ^ s else 0
/-- sar fills with the element's top bit, whatever the type (R95). -/
def sarBits (w x s : Nat) : Nat := wrapInt w (intVal true w x / (2 ^ min s w : Int))
def rotBits (w x s : Nat) : Nat :=
  let r := s % w
  (x * 2 ^ r + x / 2 ^ (w - r)) % 2 ^ w
def popcBits (w x : Nat) : Nat := ((List.range w).filter (fun i => x.testBit i)).length
def clzBits (w x : Nat) : Nat := if x = 0 then w else w - 1 - Nat.log2 x
def brevBits (w x : Nat) : Nat :=
  (List.range w).foldl (fun r i => if x.testBit i then r + 2 ^ (w - 1 - i) else r) 0

/-- bfx (R96). -/
def bfxOp (t : Ty) (a b c : Word) : Res :=
  eachElem t (fun k =>
    let w := tyWidth t
    let pos := elemN t b k
    let len := elemN t c k
    if w ≤ pos ∨ len = 0 then (0, 0)
    else
      let len := min len (w - pos)
      (wrapInt w (intVal (tySigned t) len (elemN t a k / 2 ^ pos % 2 ^ len)), 0))
/-- bfi; o is the old d (R96). -/
def bfiOp (t : Ty) (o a b c : Word) : Res :=
  eachElem t (fun k =>
    let w := tyWidth t
    let pos := elemN t b k
    let len := elemN t c k
    let old := elemN t o k
    if w ≤ pos ∨ len = 0 then (old, 0)
    else
      let len := min len (w - pos)
      (old % 2 ^ pos + elemN t a k % 2 ^ len * 2 ^ pos + old / 2 ^ (pos + len) * 2 ^ (pos + len), 0))

/-- The 32-bit type of a dot4 or sad accumulator (R97). -/
def accTy (t : Ty) : Ty := if tySigned t then .i32 else .n32
/-- dot4 and sad: products or distances of each 32-bit half added to c (R97). -/
def sumOp (t : Ty) (sat : Bool) (term : Int → Int → Int) (a b c : Word) : Res :=
  eachElem (accTy t) (fun h =>
    let m := 32 / tyWidth t
    let z := (List.range m).foldl (fun z j => z + term (elemI t a (m * h + j)) (elemI t b (m * h + j)))
      (elemI (accTy t) c h)
    narrowInt sat (tySigned t) 32 z)

/-- The condition codes of cmp (R98). -/
def condI (code : Nat) (x y : Int) : Bool :=
  match code with
  | 0 => x == y
  | 1 => x != y
  | 2 => decide (x < y)
  | 3 => decide (x ≤ y)
  | 4 => decide (y < x)
  | _ => decide (y ≤ x)

/-- all ones or zero of a width. -/
def onesIf (w : Nat) (b : Bool) : Nat := if b then 2 ^ w - 1 else 0

/-! ### Floating-point operations (R99-R101) -/

/-- The value of element k of a floating-point type or c4 (R91). -/
def elemV (cb : List Nat) (t : Ty) (x : Word) (k : Nat) : Val := decodeTy cb t (elemN t x k)

/-- An exact value encoded once in the type (R42). -/
def encodeRes (cb : List Nat) (t : Ty) (mode : Rnd) (sat : Bool) (r : Val × Flags) : Nat × Flags :=
  let e := encodeTy cb t mode sat r.1
  (e.1, r.2 ||| e.2)

/-- The default mode of every operation but conversions to integers is .rn (R36). -/
def modeOf (r : Rnd) : Rnd := if r = .dflt then .rn else r

def fltBin (cb : List Nat) (t : Ty) (r : Rnd) (sat : Bool) (op : Rnd → Val → Val → Val × Flags) (a b : Word) : Res :=
  eachElem t (fun k => encodeRes cb t (modeOf r) sat (op (modeOf r) (elemV cb t a k) (elemV cb t b k)))
def faddOp (cb : List Nat) (t : Ty) (r : Rnd) (sat : Bool) : Word → Word → Res := fltBin cb t r sat faddVal
def fsubOp (cb : List Nat) (t : Ty) (r : Rnd) (sat : Bool) : Word → Word → Res := fltBin cb t r sat fsubVal
def fmulOp (cb : List Nat) (t : Ty) (r : Rnd) (sat : Bool) : Word → Word → Res :=
  fltBin cb t r sat (fun _ => fmulVal)
def ffmaOp (cb : List Nat) (t : Ty) (r : Rnd) (sat : Bool) (a b c : Word) : Res :=
  eachElem t (fun k => encodeRes cb t (modeOf r) sat
    (ffmaVal (modeOf r) (elemV cb t a k) (elemV cb t b k) (elemV cb t c k)))

/-- fmin and fmax of two codes: the selected code unchanged, for c4 its nearest index (R43, R100). -/
def fminCode (cb : List Nat) (t : Ty) (mx : Bool) (ca cc : Nat) : Nat × Flags :=
  let x := decodeTy cb t ca
  let y := decodeTy cb t cc
  let fl := snanFlag [x, y]
  let pickA := minPicksA mx x y
  if t = .c4 then
    let i := cbNearest cb (if pickA then x else y)
    (i.1, fl ||| i.2)
  else (if pickA then ca else cc, fl)
def fminOp (cb : List Nat) (t : Ty) (mx : Bool) (a b : Word) : Res :=
  eachElem t (fun k => fminCode cb t mx (elemN t a k) (elemN t b k))

/-- The condition codes of fcmp (R61, R100), with NV for a signalling NaN. -/
def condF (code : Nat) (x y : Val) : Bool × Flags :=
  let fl := snanFlag [x, y]
  if valIsNan x || valIsNan y then (code == 1 || code == 6, fl)
  else
    (match code with
      | 0 => valEq x y
      | 1 => !valEq x y
      | 2 => valLt x y
      | 3 => !valLt y x
      | 4 => valLt y x
      | 5 => !valLt x y
      | 6 => false
      | _ => true, fl)

/-- The integer a value rounds to, as a value that keeps the sign of a zero (R101). -/
def frndVal (mode : Rnd) (v : Val) : Val × Flags :=
  match v with
  | .fin n a b =>
    let k := roundMag mode n a b
    (if k = 0 then .zero n else .fin n k 1, 0)
  | v => (v, snanFlag [v])
/-- frnd: the rounded integer encoded in its type (R101). -/
def frndOp (cb : List Nat) (t : Ty) (r : Rnd) (a : Word) : Res :=
  eachElem t (fun k => encodeRes cb t (modeOf r) false (frndVal (modeOf r) (elemV cb t a k)))

/-- The sign bit of every sub-element cleared or inverted, NaNs included (R93). -/
def fabsOp (t : Ty) (a : Word) : Res := bitUn t (fun w x => x % 2 ^ (w - 1)) a
def fnegOp (t : Ty) (a : Word) : Res := bitUn t (fun w x => (x + 2 ^ (w - 1)) % 2 ^ w) a

/-! ### Conversions, special functions and the codebook (R102-R109) -/

/-- The number of elements of part h and its first index (R102). -/
def partSpan (t u : Ty) (h : Nat) : Nat × Nat :=
  let m := min (tyCount t) (tyCount u)
  (h * m, min (h * m + m) (max (tyCount t) (tyCount u)) - h * m)

/-- The elements of a register as a list of codes. -/
def codesOf (t : Ty) (x : Word) : List Nat := (List.range (tyCount t)).map (elemN t x)

/-- One part of a conversion: o is the old d (R103). -/
def cvtPart (cb : List Nat) (t u : Ty) (mode : Rnd) (sat : Bool) (h : Nat) (o a : Word) : Res :=
  let (lo, cnt) := partSpan t u h
  let narrowing := decide (tyCount u < tyCount t)
  let rs := (List.range cnt).map (fun j => convCode cb t u mode sat (elemN u a (if narrowing then j else lo + j)))
  let at0 := if narrowing then lo else 0
  let old := codesOf t o
  (packElems t (old.take at0 ++ rs.map (·.1) ++ old.drop (at0 + cnt)), flagsOf rs)

/-- The mode of a conversion; the default to an integer from a float is .rz (R36), which floatToInt applies. -/
def cvtMode (t : Ty) (r : Rnd) : Rnd := if tyIsInt t then r else modeOf r

/-- sqrt and rcp: exact and rounded once (R105). -/
def exactSfu (cb : List Nat) (fn : Val → Val × Flags) (t : Ty) (r : Rnd) (sat : Bool) (a : Word) : Res :=
  eachElem t (fun k => encodeRes cb t (modeOf r) sat (fn (elemV cb t a k)))
/-- The other six special functions (R105, R106). -/
def sfuOpOn (cb : List Nat) (fn : SfuFn) (t : Ty) (sat : Bool) (a : Word) : Res :=
  eachElem t (fun k => sfuElem cb fn t sat (elemN t a k))

/-- cbq (R109). -/
def cbqOp (cb : List Nat) (t : Ty) (r : Rnd) (sat : Bool) (a : Word) : Res :=
  eachElem t (fun k =>
    let v := encodeF fmtF32 (modeOf r) false (decodeF (tyFmt t) (elemN t a k))
    let i := cbNearest cb (decodeF fmtF32 v.1)
    let e := encodeF (tyFmt t) (modeOf r) sat (decodeF fmtBf16 (cb.getD i.1 0))
    (e.1, v.2 ||| i.2 ||| e.2))

/-! ### Immediates (R60) -/

/-- movi, FI form. -/
def moviImmWord (t : Ty) (imm : BitVec 11) : Word :=
  if tyIsInt t then splat t (wrapInt (tyWidth t) imm.toInt)
  else splat t (encodeF (tyFmt t) .rn true (intToVal imm.toInt)).1
/-- movi, FW form. -/
def moviWord (t : Ty) (imm : BitVec 32) : Word :=
  match t with
  | .i64 => imm.signExtend 64
  | .n64 => imm.zeroExtend 64
  | .f64 => BitVec.ofNat 64 (encodeF fmtF64 .rn false (decodeF fmtF32 imm.toNat)).1
  | t => splat t imm.toNat

end Sys2Proof.Machine
end

