-- ==== Sys2Proof/Machine/Maps.lean ====
section
/-! DEFINITION. Sparse maps: lists of key and value in one canonical form, keys strictly rising. A map with a
default lists no entry that equals the default, so equal contents are equal lists. Memory, register
files and the tables of the machine are such maps. -/

namespace Sys2Proof.Machine

/-- A sparse map from numbers. -/
abbrev SMap (α : Type) := List (Nat × α)

/-- The entry at a key. -/
def mapFind {α : Type} : SMap α → Nat → Option α
  | [], _ => none
  | (k, v) :: m, a => if a = k then some v else mapFind m a

/-- The value at a key, the default where nothing is listed. -/
def mapGet {α : Type} (dflt : α) (m : SMap α) (a : Nat) : α := (mapFind m a).getD dflt

/-- List a value at a key. -/
def mapPut {α : Type} : SMap α → Nat → α → SMap α
  | [], a, v => [(a, v)]
  | (k, w) :: m, a, v =>
    if a < k then (a, v) :: (k, w) :: m
    else if a = k then (a, v) :: m
    else (k, w) :: mapPut m a v

/-- Unlist a key. -/
def mapDel {α : Type} : SMap α → Nat → SMap α
  | [], _ => []
  | (k, w) :: m, a => if a = k then mapDel m a else (k, w) :: mapDel m a

/-- Write a value, keeping the form: the default is not listed. -/
def mapSet {α : Type} [DecidableEq α] (dflt : α) (m : SMap α) (a : Nat) (v : α) : SMap α :=
  if v = dflt then mapDel m a else mapPut m a v

/-- Write consecutive values from a key on. -/
def mapSetList {α : Type} [DecidableEq α] (dflt : α) (m : SMap α) (a : Nat) : List α → SMap α
  | [] => m
  | v :: vs => mapSetList dflt (mapSet dflt m a v) (a + 1) vs

/-- Read consecutive values from a key on. -/
def mapGetList {α : Type} (dflt : α) (m : SMap α) (a : Nat) : Nat → List α
  | 0 => []
  | n + 1 => mapGet dflt m a :: mapGetList dflt m (a + 1) n

/-- Keys strictly rising from a bound. -/
def mapRising {α : Type} : Nat → SMap α → Bool
  | _, [] => true
  | lo, (k, _) :: m => decide (lo ≤ k) && mapRising (k + 1) m

/-- The canonical form of a map: keys strictly rising. -/
def mapOrdered {α : Type} (m : SMap α) : Bool := mapRising 0 m

/-- The canonical form of a map with a default. -/
def mapWf {α : Type} [DecidableEq α] (dflt : α) (m : SMap α) : Bool :=
  mapOrdered m && m.all (fun e => decide (e.2 ≠ dflt))

/-- The keys of a map. -/
def mapKeys {α : Type} (m : SMap α) : List Nat := m.map (·.1)

/-- Update an entry where there is one. -/
def mapUpd {α : Type} (m : SMap α) (a : Nat) (f : α → α) : SMap α :=
  match mapFind m a with
  | some v => mapPut m a (f v)
  | none => m

/-- Keep the entries that a test accepts. -/
def mapKeep {α : Type} (m : SMap α) (p : Nat → α → Bool) : SMap α := m.filter (fun e => p e.1 e.2)

/-- Change every value. -/
def mapAll {α : Type} (m : SMap α) (f : Nat → α → α) : SMap α := m.map (fun e => (e.1, f e.1 e.2))

/-- The lowest element with the least measure. -/
def leastBy {α : Type} (f : α → Nat) : List α → Option α
  | [] => none
  | x :: xs => match leastBy f xs with
    | none => some x
    | some y => some (if f x ≤ f y then x else y)

end Sys2Proof.Machine
end

