-- ==== Sys2Proof/Machine/State.lean ====
section
/-! DEFINITION. The state of the package as plain data: everything the spec gives the machine (INVENTORY.md
lists it with the rules), the state after reset, and the reasons a step can stop. -/

namespace Sys2Proof.Machine

/-! ### Groups (01 R14-R22, 07 R117, 09 R120-R145, 21 R285-R291) -/

/-- REPCTR (R74). -/
structure RepCtr where
  lanes : LaneMask := 0
  active : Bool := false
  next : BitVec 6 := 0
  deriving DecidableEq, Repr, Inhabited

/-- What a blocked or waiting run waits for (R121, R16, R77, R138, R169, R259, R319, R321, R324). -/
inductive Why where
  | gsync (mask : LaneMask)                 -- R135
  | results                                 -- wait, R138
  | clk (deadline : Word)                   -- wait.clk, R138
  | repEnd                                  -- another run's repeat, R73
  | locks (press : Bool) (need : Nat) (words : List (Nat × Nat))
      -- range locks; a copy slot or queue entry; INFL room of words (team, offset), R16, R248
  | closing                                 -- open windows at a closing point, R77
  | operand                                 -- a result still to be produced, R76; a bin that wakes, R345
  | release (sc : Scope)                    -- acknowledgements of earlier accesses, R188
  | acquire                                 -- an earlier acquire of the lanes, R184, R187
  | edits                                   -- the lanes' edits to the addresses, R228, R246
  | engFence                                -- fence.eng, R163
  | accept (ctx : Nat) (ranges : List (Nat × Nat)) -- acceptance of a renaming instruction or of a PTECMD command, R223
  | window (ctx win : Nat)                  -- the puts and gets that name a window, R209
  | misuse                                  -- trap 0x05 in debug mode, once the windows have closed, R76, R77
  | ctrw (die : Nat) (name thr : Word) (d : BitVec 7) (acq : Bool)                -- R169
  | tx (team addr : Nat) (g : BitVec 16) (mask : BitVec 128) (d : BitVec 7)       -- R259
  | txTrap (code info : Nat)                -- a tx.wait whose word trapped it, R254, R256, R260
  | ridge (name : Nat) (tok : BitVec 32)    -- R319
  | lead                                    -- R321
  | taste (vec : Bool) (d : BitVec 7) (lanes : LaneMask)                          -- R324
  | atomicDone                              -- an atomic of the lanes, for a precise order, R181
  | stored                                  -- the acceptance of a gsave's stores, R295
  | held                                    -- the requests that a resume performs first, R298, R374
  deriving DecidableEq, Repr, Inhabited

/-- A run that cannot issue: its lanes, its counter, the counter after its instruction. -/
structure Block where
  lanes : LaneMask
  pc : Pc
  npc : Pc
  why : Why
  deriving DecidableEq, Repr, Inhabited

/-- A destination of a pending result: a lane-register of the allotment, or a uniform register. -/
inductive Dest where
  | vec (j : Nat)
  | uni (n : Nat)
  deriving DecidableEq, Repr, Inhabited

/-- A pending register result with its lookahead window (R76): the value of each lane as far as it
is known, the requests still to answer, and a fault met after issue (R291). -/
structure Pend where
  id : Nat
  lanes : LaneMask
  active : LaneMask
  left : Nat
  dest : Dest
  ty : Ty
  pc : Pc
  words : Nat
  issued : Bool                             -- an instruction of the window has issued
  atom : Bool
  acq : Option Scope
  vals : List (Nat × Word)                  -- values by lane, extended by R152
  sram : Bool                               -- lds or atoms: nothing is outstanding
  fault : Option (Nat × Nat)                -- cause and INFO
  held : Bool                               -- its fault waits for the handler's return
  iter : Option Nat := none                 -- the iteration of a repeat that opened it
  deriving DecidableEq, Repr, Inhabited

/-- A pending gsync barrier (R134). -/
structure Barrier where
  mask : LaneMask
  arrived : LaneMask
  deriving DecidableEq, Repr, Inhabited

/-- A cause latched for the next instruction boundary (R289): its code, INFO, and whether the
supervisor receives it (R374). -/
structure Latched where
  code : Nat
  info : Nat
  sup : Bool := false
  deriving DecidableEq, Repr, Inhabited

/-- A group stopped for the supervisor (R296): the lanes of the run that met the cause; cont is set where resume continues
from the counters (R298). -/
structure Stop where
  cont : Bool
  lanes : LaneMask
  deriving DecidableEq, Repr, Inhabited

/-- A resident group. Registers are sparse maps with default 0: lane-register j of lane l at key
32 j + l, counters by lane, predicates p1-p7 as lane masks. -/
structure Group where
  uid : Nat := 0
  team : Nat := 0
  groupId : Nat := 0
  base : Nat := 0
  allot : Nat := 16
  vregs : SMap Word := []
  sregs : SMap Word := []
  preds : SMap LaneMask := []
  codebook : SMap (BitVec 16) := []
  pcs : SMap Pc := []
  exited : LaneMask := 0
  winbase : BitVec 9 := 0
  sticky : BitVec 6 := 0
  stale : LaneMask := 0
  rep : RepCtr := {}
  cause : Word := 0
  epc : Word := 0
  trapbase : Word := 0
  latched : List Latched := []
  hlanes : LaneMask := 0
  stopped : Option Stop := none
  barriers : List Barrier := []
  blocks : List Block := []
  pends : List Pend := []
  ages : SMap Nat := []
  skipBp : LaneMask := 0
  lastSel : Nat := 0                        -- order of the last selection, or of its creation, R15
  sel : Nat := 0                            -- order of the last selection, R131
  yielded : Bool := false                   -- it has yielded in that selection, R131
  raised : BitVec 6 := 0                    -- STICKY flags raised in the clock, R89
  bwSeen : Word := 0                        -- BWPHASE at the start of the clock, R90
  promoted : LaneMask := 0
  phase : Word := 0
  safeStop : LaneMask := 0
  deriving DecidableEq, Repr, Inhabited

/-! ### Requests, caches and copies (13, 15, 17) -/

/-- Attributes of a translation (R176, R234). -/
structure Attr where
  w : Bool := false
  shadow : Bool := false
  manual : Bool := false
  zb : Bool := false
  fmt : Bool := false
  host : Bool := false
  owner : Bool := false
  zero : Bool := false
  deriving DecidableEq, Repr, Inhabited

/-- A translation: a page of size bytes at va, backed from pa, with its generation (R176). -/
structure Trans where
  ctx : Nat
  va : Nat
  size : Nat
  pa : Nat
  attr : Attr
  gen : BitVec 16
  deriving DecidableEq, Repr, Inhabited

/-- What a request does at its home slice (R177). -/
inductive ReqKind where
  | load
  | ldc (node : Nat)
  | store (bytes : List Byte)
  | atom (op : Nat) (ty : Ty) (operand cmp : Word) (lane : Nat)
  | pref (l1 : Bool)
  | wb (inv : Bool) (acq : Option Scope)    -- the write-back of a wbr or invr, which then drops the line; the scope of .acq, R164, R165
  deriving DecidableEq, Repr, Inhabited

/-- Where a request stands: on its way, refused for an old generation, accepted and waiting for its
response or acknowledgement, or held for the supervisor (R374). -/
inductive Stage where
  | queued | refused | accepted | held
  deriving DecidableEq, Repr, Inhabited

/-- A request to global memory (R177, R220). -/
structure Req where
  id : Nat
  core : Nat
  gid : Nat
  uid : Nat
  team : Nat
  ctx : Nat
  lanes : LaneMask
  pend : Nat
  va : Nat
  pa : Nat
  size : Nat
  gen : BitVec 16
  attr : Attr
  kind : ReqKind
  rel : Bool                                -- a release store at .clu or wider, R179
  stage : Stage
  data : List Byte                          -- what acceptance read
  poison : Bool
  fill : Bool                               -- the response may fill L1
  cover : Nat                               -- the storing instruction, where it covers the line whole (R303); 0: it does not
  acq : Bool                                -- a request of an acquire, R184
  iid : Nat := 0                            -- the posted instruction it belongs to, R374
  tag : Nat
  deriving DecidableEq, Repr, Inhabited

/-- A line held in an L1, a proxy slice or a SHADOW copy: its generation, sequence tag, 128 bytes and the
dirty-byte mask of a MANUAL line (R180, R203, R221); manual marks a copy of another die's MANUAL line (R202). -/
structure Copy where
  line : Nat
  gen : BitVec 16
  tag : Nat
  data : List Byte
  mask : BitVec 128
  poison : Bool := false                    -- a dirty MANUAL line found faulty, R302
  manual : Bool := false
  whole : Bool := false                     -- one instruction has written all of the line, R303
  shadow : Bool := false                    -- a copy for SHADOW pages, R201
  deriving DecidableEq, Repr, Inhabited

/-- A line of a core's constant cache, of one grid (R157). -/
structure ConstLine where
  node : Nat
  line : Nat
  data : List Byte
  deriving DecidableEq, Repr, Inhabited

/-- A range in a core's range-lock table (R278): global ranges of a context, or SRAM of a team. -/
structure Lock where
  op : Nat
  dest : Bool
  space : Nat                               -- 0 global, 1 scratchpad, 2 operand buffer
  owner : Nat                               -- context, or team
  lo : Nat
  hi : Nat
  cont : Bool := false                      -- cp.mc: the entry before it, in another team of the mask
  deriving DecidableEq, Repr, Inhabited

/-- A core: bank roles and pin (R25), L1, translations, constant cache, range locks. -/
structure Core where
  bankrole : Word := 0
  pin : Bool := false
  l1 : List Copy := []
  tlb : List Trans := []
  cc : List ConstLine := []
  locks : List Lock := []
  deriving DecidableEq, Repr, Inhabited

/-! ### Engines (19) -/

/-- A part of an engine operation still to arrive (R254): destination team (0 for global memory), the first byte
written, the end of its 512-byte block, the bytes it counts, the chunk bit it carries. -/
structure Part where
  team : Nat
  lo : Nat
  hi : Nat
  len : Nat
  chunk : Option Nat
  deriving DecidableEq, Repr, Inhabited

/-- A layout record as cpx reads it at issue (R265). -/
structure Layout where
  ety : Ty
  rows : Nat
  cols : Nat
  rstride : Nat
  suboff : Nat
  substride : Nat
  rsoff : Nat
  deriving DecidableEq, Repr, Inhabited

/-- What an engine operation does (R261, R266, R273). Scratchpad operands are R153 addresses. -/
inductive OpKind where
  | g2s (src dst len : Nat)
  | s2g (src dst len : Nat)
  | s2w (src win off ctr len : Nat)
  | s2s (src dst len : Nat)
  | mc (src dst len : Nat) (mask : BitVec 12)
  | net (src queue len : Nat)
  | tr (src dst : Nat) (r : Layout)
  | q4r (src dst : Nat) (ty : Ty) (r : Layout)
  | dq (src dst : Nat) (ty : Ty) (r : Layout)
  | zbc (src dst len : Nat)
  | zbx (src dst len : Nat)
  | mm (shape cls k : Nat) (zc : Bool) (a b c : Nat)
  | mmLd (shape : Nat) (ty : Ty) (glob : Bool) (tile stride c : Nat)
  | mmSt (shape : Nat) (ty : Ty) (rnd : Rnd) (sat glob : Bool) (tile stride c : Nat)
  deriving DecidableEq, Repr, Inhabited

/-- An engine operation in flight (R248): the group that issued it, the words it signals, the parts
still to arrive, and for the Press the next K-block and whether C holds the result. -/
structure EngOp where
  id : Nat
  core : Nat
  gid : Nat
  uid : Nat
  team : Nat
  ctx : Nat
  press : Bool
  kind : OpKind
  tx : Option Nat                           -- scratchpad address of the word
  txTeams : List Nat
  parts : List Part
  block : Nat
  done : Bool                               -- every byte computed or nothing left to compute
  acc : List (BitVec 32) := []              -- the Press: C as computed so far
  bad : List Nat := []                      -- the Press: products or elements poisoned so far
  lost : List Nat := []                     -- mm.ld: elements whose page failed its checks; into a window: the page's address (R251)
  cover : SMap (BitVec 128) := []           -- units written in part, R303: the bytes of each; lines even, granules odd
  read : SMap (Option (Byte × Bool)) := []  -- cp.mc, cp.net: source bytes read so far, with their poison (R262, R264)
  deriving DecidableEq, Repr, Inhabited

/-- A put or a get, or a cp.s2g into a window (R167, R168, R263). -/
structure Xfer where
  id : Nat
  get : Bool
  core : Nat
  gid : Nat
  uid : Nat
  team : Nat
  ctx : Nat
  lanes : LaneMask
  win : Nat
  off : Nat
  loc : Nat
  len : Nat
  ctr : Nat
  op : Option Nat                           -- the engine operation it belongs to
  stage : Nat                               -- 0 to be moved, 1 moved and to be acknowledged, 2 at a peer
  waits : List Nat                          -- requests and edits that come first, R167, R212
  rel : Option Scope                        -- the scope of a .rel (R210)
  deriving DecidableEq, Repr, Inhabited

/-! ### Renaming (17) -/

/-- What an edit changes (R240-R245, R236, R222). -/
inductive EditOp where
  | cat (x la y lb : Nat)
  | split (x l o z : Nat)
  | perm (base : Nat) (list : List Nat)
  | xchg (a b len : Nat)
  | renameAlias (d a len : Nat) (rw : Bool)
  | drop (a len : Nat)
  | install (va size : Nat) (leaf : Word)
  | remove (va size : Nat)
  | zeroPage (va : Nat)
  deriving DecidableEq, Repr, Inhabited

/-- An accepted edit (R223): who issued it, its scope, the virtual ranges it locks, the frames it
reserved, whether it has committed, and up to which scope it is complete (R229: 1 .team, 2 .clu, 3 .die, 4 .pkg). -/
structure Edit where
  id : Nat
  ctx : Nat
  die : Nat
  core : Nat
  gid : Nat
  uid : Nat
  lanes : LaneMask
  scope : Scope
  op : EditOp
  ranges : List (Nat × Nat)
  frames : List Nat
  waits : List Nat                          -- earlier requests of the run to the ranges
  committed : Bool
  upTo : Nat
  pte : Bool                                -- a PTECMD command, R236
  back : List (Nat × Nat × Nat) := []       -- pages that go back to the host: address, bus address, frame, R216
  deriving DecidableEq, Repr, Inhabited

/-! ### Trellis (23) -/

/-- A Ridge barrier (R318): sets of group uids. A grid barrier's unplaced groups are members by
count. -/
structure Bar where
  members : List Nat := []
  unplaced : Nat := 0
  arrived : List Nat := []
  joining : List Nat := []
  leaving : List Nat := []
  gen : BitVec 32 := 0
  deriving DecidableEq, Repr, Inhabited

/-- A range entry of a node (R306). -/
structure NodeRange where
  base : Nat
  len : Nat
  w : Bool
  deriving DecidableEq, Repr, Inhabited

/-- The kernel header (R20, R84), with the tile roles and tasting block (R307). -/
structure Header where
  groups : Nat := 1
  allot : Nat := 128
  scratch : Nat := 0                        -- in 4 KiB units
  opbuf : Nat := 0
  l1 : Nat := 0                             -- in 32 KiB units
  cw : Nat := 1
  ch : Nat := 1
  fuse : Bool := false
  entry : Nat := 64
  roles : List Nat := []                    -- eight slots: 0 undeclared, 1 input, 2 output
  taste : Option (Word × Word × Nat × Bool) := none
  deriving DecidableEq, Repr, Inhabited

/-- The node descriptor (R306). -/
structure Desc where
  kernel : Nat := 0
  arg : Word := 0
  teams : Nat := 1
  prio : Nat := 0
  eaves : Bool := false
  taste : Bool := false
  diemask : BitVec 4 := 0
  lead : Nat := 0
  ranges : List NodeRange := []
  tbind : List Nat := []
  items : Nat := 0
  key : Word := 0
  result : Nat := 0
  deriving DecidableEq, Repr, Inhabited

/-- The tasting unit of a tasting grid (R322-R326). -/
structure Taste where
  count : Word := 0
  mean : Word := 0
  m2 : Word := 0
  late : Word := 0
  reject : Word := 0
  issued : Nat := 0
  nv : Bool := false
  ov : Bool := false
  nx : Bool := false
  ordered : Bool := false
  state : Nat := 0                          -- 0 running, 1 stopped, 2 exhausted
  outcome : Nat := 0
  out : SMap Nat := []                      -- outstanding position by slot
  held : SMap Word := []                    -- contributions held, by position
  merged : Nat := 0                         -- positions merged or rejected
  waiters : List (Nat × LaneMask) := []     -- blocked taste.next issues, oldest first
  deriving DecidableEq, Repr, Inhabited

/-- A live node (R308-R314). -/
structure Node where
  uid : Nat := 0
  ctx : Nat := 0
  seq : Word := 0
  desc : Desc := {}
  hdr : Header := {}
  started : Bool := false
  failed : Bool := false
  uids : List Nat := []                     -- every group placed so far
  nextCluster : Nat := 0
  budget : Nat := 0                         -- microseconds
  ran : Nat := 0                            -- nanoseconds of budget used
  expiredAt : Option Nat := none
  bars : SMap Bar := []
  taste : Option Taste := none
  deriving DecidableEq, Repr, Inhabited

/-- A team (R17-R19, R26): resident while gone is false; a departed team keeps its reservations while
locks name them (R130). -/
structure Team where
  uid : Nat := 0
  node : Nat := 0
  teamId : Nat := 0
  rank : Nat := 0
  cluster : Nat := 0
  core : Nat := 0
  slots : List Nat := []
  scratch : List Nat := []
  opbuf : List Nat := []
  placedAt : Nat := 0                       -- its place in the order of placements, R317
  bars : SMap Bar := []
  gone : Bool := false
  bases : List Nat := []                    -- first lane-register of each group's allotment (R21)
  preemptAt : Option Nat := none
  saveSlot : Nat := 0                       -- where in the save area it will be saved
  noRoom : Bool := false                    -- its pre-emption was abandoned (R317)
  deriving DecidableEq, Repr, Inhabited

/-- A saved team: its groups as a restore gives them, by GROUPID (R70, R301), the bytes of its spaces by offset, poisoned
and live granules (space 1 scratchpad, 2 operand buffer), its Press entries with their locks, and the place and size of
its images in the save area. -/
structure SavedTeam where
  uid : Nat
  team : Team
  groups : List Group
  scratch : SMap Byte
  opbuf : SMap Byte
  poison : List (Nat × Nat)
  tags : List (Nat × Nat)
  ops : List EngOp
  locks : List Lock
  place : Nat
  room : Nat
  deriving DecidableEq, Repr, Inhabited

/-- A tile state table entry (R311). -/
structure Tile where
  full : Bool := false
  fail : Bool := false
  pend : Nat := 0
  prod : Nat := 0
  deriving DecidableEq, Repr, Inhabited

/-! ### Contexts and partitions -/

/-- A window table entry (R208, R209). -/
structure Win where
  addr : Word := 0
  len : Word := 0
  ctl : Word := 0
  err : Bool := false
  valid : Bool := false
  arrivals : Word := 0
  deriving DecidableEq, Repr, Inhabited

/-- The frame pool (R232) and the partly used table frame (R235). -/
structure Pool where
  logn : Nat := 0
  base : Nat := 0
  err : Bool := false
  en : Bool := false
  tail : BitVec 32 := 0
  head : BitVec 32 := 0
  tableFrame : Option Nat := none
  tablesUsed : List (Nat × Nat) := []       -- offset and size in the table frame
  heldFrames : List Nat := []               -- released frames that found the ring full
  waiting : Bool := false                   -- a transfer waits for a frame and 0x54 has been raised, R222
  deriving DecidableEq, Repr, Inhabited

/-- A context: its control registers (R142, R146, R148, R208, R232, R235, R236, R265, R287, R315,
R317, R358), completion counters (R166), tiles (R311). -/
structure Ctx where
  dbgctl : Bool := false
  gridbudget : Nat := 0
  bkpta : SMap Word := []
  bkptc : SMap Word := []
  wtsel : BitVec 12 := 0
  wins : SMap Win := []
  pteva : Word := 0
  pteval : Word := 0
  pteErr : Bool := false
  pteBusy : Bool := false
  pool : Pool := {}
  lrbase : Word := 0
  ctxtrap : Word := 0
  en : Bool := false
  ptbase : Word := 0
  maxprio : Nat := 7
  weight : Nat := 1
  savebase : Word := 0
  ctrs : SMap Word := []                    -- counter L of die d at 16 d + L
  tiles : SMap Tile := []
  nextSeq : Word := 1
  waitFor : Option (Nat × Nat) := none      -- the first node, and since when it has not fitted (R315)
  sectors : SMap Nat := []                  -- by node: the sector kept for it, R315
  kill : Option Word := none                -- the cause word reported when the kill is complete
  deriving DecidableEq, Repr, Inhabited

/-- A format window (R339). -/
structure FWin where
  store : Word := 0
  len : Word := 0
  scale : Word := 0
  ctl : Word := 0
  err : Bool := false
  valid : Bool := false
  deriving DecidableEq, Repr, Inhabited

/-- A send queue (R367). -/
structure SendQ where
  ctl : Word := 0
  dest : Word := 0
  deriving DecidableEq, Repr, Inhabited

/-- A message of the partition mailbox (R362). -/
structure Msg where
  kind : Nat
  ctx : Nat
  tag : Nat
  va : Nat
  d0 : Word
  d1 : Word
  deriving DecidableEq, Repr, Inhabited

/-- A partition: started and stopped (R357, R296), mailbox and boot registers (R356, R360), features
(R355), control registers (R25, R294, R297, R304, R333, R334, R339, R344, R367), BWPHASE (R348). -/
structure Partition where
  started : Bool := false
  halted : Bool := false
  absent : Bool := false                    -- its virtual function is above a NumVFs that the driver wrote, R353
  feat : SMap Word := []
  mbxctx : Word := 0
  mbxdesc : Word := 0
  code : BitVec 8 := 0
  mbxErr : Bool := false
  busy : Bool := false
  postFrom : Option (Nat × Nat × Bool) := none      -- context, descriptor and EN of the post under check
  mbxring : Word := 0
  mbxTail : BitVec 32 := 0
  mbxHead : BitVec 32 := 0
  msgs : List Msg := []                     -- messages that wait
  asked : List Msg := []                    -- messages that await a reply
  granted : List (Nat × Nat × Nat) := []    -- host pages granted: context, page, bus address
  nextTag : Nat := 0
  bootsrc : Word := 0
  bootlen : Word := 0
  banksel : Word := 0
  transient : BitVec 32 := 0
  corrected : BitVec 32 := 0
  sevbase : Word := 0
  sevOvf : Bool := false
  sevWait : List (List Byte) := []          -- event records that wait for their bin or their page's frame, R222, R345
  sevTail : BitVec 31 := 0
  sevHead : BitVec 31 := 0
  ctxsel : Word := 0
  slsel : Word := 0
  masks : SMap (BitVec 48) := []            -- current masks, domain 16 d + k
  staged : SMap (BitVec 48) := []           -- staged masks that a write set
  slErr : Bool := false
  switching : Bool := false
  goAt : Nat := 0                           -- the first request number after GO: such requests are new, R334
  slwb : Option (Nat × Nat) := none         -- first line and line count of a range write-back
  binsel : Word := 0
  binidle : Word := 1000
  fwsel : Word := 0
  fwins : SMap FWin := []
  nqsel : Word := 0
  queues : SMap SendQ := []
  bwphase : Word := 0
  bwSent : List (Nat × Word) := []          -- values on their way: time of the write, value
  bwNow : Word := 0                         -- the value at the controllers
  lastCtx : Nat := 255                      -- context served last, R315
  turn : Nat := 0                           -- teams left of its turn
  deriving DecidableEq, Repr, Inhabited

/-! ### Memory system, host and links -/

/-- A bin (R343-R349): state codes 0 A, 1 S, 2 T, 3 D. -/
structure Bin where
  sets : BitVec 8 := 0
  sdom : BitVec 4 := 0
  dom : BitVec 4 := 0
  alloc : Bool := false
  state : Nat := 3
  wake : Option (Nat × Nat) := none         -- state woken to, time at which the wake ends
  last : Nat := 0                           -- time of the last access
  clear : Bool := false                     -- a wake from D: the contents become zero when it ends
  falling : Bool := false                   -- ALLOC was cleared and power has not yet fallen
  awaited : Bool := false                   -- an access waits for the wake
  deriving DecidableEq, Repr, Inhabited

/-- A key slot (R341, R370): the key, and what waits for the view lines to be dropped. -/
structure KeySlot where
  key : Option (BitVec 512) := none
  emptying : Bool := false
  owner : Option (BitVec 8) := none         -- an owner-entry write that waits, R350
  deriving DecidableEq, Repr, Inhabited

/-- A view line held by its home slice (R340). -/
structure ViewLine where
  part : Nat
  win : Nat
  off : Nat
  slot : Nat
  data : List Byte
  poison : Bool
  deriving DecidableEq, Repr, Inhabited

/-- A Theush port (R363-R365). -/
structure Port where
  lanes : Nat := 8
  up : Bool := true
  txSeq : BitVec 16 := 0
  rxSeq : BitVec 16 := 0
  replay : List Flit := []                  -- sent and not known to be received, oldest first
  failed : Nat := 0                         -- consecutive retry requests of one number
  askedFor : Option (BitVec 16) := none     -- the number that the last retry request named
  credits : Nat := 0
  sent : List Flit := []                    -- flits handed to the wire, oldest first
  deriving DecidableEq, Repr, Inhabited

/-- A packet as an Ethernet port sends it: the port, the offset of its first byte, at most 4,096 bytes (R366). -/
structure UePkt where
  port : Nat
  off : Nat
  data : List Byte
  deriving DecidableEq, Repr, Inhabited

/-- A message or put that left on Ethernet ports (R264, R366, R367): its queue with the service, job and endpoint that the
queue's registers gave, the transfer (0: a cp.net), the peer's window, the packets. -/
structure UeMsg where
  part : Nat
  queue : Nat
  svc : Nat
  job : Nat
  addr : Nat
  xfer : Nat
  win : Nat
  packets : List UePkt
  deriving DecidableEq, Repr, Inhabited

/-- An SPDM session (R368-R370). -/
structure Session where
  id : Nat
  all : Bool                                -- its KEY_EXCHANGE asked for all measurements
  up : Bool                                 -- FINISH done
  deriving DecidableEq, Repr, Inhabited

/-- The SPDM responder of a function (R368): 0 before GET_VERSION, 1 version, 2 capabilities,
3 algorithms agreed; sessions open or ended; answers given. -/
structure Spdm where
  phase : Nat := 0
  sessions : List Session := []
  nextSession : Nat := 1
  count : Nat := 0
  answers : List (Nat × List Byte) := []    -- response code and bytes, latest first
  deriving DecidableEq, Repr, Inhabited

/-- Time and temperature (R117, R373). -/
structure Clk where
  clock : Word := 0
  ns : Nat := 0
  rem : Nat := 0                            -- thousandths of a clock not yet counted
  mhz : Nat := 2500
  temps : List Nat := [25, 25, 25, 25]
  lastStep : Nat := 0                       -- time of the last throttle step
  deriving DecidableEq, Repr, Inhabited

/-- The physical memory of the package as its home slices and cellar hold it. Lines are numbered by
physical address / 128, frames by physical address / 65,536. -/
structure Mem where
  cellar : SMap Byte := []                  -- bytes in the cellar, default 0
  dirty : SMap Byte := []                   -- bytes a slice holds that the cellar does not have
  tags : SMap Nat := []
  zbit : List Nat := []                     -- lines whose zero bit is set, rising
  poison : List Nat := []                   -- poisoned lines
  gens : SMap (BitVec 16) := []
  counts : SMap Nat := []                   -- mapping counts
  tables : List Nat := []                   -- frames that hold page tables
  releasing : List (Nat × Nat) := []        -- context and frame whose count reached 0
  large : SMap Nat := []                    -- 2 MiB and 1 GiB leaves that map a block of frames, R220
  shadowed : SMap Nat := []                 -- SHADOW pages that map a frame
  proxies : SMap Copy := []                 -- key slice x 2^45 + line, R203
  shadows : SMap Copy := []                 -- lines of SHADOW pages written since their frame's last change, R201
  views : List ViewLine := []
  deriving DecidableEq, Repr, Inhabited

/-- The local SRAM of the cores: byte a of core c at key c x 2^20 + a. -/
structure Sram where
  bytes : SMap Byte := []
  tags : List Nat := []                     -- 32-byte granules with the hidden tag, rising
  poison : List Nat := []                   -- poisoned 32-byte granules
  deriving DecidableEq, Repr, Inhabited

/-- The host side and the links (27). -/
structure Outside where
  mem : SMap Byte := []                     -- host memory by bus address
  msix : List (Nat × Nat) := []             -- function and vector fired, latest first
  ready : Bool := false
  recovery : Bool := false
  powered : Bool := false                   -- PERST# deasserted
  down : Bool := false                      -- powered down at 115 degrees, R373
  thdev : BitVec 16 := 0
  numVfs : Nat := 0
  coreOwner : SMap (BitVec 8) := []
  sliceOwner : SMap (BitVec 8) := []
  slotOwner : SMap (BitVec 8) := []
  binOwner : SMap (BitVec 8) := []
  slots : SMap KeySlot := []
  ports : SMap Port := []
  ethSplit : BitVec 4 := 0                  -- Ethernet ports that run as two of 400 Gb/s, R366
  ethUp : BitVec 8 := 0xFF                  -- halves 2 i and 2 i + 1 of port i that are up
  ue : List UeMsg := []
  spdm : SMap Spdm := []
  deriving DecidableEq, Repr, Inhabited

/-! ### The model's own bookkeeping -/

/-- A repeat iteration in progress (R73): its index, the count, the counter after I. -/
structure Iter where
  idx : Nat
  count : Nat
  after : Pc
  deriving DecidableEq, Repr, Inhabited

/-- The issue in progress: the group, the lanes of the run, its counter and the counter after its
instruction; view is the group as it stood at the start of the clock, for the second port (R90);
quiet is set when the first port's instruction has trapped in this clock (R288). -/
structure Focus where
  gid : Nat
  lanes : LaneMask
  pc : Pc
  npc : Pc
  iter : Option Iter := none
  view : Option Group := none
  quiet : Bool := false
  deriving DecidableEq, Repr, Inhabited

/-- Events of the memory system's control, the mailboxes and the links, as the machine chooses them. -/
inductive PackEvent where
  | switchPoint (part : Nat)
  | slwbDone (part : Nat)
  | viewLineFill (part win line : Nat)
  | keySlotEmptied (slot : Nat)
  | binToStandby (bin : Nat)
  | binToRetention (bin : Nat)
  | binWakeDone (bin : Nat)
  | binPowerDown (bin : Nat)
  | bwphaseArrival (part : Nat)
  | mailboxPostResult (part : Nat)
  | mailboxMessage (part : Nat)
  | portDown (port : Nat)
  | trainingDone
  | throttleStep
  | thermalPowerDown
  deriving DecidableEq, Repr, Inhabited

/-- Something the machine does next: one clock of a group (R15, R122), the second port's issue of
the same clock, an event, one of the package's events, or one nanosecond passing. -/
inductive Todo where
  | issue (gid : Nat)
  | port2 (gid : Nat) (lanes : LaneMask) (view : Group)
  | event (i : Instr)
  | pack (e : PackEvent)
  | tick
  deriving DecidableEq, Repr, Inhabited

/-- The whole machine. -/
structure State where
  agenda : List Todo := []
  picks : Nat := 0
  fresh : Nat := 1
  focus : Option Focus := none
  clk : Clk := {}
  groups : SMap Group := []                 -- key core x 64 + slot
  cores : SMap Core := []
  teams : SMap Team := []                   -- by uid
  saved : List SavedTeam := []
  nodes : SMap Node := []                   -- by uid
  ctxs : SMap Ctx := []                     -- key partition x 256 + context
  parts : SMap Partition := []
  bins : SMap Bin := []
  mem : Mem := {}
  sram : Sram := {}
  reqs : List Req := []
  ops : List EngOp := []
  xfers : List Xfer := []
  edits : List Edit := []
  out : Outside := {}
  deriving DecidableEq, Repr, Inhabited

/-- The package right after reset: every field at the value INVENTORY.md lists. -/
def State.reset : State := {}

/-- Why the machine stops. -/
inductive Fault where
  /-- Raised by an instruction's meaning when no run issues it: step never does so. Safe. -/
  | noIssuer
  /-- Raised by an event that is not possible in the state: step takes an event of its own choosing
  only where it is possible, so this marks an agenda that no machine produces. Safe. -/
  | notEnabled
  /-- Raised by every step once the module has powered down at 115 degrees (R373). Safe. -/
  | poweredDown
  deriving DecidableEq, Repr

/-- Why a step has no meaning. -/
inductive Refusal where
  /-- Raised for an instruction whose meaning is not modelled, by its mnemonic. Safe. -/
  | notModelled (mnemonic : String)
  deriving DecidableEq, Repr

/-- The outcome of a step. -/
abbrev Result := Host.Outcome State Fault Refusal

end Sys2Proof.Machine
end

