-- ==== Sys2Proof/Machine/Home.lean ====
section
/-! DEFINITION. Physical memory at its home slices, page tables and translation, interleave domains, and the local
SRAM of the cores (01 R13, R23-R26; 13 R176, R180; 17 R219-R221, R233-R235; 25 R331-R336, R342). -/

namespace Sys2Proof.Machine

/-! ### Look-ups -/

def groupAt (s : State) (gid : Nat) : Group := mapGet {} s.groups gid
def coreAt (s : State) (c : Nat) : Core := mapGet {} s.cores c
def teamAt (s : State) (t : Nat) : Team := mapGet {} s.teams t
def nodeAt (s : State) (n : Nat) : Node := mapGet {} s.nodes n
def ctxAt (s : State) (k : Nat) : Ctx := mapGet {} s.ctxs k
def partAt (s : State) (p : Nat) : Partition := mapGet {} s.parts p
def binAt (s : State) (b : Nat) : Bin := mapGet {} s.bins b

def putGroup (s : State) (gid : Nat) (g : Group) : State := { s with groups := mapPut s.groups gid g }
def putCore (s : State) (c : Nat) (x : Core) : State := { s with cores := mapSet {} s.cores c x }
def putTeam (s : State) (t : Nat) (x : Team) : State := { s with teams := mapPut s.teams t x }
def putNode (s : State) (n : Nat) (x : Node) : State := { s with nodes := mapPut s.nodes n x }
def putCtx (s : State) (k : Nat) (x : Ctx) : State := { s with ctxs := mapSet {} s.ctxs k x }
def putPart (s : State) (p : Nat) (x : Partition) : State := { s with parts := mapSet {} s.parts p x }
def putBin (s : State) (b : Nat) (x : Bin) : State := { s with bins := mapSet {} s.bins b x }
def updGroup (s : State) (gid : Nat) (f : Group → Group) : State := putGroup s gid (f (groupAt s gid))
def updCore (s : State) (c : Nat) (f : Core → Core) : State := putCore s c (f (coreAt s c))
def updTeam (s : State) (t : Nat) (f : Team → Team) : State := putTeam s t (f (teamAt s t))
def updNode (s : State) (n : Nat) (f : Node → Node) : State := putNode s n (f (nodeAt s n))
def updCtx (s : State) (k : Nat) (f : Ctx → Ctx) : State := putCtx s k (f (ctxAt s k))
def updPart (s : State) (p : Nat) (f : Partition → Partition) : State := putPart s p (f (partAt s p))
def updBin (s : State) (b : Nat) (f : Bin → Bin) : State := putBin s b (f (binAt s b))

/-- The core of a group slot (R14), the die and sector of a core (R13). -/
def gidCore (gid : Nat) : Nat := gid / 64
def gidSlot (gid : Nat) : Nat := gid % 64
def coreDie (c : Nat) : Nat := c / 84
def coreSector (c : Nat) : Nat := c / 28
/-- The partition of a context key. -/
def ctxPart (k : Nat) : Nat := k / 256
def ctxNum (k : Nat) : Nat := k % 256
/-- The context a group belongs to. -/
def groupCtx (s : State) (g : Group) : Nat := (nodeAt s (teamAt s g.team).node).ctx

/-- The partition that owns a unit by its owner entry (R350). -/
def ownerPart (m : SMap (BitVec 8)) (i : Nat) : Option Nat :=
  let e := mapGet 0 m i
  if e.getLsbD 7 then some (e.extractLsb' 0 4).toNat else none
def coreOwned (s : State) (p c : Nat) : Bool := ownerPart s.out.coreOwner c == some p
def sliceOwned (s : State) (p i : Nat) : Bool := ownerPart s.out.sliceOwner i == some p
def binOwned (s : State) (p b : Nat) : Bool := ownerPart s.out.binOwner b == some p
def slotOwned (s : State) (p k : Nat) : Bool := ownerPart s.out.slotOwner k == some p

/-- A partition that stands still: stopped (R296), or absent (R353; log entry 45). -/
def partStill (s : State) (p : Nat) : Bool := (partAt s p).halted || (partAt s p).absent

/-- Whether a feature bit of FEAT0 is accepted by the partition (R9, R355). -/
def feature (s : State) (p bit : Nat) : Bool := (mapGet 0 (partAt s p).feat 0).getLsbD bit

/-! ### Addresses -/

/-- Bytes of the cellar (R331). -/
def cellarTop : Nat := 0x12000000000
/-- The first format-window view (R331, R338). -/
def viewBase : Nat := 2 ^ 51
def lineOf (pa : Nat) : Nat := pa / 128
def frameOf (pa : Nat) : Nat := pa / 65536
def binOf (pa : Nat) : Nat := pa / 2 ^ 28
/-- The die whose cellar holds an address (R331). -/
def dieOf (pa : Nat) : Nat := pa / 0x4800000000
def frameGen (m : Mem) (pa : Nat) : BitVec 16 := mapGet 0 m.gens (frameOf pa)

/-- The number under which the generation of a page's frame stands. The frames of a view are the requesting partition's (R338), so
that each partition has generations of its own for them. -/
def genFrame (k : Nat) (a : Attr) (pa : Nat) : Nat := if a.fmt then ctxPart k * 2 ^ 36 + pa / 65536 else frameOf pa
def genOf (m : Mem) (k : Nat) (a : Attr) (pa : Nat) : BitVec 16 := mapGet 0 m.gens (genFrame k a pa)

/-- The bits of a number from bit lo, w of them. -/
def bitsOf (n lo w : Nat) : Nat := n / 2 ^ lo % 2 ^ w

/-- A field of a word as a number. -/
def fieldW (v : Word) (lo w : Nat) : Nat := bitsOf v.toNat lo w

/-- A little-endian number of bytes, and its bytes (R28). -/
def leNat : List Byte → Nat
  | [] => 0
  | b :: bs => b.toNat + 256 * leNat bs
def leBytes : Nat → Nat → List Byte
  | 0, _ => []
  | n + 1, v => BitVec.ofNat 8 v :: leBytes n (v / 256)

/-! ### Bytes at home (R177, R180) -/

/-- The byte the cellar gives: a line whose zero bit is set reads as zeros (R270, R342). -/
def cellarByte (m : Mem) (a : Nat) : Byte := if m.zbit.contains (lineOf a) then 0 else mapGet 0 m.cellar a

/-- The byte at its home slice. -/
def homeByte (m : Mem) (a : Nat) : Byte :=
  match mapFind m.dirty a with
  | some b => b
  | none => cellarByte m a

def homeRead (m : Mem) (a : Nat) : Nat → List Byte
  | 0 => []
  | n + 1 => homeByte m a :: homeRead m (a + 1) n

/-- The line of 128 bytes at home. -/
def homeLine (m : Mem) (line : Nat) : List Byte := homeRead m (128 * line) 128

/-- One byte written at home; the slice lists it only where it differs from the cellar. -/
def homePut (m : Mem) (a : Nat) (b : Byte) : Mem :=
  { m with dirty := if b = cellarByte m a then mapDel m.dirty a else mapPut m.dirty a b }

def homePutList (m : Mem) (a : Nat) : List Byte → Mem
  | [] => m
  | b :: bs => homePutList (homePut m a b) (a + 1) bs

/-- The canonical form of the bytes of physical memory: addresses strictly rising, the cellar listing no zero, the
slices listing no byte that equals what the cellar gives (log entry 4). -/
def Mem.wf (m : Mem) : Bool :=
  mapWf 0 m.cellar && mapOrdered m.dirty && m.dirty.all (fun e => decide (e.2 ≠ cellarByte m e.1))
/-- The canonical form of the local SRAM: keys strictly rising, no zero listed. -/
def Sram.wf (m : Sram) : Bool := mapWf 0 m.bytes

/-- The sequence tag of a line, and the next one, given at every write of the line (R180). -/
def lineTag (m : Mem) (line : Nat) : Nat := mapGet 0 m.tags line
def bumpTag (m : Mem) (line : Nat) : Mem := { m with tags := mapSet 0 m.tags line (lineTag m line + 1) }

/-- The lines that a range of bytes touches. -/
def linesOf (a n : Nat) : List Nat :=
  if n = 0 then [] else (List.range ((a + n - 1) / 128 - a / 128 + 1)).map (fun i => a / 128 + i)

/-- Before the first change of a line that SHADOW pages map, the line as it stands is kept for them: every copy holds the
bytes of the frame's most recent change (R201; log entry 41). -/
def keepShadow (m : Mem) (line : Nat) : Mem :=
  if mapGet 0 m.shadowed (frameOf (128 * line)) = 0 || (mapFind m.shadows line).isSome then m
  else
    let c : Copy := { line, gen := frameGen m (128 * line), tag := lineTag m line, data := homeLine m line, mask := 0
                      poison := m.poison.contains line }
    { m with shadows := mapPut m.shadows line c }

/-- A write of bytes at home: the bytes, and one tag for each line touched. -/
def homeWrite (m : Mem) (a : Nat) (bs : List Byte) : Mem :=
  (linesOf a bs.length).foldl bumpTag (homePutList ((linesOf a bs.length).foldl keepShadow m) a bs)

/-- Lists of numbers kept rising without repeats. -/
def insertNat : List Nat → Nat → List Nat
  | [], a => [a]
  | x :: xs, a => if a < x then a :: x :: xs else if a = x then x :: xs else x :: insertNat xs a
def removeNat (l : List Nat) (a : Nat) : List Nat := l.filter (fun x => x != a)

/-- Poison of the lines a range touches (R302), and its clearing on whole lines (R303). -/
def poisonLine (m : Mem) (line : Nat) : Mem := { m with poison := insertNat m.poison line }
def cleanLine (m : Mem) (line : Nat) : Mem := { m with poison := removeNat m.poison line }
def rangePoisoned (m : Mem) (a n : Nat) : Bool := (linesOf a n).any (fun l => m.poison.contains l)
/-- The lines that lie wholly in a range. -/
def wholeLines (a n : Nat) : List Nat :=
  (linesOf a n).filter (fun l => decide (a ≤ 128 * l ∧ 128 * l + 128 ≤ a + n))

/-- A write-back of a line to the cellar: its bytes are the cellar's, and its zero bit is cleared
(R334, R337, R342). -/
def cleanByte (m : Mem) (a : Nat) : Mem :=
  match mapFind m.dirty a with
  | some b => { m with cellar := mapSet 0 m.cellar a b, dirty := mapDel m.dirty a }
  | none => m
/-- The zero bit of a line is cleared, its bytes becoming stored zeros. -/
def clearZbit (m : Mem) (line : Nat) : Mem :=
  if m.zbit.contains line then
    { m with
      zbit := removeNat m.zbit line
      cellar := (List.range 128).foldl (fun c i => mapDel c (128 * line + i)) m.cellar }
  else m
def writeBackLine (m : Mem) (line : Nat) : Mem :=
  if (List.range 128).any (fun i => (mapFind m.dirty (128 * line + i)).isSome) then
    (List.range 128).foldl (fun m i => cleanByte m (128 * line + i)) (clearZbit m line)
  else m
/-- The lines a slice holds dirty. -/
def dirtyLines (m : Mem) : List Nat := m.dirty.foldl (fun l e => insertNat l (lineOf e.1)) []
/-- A line dropped from its slice without write-back (R231, R245). -/
def dropDirty (m : Mem) (line : Nat) : Mem :=
  let m := keepShadow m line
  { m with dirty := mapKeep m.dirty (fun a _ => lineOf a != line) }

/-- Drop the copies of a line that proxy slices hold. -/
def dropCopies (m : Mem) (line : Nat) : Mem := { m with proxies := mapKeep m.proxies (fun _ c => c.line != line) }

/-- A frame filled with zeros: one write for each line (R226, R303). -/
def zeroFill (m : Mem) (frame : Nat) : Mem :=
  let lo := frame * 65536
  let inFrame := fun (a : Nat) => decide (lo ≤ a ∧ a < lo + 65536)
  let m := { m with
    -- every line's bytes become zero; the cellar follows at the next write-back
    cellar := mapKeep m.cellar (fun a _ => !inFrame a)
    dirty := mapKeep m.dirty (fun a _ => !inFrame a)
    poison := m.poison.filter (fun l => frameOf (128 * l) != frame) }
  (List.range 512).foldl (fun m i => bumpTag m (lo / 128 + i)) m

/-! ### Interleave domains and home slices (R332-R334) -/

/-- DomainHash (R332). -/
def domainHash (x : Nat) : Nat :=
  Nat.xor (Nat.xor (Nat.xor (Nat.xor x (x / 2 ^ 9)) (x / 2 ^ 18)) (x / 2 ^ 27)) (x / 2 ^ 36) % 65536

/-- The slices a mask of die d names, ascending (R333). -/
def maskSlices (d : Nat) (mask : BitVec 48) : List Nat :=
  ((List.range 48).filter (fun i => mask.getLsbD i)).map (fun i => 48 * d + i)

/-- HomeSlice(pa) with given masks and domain (R176, R332); none when the domain is empty. -/
def homeSliceWith (masks : SMap (BitVec 48)) (dom : Nat) (pa : Nat) : Option Nat :=
  let d := dieOf pa
  let sl := maskSlices d (mapGet 0 masks (16 * d + dom))
  if sl.isEmpty then none else sl[domainHash (lineOf pa) % sl.length]?

/-- The home slice of a cellar address for its owning partition. -/
def homeSlice (s : State) (pa : Nat) : Option Nat :=
  match ownerPart s.out.binOwner (binOf pa) with
  | some p => homeSliceWith (partAt s p).masks (binAt s (binOf pa)).dom.toNat pa
  | none => none

/-- The slices of a partition on a die, ascending. -/
def partSlices (s : State) (p die : Nat) : List Nat :=
  ((List.range 48).map (48 * die + ·)).filter (fun i => sliceOwned s p i)

/-- The proxy slice of a line on a die (R203). On a die where the partition owns no slice the manual names none: such
copies stand together under the number 192 + die (DESIGN CHOICE, log entry 27). -/
def proxySlice (s : State) (die line : Nat) : Nat :=
  match ownerPart s.out.binOwner (binOf (128 * line)) with
  | some p =>
    let l := partSlices s p die
    (l[domainHash line % l.length]?).getD (192 + die)
  | none => 192 + die
/-- The die of a slice number. -/
def sliceDie (i : Nat) : Nat := if i < 192 then i / 48 else i - 192

/-- The bins a partition has allocated hold a range (R232, R337, R339, R344). -/
def inAllocated (s : State) (p a n : Nat) : Bool :=
  decide (a + n ≤ cellarTop) &&
    (List.range ((a + n - 1) / 2 ^ 28 - a / 2 ^ 28 + 1)).all
      (fun i => binOwned s p (a / 2 ^ 28 + i) && (binAt s (a / 2 ^ 28 + i)).alloc)

/-! ### Page tables (R233-R235) -/

/-- The fields of a page-table entry (R234). -/
def pteV (e : Nat) : Bool := bitsOf e 0 1 == 1
def pteLeaf (e : Nat) : Bool := bitsOf e 1 1 == 1
def pteAddr (e : Nat) : Nat := bitsOf e 8 44 * 256
def pteAttr (e : Nat) : Attr :=
  { w := bitsOf e 2 1 == 1, shadow := bitsOf e 3 1 == 1, manual := bitsOf e 52 1 == 1,
    zb := bitsOf e 53 1 == 1, owner := bitsOf e 54 1 == 1, host := bitsOf e 55 1 == 1,
    fmt := bitsOf e 56 1 == 1, zero := bitsOf e 57 1 == 1 }

/-- The page size of a leaf at a level (R233). -/
def levelSize : Nat → Nat
  | 0 => 65536
  | 1 => 2 ^ 21
  | 2 => 2 ^ 30
  | _ => 0

/-- The attribute combinations that give a translation, with the partition's features (R215, R234,
R355): zb and manual say whether ZB and MANUAL pages are accepted. -/
def attrOk (zbOn manualOn : Bool) (a : Attr) : Bool :=
  !(a.zero && (a.fmt || a.host || a.zb || a.manual || a.shadow)) &&
  !(a.fmt && a.zb) &&
  !(a.host && (a.shadow || a.manual || a.zb || a.fmt)) &&
  !(a.owner && !a.host) &&
  !(a.zb && !zbOn) && !(a.manual && !manualOn)

/-- A leaf entry is valid at its level by R234. -/
def leafOk (zbOn manualOn : Bool) (level e : Nat) : Bool :=
  let a := pteAttr e
  decide (level ≤ 2) && bitsOf e 4 4 == 0 && bitsOf e 8 8 == 0 &&
  decide (pteAddr e % levelSize level = 0) && attrOk zbOn manualOn a &&
  !((a.zero || (a.host && !a.owner)) && pteAddr e != 0)

/-- A non-leaf entry has every attribute bit zero (R234). -/
def tableOk (e : Nat) : Bool := bitsOf e 2 6 == 0 && bitsOf e 52 6 == 0

/-- The index bits of each level: lowest bit and width (R233). -/
def levelBits : Nat → Nat × Nat
  | 0 => (16, 5)
  | 1 => (21, 9)
  | 2 => (30, 9)
  | 3 => (39, 9)
  | _ => (48, 8)

/-- The address of the entry for va in a table at a level. -/
def pteSlot (level table va : Nat) : Nat := table + 8 * bitsOf va (levelBits level).1 (levelBits level).2

/-- What a walk finds: the address and value of the entry that ends it, and its level. -/
structure Found where
  level : Nat
  slot : Nat
  entry : Nat
  deriving DecidableEq, Repr

/-- A context's partition reaches an entry of a table: its bin is the partition's and is allocated (R346, R351). -/
def tableMine (s : State) (k slot : Nat) : Bool := binOwned s (ctxPart k) (binOf slot) && (binAt s (binOf slot)).alloc

/-- A walk from a table at level n down (R233): the leaf, or the absent or invalid entry that ends it, or an entry that the
partition does not reach (mine), of which it reads nothing (R351; DEDUCED, log entry 33). -/
def walkFrom (zbOn manualOn : Bool) (mine : Nat → Bool) (m : Mem) (va : Nat) : Nat → Nat → Found × Bool
  | level, table =>
    let slot := pteSlot level table va
    let e := if mine slot then leNat (homeRead m slot 8) else 0
    let f : Found := { level, slot, entry := e }
    if !pteV e then (f, false)
    else if pteLeaf e then (f, leafOk zbOn manualOn level e)
    else
      match level with
      | 0 => (f, false)
      | l + 1 => if tableOk e then walkFrom zbOn manualOn mine m va l (pteAddr e) else (f, false)

/-- The walk of a context's tables for an address: where it ends, and whether in a valid leaf. -/
def walkCtx (s : State) (k va : Nat) : Option (Found × Bool) :=
  let c := ctxAt s k
  if c.ptbase.getLsbD 0 then
    some (walkFrom (feature s (ctxPart k) 5) (feature s (ctxPart k) 9) (tableMine s k) s.mem va 4
      (bitsOf c.ptbase.toNat 11 41 * 2048))
  else none

/-- The entries that a walk reads from a table at level n down. -/
def walkSlots (mine : Nat → Bool) (m : Mem) (va : Nat) : Nat → Nat → List Nat
  | level, table =>
    let slot := pteSlot level table va
    let e := if mine slot then leNat (homeRead m slot 8) else 0
    List.cons slot (match level with
      | 0 => []
      | l + 1 => if pteV e && !pteLeaf e && tableOk e then walkSlots mine m va l (pteAddr e) else [])
/-- The entries that a walk of a context's tables reads. -/
def tableSlots (s : State) (k va : Nat) : List Nat :=
  let c := ctxAt s k
  if c.ptbase.getLsbD 0 then walkSlots (tableMine s k) s.mem va 4 (bitsOf c.ptbase.toNat 11 41 * 2048) else []
/-- The entry at which a walk comes to a table that the partition does not reach. -/
def walkDead (s : State) (k va : Nat) : Option Nat := (tableSlots s k va).find? (fun a => !tableMine s k a)
/-- A bin in S or T, or waking, that a walk must first find awake (R345). -/
def tableAsleep (s : State) (k va : Nat) : Option Nat :=
  ((tableSlots s k va).filter (tableMine s k) |>.map binOf).find? (fun b => (binAt s b).state != 0)

/-- The translation that a leaf gives (R176, R222, R233). -/
def transOf (m : Mem) (k va : Nat) (f : Found) : Trans :=
  let size := levelSize f.level
  let a := pteAttr f.entry
  { ctx := k, va := va / size * size, size, pa := pteAddr f.entry, attr := a,
    gen := if a.zero || (a.host && !a.owner) then 0 else genOf m k a (pteAddr f.entry) }

/-- A table walk (R233): the translation, where there is one. -/
def walk (s : State) (k va : Nat) : Option Trans :=
  match walkCtx s k va with
  | some (f, true) => some (transOf s.mem k va f)
  | _ => none

def transCovers (t : Trans) (k va : Nat) : Bool :=
  t.ctx == k && decide (t.va ≤ va ∧ va < t.va + t.size)

/-- Translate(va) for a core: from its translation cache, or by a walk (R176). -/
def translate (s : State) (core k va : Nat) : Option Trans :=
  match (coreAt s core).tlb.find? (fun t => transCovers t k va) with
  | some t => some t
  | none => walk s k va

/-- The physical address of va in a translation. -/
def transPa (t : Trans) (va : Nat) : Nat := t.pa + (va - t.va)

/-- Enter a translation in a core's cache; an older one of the same page gives way. -/
def tlbFill (s : State) (core : Nat) (t : Trans) : State :=
  updCore s core (fun c =>
    if c.tlb.any (fun u => transCovers u t.ctx t.va) then c else { c with tlb := t :: c.tlb })

/-! ### Local SRAM (R23, R25, R26) -/

/-- The role code of a bank (R25). -/
def bankRole (r : Word) (i : Nat) : Nat := bitsOf r.toNat (2 * i) 2
/-- The banks of a role: scratchpad ascending, operand buffer descending (R26). -/
def roleBanks (r : Word) (role : Nat) : List Nat :=
  let l := (List.range 32).filter (fun i => bankRole r i == role)
  if role = 2 then l.reverse else l
/-- The size of a role's space in 4 KiB granules. -/
def roleGranules (r : Word) (role : Nat) : Nat := 8 * (roleBanks r role).length

/-- The byte of the core's SRAM for byte off of a team's scratchpad (ob false) or operand buffer. -/
def sramByte (s : State) (t : Team) (ob : Bool) (off : Nat) : Option Nat :=
  match (if ob then t.opbuf else t.scratch)[off / 4096]? with
  | none => none
  | some q =>
    match (roleBanks (coreAt s t.core).bankrole (if ob then 2 else 1))[q / 8]? with
    | none => none
    | some bank => some (t.core * 2 ^ 20 + bank * 32768 + q % 8 * 4096 + off % 4096)

/-- The byte at an SRAM key; bytes that are not there read as zero. -/
def sramGet (s : State) (a : Option Nat) : Byte :=
  match a with
  | some a => mapGet 0 s.sram.bytes a
  | none => 0

/-- Read n bytes of a team's space. -/
def sramRead (s : State) (t : Team) (ob : Bool) (off : Nat) : Nat → List Byte
  | 0 => []
  | n + 1 => sramGet s (sramByte s t ob off) :: sramRead s t ob (off + 1) n

/-- Write bytes of a team's space. -/
def sramWrite (s : State) (t : Team) (ob : Bool) (off : Nat) : List Byte → State
  | [] => s
  | b :: bs =>
    let s' := match sramByte s t ob off with
      | some a => { s with sram := { s.sram with bytes := mapSet 0 s.sram.bytes a b } }
      | none => s
    sramWrite s' t ob (off + 1) bs

/-- The 32-byte granule of the SRAM that holds a byte of a team's space. -/
def sramGranule (s : State) (t : Team) (ob : Bool) (off : Nat) : Option Nat :=
  (sramByte s t ob off).map (· / 32)
/-- The granules (relative to the space) that a range touches. -/
def granulesOf (off n : Nat) : List Nat :=
  if n = 0 then [] else (List.range ((off + n - 1) / 32 - off / 32 + 1)).map (fun i => off / 32 + i)
def granIs (s : State) (t : Team) (ob : Bool) (l : List Nat) (g : Nat) : Bool :=
  match sramGranule s t ob (32 * g) with
  | some a => l.contains a
  | none => false
def sramPoisoned (s : State) (t : Team) (ob : Bool) (off n : Nat) : Bool :=
  (granulesOf off n).any (granIs s t ob s.sram.poison)
/-- Whether a range touches a live transaction word (R252). -/
def sramLive (s : State) (t : Team) (ob : Bool) (off n : Nat) : Bool :=
  (granulesOf off n).any (granIs s t ob s.sram.tags)
def setPoison (s : State) (on : Bool) (g : Option Nat) : State :=
  match g with
  | some a => { s with sram := { s.sram with
      poison := if on then insertNat s.sram.poison a else removeNat s.sram.poison a } }
  | none => s
def setLive (s : State) (on : Bool) (g : Option Nat) : State :=
  match g with
  | some a => { s with sram := { s.sram with
      tags := if on then insertNat s.sram.tags a else removeNat s.sram.tags a } }
  | none => s

/-- A decoded scratchpad address (R153): its team, operand buffer or scratchpad, offset. -/
structure SramRef where
  team : Nat
  ob : Bool
  off : Nat
  deriving DecidableEq, Repr

/-- The team of a rank in the cluster of a team: it is there while its reservations are (R130). -/
def clusterTeam (s : State) (t : Team) (rank : Nat) : Option Nat :=
  (s.teams.find? (fun e => e.2.node == t.node && e.2.cluster == t.cluster && e.2.rank == rank)).map
    (·.1)

/-- The bytes a team declared in a space (R26). -/
def teamBytes (t : Team) (ob : Bool) : Nat := 4096 * (if ob then t.opbuf else t.scratch).length

/-- Decode a scratchpad address for an access of n bytes by a team; none when it is invalid (R153). -/
def sramRef (s : State) (tuid : Nat) (a : Nat) (n : Nat) : Option SramRef :=
  let t := teamAt s tuid
  let peer := bitsOf a 25 1 == 1
  let rank := bitsOf a 21 4
  let ob := bitsOf a 20 1 == 1
  let off := bitsOf a 0 20
  if decide (2 ^ 26 ≤ a) || (!peer && rank != 0) then none
  else
    match (if peer && rank != t.rank then clusterTeam s t rank else some tuid) with
    | none => none
    | some u => if off + n ≤ teamBytes (teamAt s u) ob then some { team := u, ob, off } else none

end Sys2Proof.Machine
end

