-- ==== Sys2Proof/Machine/Ops.lean ====
section
/-! DEFINITION. The operations every meaning shares: the issue in progress and how it ends (retire, wait, trap),
lanes and registers of a group, taking a trap (21 R283-R291) and returning from one (R292), the
supervisor's events (R296, R297), completion counters and the runs they release (11 R169). -/

namespace Sys2Proof.Machine

/-! ### Lanes and registers of a group -/

/-- The lanes of a mask, ascending. -/
def lanesOf (m : LaneMask) : List Nat := (List.range 32).filter (fun l => m.getLsbD l)
/-- The lowest-numbered lane of a mask, 0 when it is empty. -/
def lowLane (m : LaneMask) : Nat := (lanesOf m).headD 0
/-- One lane as a mask. -/
def laneBit (l : Nat) : LaneMask := BitVec.ofNat 32 (2 ^ l)
/-- The mask of the lanes a test accepts. -/
def maskWhere (m : LaneMask) (p : Nat → Bool) : LaneMask :=
  (lanesOf m).foldl (fun r l => if p l then r ||| laneBit l else r) 0
def popLanes (m : LaneMask) : Nat := (lanesOf m).length
def meets (a b : LaneMask) : Bool := (a &&& b) != 0

/-- Lane-register j of a lane (R14, R21). -/
def vGet (g : Group) (j l : Nat) : Word := mapGet 0 g.vregs (32 * j + l)
def vSet (g : Group) (j l : Nat) (v : Word) : Group :=
  { g with vregs := mapSet 0 g.vregs (32 * j + l) v }
/-- Uniform register n. -/
def sGet (g : Group) (n : Nat) : Word := mapGet 0 g.sregs n
def sSet (g : Group) (n : Nat) (v : Word) : Group := { g with sregs := mapSet 0 g.sregs n v }
/-- A predicate of a lane; p0 reads as true (R8). -/
def pGet (g : Group) (n l : Nat) : Bool := n == 0 || (mapGet 0 g.preds n).getLsbD l
/-- Write a predicate in some lanes; p0 is never written. -/
def pSet (g : Group) (n : Nat) (lanes vals : LaneMask) : Group :=
  if n = 0 then g
  else { g with preds := mapSet 0 g.preds n ((mapGet 0 g.preds n &&& ~~~lanes) ||| (vals &&& lanes)) }
/-- The codebook as BF16 codes (R14). -/
def cbList (g : Group) : List Nat := (List.range 16).map (fun i => (mapGet 0 g.codebook i).toNat)
/-- The counter of a lane (R120). -/
def pcGet (g : Group) (l : Nat) : Pc := mapGet 0 g.pcs l
def pcSet (g : Group) (lanes : LaneMask) (pc : Pc) : Group :=
  { g with pcs := (lanesOf lanes).foldl (fun m l => mapSet 0 m l pc) g.pcs }
/-- HMODE, EN and the handler's address (R287). -/
def hmode (g : Group) : Bool := g.trapbase.getLsbD 1
def handlerOn (g : Group) : Bool := g.trapbase.getLsbD 0
def handlerPc (g : Group) : Pc := (g.trapbase.extractLsb' 2 54 ++ 0#2 : BitVec (54 + 2))
/-- Raise STICKY flags (R46). -/
def raiseFlags (g : Group) (fl : Flags) : Group := { g with sticky := g.sticky ||| fl, raised := g.raised ||| fl }
/-- Set STALE bits (R111). -/
def raiseStale (g : Group) (m : LaneMask) : Group := { g with stale := g.stale ||| m }

/-! ### The issue in progress -/

/-- Run a meaning for the run that issues it. -/
def issuer (s : State) (k : Focus → Group → Result) : Result :=
  match s.focus with
  | none => .fault .noIssuer
  | some f =>
    match mapFind s.groups f.gid with
    | none => .fault .noIssuer
    | some g => k f g

/-- The group whose registers the instruction reads: as it stood at the start of the clock for the second port (R90). -/
def seen (f : Focus) (g : Group) : Group := f.view.getD g

/-- Open windows of some lanes: results still to come. A fault that was met closes its window (R77, R291). -/
def pendsOf (g : Group) (lanes : LaneMask) : List Pend :=
  g.pends.filter (fun p => meets p.lanes lanes && p.fault.isNone)

/-- One more instruction of the lanes has issued: every window of theirs is one shorter (R76). -/
def countWindow (lanes : LaneMask) (g : Group) : Group :=
  { g with pends := g.pends.map (fun p =>
      if meets p.lanes lanes && !p.held then { p with left := p.left - 1, issued := true } else p) }

/-- The counters after an instruction: the next address, or in a repeat the next iteration (R73). -/
def advance (f : Focus) (g : Group) : Group :=
  match f.iter with
  | none => pcSet g f.lanes f.npc
  | some it =>
    if it.idx + 1 < it.count then { g with rep := { g.rep with next := BitVec.ofNat 6 (it.idx + 1) } }
    else pcSet { g with rep := {} } f.lanes it.after

/-- What every instruction that has issued does besides its own effect. -/
def retire (f : Focus) (g : Group) : Group :=
  { advance f (countWindow f.lanes g) with skipBp := g.skipBp &&& ~~~f.lanes }

/-- The issue ends. -/
def unfocus (s : State) : State := { s with focus := none }

/-- An instruction has taken effect: g is its group with the effect on it. -/
def retired (f : Focus) (g : Group) (s : State) : State := unfocus (putGroup s f.gid (retire f g))
def done (f : Focus) (g : Group) (s : State) : Result := .next (retired f g s)

/-- An instruction has taken effect on a state whose groups it may have changed. -/
def doneIn (f : Focus) (s : State) : Result := .next (unfocus (updGroup s f.gid (retire f)))

/-- A control instruction has taken effect and has set the counters itself. -/
def doneAt (f : Focus) (g : Group) (s : State) : Result :=
  .next (unfocus (putGroup s f.gid { countWindow f.lanes g with skipBp := g.skipBp &&& ~~~f.lanes }))

/-- The run waits: its counters stay, and it issues again when what it waits for holds (R121). -/
def addBlock (f : Focus) (why : Why) (g : Group) : Group :=
  { g with blocks := { lanes := f.lanes, pc := f.pc, npc := f.npc, why } :: g.blocks }
def waitOn (f : Focus) (why : Why) (s : State) : State := unfocus (updGroup s f.gid (addBlock f why))
def waits (f : Focus) (why : Why) (s : State) : Result := .next (waitOn f why s)

/-- Leave whatever the lanes wait for; a gsync's arrivals are withdrawn (R137, R289). -/
def leaveBlocks (lanes : LaneMask) (g : Group) : Group :=
  { g with
    blocks := g.blocks.filter (fun b => !meets b.lanes lanes)
    barriers := (g.barriers.map (fun b => { b with arrived := b.arrived &&& ~~~lanes })).filter
      (fun b => b.arrived != 0) }

/-! ### Supervisor events (R296, R297) -/

/-- A message for the host's ring (R362). -/
def sendMsg (s : State) (p : Nat) (m : Msg) : State := updPart s p (fun x => { x with msgs := x.msgs ++ [m] })

/-- The host's ring has no room for another message besides those that wait: the work that sends one waits with it (R362). -/
def boxFull (s : State) (p : Nat) : Bool :=
  let x := partAt s p
  let n := bitsOf x.mbxring.toNat 0 6
  decide (4 ≤ n ∧ n ≤ 7 ∧ 2 ^ n ≤ (x.mbxTail - x.mbxHead).toNat + x.msgs.length)

/-- A message that the host answers: it has a tag of its own (R216, R362). -/
def askHost (s : State) (k kind va d0 : Nat) : State :=
  updPart s (ctxPart k) (fun x =>
    let m : Msg := { kind, ctx := ctxNum k, tag := x.nextTag, va, d0 := BitVec.ofNat 64 d0, d1 := 0 }
    { x with msgs := x.msgs ++ [m], asked := x.asked ++ [m], nextTag := (x.nextTag + 1) % 65536 })

/-- The cluster of a team shares one L1 (R20, R193, R355). -/
def teamFused (s : State) (t : Team) : Bool := (nodeAt s t.node).hdr.fuse

/-- The cores of a w × h rectangle from its lowest corner, in rank order (R18). -/
def rectCores (w h c : Nat) : List Nat :=
  ((List.range h).map (fun b => (List.range w).map (fun a => c + 4 * b + a))).flatten
/-- The cores of a team's cluster, in rank order (R18). -/
def clusterCores (s : State) (t : Team) : List Nat :=
  let h := (nodeAt s t.node).hdr
  rectCores h.cw h.ch (t.core - (4 * (t.rank / h.cw) + t.rank % h.cw))

/-- The core whose L1 may hold a line for a team on a core: in a fused cluster the member of rank line mod (w x h) (R193). -/
def teamL1 (s : State) (tuid core pa : Nat) : Nat :=
  let t := teamAt s tuid
  let h := (nodeAt s t.node).hdr
  if h.fuse then (clusterCores s t).getD (lineOf pa % (h.cw * h.ch)) core else core

/-- The L1 that a request goes through. -/
def reqL1 (s : State) (r : Req) : Nat := teamL1 s r.team r.core r.pa

/-- What in-flight loads of an L1 have already read no longer fills it, where a test says so. -/
def clearFills (s : State) (core : Nat) (p : Req → Bool) : State :=
  { s with reqs := s.reqs.map (fun r =>
      if r.stage = .accepted ∧ reqL1 s r = core ∧ p r then { r with fill := false } else r) }

/-- An acquire at .clu or wider drops the clean lines of the core's L1, and what in-flight loads have already
read no longer fills it (R187). -/
def dropClean (s : State) (core : Nat) : State :=
  clearFills (updCore s core (fun c => { c with l1 := c.l1.filter (fun l => l.mask != 0) })) core (fun _ => true)

/-- The cores whose L1s a group's accesses go through: its own, or in a fused cluster every member's (R193). -/
def l1Cores (s : State) (gid : Nat) : List Nat :=
  let t := teamAt s (groupAt s gid).team
  if teamFused s t then clusterCores s t else [gidCore gid]

/-- What an acquire at a scope does to the L1 of a group's core (R187). -/
def acquireAt (s : State) (gid : Nat) (sc : Scope) : State :=
  match sc with
  | .grp | .team => s
  | .clu => if teamFused s (teamAt s (groupAt s gid).team) then s else dropClean s (gidCore gid)
  | .die | .pkg | .sys => (l1Cores s gid).foldl dropClean s

/-- A blocked run passes its instruction, which writes uniform register d where it has one. -/
def passBlock (s : State) (gid : Nat) (b : Block) (d : Option (BitVec 7 × Word)) : State :=
  updGroup s gid (fun g =>
    let g := countWindow b.lanes { g with blocks := g.blocks.filter (fun c => c != b) }
    let g := match d with
      | some (n, v) => sSet g n.toNat v
      | none => g
    { pcSet g b.lanes b.npc with skipBp := g.skipBp &&& ~~~b.lanes })

/-- Every blocked run of every group, with its group slot. -/
def allBlocks (s : State) : List (Nat × Block) :=
  s.groups.foldr (fun e l => e.2.blocks.map (fun b => (e.1, b)) ++ l) []

/-- The value of the counter that a counter name names, as a lane of a die of the context reads it (R166). -/
def ctrValue (s : State) (k die : Nat) (name : Word) : Word :=
  if name.getLsbD 63 then (mapGet {} (ctxAt s k).wins (bitsOf name.toNat 0 12)).arrivals
  else mapGet 0 (ctxAt s k).ctrs (16 * die + bitsOf name.toNat 0 4)

/-- Blocked ctrw runs whose counters have reached their thresholds return (R169, R214). One that waits on the arrival counter of a
window that has been deregistered goes on waiting on that counter's value (R209 says nothing of it; DEDUCED, log entry 32). -/
def wakeCtrw (s : State) : State :=
  (allBlocks s).foldl (fun s e =>
    match e.2.why with
    | .ctrw die name thr d acq =>
      let k := groupCtx s (groupAt s e.1)
      let v := ctrValue s k die name
      if thr.toNat ≤ v.toNat && (groupAt s e.1).blocks.contains e.2 then
        let s := passBlock s e.1 e.2 (some (d, v))
        if acq then acquireAt s e.1 .die else s
      else s
    | _ => s) s

/-- A local completion counter rises (R166). -/
def raiseCtr (s : State) (k die l n : Nat) : State :=
  wakeCtrw (updCtx s k (fun c =>
    { c with ctrs := mapSet 0 c.ctrs (16 * die + l) (mapGet 0 c.ctrs (16 * die + l) + BitVec.ofNat 64 n) }))

/-- A window's arrival counter rises (R167). -/
def raiseWin (s : State) (k w n : Nat) : State :=
  wakeCtrw (updCtx s k (fun c =>
    { c with wins := mapUpd c.wins w (fun x => { x with arrivals := x.arrivals + BitVec.ofNat 64 n }) }))

/-- The CAUSE value of a code with its INFO (R285). -/
def causeWord (code info : Nat) : Word := BitVec.ofNat 64 (info * 256 + code)
/-- The EPC value of a counter; back is the distance of a deferred fault (R286). -/
def epcWord (pc : Pc) (back : Option Nat) : Word :=
  BitVec.ofNat 64 (pc.toNat / 4 * 4 + (match back with | some b => 2 ^ 63 + b % 64 * 2 ^ 56 | none => 0))

/-! ### The frame pool (R232) -/

def ringSize (p : Pool) : Nat := 2 ^ p.logn
def poolUsed (p : Pool) : Nat := (p.tail - p.head).toNat
/-- The free frames of an enabled pool. -/
def poolFree (p : Pool) : Nat := if p.en then poolUsed p else 0
def poolSlot (p : Pool) (i : BitVec 32) : Nat := p.base + 8 * (i.toNat % ringSize p)
/-- The free frames that an edit of a context finds: none where the ring's next entry lies in a bin that the partition does not
reach (R351; DEDUCED, log entry 33). -/
def framesFree (s : State) (k : Nat) : Nat :=
  let p := (ctxAt s k).pool
  if tableMine s k (poolSlot p p.head) then poolFree p else 0
/-- The bin of the ring's next entry, where it must first be awake (R345). -/
def poolAsleep (s : State) (k : Nat) : Option Nat :=
  let p := (ctxAt s k).pool
  let b := binOf (poolSlot p p.head)
  if p.en && tableMine s k (poolSlot p p.head) && (binAt s b).state != 0 then some b else none

/-! ### Bins that wake (R343, R345) -/

/-- An access to a bin (R345). -/
def touchBin (s : State) (pa : Nat) : State := updBin s (binOf pa) (fun x => { x with last := s.clk.ns })

/-- Take a frame at HEAD; its address. -/
def takeFrame (s : State) (k : Nat) : Nat × State :=
  let p := (ctxAt s k).pool
  let e := leNat (homeRead s.mem (poolSlot p p.head) 8)
  (bitsOf e 16 36 * 65536, touchBin (updCtx s k (fun c => { c with pool := { p with head := p.head + 1 } })) (poolSlot p p.head))

/-- The walk of an access that no translation cache serves touches the bins of its tables. -/
def touchTables (s : State) (k va : Nat) : State := ((tableSlots s k va).filter (tableMine s k)).foldl touchBin s

/-- A wake to A that an access starts or waits for: as from retention, or, where BWPHASE is waking the bin to standby, when that
ends and 30 ns more, and never later than without it (R343, R349). -/
def wakeToA (ns : Nat) (x : Bin) : Nat :=
  match x.wake with
  | some (1, t) => min (t + 30) (ns + 2000)
  | some (_, t) => t
  | none => ns + (if x.state = 1 then 30 else 2000)
/-- An access to a bin in standby or retention wakes it to A, and waits for the wake (R343, R345). -/
def wakeBin (s : State) (b : Nat) : State :=
  updBin s b (fun x =>
    if !x.alloc || x.state = 0 then x else { x with wake := some (0, wakeToA s.clk.ns x), awaited := true })

/-- A bin that an access must start to wake, or whose wake it must still join. -/
def needsWake (s : State) (b : Nat) : Bool := !(binAt s b).awaited

/-- The lowest state that BWPHASE holds a bin at: 0 A, 1 S, none (R349, R355). -/
def bwHold (s : State) (b : Nat) : Option Nat :=
  match ownerPart s.out.binOwner b with
  | none => none
  | some p =>
    let w := (partAt s p).bwNow
    let level := fieldW w 0 3
    if !feature s p 7 ∨ level = 0 ∨ (binAt s b).sets.getLsbD (fieldW w 3 3) = false then none
    else some (if level ≤ 3 then 1 else 0)

/-- A bin as a hold of BWPHASE wakes it: at or above S one in T, at A one in S or T (R343, R349). -/
def phaseWake (ns : Nat) (hold : Option Nat) (x : Bin) : Bin :=
  match hold with
  | none => x
  | some h =>
    if !x.alloc || x.state = 0 then x
    else if h = 0 then { x with wake := some (0, wakeToA ns x) }
    else if x.state = 2 && x.wake.isNone then { x with wake := some (1, ns + 2000) }
    else x
/-- The hold that a bin is under now wakes it. -/
def holdBin (s : State) (b : Nat) : State :=
  let h := bwHold s b
  updBin s b (phaseWake s.clk.ns h)

/-! ### Causes and event records (R285, R286, R296, R297) -/

/-- Where the next event record goes. -/
inductive EventPlace where
  | lost                                    -- the ring is off or full, or a check of R170 fails
  | home (pa : Nat)
  | asleep (bin : Nat)                      -- the bin is woken first, R345
  | zero (va : Nat)                         -- the page gets a frame first, R222
  deriving DecidableEq, Repr

/-- The place of the next event record (R297), with the checks of R170 for a store. -/
def eventPlace (s : State) (p : Nat) : EventPlace :=
  let x := partAt s p
  let logn := bitsOf x.sevbase.toNat 0 5
  let size := 2 ^ logn
  if logn < 4 ∨ 20 < logn then .lost
  else if (x.sevTail - x.sevHead).toNat = size then .lost
  else
    let va := bitsOf x.sevbase.toNat 5 51 * 32 + 32 * (x.sevTail.toNat % size)
    match tableAsleep s (256 * p) va, walk s (256 * p) va with
    | some b, _ => .asleep b
    | none, none => .lost
    | none, some t =>
      let a := t.attr
      let b := binOf (transPa t va)
      if !a.w || a.shadow || a.zb || a.fmt || (a.host && !a.owner) then .lost
      else if a.zero then
        (if framesFree s (256 * p) = 0 then .lost
         else (poolAsleep s (256 * p)).elim (.zero (va / 65536 * 65536)) .asleep)
      else if !(binAt s b).alloc then .lost
      else if (binAt s b).state ≠ 0 then .asleep b
      else .home (transPa t va)

/-- A ZERO page of the event ring is given a frame, as a store gives it one (R222). -/
def zeroEvent (s : State) (k va : Nat) : State :=
  if s.edits.any (fun e => e.ctx == k && !e.committed && e.op == .zeroPage va) then s
  else
    let r := takeFrame s k
    { r.2 with
      fresh := s.fresh + 1
      edits := r.2.edits ++ [{ id := s.fresh, ctx := k, die := 0, core := 0, gid := 0, uid := 0, lanes := 0, scope := .sys
                               op := .zeroPage va, ranges := [(va, 65536)], frames := [r.1], waits := [], committed := false
                               upTo := 0, pte := false }] }

/-- Event records are written in order; each is written or lost, and raises counter 15 of die 0 in the supervisor context (R296,
R297). One whose bin sleeps or whose page has no frame yet waits, and the later ones with it. -/
def settleEvents (p : Nat) : List (List Byte) → State → State
  | [], s => updPart s p (fun x => { x with sevWait := [] })
  | r :: rest, s =>
    match eventPlace s p with
    | .home pa =>
      let va := bitsOf (partAt s p).sevbase.toNat 5 51 * 32
      let s := touchTables s (256 * p) va
      let s := touchBin (updPart { s with mem := homeWrite s.mem pa r } p (fun x => { x with sevTail := x.sevTail + 1 })) pa
      settleEvents p rest (raiseCtr s (256 * p) 0 15 1)
    | .lost => settleEvents p rest (raiseCtr (updPart s p (fun x => { x with sevOvf := true })) (256 * p) 0 15 1)
    | .asleep b => wakeBin (updPart s p (fun x => { x with sevWait := List.cons r rest })) b
    | .zero va => zeroEvent (updPart s p (fun x => { x with sevWait := List.cons r rest })) (256 * p) va

/-- The records that waited, where they can be written now. -/
def resumeEvents (s : State) (p : Nat) : State :=
  if (partAt s p).sevWait.isEmpty then s else settleEvents p (partAt s p).sevWait s

/-- An event record goes to the supervisor's ring (R296). -/
def postEvent (s : State) (k core slot kind : Nat) (cause epc : Word) : State :=
  let p := ctxPart k
  let rec' := leBytes 8 cause.toNat ++ leBytes 8 epc.toNat ++ leBytes 2 (ctxNum k) ++ leBytes 2 core ++
    leBytes 1 slot ++ leBytes 1 kind ++ leBytes 2 0 ++ leBytes 8 s.clk.clock.toNat
  settleEvents p ((partAt s p).sevWait ++ [rec']) s

/-- A supervisor cause tied to no group (R296). -/
def postNoGroup (s : State) (k code info : Nat) : State := postEvent s k 0 0 1 (causeWord code info) 0

/-- The counter that an EPC value names (R286). -/
def epcPc (w : Word) : Pc := (w.extractLsb' 2 54 ++ 0#2 : BitVec (54 + 2))

/-- A supervisor cause stops the group (R296); raised by the supervisor context, it stops the partition. A host-owned page
is asked of the host (R216, R362; log entry 22). CAUSE and EPC record the cause and the run's counters stand at EPC.PC, from
where it issues again when it is resumed (R298); in its handler the group keeps CAUSE and EPC, and after 0x93 the counters too
(R283). -/
def stopGroup (s : State) (gid : Nat) (lanes : LaneMask) (cause epc : Word) (cont : Bool) : State :=
  let k := groupCtx s (groupAt s gid)
  let s := updGroup s gid (fun g =>
    let h := { leaveBlocks lanes g with stopped := some { cont := cont || hmode g, lanes } }
    if cont then h
    else pcSet (if hmode g then h else { h with cause, epc }) (lanes &&& ~~~g.exited) (epcPc epc))
  if ctxNum k = 0 then
    sendMsg (updPart s (ctxPart k) (fun x => { x with halted := true })) (ctxPart k)
      { kind := 1, ctx := 0, tag := 0, va := 0, d0 := cause, d1 := epc }
  else
    let s := postEvent s k (gidCore gid) (gidSlot gid) 0 cause epc
    if bitsOf cause.toNat 0 8 = 0x47 then askHost s k 2 (bitsOf cause.toNat 8 56 / 65536 * 65536) 0 else s

/-- Entering the handler (R288). -/
def enterHandler (lanes : LaneMask) (cause epc : Word) (g : Group) : Group :=
  let g := leaveBlocks lanes g
  let pends := g.pends.map (fun p => if meets p.lanes lanes && p.fault.isSome then { p with held := true } else p)
  pcSet { g with cause, epc, trapbase := g.trapbase ||| 2, hlanes := lanes, pends } lanes (handlerPc g)

/-- A group cause is taken by a run: by the handler, or by the supervisor where the handler is not enabled or
is already running (R283, R288). -/
def takeTrap (s : State) (gid : Nat) (lanes : LaneMask) (code info : Nat) (epc : Word) : State :=
  let g := groupAt s gid
  if hmode g then stopGroup s gid lanes (causeWord 0x93 code) epc true
  else if !handlerOn g then stopGroup s gid lanes (causeWord code info) epc false
  else putGroup s gid (enterHandler lanes (causeWord code info) epc g)

/-- The first issue of some lanes after the handler's return has been made (R143). -/
def clearSkip (f : Focus) (s : State) : State := updGroup s f.gid (fun g => { g with skipBp := g.skipBp &&& ~~~f.lanes })

/-- A trap of the instruction that issues: it waits for the open windows of its lanes (R77, R288); the second port's
instruction counts as not issued when the first port's has trapped (R288). -/
def trapAt (f : Focus) (code info : Nat) (epc : Pc) (s : State) : State :=
  if f.quiet then unfocus s
  else if (pendsOf (groupAt s f.gid) f.lanes).isEmpty then
    unfocus (takeTrap (clearSkip f s) f.gid f.lanes code info (epcWord epc none))
  else waitOn f .closing s
def trap (f : Focus) (code info : Nat) (s : State) : Result := .next (trapAt f code info f.pc s)

/-- A supervisor cause of the instruction that issues (R283, R171). -/
def superTrapAt (f : Focus) (code info : Nat) (epc : Pc) (s : State) : State :=
  if f.quiet then unfocus s
  else if (pendsOf (groupAt s f.gid) f.lanes).isEmpty then
    unfocus (stopGroup (clearSkip f s) f.gid f.lanes (causeWord code info) (epcWord epc none) false)
  else waitOn f .closing s
def superTrap (f : Focus) (code info : Nat) (s : State) : Result := .next (superTrapAt f code info f.pc s)

/-- A cause latched in a group for its next instruction boundary (R289): one for each code, as the image holds
them (R295). -/
def latch (code info : Nat) (sup : Bool) (g : Group) : Group :=
  if g.latched.any (fun c => c.code == code && c.sup == sup) then g
  else { g with latched := g.latched ++ [{ code, info, sup }] }

/-- A cause for the group that issued an operation, or for the supervisor where that group has left (R251, R254). -/
def latchOrPost (s : State) (gid uid k code info : Nat) : State :=
  match mapFind s.groups gid with
  | some g => if g.uid = uid then putGroup s gid (latch code info false g) else postNoGroup s k code info
  | none => postNoGroup s k code info

/-- The return from the handler (R292): the handler's lanes go to EPC.PC, HMODE, DEFER and BACK clear, the held
runs go on, and the first issue of each run skips the breakpoints (R143). -/
def leaveHandler (g : Group) : Group :=
  let lanes := g.hlanes &&& ~~~g.exited
  pcSet { g with
    trapbase := g.trapbase &&& ~~~2
    epc := g.epc &&& 0x00FFFFFFFFFFFFFF
    hlanes := 0
    pends := g.pends.map (fun p => { p with held := false })
    skipBp := ~~~g.exited } lanes (epcPc g.epc)

/-- A fresh number for a request or operation. -/
def freshId (s : State) : Nat × State := (s.fresh, { s with fresh := s.fresh + 1 })

end Sys2Proof.Machine
end

