-- ==== Sys2Proof/Machine/Operands.lean ====
section
/-! DEFINITION. Operand forms: which registers an instruction names and reads (05 R54-R56, 07 R88-R92), the allotment
check (01 R21), the active lanes (07 R88), and the one operation that runs an element-wise instruction in
each of its register-file forms. -/

namespace Sys2Proof.Machine

/-- The lane-register that a vector register number names (R21). -/
def vReg (g : Group) (n : BitVec 7) : Nat := g.winbase.toNat + n.toNat
/-- A vector register of a lane. -/
def readV (g : Group) (n : BitVec 7) (l : Nat) : Word := vGet g (vReg g n) l
/-- A register of a vector or uniform field. -/
def readReg (vec : Bool) (g : Group) (n : BitVec 7) (l : Nat) : Word :=
  if vec then readV g n l else sGet g n.toNat

/-- The first named lane-register outside the allotment (R21). -/
def outside (g : Group) (ns : List (BitVec 7)) : Option Nat :=
  (ns.map (vReg g)).find? (fun j => decide (g.allot ≤ j))

/-- Cause 0x06 for a vector register outside the allotment, else the instruction (R68, R92). -/
def withRegs (f : Focus) (g : Group) (ns : List (BitVec 7)) (s : State) (k : Result) : Result :=
  match outside (seen f g) ns with
  | some j => trap f 0x06 j s
  | none => k

/-- The active lanes: those of the run whose guard passes (R61, R88). -/
def active (f : Focus) (v : Group) (neg : Bool) (p : BitVec 3) : LaneMask :=
  maskWhere f.lanes (fun l => pGet v p.toNat l != neg)

/-- What an instruction names: form, guard, register fields, and whether it reads b and c as registers. -/
structure Sel where
  form : Form
  neg : Bool := false
  p : BitVec 3 := 0
  d : BitVec 7 := 0
  a : BitVec 7 := 0
  b : BitVec 7 := 0
  c : BitVec 7 := 0
  useB : Bool := true
  useC : Bool := false
  useA : Bool := true
  deriving DecidableEq, Repr

/-- The vector registers an instruction of this selection names (R56, R92). -/
def Sel.vecs (x : Sel) : List (BitVec 7) :=
  if x.form = .s then []
  else [x.d] ++ (if x.useA then [x.a] else []) ++ (if x.useB && x.form = .v then [x.b] else []) ++
    (if x.useC then [x.c] else [])

/-- The register values one execution reads. -/
structure Opnds where
  d : Word
  a : Word
  b : Word
  c : Word
  deriving DecidableEq, Repr

/-- The operands of a lane; b of form .m is uniform (R56). -/
def Sel.read (x : Sel) (v : Group) (l : Nat) : Opnds :=
  let vec := x.form != .s
  { d := readReg vec v x.d l, a := readReg vec v x.a l, b := readReg (x.form == .v) v x.b l,
    c := readReg vec v x.c l }

/-- Write a lane-register in some lanes. -/
def writeLanes (g : Group) (j : Nat) (rs : List (Nat × Word)) : Group :=
  rs.foldl (fun g e => vSet g j e.1 e.2) g

/-- An instruction with a register destination: fn gives a lane's result from the group as its operands
are read, the lane, and the operands. A uniform form executes once, with the lowest lane of the run
as the lane of a single predicate (R89). -/
def regOp (x : Sel) (fn : Group → Nat → Opnds → Res) (s : State) : Result :=
  issuer s fun f g =>
    let v := seen f g
    if x.form = .s then
      let l := lowLane f.lanes
      let r := fn v l (x.read v l)
      done f (raiseFlags (sSet g x.d.toNat r.1) r.2) s
    else
      withRegs f g x.vecs s
        (let rs := (lanesOf (active f v x.neg x.p)).map (fun l => (l, fn v l (x.read v l)))
         let fl := rs.foldl (fun fl e => fl ||| e.2.2) 0
         done f (raiseFlags (writeLanes g (vReg v x.d) (rs.map (fun e => (e.1, e.2.1)))) fl) s)

/-- An instruction with a predicate destination (R98): each active lane's own condition, or in the
uniform form one condition for every lane of the run. -/
def predOp (x : Sel) (fn : Group → Nat → Opnds → Bool × Flags) (s : State) : Result :=
  issuer s fun f g =>
    let v := seen f g
    let n := x.d.toNat % 8
    if x.form = .s then
      let l := lowLane f.lanes
      let r := fn v l (x.read v l)
      done f (raiseFlags (pSet g n f.lanes (if r.1 then f.lanes else 0)) r.2) s
    else
      withRegs f g ({ x with d := x.a }).vecs s
        (let act := active f v x.neg x.p
         let rs := (lanesOf act).map (fun l => (l, fn v l (x.read v l)))
         let fl := rs.foldl (fun fl e => fl ||| e.2.2) 0
         let vals := rs.foldl (fun m e => if e.2.1 then m ||| laneBit e.1 else m) 0
         done f (raiseFlags (pSet g n act vals) fl) s)

/-- The selections of the word formats. -/
def selR3 (form : Form) (x : R3) : Sel := { form, d := x.d, a := x.a, b := x.b }
def selR3L (form : Form) (x : R3L) : Sel := { form, d := x.d, a := x.a, b := x.b }
def selR3W (form : Form) (x : R3W) : Sel := { form, d := x.d, a := x.a, b := x.b }
/-- A short unary instruction: form .m is VS, whose a is uniform and stands for b here (R56). -/
def selR2 (form : Form) (x : R2) : Sel :=
  if form = .m then { form, d := x.d, a := 0, b := x.a, useA := false }
  else { form, d := x.d, a := x.a, useB := false }
def selX (useB useC : Bool) (x : XArgs) : Sel :=
  { form := x.form, neg := x.neg, p := x.p, d := x.d, a := x.a, b := x.b, c := x.c, useB, useC }
/-- The source of a short unary instruction. -/
def srcR2 (form : Form) (o : Opnds) : Word := if form = .m then o.b else o.a

/-- The integer type of a short shift's width (R59). -/
def shiftTy (x : R3W) : Ty :=
  match x.w.toNat with
  | 0 => .n64 | 1 => .n32 | 2 => .n16 | _ => .n8

/-! ### The registers an instruction uses, for debug mode (05 R76) -/

/-- Register fields that an instruction reads and writes. -/
structure RegUse where
  vr : List (BitVec 7) := []
  vw : List (BitVec 7) := []
  sr : List (BitVec 7) := []
  sw : List (BitVec 7) := []
  deriving DecidableEq, Repr

/-- The use of a selection; keepD says that the old d is read. -/
def Sel.use (x : Sel) (keepD : Bool := false) : RegUse :=
  let a := if x.useA then [x.a] else []
  let b := if x.useB then [x.b] else []
  let c := if x.useC then [x.c] else []
  let d := if keepD then [x.d] else []
  match x.form with
  | .v => { vr := a ++ b ++ c ++ d, vw := [x.d] }
  | .m => { vr := a ++ c ++ d, sr := b, vw := [x.d] }
  | .s => { sr := a ++ b ++ c ++ d, sw := [x.d] }
/-- The same with no register destination. -/
def RegUse.noDest (u : RegUse) : RegUse := { u with vw := [], sw := [] }
/-- A compare's destination is a predicate when PD is 1 (R98). -/
def cmpUse (x : XArgs) : RegUse :=
  if x.imm.getLsbD 4 then ((selX true false x).use).noDest else (selX true false x).use
/-- A memory access (R150): d loaded or stored is the data register of a load. -/
def useM (x : MArgs) (dest hasB : Bool) : RegUse :=
  let b := if hasB then [x.b] else []
  let d := if dest then [x.d] else []
  match x.form with
  | .v => { vr := x.a :: b, vw := d }
  | .m => { sr := [x.a], vr := b, vw := d }
  | .s => { sr := x.a :: b, sw := d }

/-- The registers an instruction uses; predicates and special registers are not results of FL instructions. -/
def regUse : Instr → RegUse
  | .addVVV x | .faddVVV x | .subVVV x | .fsubVVV x | .mulVVV x | .fmulVVV x | .minVVV x | .fminVVV x
  | .maxVVV x | .fmaxVVV x => (selR3 .v x).use
  | .addVVS x | .faddVVS x | .subVVS x | .fsubVVS x | .mulVVS x | .fmulVVS x | .minVVS x | .fminVVS x
  | .maxVVS x | .fmaxVVS x => (selR3 .m x).use
  | .addSSS x | .faddSSS x | .subSSS x | .fsubSSS x | .mulSSS x | .fmulSSS x | .minSSS x | .fminSSS x
  | .maxSSS x | .fmaxSSS x => (selR3 .s x).use
  | .andVVV x | .orVVV x | .xorVVV x => (selR3L .v x).use
  | .andVVS x | .orVVS x | .xorVVS x => (selR3L .m x).use
  | .andSSS x | .orSSS x | .xorSSS x => (selR3L .s x).use
  | .shlVVV x | .shrVVV x | .sarVVV x | .rotVVV x => (selR3W .v x).use
  | .shlVVS x | .shrVVS x | .sarVVS x | .rotVVS x => (selR3W .m x).use
  | .shlSSS x | .shrSSS x | .sarSSS x | .rotSSS x => (selR3W .s x).use
  | .absVV x | .negVV x | .notVV x | .popcVV x | .clzVV x | .brevVV x | .movVV x => (selR2 .v x).use
  | .absVS x | .negVS x | .notVS x | .popcVS x | .clzVS x | .brevVS x | .movVS x => (selR2 .m x).use
  | .absSS x | .negSS x | .notSS x | .popcSS x | .clzSS x | .brevSS x | .movSS x => (selR2 .s x).use
  | .moviVecImm x => { vw := [x.d] }
  | .moviVecIword x => { vw := [x.d] }
  | .rdsrVector x => { vw := [x.d] }
  | .moviUniImm x => { sw := [x.d] }
  | .moviUniIword x => { sw := [x.d] }
  | .rdsrUniform x | .csrr x => { sw := [x.d] }
  | .leadStep x | .tasteStat x => { sw := [x.d] }
  | .addImm x => { sr := [x.a], sw := [x.d] }
  | .mapQuery x => { sr := [x.a], sw := [x.d] }
  | .taskSpawn x | .tileGet x | .ridgeArrive x | .ridgeJoin x => { sr := [x.a], sw := [x.d] }
  | .addX x | .subX x | .mulX x | .mulhi x | .minX x | .maxX x | .andX x | .orX x | .xorX x | .shlX x
  | .shrX x | .sarX x | .rotX x | .sel x | .faddX x | .fsubX x | .fmulX x | .fminX x | .fmaxX x
   => (selX true false x).use
  | .mad x | .bfx x | .dot4 x | .sad x | .ffma x => (selX true true x).use
  | .absX x | .negX x | .notX x | .popcX x | .clzX x | .brevX x | .movX x | .frnd x | .exp2 x | .log2 x
  | .rcp x | .rsqrt x | .sqrt x | .sin x | .cos x | .tanh x | .cbq x => (selX false false x).use
  | .bfi x => (selX true true x).use true
  | .cmp x | .fcmp x => cmpUse x
  | .cvt x => (selX false false x).use true
  | .pack x => (selX true false x).use true
  | .unpack x
   => (let u := (selX false false x).use; { u with vw := u.vw ++ u.vw.map (· + 1), sw := u.sw ++ u.sw.map (· + 1) })
  | .cbld x
   => { sr := ((List.range 4).filter (fun q => x.imm.getLsbD q)).map (fun q => x.a + BitVec.ofNat 7 q) }
  | .cbrd x => (({ selX false false x with useA := false } : Sel).use)
  | .shfl x => (selX true (x.imm.extractLsb' 0 2 == 1) x).use
  | .bcast x => (if x.form = .m then { vr := [x.a], sw := [x.b] } else (selX true false x).use)
  | .ballot x => (if x.form = .m then { sw := [x.b] } else { vw := [x.d] })
  | .vote x => (if x.form = .m then { sw := [x.b] } else {})
  | .gscan x | .matchEq x => { vr := [x.a], vw := [x.d] }
  | .gred x => (if x.form = .m then { vr := [x.a], sw := [x.b] } else (selX false false x).use)
  | .wrsr x | .csrw x => { sr := [x.a] }
  | .txDrop x | .ridgeLeave x | .waitClk x | .scall x => { sr := [x.a] }
  | .bwphaseWrite _ _ | .fence _ | .fenceEng _ | .bra _ | .brp _ | .exit _ | .yield _ | .nop _ | .wait _
  | .rep _ | .win _ | .trap _ | .brk _ | .tret _ | .runPromoted _ _ | .waitClkDeadline _ _ | .groupLeave _
  | .latchedCauseDelivery _ | .requestAtHomeSlice _ | .requestRetranslation _ | .tableWalk _ _ _
  | .loadResponse _ | .atomicResponse _ | .storeAcknowledgement _ | .l1Eviction _ _
  | .proxySliceEviction _ _ | .putArrival _ | .putAcknowledged _ | .getComplete _ | .pressEntryExecute _
  | .enginePartArrival _ _ | .engineOperationComplete _ | .editCommit _ | .editComplete _
  | .zeroPageCommit _ | .frameRelease _ | .teamPlacement _ | .placementWaitExpiry _ | .preemption _
  | .teamSave _ | .forcedSave _ | .nodeComplete _ | .nodeFailInput _ | .gridBudgetExpired _
  | .watchdogKill _ | .killComplete _ | .uncorrectableError _ _ | .linkError _ _ _ | .switchPoint _
  | .slwbDone _ | .viewLineFill _ _ _ | .keySlotEmptied _ | .binToStandby _ | .binToRetention _
  | .binWakeDone _ | .binPowerDown _ | .bwphaseArrival _ | .bankroleWrite _ _ | .bankpinWrite _ _
  | .wtctlRegister _ _ | .wtctlDeregister _ _ | .fpbaseWrite _ _ | .fpaddWrite _ _ | .ptbaseWrite _ _
  | .pteInstall _ _ | .pteRemove _ _ | .pteRead _ _ | .gctlResume _ _ | .gctlReflect _ _ | .gctlKill _ _
  | .ctxctlWrite _ _ | .slhashWrite _ _ | .slctlGo _ _ | .slwbWrite _ _ | .binmapAllocClear _ _
  | .binmapAllocSet _ _ | .binmapDomWrite _ _ | .fwctlValidSet _ _ | .fwctlValidClear _ _
  | .registerWrite _ _ | .perstDeassert | .trainingDone | .ownerEntryWrite _ _ _ | .numvfsWrite _
  | .feataccWrite _ _ _ | .mbxdbPost _ _ | .mailboxPostResult _ | .mailboxMessage _ | .mbxreplyWrite _ _
  | .getVersion _ _ | .getCapabilities _ _ | .negotiateAlgorithms _ _ | .getDigests _ _
  | .getCertificate _ _ | .challenge _ _ | .getMeasurements _ _ | .keyExchange _ _ | .finish _ _
  | .heartbeat _ _ | .keyUpdate _ _ | .endSession _ _ | .keyload _ _ _ _ | .keydrop _ _ _
  | .putDataFlit _ _ | .counterRiseFlit _ _ | .acknowledgementFlit _ _ | .creditFlit _ _
  | .retryRequestFlit _ _ | .idleFlit _ _ | .portDown _ | .laneLoss _ | .throttleStep | .thermalPowerDown
  | .mbxptrWrite _ _ | .ultraEthernetPacket _ | .theushPortRetrain _ | .correctedError _ => {}
  | .ld x | .lds x | .ldc x => useM x true false
  | .st x | .sts x => useM x false true
  | .atom x | .atoms x
   => (let u := useM x true true; if x.aop = 8 then (if x.form = .s then { u with sr := x.d :: u.sr } else { u with vr := x.d :: u.vr }) else u)
  | .pref x => useM x false false
  | .wbr x | .invr x | .mapDrop x => { sr := [x.a, x.b] }
  | .txInit x | .txAim x | .txArrive x | .tileSet x | .ridgeWait x | .gsave x | .grest x => { sr := [x.a, x.b] }
  | .put x | .get x | .mapPerm x | .mapXchg x | .mapAlias x => { sr := [x.d, x.a, x.b] }
  | .cpG2s x | .cpS2g x | .cpS2s x | .cpMc x | .cpNet x | .cpxTr x | .cpxQ4r x | .cpxDq x | .cpxZbc x
  | .cpxZbx x | .mm x | .mmLd x | .mmSt x => { sr := [x.d, x.a, x.b] }
  | .ctrw x => { sr := [x.a, x.b], sw := [x.d] }
  | .mapCat x => { sr := [x.d, x.d + 1, x.a, x.a + 1] }
  | .mapSplit x => { sr := [x.d, x.a, x.a + 1, x.b] }
  | .txWait x | .txTest x => { sr := [x.d, x.a, x.b, x.b + 1], sw := [x.d] }
  | .tasteNext x => (if x.a.getLsbD 0 then { vw := [x.d] } else { sw := [x.d] })
  | .tasteAdd x => (if x.d.getLsbD 0 then { vr := [x.a, x.b] } else { sr := [x.a, x.b] })
  | .call x => (if x.u then { sw := [x.d] } else { vw := [x.d] })
  | .jmpi x | .ret x => (if x.b.getLsbD 0 then { sr := [x.a] } else { vr := [x.a] })
  | .gsync x => { vr := [x.a] }

end Sys2Proof.Machine
end

