-- ==== Sys2Proof/Machine/Access.lean ====
section
/-! DEFINITION. Accesses to memory: addresses and sizes (11 R151-R153), the checks of R170 and R171, range-lock
conflicts (19 R279), the frame pool (17 R232), the values of atomics (11 R159), what a request meets at its home (25
R331, R345, R347, R351), L1 copies (13 R180, R193, 17 R221), and what releases wait for (13 R187, R188). -/

namespace Sys2Proof.Machine

/-! ### Sizes and addresses (R151, R152) -/

/-- E of R152 in bytes. -/
def accSize (t : Ty) : Nat := tyWidth t / 8

/-- The value that a load of type T leaves in a register (R152). -/
def extendTo (t : Ty) (n : Nat) : Word :=
  let w := tyWidth t
  if tySigned t then ((BitVec.ofNat w n).signExtend 64) else BitVec.ofNat 64 (n % 2 ^ w)

/-- One access of an instruction: the lanes it stands for, the lane whose registers it uses, its address. -/
structure Acc where
  lanes : LaneMask
  lane : Nat
  addr : Nat
  deriving DecidableEq, Repr

/-- addr(l) of R151. -/
def addrOf (x : MArgs) (v : Group) (l : Nat) : Word :=
  let off : Word := x.off.signExtend 64
  match x.form with
  | .v => readV v x.a l + off
  | .m => sGet v x.a.toNat + off + BitVec.ofNat 64 (l * accSize x.ty)
  | .s => sGet v x.a.toNat + off

/-- The accesses of an instruction: each active lane's, or one for the run in the uniform form. -/
def accsOf (x : MArgs) (v : Group) (run act : LaneMask) : List Acc :=
  if x.form = .s then [{ lanes := run, lane := lowLane run, addr := (addrOf x v (lowLane run)).toNat }]
  else (lanesOf act).map (fun l => { lanes := laneBit l, lane := l, addr := (addrOf x v l).toNat })

/-- The lanes that access each distinct address, in the order of the first. -/
def byAddr : List Acc → List Acc
  | [] => []
  | a :: as =>
    let rest := byAddr as
    { a with lanes := (rest.find? (fun b => b.addr == a.addr)).elim a.lanes (fun b => a.lanes ||| b.lanes) } ::
      rest.filter (fun b => b.addr != a.addr)

/-- The vector registers that a memory instruction names (R150). -/
def memVecs (x : MArgs) (dest data : Bool) : List (BitVec 7) :=
  match x.form with
  | .s => []
  | .m => (if dest then [x.d] else []) ++ (if data then [x.b] else [])
  | .v => (if dest then [x.d] else []) ++ [x.a] ++ (if data then [x.b] else [])

/-- Bytes each in one of the ranges (start, length). -/
def allCovered (rs : List (Nat × Nat)) (lo n : Nat) : Bool :=
  (List.range n).all (fun i => rs.any (fun r => decide (r.1 ≤ lo + i ∧ lo + i < r.1 + r.2)))

/-- Two ranges share a byte. -/
def overlaps (a n b m : Nat) : Bool := decide (a < b + m ∧ b < a + n)

/-! ### Range locks (R278, R279) -/

/-- Whether a range conflicts with a core's range-lock table; destOnly for a read. -/
def lockHit (s : State) (core space owner lo n : Nat) (destOnly : Bool) : Bool :=
  (coreAt s core).locks.any (fun k =>
    k.space == space && k.owner == owner && (k.dest || !destOnly) && decide (lo < k.hi ∧ k.lo < lo + n))

/-- The lock space of scratchpad and operand buffer. -/
def sramSpace (ob : Bool) : Nat := if ob then 2 else 1

/-! ### Checks (R170, R171) -/

/-- What an access does to its bytes. -/
structure Use where
  write : Bool := false
  atom : Bool := false
  zbOk : Bool := false                      -- cpx.zbc and cpx.zbx reach ZB pages (R342)
  engine : Bool := false                    -- an engine writes no line of another die (R250)
  deriving DecidableEq, Repr

/-- Whether a translation names a frame of the cellar. -/
def onFrame (a : Attr) : Bool := !a.zero && !a.fmt && (!a.host || a.owner)

/-- The checks of orders 4 and 5 on a translation, for an agent of a die. An atomic on a MANUAL page is 0x48 on every
die (R197, R202; log entry 6). -/
def transCause (die : Nat) (u : Use) (t : Trans) (pa : Nat) : Option Nat :=
  let w := u.write || u.atom
  if w && !t.attr.w then some 0x41
  else if w && t.attr.shadow then some 0x43
  else if t.attr.zb && !u.zbOk then some 0x45
  else if w && t.attr.fmt then some 0x46
  else if u.atom && t.attr.manual then some 0x48
  else if w && onFrame t.attr && dieOf pa != die && (u.engine || !t.attr.manual) then some 0x44
  else none

/-- The checks of orders 8 and 9. -/
def stateCause (s : State) (t : Trans) (pa : Nat) : Option Nat :=
  if onFrame t.attr && !(binAt s (binOf pa)).alloc then some 0x4A
  else if t.attr.host && !t.attr.owner then some 0x47
  else none

/-- The checks of a virtual address for n bytes (R170, orders 1 to 9), with locked saying whether order 6 applies. -/
def globalCheck (s : State) (core k : Nat) (u : Use) (align : Nat) (va n : Nat) : Except Nat Trans :=
  if 2 ^ 56 ≤ va then .error 0x4B
  else if va % align ≠ 0 then .error 0x42
  else
    match translate s core k va with
    | none => .error 0x40
    | some t =>
      match transCause (coreDie core) u t (transPa t va) with
      | some c => .error c
      | none =>
        if lockHit s core 0 k va n (!(u.write || u.atom)) then .error 0x72
        else
          match stateCause s t (transPa t va) with
          | some c => .error c
          | none => .ok t

/-- The checks of a scratchpad address (R153, R170). -/
def sramCheck (s : State) (core tuid : Nat) (w : Bool) (a n : Nat) : Except Nat SramRef :=
  match sramRef s tuid a n with
  | none => .error 0x49
  | some r =>
    if a % n ≠ 0 then .error 0x42
    else if lockHit s core (sramSpace r.ob) r.team r.off n (!w) then .error 0x72
    else if w && sramLive s (teamAt s r.team) r.ob r.off n then .error 0x73
    else .ok r

/-- The causes that go to the supervisor (R170). -/
def supCause (c : Nat) : Bool := c == 0x47 || c == 0x4A

/-- The pages of 64 KiB that a range touches, each with the range's part in it: start and length. -/
def piecesOf (lo n : Nat) : List (Nat × Nat) :=
  if n = 0 then []
  else (List.range ((lo + n - 1) / 65536 - lo / 65536 + 1)).map (fun i =>
    let a := max lo ((lo / 65536 + i) * 65536)
    (a, min (lo + n) ((lo / 65536 + i + 1) * 65536) - a))

/-- A bin that the walk of an access must first find awake, where no translation cache serves the access (R345). -/
def walkAsleep (s : State) (core k va : Nat) : Option Nat :=
  if decide (2 ^ 56 ≤ va) || (coreAt s core).tlb.any (fun t => transCovers t k va) then none else tableAsleep s k va
/-- The same of the pages of some ranges. -/
def walksAsleep (s : State) (core k : Nat) (l : List (Nat × Nat)) : Option Nat :=
  l.findSome? (fun r => (piecesOf r.1 r.2).findSome? (fun pc => walkAsleep s core k pc.1))
/-- Such an access touches the bins of its tables. -/
def touchWalk (s : State) (core k va : Nat) : State :=
  if (coreAt s core).tlb.any (fun t => transCovers t k va) then s else touchTables s k va
/-- The same of the pages of some ranges. -/
def touchWalks (s : State) (core k : Nat) (l : List (Nat × Nat)) : State :=
  l.foldl (fun s r => (piecesOf r.1 r.2).foldl (fun s pc => touchWalk s core k pc.1) s) s

/-- The failed checks of a list of accesses with their addresses, in lane order. -/
def failures {α : Type} (l : List (Acc × Except Nat α)) : List (Nat × Nat) :=
  l.filterMap (fun e => match e.2 with
    | .error c => some (c, e.1.addr % 2 ^ 56)
    | .ok _ => none)

/-- The cause that an instruction reports (R171). -/
def reported (l : List (Nat × Nat)) : Option (Nat × Nat) :=
  match leastBy (·.1) (l.filter (fun e => !supCause e.1)) with
  | some e => some e
  | none => leastBy (fun e => 2 ^ 8 - e.1) l

/-! ### What a request meets at its home (R331, R345, R347, R351) -/

inductive AtHome where
  | ok
  | asleep
  | dead (code : Nat)
  deriving DecidableEq, Repr

/-- The home of a physical address for a partition's request: unbacked or foreign addresses and an empty domain are
0xB6, a bin in D 0xB5; a bin in S or T, or waking, makes the request wait. -/
def atHome (s : State) (p pa : Nat) : AtHome :=
  let b := binOf pa
  if cellarTop ≤ pa || !binOwned s p b then .dead 0xB6
  else if !(binAt s b).alloc then .dead 0xB5
  else if (homeSlice s pa).isNone then .dead 0xB6
  else if (binAt s b).state ≠ 0 then .asleep
  else .ok

/-- The partition whose supervisor hears of a request that its home does not perform: of a request that reached another
partition's bin that partition (R351), else the requester's own (DEDUCED, log entry 44, where a bin has no owner). -/
def fabricPart (s : State) (p pa c : Nat) : Nat :=
  if c = 0xB6 ∧ pa < cellarTop then (ownerPart s.out.binOwner (binOf pa)).getD p else p

/-- Raise a fabric cause (R303). -/
def postFabric (s : State) (p pa : Nat) (c : Option Nat) : State :=
  match c with
  | some c => postNoGroup s (256 * fabricPart s p pa c) c (lineOf pa * 128)
  | none => s

/-- A walk that ends without a translation where it comes to a table of a bin that the partition does not reach: that bin's owner
hears of it (R351). -/
def reportWalk (f : Focus) (c a : Nat) (s : State) : State :=
  let k := groupCtx s (groupAt s f.gid)
  if c != 0x40 || f.quiet then s
  else
    match walkDead s k a with
    | none => s
    | some slot =>
      match atHome s (ctxPart k) slot with
      | .dead c => postFabric s (ctxPart k) slot (some c)
      | _ => s

/-- Trap with a cause, or go on. -/
def trapOr (f : Focus) (e : Option (Nat × Nat)) (s : State) (k : Result) : Result :=
  match e with
  | none => k
  | some (c, a) => if supCause c then superTrap f c a s else trap f c a (reportWalk f c a s)
/-- Trap with the reported cause, or go on (R170, R171). -/
def withChecks (f : Focus) (l : List (Nat × Nat)) (s : State) (k : Result) : Result := trapOr f (reported l) s k
/-- The same for an engine instruction: of several causes the lowest code, those of the supervisor among them (R282). -/
def withLowest (f : Focus) (l : List (Nat × Nat)) (s : State) (k : Result) : Result := trapOr f (leastBy (·.1) l) s k

/-! ### Frames (R232) -/

/-- Take several frames. -/
def takeFrames (s : State) (k : Nat) : Nat → List Nat × State
  | 0 => ([], s)
  | n + 1 =>
    let r := takeFrame s k
    let q := takeFrames r.2 k n
    (r.1 :: q.1, q.2)

/-! ### Atomic operations on values (R159) -/

/-- The new value of an atomic operation, as w bits. -/
def atomNew (op : Nat) (t : Ty) (old b cmp : Nat) : Nat :=
  let w := tyWidth t
  let b := b % 2 ^ w
  let i := fun (c : Nat) => intVal (tySigned t) w c
  let flt := tyIsFloat t
  let dec := decodeF (tyFmt t)
  match op with
  | 1 => if flt then (encodeF (tyFmt t) .rn false (faddVal .rn (dec old) (dec b)).1).1 else (old + b) % 2 ^ w
  | 2 =>
    if flt then (elemOf t (fminOp [] t false (BitVec.ofNat 64 old) (BitVec.ofNat 64 b)).1 0)
    else if i b < i old then b else old
  | 3 =>
    if flt then (elemOf t (fminOp [] t true (BitVec.ofNat 64 old) (BitVec.ofNat 64 b)).1 0)
    else if i old < i b then b else old
  | 4 => Nat.land old b
  | 5 => Nat.lor old b
  | 6 => Nat.xor old b
  | 7 => b
  | _ => if old = cmp % 2 ^ w then b else old

/-! ### Requests (R177, R182) -/

/-- Add a request, under a fresh number. -/
def addReq (s : State) (r : Req) : State :=
  { s with reqs := s.reqs ++ [{ r with id := s.fresh }], fresh := s.fresh + 1 }
def putReq (s : State) (r : Req) : State :=
  { s with reqs := s.reqs.map (fun q => if q.id = r.id then r else q) }
def dropReq (s : State) (id : Nat) : State := { s with reqs := s.reqs.filter (fun r => r.id != id) }
def reqAt (s : State) (id : Nat) : Option Req := s.reqs.find? (fun r => r.id == id)

/-- A request of an instruction's access. -/
def newReq (s : State) (f : Focus) (g : Group) (lanes : LaneMask) (va size : Nat) (t : Trans) (kind : ReqKind) : Req :=
  { id := s.fresh, core := gidCore f.gid, gid := f.gid, uid := g.uid, team := g.team, ctx := groupCtx s g, lanes, pend := 0, va,
    pa := transPa t va, size, gen := t.gen, attr := t.attr, kind, rel := false, stage := .queued, data := [],
    poison := false, fill := false, cover := 0, acq := false, tag := 0 }

def isStore (r : Req) : Bool := match r.kind with
  | .store _ => true
  | _ => false
def isAtom (r : Req) : Bool := match r.kind with
  | .atom _ _ _ _ _ => true
  | _ => false
def isWb (r : Req) : Bool := match r.kind with
  | .wb _ _ => true
  | _ => false
def isPref (r : Req) : Bool := match r.kind with
  | .pref _ => true
  | _ => false
def isLoad (r : Req) : Bool := match r.kind with
  | .load => true
  | .ldc _ => true
  | _ => false

/-- A MANUAL line homed on another die than the agent's (R202, R203). -/
def remoteManual (core : Nat) (a : Attr) (pa : Nat) : Bool := a.manual && dieOf pa != coreDie core

/-- The requests of a group's lanes that are not finished. -/
def reqsOf (s : State) (uid : Nat) (lanes : LaneMask) : List Req :=
  s.reqs.filter (fun r => r.uid == uid && meets r.lanes lanes)

/-- The current mapping of a request's page is no longer the ZERO page that it was translated to (R222). -/
def zeroStale (s : State) (r : Req) : Bool :=
  match walk s r.ctx r.va with
  | some t => !t.attr.zero
  | none => true

/-- Whether the home slice refuses a request (R221). -/
def reqRefused (s : State) (r : Req) : Bool :=
  if r.attr.zero then zeroStale s r
  else r.gen != genOf s.mem r.ctx r.attr r.pa

/-- A request still on its way whose translation stands. -/
def reqCurrent (s : State) (r : Req) : Bool := r.stage == .queued && !reqRefused s r

/-- The frame's bytes of a virtual address as it is mapped now. -/
def placeOf (s : State) (k va : Nat) : Option Nat :=
  match walk s k va with
  | some t => if onFrame t.attr then some (transPa t va) else none
  | none => none

/-- The first byte in the cellar that a request reaches: where it was accepted, or where it goes as things stand. -/
def reqPlace (s : State) (r : Req) : Option Nat :=
  if r.stage == .accepted || reqCurrent s r then (if onFrame r.attr then some r.pa else none) else placeOf s r.ctx r.va

/-- A request touches bytes at a virtual range of its context, or at the same bytes through another mapping of their frame
(R174). -/
def touches (s : State) (r : Req) (k va : Nat) (place : Option Nat) (n : Nat) : Bool :=
  (r.ctx == k && overlaps r.va r.size va n) ||
    (match reqPlace s r, place with
      | some a, some b => overlaps a r.size b n
      | _, _ => false)
/-- Two requests touch a common byte. -/
def sameBytes (s : State) (q r : Req) : Bool := touches s q r.ctx r.va (reqPlace s r) r.size

/-- Requests of the lanes to bytes of a range in one page. -/
def reqsOn (s : State) (uid : Nat) (lanes : LaneMask) (k va n : Nat) : List Req :=
  (reqsOf s uid lanes).filter (fun r => touches s r k va (placeOf s k va) n)

/-- Renaming instructions of the lanes that have not committed and touch a range (R228). -/
def editsOn (s : State) (uid : Nat) (lanes : LaneMask) (va n : Nat) : Bool :=
  s.edits.any (fun e => !e.committed && e.uid == uid && meets e.lanes lanes &&
    e.ranges.any (fun r => overlaps r.1 r.2 va n))

/-- An acquire of the lanes that has not been performed: a pending result, or an invr's requests (R165, R184). -/
def openAcq (s : State) (g : Group) (lanes : LaneMask) : Bool :=
  (pendsOf g lanes).any (fun p => p.acq.isSome) ||
    (reqsOf s g.uid lanes).any (fun r => r.stage != .accepted && (match r.kind with
      | .wb _ acq => acq.isSome
      | _ => false))

/-- How far a scope reaches, as an edit's completion counts it (R229, R230). -/
def scopeRank : Scope → Nat
  | .grp | .team => 1
  | .clu => 2
  | .die => 3
  | .pkg | .sys => 4

/-- An edit has committed and is complete at a scope (R229). -/
def editDone (e : Edit) (sc : Scope) : Bool := e.committed && decide (scopeRank sc ≤ e.upTo)

/-- What a release at a scope waits for (R162, R184, R187, R188, R204, R207, R228): earlier loads still to be performed;
earlier stores and atomics by the table of R187; earlier renaming instructions, until they are complete at that scope; at
.pkg and .sys the write-backs. -/
def releaseWaits (s : State) (gid : Nat) (g : Group) (lanes : LaneMask) (sc : Scope) : Bool :=
  let near := match sc with
    | .grp | .team => true
    | .clu => teamFused s (teamAt s g.team)
    | _ => false
  (reqsOf s g.uid lanes).any (fun r =>
    if isLoad r then r.stage != .accepted
    else if isAtom r then true
    else if isStore r then !near || remoteManual (gidCore gid) r.attr r.pa
    else if isWb r then sc == .pkg || sc == .sys
    else false) ||
  s.edits.any (fun e => e.uid == g.uid && meets e.lanes lanes && !editDone e sc)

/-! ### The switch of domains (R333, R334) -/

/-- The masks that the next switch makes current: every staged one over the current ones. -/
def stagedMasks (x : Partition) : SMap (BitVec 48) := x.staged.foldl (fun m e => mapSet 0 m e.1 e.2) x.masks

/-- The home of an address after the next switch. -/
def nextHome (s : State) (pa : Nat) : Option Nat :=
  match ownerPart s.out.binOwner (binOf pa) with
  | some p => homeSliceWith (stagedMasks (partAt s p)) (binAt s (binOf pa)).sdom.toNat pa
  | none => none

/-- Whether a line of a partition changes its home. -/
def moves (s : State) (p line : Nat) : Bool :=
  ownerPart s.out.binOwner (binOf (128 * line)) == some p && homeSlice s (128 * line) != nextHome s (128 * line)

/-- A request made since the GO for lines that a switch in progress moves is held at its die's ring stop (R334). Of a transfer or an
engine operation the requests are new where it was issued since the GO (DEDUCED, log entry 36). -/
def switchHolds (s : State) (k id : Nat) (lines : Unit → List (List Nat)) : Bool :=
  let x := partAt s (ctxPart k)
  x.switching && decide (x.goAt ≤ id) && (lines ()).any (fun l => l.any (moves s (ctxPart k)))
/-- The same of one request. -/
def heldBySwitch (s : State) (r : Req) (line : Nat) : Bool := switchHolds s r.ctx r.id (fun _ => [[line]])

/-! ### The ring of the frame pool (R232) -/

/-- The write of a pool ring's entry: a bin that the partition does not reach drops it (R351); one that sleeps is woken, and the
entry is written at once (DEDUCED, log entry 35). -/
def writeRing (s : State) (k slot frame : Nat) : State :=
  let write := fun (s : State) => touchBin { s with mem := homeWrite s.mem slot (leBytes 8 frame) } slot
  match atHome s (ctxPart k) slot with
  | .ok => write s
  | .asleep => write (wakeBin s (binOf slot))
  | .dead c => postFabric s (ctxPart k) slot (some c)

/-- Append a frame at TAIL of a ring that has room. -/
def appendFrame (s : State) (k frame : Nat) : State :=
  let p := (ctxAt s k).pool
  updCtx (writeRing s k (poolSlot p p.tail) frame) k (fun c =>
    { c with pool := { c.pool with tail := c.pool.tail + 1, waiting := false } })
def poolFull (p : Pool) : Bool := poolUsed p == ringSize p
/-- The ring cannot take a frame: it is full or not set up (R232). -/
def ringRefuses (p : Pool) : Bool := poolFull p || decide (p.logn < 4 ∨ 25 < p.logn)
/-- A frame goes back to the pool; a full ring makes the graft unit hold it, with cause 0x55 (R232). -/
def giveFrame (s : State) (k frame : Nat) : State :=
  let p := (ctxAt s k).pool
  if ringRefuses p then
    postNoGroup (updCtx s k (fun c => { c with pool := { p with heldFrames := p.heldFrames ++ [frame / 65536] } })) k 0x55 0
  else appendFrame s k frame
/-- The frame that the pool gives next. -/
def nextFrame (s : State) (k : Nat) : Nat :=
  bitsOf (leNat (homeRead s.mem (poolSlot (ctxAt s k).pool (ctxAt s k).pool.head) 8)) 16 36 * 65536

/-! ### L1 (R180, R187, R193, R221) -/

/-- The core whose L1 may hold a line for a group (R193). -/
def l1Core (s : State) (gid pa : Nat) : Nat := teamL1 s (groupAt s gid).team (gidCore gid) pa

/-- A core's L1 may hold a line: of every fused cluster with a team on the core it is the member with the line's L1 home (R193). -/
def l1May (s : State) (core line : Nat) : Bool :=
  s.teams.all (fun e => e.2.core != core || e.2.gone || !teamFused s e.2 || teamL1 s e.1 core (128 * line) == core)
/-- The other L1s through which agents of a request's core reach its line, where a fused team shares the core (R179, R193). -/
def otherL1s (s : State) (r : Req) : List Nat :=
  ((s.teams.filter (fun e => e.2.core == r.core && !e.2.gone)).map (fun e => teamL1 s e.1 r.core r.pa)).dedup.filter
    (fun c => c != reqL1 s r)

/-- Two requests pass one core point: they come from one core, or from cores of one fused cluster, or go through one L1 (R178,
R193). -/
def samePoint (s : State) (q r : Req) : Bool :=
  q.core == r.core || reqL1 s q == reqL1 s r ||
    (let t := teamAt s q.team
     let u := teamAt s r.team
     teamFused s t && teamFused s u && t.node == u.node && t.cluster == u.cluster)
/-- The store is one of every lane of the request. -/
def ownStore (q r : Req) : Bool := q.uid == r.uid && (r.lanes &&& ~~~q.lanes) == 0
/-- A store that a load of its core point sees in the write queue: its translation stands, and a release store from .clu on
shows its bytes to its own lane alone (R179, R182). -/
def showsTo (s : State) (q r : Req) : Bool := reqCurrent s q && (!q.rel || ownStore q r)

def copyAt (l : List Copy) (line : Nat) : Option Copy := l.find? (fun c => c.line == line)
def putCopy (l : List Copy) (c : Copy) : List Copy := c :: l.filter (fun d => d.line != c.line)
def dropCopy (l : List Copy) (line : Nat) : List Copy := l.filter (fun c => c.line != line)
/-- A line leaves an L1, and what in-flight loads have read of it no longer fills it. -/
def l1Drop (s : State) (core line : Nat) : State :=
  clearFills (updCore s core (fun c => { c with l1 := dropCopy c.l1 line })) core (fun r => lineOf r.pa == line)

/-- The lines that a core's L1 banks hold (R14, R25). -/
def l1Lines (s : State) (core : Nat) : Nat := 256 * (roleBanks (coreAt s core).bankrole 0).length

/-- Bytes put into a line from an offset. -/
def lineWith (data : List Byte) (off : Nat) (bs : List Byte) : List Byte :=
  data.take off ++ bs ++ data.drop (off + bs.length)

/-- A line whose masked bytes come from another. -/
def mergeMask (mask : BitVec 128) (lower upper : List Byte) : List Byte :=
  (List.range 128).map (fun i => if mask.getLsbD i then upper.getD i 0 else lower.getD i 0)

/-- The mask of n bytes from an offset. -/
def byteMask (off n : Nat) : BitVec 128 := BitVec.ofNat 128 ((2 ^ n - 1) * 2 ^ off)

/-- A store shows its bytes in the L1 copy at its core point: it is no release from .clu on, and no store to another die's MANUAL
line or to a page without a frame (R178, R179, R204). -/
def showsAtCore (r : Req) : Bool := !r.rel && !remoteManual r.core r.attr r.pa && onFrame r.attr

/-- The bytes of waiting stores that pass an L1, laid over the data of a line that has a tag: those not accepted, and those
accepted with a greater tag (R180), under one generation (R221). A release store that waits shows nothing (R179). -/
def overlayStores (s : State) (core line tag : Nat) (gen : BitVec 16) (data : List Byte) : List Byte :=
  (s.reqs.filter (fun r => lineOf r.pa == line && r.gen == gen && reqL1 s r == core)).foldl (fun d r =>
    match r.kind with
    | .store bs =>
      if (r.stage = .accepted ∧ tag < r.tag) ∨ (r.stage = .queued ∧ r.rel = false) then
        lineWith d (r.pa % 128) bs
      else d
    | _ => d) data

/-- Two requests go to one line: of the cellar, or of a page that has no frame yet (R222). -/
def sameLine (q r : Req) : Bool :=
  if q.attr.zero || r.attr.zero then q.attr.zero && r.attr.zero && q.ctx == r.ctx && q.va / 128 == r.va / 128
  else lineOf q.pa == lineOf r.pa && q.attr.fmt == r.attr.fmt

/-- The bytes that a load finds in the write queue, laid over what its home answers: the stores before it that pass the same
core point and show themselves to it (R179, R182), those to a ZERO page among them (R222). -/
def overlayQueue (s : State) (r : Req) (data : List Byte) : List Byte :=
  (s.reqs.filter (fun q => decide (q.id < r.id) && sameLine q r && samePoint s q r && showsTo s q r)).foldl (fun d q =>
    match q.kind with
    | .store bs => lineWith d (q.va % 128) bs
    | _ => d) data

/-- A line enters a core's L1 by a response (R180, R204, R221): it does not overwrite waiting stores or masked bytes. A copy
of the same generation with a tag not smaller stays; where it shows other bytes, which a write of its own core between them
can leave it with, it is evicted instead, so that no lane reads bytes older than those it has just been given (R182). A copy for
SHADOW pages takes no store, and stands apart from the line's other copies (R201). -/
def l1Fill (s : State) (core line : Nat) (gen : BitVec 16) (tag : Nat) (manual shadow : Bool) (data : List Byte) : State :=
  let c := coreAt s core
  let d := if shadow then data else overlayStores s core line tag gen data
  if !l1May s core line then s
  else
    match copyAt c.l1 line with
    | some x =>
      let same := x.manual == manual && x.shadow == shadow
      if x.gen = gen ∧ same = true ∧ tag ≤ x.tag then
        if x.mask = 0 ∧ x.data ≠ d then l1Drop s core line else s
      else if x.mask ≠ 0 ∧ manual = false then s
      else
        let y : Copy := { line, gen, tag := if same then max tag x.tag else tag, mask := x.mask, poison := x.poison
                          data := mergeMask x.mask d x.data, manual, shadow }
        putCore s core { c with l1 := putCopy c.l1 y }
    | none =>
      if c.l1.length < l1Lines s core then
        putCore s core { c with l1 := { line, gen, tag, data := d, mask := 0, manual, shadow } :: c.l1 }
      else s

/-- A copy that shows the writes of its core: of their generation, no other die's MANUAL line, and not kept for SHADOW pages (R178,
R201, R204, R221). -/
def copyOpen (x : Copy) (line : Nat) (gen : BitVec 16) : Bool := x.line == line && x.gen == gen && !x.manual && !x.shadow

/-- A store passes its core point: the L1 copy of its generation takes the bytes (R178, R221). -/
def l1Store (s : State) (core pa : Nat) (gen : BitVec 16) (bs : List Byte) : State :=
  updCore s core (fun c => { c with l1 := c.l1.map (fun x =>
    if copyOpen x (lineOf pa) gen then { x with data := lineWith x.data (pa % 128) bs } else x) })

/-- The acknowledged tag of a write enters the copy (R180); loads that read the line before the write no longer fill it. -/
def l1Tag (s : State) (core pa : Nat) (gen : BitVec 16) (tag : Nat) : State :=
  clearFills (updCore s core (fun c => { c with l1 := c.l1.map (fun x =>
    if copyOpen x (lineOf pa) gen then { x with tag := max x.tag tag } else x) }))
    core (fun r => lineOf r.pa == lineOf pa && decide (r.tag < tag))

/-! ### Proxy slices of MANUAL lines (R203-R206) -/

/-- The key of a copy in the proxy slice of a die (R203). -/
def proxyKey (s : State) (die line : Nat) : Nat := proxySlice s die line * 2 ^ 45 + line
def proxyAt (s : State) (die line : Nat) : Option Copy := mapFind s.mem.proxies (proxyKey s die line)
def putProxy (s : State) (die : Nat) (c : Copy) : State :=
  { s with mem := { s.mem with proxies := mapPut s.mem.proxies (proxyKey s die c.line) c } }
def dropProxy (s : State) (die line : Nat) : State :=
  { s with mem := { s.mem with proxies := mapDel s.mem.proxies (proxyKey s die line) } }

/-- The line as the agents of another die than its home see it: the proxy slice's copy, filled from home. Its sequence tags
only rise, over every copy of the line (R204). -/
def proxyFill (s : State) (die line : Nat) : Copy × State :=
  match proxyAt s die line with
  | some c => (c, s)
  | none =>
    let c : Copy := { line, gen := frameGen s.mem (128 * line), tag := s.fresh, data := homeLine s.mem line, mask := 0
                      poison := s.mem.poison.contains line, manual := true }
    (c, putProxy { s with fresh := s.fresh + 1 } die c)

/-- The dirty bytes of an L1 copy move to the proxy slice (R204), with poison of the line. -/
def drainCopy (s : State) (core : Nat) (x : Copy) : State :=
  if x.mask = 0 then s
  else
    let r := proxyFill s (coreDie core) x.line
    let s := { r.2 with fresh := r.2.fresh + 1 }
    let y : Copy := { r.1 with
      data := mergeMask x.mask r.1.data x.data, mask := r.1.mask ||| x.mask, tag := r.2.fresh
      poison := (r.1.poison && !x.whole) || x.poison, whole := x.whole || (r.1.whole && !x.poison) }
    updCore (putProxy s (coreDie core) y) core (fun c =>
      { c with l1 := c.l1.map (fun z => if z.line = x.line then { z with mask := 0, tag := y.tag, data := y.data, whole := false } else z) })

/-- All dirty bytes of some cores' L1s move to the proxy slices (R204). -/
def drainL1 (s : State) (cores : List Nat) : State :=
  cores.foldl (fun s c => (coreAt s c).l1.foldl (fun s x => drainCopy s c x) s) s

/-- The dirty bytes of one line in some cores' L1s move to the proxy slice. -/
def drainLine (s : State) (cores : List Nat) (line : Nat) : State :=
  cores.foldl (fun s c =>
    match copyAt (coreAt s c).l1 line with
    | some x => drainCopy s c x
    | none => s) s

/-- The L1s that a team's accesses go through: its core's, or in a fused cluster every member's (R193). -/
def teamL1s (s : State) (tuid core : Nat) : List Nat :=
  let t := teamAt s tuid
  if teamFused s t then clusterCores s t else [core]

/-- Fusing ends with the cluster: where no team of it is resident any more, its members' L1s are empty (R193); their dirty bytes
have moved to the proxy slices (R204). -/
def endFusion (s : State) (t : Team) : State :=
  if !teamFused s t || s.teams.any (fun e => e.2.node == t.node && e.2.cluster == t.cluster && !e.2.gone) then s
  else (clusterCores s t).foldl (fun s c =>
    clearFills (updCore (drainL1 s [c]) c (fun x => { x with l1 := [] })) c (fun _ => true)) s

/-- A line as a core's accesses to a remote MANUAL page find it: the proxy slice's copy with the L1's dirty bytes over it. -/
def manualLine (s : State) (core l1 line : Nat) : Copy × State :=
  let p := proxyFill s (coreDie core) line
  match copyAt (coreAt s l1).l1 line with
  | some x => ({ p.1 with data := mergeMask x.mask p.1.data x.data, poison := p.1.poison || x.poison }, p.2)
  | none => p

/-- A write-back's masked bytes merged into the line at home, as one write (R205), with the poison they carry; bytes that one
instruction wrote whole leave the line clean (R303). -/
def mergeHome (m : Mem) (line : Nat) (data : List Byte) (mask : BitVec 128) (poison whole : Bool) : Mem :=
  let m := (List.range 128).foldl (fun m i =>
    if mask.getLsbD i then homePut m (128 * line + i) (data.getD i 0) else m) (keepShadow m line)
  let m := bumpTag m line
  if poison then poisonLine m line else if whole then cleanLine m line else m

/-- The dirty bytes of a proxy slice's copy reach their home, and the copy is clean (R205). -/
def cleanProxy (s : State) (die line : Nat) : State :=
  match proxyAt s die line with
  | some c =>
    if c.mask = 0 then s
    else putProxy { s with mem := mergeHome s.mem line c.data c.mask c.poison c.whole } die { c with mask := 0, whole := false }
  | none => s

/-! ### Pieces of a virtual range -/

/-- The distinct ZERO pages (64 KiB) among accesses that write: a page that has its frame by now takes none (R222). -/
def zeroPages (s : State) (k : Nat) (l : List (Acc × Trans)) : List Nat :=
  ((l.filter (fun e => e.2.attr.zero && (match walk s k e.1.addr with
    | some t => t.attr.zero
    | none => false))).map (fun e => e.1.addr / 65536)).dedup

/-- The edits that give first-written ZERO pages their fresh frames (R222): each page with a reserved frame. -/
def reserveZero (s : State) (f : Focus) (g : Group) (k : Nat) (pages : List Nat) : State :=
  pages.foldl (fun s q =>
    let r := takeFrame s k
    { r.2 with
      fresh := s.fresh + 1
      edits := r.2.edits ++ [{ id := s.fresh, ctx := k, die := coreDie (gidCore f.gid), core := gidCore f.gid
                               gid := f.gid, uid := g.uid, lanes := 0, scope := .sys, op := .zeroPage (q * 65536)
                               ranges := [(q * 65536, 65536)], frames := [r.1], waits := [], committed := false
                               upTo := 0, pte := false }] }) s

end Sys2Proof.Machine
end

