-- ==== Sys2Proof/Machine/Fetch.lean ====
section
/-! DEFINITION. Runs of a group (09 R120-R122) and the fetch of an instruction (05 R53-R55, 21 R284 cause 0x09): which
runs are eligible and in what order, the words at a counter, and the decode that a partition's accepted
features give (27 R355). -/

namespace Sys2Proof.Machine

/-! ### Runs -/

/-- A run: lanes that hold the same counter; rep marks the run that is executing a repeat. -/
structure Run where
  lanes : LaneMask
  pc : Pc
  rep : Bool
  deriving DecidableEq, Repr

/-- Waits that do not block a run: its next instruction waits and the run stays eligible (R121). -/
def whySoft : Why → Bool
  | .operand | .release _ | .acquire | .edits | .engFence | .atomicDone => true
  | _ => false

/-- INFL of the transaction word at a scratchpad offset of a team: its bits 30:21 of bytes 12-15 (R253). -/
def inflOf (s : State) (tm : Team) (off : Nat) : Nat := leNat (sramRead s tm (decide (2 ^ 20 ≤ off)) (off % 2 ^ 20 + 12) 4) / 2 ^ 21 % 1024

/-- Whether a core has room for an engine operation (R16, R248, R271): free range-lock entries, a copy slot
or a queue entry, and INFL below its largest value in each word. -/
def engineRoom (s : State) (core : Nat) (press : Bool) (need : Nat) (words : List (Nat × Nat)) : Bool :=
  decide (((coreAt s core).locks.filter (fun l => !l.cont)).length + need ≤ 96) &&
  decide (((s.ops.filter (fun o => o.core == core && o.press == press)).length) < (if press then 32 else 64)) &&
  words.all (fun w => decide (inflOf s (teamAt s w.1) w.2 < 1023))

/-- Whether a blocked run still waits; the other waits end by the step that satisfies them (R121). -/
def blockHolds (s : State) (gid : Nat) (g : Group) (b : Block) : Bool :=
  match b.why with
  | .results | .closing => !(pendsOf g b.lanes).isEmpty
  | .misuse => !(g.pends.any (fun p => meets p.lanes b.lanes && p.fault.isSome && !p.held))
  | .repEnd => g.rep.active
  | .stored => s.reqs.any (fun r => r.uid == g.uid && meets r.lanes b.lanes && r.stage != .accepted &&
      (match r.kind with
        | .store _ | .wb _ _ => true
        | _ => false))
  | .held => s.reqs.any (fun r => r.uid == g.uid && (r.stage == .queued || r.stage == .refused) &&
      (match r.kind with
        | .store _ | .wb _ _ => true
        | _ => false))
  | .accept k rs => s.edits.any (fun e => e.ctx == k && !e.committed &&
      e.ranges.any (fun a => rs.any (fun b => overlaps a.1 a.2 b.1 b.2))) || (rs.isEmpty && !(ctxAt s k).pool.heldFrames.isEmpty)
  | .window k w => s.xfers.any (fun x => x.ctx == k && x.win == w)
  | .locks press need words => !engineRoom s (gidCore gid) press need words
  | w => !whySoft w

/-- The lanes that blocks hold. -/
def heldLanes (s : State) (gid : Nat) (g : Group) : LaneMask :=
  g.blocks.foldl (fun m b => if blockHolds s gid g b then m ||| b.lanes else m) 0

/-- The lanes that may issue: unexited, the handler's alone while HMODE is 1 (R288), not blocked, not
stopped at a safe point (R299). -/
def freeLanes (s : State) (gid : Nat) (g : Group) : LaneMask :=
  let all := if hmode g then g.hlanes else 0xFFFFFFFF
  all &&& ~~~g.exited &&& ~~~g.safeStop &&& ~~~heldLanes s gid g

/-- Insert a run into a table ordered by counter, the repeating run first (R120). -/
def insertRun (r : Run) : List Run → List Run
  | [] => [r]
  | x :: xs =>
    if r.pc.toNat < x.pc.toNat ∨ (r.pc = x.pc ∧ r.rep = true) then r :: x :: xs else x :: insertRun r xs

/-- Add a lane to the run of its counter. -/
def addLane (g : Group) (l : Nat) : List Run → List Run
  | [] => [{ lanes := laneBit l, pc := pcGet g l, rep := false }]
  | x :: xs =>
    if x.pc = pcGet g l then { x with lanes := x.lanes ||| laneBit l } :: xs else x :: addLane g l xs

/-- The counter table of some lanes: the eligible runs in order (R120). -/
def runsAmong (g : Group) (lanes : LaneMask) : List Run :=
  let repLanes := if g.rep.active && !hmode g then g.rep.lanes &&& lanes else 0
  let others := ((lanesOf (lanes &&& ~~~repLanes)).foldl (fun rs l => addLane g l rs) []).foldl
    (fun rs r => insertRun r rs) []
  if repLanes = 0 then others
  else insertRun { lanes := repLanes, pc := pcGet g (lowLane repLanes), rep := true } others
def runsOf (s : State) (gid : Nat) (g : Group) : List Run := runsAmong g (freeLanes s gid g)

/-- The age of a run: the greatest of its lanes' (R122). -/
def runAge (g : Group) (r : Run) : Nat := (lanesOf r.lanes).foldl (fun a l => max a (mapGet 0 g.ages l)) 0

/-- The run that the second port serves in place of the second lowest (R122). While HMODE is 1 ages stand still (R288), and no
run is promoted, whatever its age (DEDUCED, log entry 18). -/
def promotedRun (g : Group) (runs : List Run) : Option Run :=
  if hmode g then none
  else
    match leastBy (fun r => 2 ^ 64 - runAge g r) ((runs.drop 2).filter (fun r => decide (4096 ≤ runAge g r))) with
    | some r => some r
    | none => none

/-- Ages after a clock: the served runs' become 0, the other eligible runs' rise by 1 (R122). In the clock whose first port has entered
the handler HMODE is 1 by then and they stand still (R288; DEDUCED, log entry 18). -/
def ageRuns (g : Group) (runs served : List Run) : Group :=
  if hmode g then g
  else
    { g with ages := runs.foldl (fun m r =>
        (lanesOf r.lanes).foldl (fun m l =>
          mapSet 0 m l (if served.contains r then 0 else runAge g r + 1)) m) g.ages }

/-! ### Fetch -/

/-- What a fetch finds: the word, a cause with INFO for the handler or the supervisor, or a bin still to wake. -/
inductive Fetched where
  | word (w : IWord)
  | cause (code info : Nat) (sup : Bool)
  | asleep (bin : Nat)
  deriving DecidableEq, Repr

/-- The translation that a fetch uses: a cached one that names a frame of the current generation, or the walk's. -/
def fetchTrans (s : State) (core k va : Nat) : Option Trans :=
  match translate s core k va with
  | some t => if t.gen = genOf s.mem k t.attr t.pa ∧ onFrame t.attr = true then some t else walk s k va
  | none => none

/-- The word at an address of a context: a page without a translation for a fetch is cause 0x09; a page the host
owns 0x47, a bin in D 0x4A, a poisoned line 0xB1 (R170, R284, R302), and so is what a bin that is not the partition's answers
(R351). A bin of the word or of a walk's tables that sleeps is woken first (R345). -/
def fetchWord (s : State) (core k va : Nat) : Fetched :=
  match fetchTrans s core k va, walkAsleep s core k va with
  | _, some b => .asleep b
  | none, none => .cause 0x09 va false
  | some t, none =>
    if t.attr.zb || t.attr.zero || t.attr.fmt then .cause 0x09 va false
    else if t.attr.host && !t.attr.owner then .cause 0x47 va true
    else
      let pa := transPa t va
      match atHome s (ctxPart k) pa with
      | .dead c => if c = 0xB5 then .cause 0x4A va true else .cause 0xB1 (va / 128 * 128) false
      | .asleep => .asleep (binOf pa)
      | .ok =>
        if rangePoisoned s.mem pa 4 then .cause 0xB1 (va / 128 * 128) false
        else .word (wordOfBytes (homeRead s.mem pa 4))

/-- The physical address that a fetch of a word reaches. -/
def fetchPa (s : State) (core k va : Nat) : Option Nat :=
  match fetchTrans s core k va with
  | none => walkDead s k va
  | some t => if t.attr.zb || !onFrame t.attr then none else some (transPa t va)

/-- The number of words of an instruction, its liveness word counted (R55). -/
def wordsOf (w : IWord) : Nat := (if hasSecond w then 2 else 1) + (if Dec.fS w then 1 else 0)
/-- The address n words on, modulo 2^56 (R120). -/
def pcPlus (pc : Pc) (n : Nat) : Pc := pc + BitVec.ofNat 56 (4 * n)

/-- Majors whose instructions close lookahead windows, and every instruction at a safe point (R77). -/
def closes (w : IWord) : Bool :=
  let m := (Dec.fMajor w).toNat
  decide ((0x30 ≤ m ∧ m ≤ 0x33) ∨ (0x35 ≤ m ∧ m ≤ 0x38)) || Dec.fS w

/-- What the words at a counter are: an instruction, its first word; or a cause. -/
inductive FetchedInstr where
  | instr (i : Instr) (w : IWord)
  | cause (code info : Nat) (sup : Bool)
  | asleep (bin : Nat)
  deriving DecidableEq, Repr

/-- The cause that an unaccepted feature gives an instruction of these words (R355). -/
def featureCause (s : State) (p : Nat) (w x : IWord) : Option (BitVec 8) :=
  let m := (Dec.fMajor w).toNat
  let minor := (Dec.fLow w).toNat
  if m = 0x27 && !feature s p 0 then some 0x00
  else if m = 0x2E && !feature s p 1 then some 0x00
  else if m = 0x2D && minor = 4 && !feature s p 2 then some 0x01
  else if m = 0x29 && (minor = 3 || minor = 4) && !feature s p 5 then some 0x01
  else if m = 0x29 && (minor = 1 || minor = 2) && !feature s p 6 then some 0x01
  else if m = 0x2B && minor = 0 && (Dec.eCls x).toNat = 6 && !feature s p 6 then some 0x01
  else if (m = 0x21 || m = 0x22) && (Dec.fB w).toNat = 0x20 && !feature s p 7 then some 0x01
  else if m = 0x28 && minor = 4 && !feature s p 8 then some 0x01
  else none

/-- Decode for a partition: the lowest cause of the words and of the features (R68, R355). -/
def decodeFor (s : State) (p : Nat) (w x : IWord) : Decoded :=
  match decode w x, featureCause s p w x with
  | .ok i, none => .ok i
  | .ok _, some c => .reject c
  | .reject c, none => .reject c
  | .reject c, some d => .reject (if d.toNat < c.toNat then d else c)

/-- A word whose register fields are stepped for iteration i of a repeat (R73). -/
def stepWord (w : IWord) (i sd sa sb : Nat) : IWord :=
  w + BitVec.ofNat 32 (2 ^ 18 * (i * sd) + 2 ^ 11 * (i * sa) + 2 ^ 4 * (i * sb))

/-- The instruction at a counter of a group, its register fields stepped by the given amounts. The words are read in order, each
where the one before it says that it is there, and decoded together: what the fetch of the second finds is reported before a decode
cause of the first, also where that decode cause needs no second word (DEDUCED, log entry 24). -/
def fetchInstr (s : State) (gid : Nat) (k : Nat) (pc : Pc) (i sd sa sb : Nat) : FetchedInstr :=
  let core := gidCore gid
  match fetchWord s core k pc.toNat with
  | .cause c x u => .cause c x u
  | .asleep b => .asleep b
  | .word w0 =>
    let w := stepWord w0 i sd sa sb
    match (if hasSecond w then fetchWord s core k (pcPlus pc 1).toNat else .word 0) with
    | .cause c x u => .cause c x u
    | .asleep b => .asleep b
    | .word x =>
      match decodeFor s (ctxPart k) w x with
      | .ok i => .instr i w
      | .reject c => .cause c.toNat 0 false

/-- The physical addresses that the fetch of an instruction reaches, with those of the rep before it, and the bins of the tables
on the way to them. -/
def fetchPas (s : State) (core k : Nat) (vas : List Nat) : List Nat :=
  (vas.map (fun va => (fetchPa s core k va).toList ++
    (if (coreAt s core).tlb.any (fun t => transCovers t k va) then [] else tableSlots s k va))).flatten.dedup

/-- What a fetch leaves at a home that it has reached: an access to its bin (R345), or the cause of a bin that is not the
partition's (R351). -/
def visitHome (p : Nat) (s : State) (pa : Nat) : State :=
  match atHome s p pa with
  | .ok => touchBin s pa
  | .dead c => if c = 0xB5 then s else postFabric s p pa (some c)
  | .asleep => s

/-- A step code of a repeat: 0, 1, 2 or 4 (R72). -/
def repStep (c : BitVec 2) : Nat :=
  match c.toNat with
  | 0 => 0 | 1 => 1 | 2 => 2 | _ => 4

end Sys2Proof.Machine
end

