-- ==== Sys2Proof/Machine/Aes.lean ====
section
/-! DEFINITION. AES-256 (FIPS 197) and the XTS mode of IEEE 1619 with a data unit of 128 bytes, which format windows
use (25 R340). Bytes are natural numbers below 256; a block is a list of 16. -/

namespace Sys2Proof.Machine

/-- Multiplication by x in the field of AES. -/
def gfDouble (a : Nat) : Nat := if a < 128 then 2 * a else Nat.xor (2 * a % 256) 0x1B

/-- Multiplication in the field of AES; the first argument bounds the bits of b. -/
def gfMul : Nat → Nat → Nat → Nat
  | 0, _, _ => 0
  | n + 1, a, b => Nat.xor (if b % 2 = 1 then a else 0) (gfMul n (gfDouble a) (b / 2))

/-- The inverse in the field, 0 for 0: a to the 254th. -/
def gfInv (a : Nat) : Nat :=
  let m := gfMul 8
  let a2 := m a a
  let a4 := m a2 a2
  let a8 := m a4 a4
  let a16 := m a8 a8
  let a32 := m a16 a16
  let a64 := m a32 a32
  let a128 := m a64 a64
  m a2 (m a4 (m a8 (m a16 (m a32 (m a64 a128)))))

/-- A byte rotated left. -/
def rotByte (a n : Nat) : Nat := (a * 2 ^ n) % 256 + a / 2 ^ (8 - n)

/-- The S-box and its inverse. -/
def sbox (a : Nat) : Nat :=
  let b := gfInv a
  Nat.xor (Nat.xor (Nat.xor (Nat.xor (Nat.xor b (rotByte b 1)) (rotByte b 2)) (rotByte b 3)) (rotByte b 4)) 0x63
def invSbox (a : Nat) : Nat :=
  gfInv (Nat.xor (Nat.xor (Nat.xor (rotByte a 1) (rotByte a 3)) (rotByte a 6)) 0x05)

def xorBytes (a b : List Nat) : List Nat := (a.zip b).map (fun e => Nat.xor e.1 e.2)

/-- The round constant of key-expansion step i. -/
def rcon : Nat → Nat
  | 0 => 1
  | n + 1 => gfDouble (rcon n)

/-- The key schedule of AES-256, words of four bytes, newest first: n more words after the first eight. -/
def expandKey (key : List (List Nat)) : Nat → List (List Nat)
  | 0 => key.reverse
  | n + 1 =>
    let ws := expandKey key n
    let i := n + 8
    let prev := ws.headD []
    let t :=
      if i % 8 = 0 then
        let r := (prev.drop 1 ++ prev.take 1).map sbox
        xorBytes r [rcon (i / 8 - 1), 0, 0, 0]
      else if i % 8 = 4 then prev.map sbox
      else prev
    xorBytes (ws.getD 7 []) t :: ws

/-- A list cut into pieces of four. -/
def fours : Nat → List Nat → List (List Nat)
  | 0, _ => []
  | n + 1, l => l.take 4 :: fours n (l.drop 4)

/-- The fifteen round keys of a 32-byte key. -/
def roundKeys (key : List Nat) : List (List Nat) :=
  let ws := (expandKey (fours 8 key) 52).reverse
  (List.range 15).map (fun r => ((ws.drop (4 * r)).take 4).flatten)

/-- ShiftRows and its inverse: byte r + 4 c of the block is row r of column c. -/
def shiftRows (b : List Nat) : List Nat :=
  (List.range 16).map (fun i => b.getD (i % 4 + 4 * ((i / 4 + i % 4) % 4)) 0)
def invShiftRows (b : List Nat) : List Nat :=
  (List.range 16).map (fun i => b.getD (i % 4 + 4 * ((i / 4 + 4 - i % 4) % 4)) 0)

/-- A column times a circulant row of the field. -/
def mixWith (m : List Nat) (b : List Nat) : List Nat :=
  (List.range 16).map (fun i =>
    (List.range 4).foldl (fun a j => Nat.xor a (gfMul 8 (b.getD (i / 4 * 4 + j) 0) (m.getD ((j + 4 - i % 4) % 4) 0))) 0)
def mixColumns : List Nat → List Nat := mixWith [2, 3, 1, 1]
def invMixColumns : List Nat → List Nat := mixWith [14, 11, 13, 9]

/-- Encryption of one block. -/
def aesEncrypt (ks : List (List Nat)) (b : List Nat) : List Nat :=
  let b := xorBytes b (ks.getD 0 [])
  let b := ((ks.drop 1).take 13).foldl (fun b k => xorBytes (mixColumns (shiftRows (b.map sbox))) k) b
  xorBytes (shiftRows (b.map sbox)) (ks.getD 14 [])

/-- Decryption of one block. -/
def aesDecrypt (ks : List (List Nat)) (b : List Nat) : List Nat :=
  let b := xorBytes b (ks.getD 14 [])
  let b := ((ks.drop 1).take 13).reverse.foldl
    (fun b k => invMixColumns (xorBytes ((invShiftRows b).map invSbox) k)) b
  xorBytes ((invShiftRows b).map invSbox) (ks.getD 0 [])

/-- The tweak of the next block: multiplication by the primitive element, bytes little-endian (IEEE 1619). -/
def nextTweak (t : List Nat) : List Nat :=
  let carry := t.getD 15 0 / 128
  (List.range 16).map (fun i =>
    let low := if i = 0 then (if carry = 1 then 0x87 else 0) else t.getD (i - 1) 0 / 128
    Nat.xor (2 * t.getD i 0 % 256) low)

/-- Decryption of n blocks from a tweak. -/
def xtsBlocks (ks : List (List Nat)) : Nat → List Nat → List Nat → List Nat
  | 0, _, _ => []
  | n + 1, t, c => xorBytes (aesDecrypt ks (xorBytes (c.take 16) t)) t ++ xtsBlocks ks n (nextTweak t) (c.drop 16)

/-- The bytes of a number, little-endian. -/
def natBytes (n v : Nat) : List Nat := (List.range n).map (fun i => v / 2 ^ (8 * i) % 256)

/-- Decryption of a 128-byte line under a 512-bit key, whose byte i is bits 8i+7:8i, with a tweak (R340). -/
def xtsLine (key : BitVec 512) (tweak : Nat) (line : List Byte) : List Byte :=
  let kb := natBytes 64 key.toNat
  let t := aesEncrypt (roundKeys (kb.drop 32)) (natBytes 16 tweak)
  (xtsBlocks (roundKeys (kb.take 32)) 8 t (line.map (·.toNat))).map (BitVec.ofNat 8)

end Sys2Proof.Machine
end

