-- ==== Sys2Proof/Machine/View.lean ====
section
/-! DEFINITION. Format-window views (25 R338-R341): the line that a fill delivers, and the views' lines at their home
slices. -/

namespace Sys2Proof.Machine

/-- The window and the offset of a view address (R331, R338). -/
def viewWin (pa : Nat) : Nat := (pa - viewBase) / 2 ^ 47 % 16
def viewOff (pa : Nat) : Nat := (pa - viewBase) % 2 ^ 47
/-- A view address. -/
def viewPa (w off : Nat) : Nat := viewBase + w * 2 ^ 47 + off

/-- The fields of a window (R339). -/
def fwStore (x : FWin) : Nat := bitsOf x.store.toNat 16 36 * 65536
def fwLen (x : FWin) : Nat := bitsOf x.len.toNat 16 20
def fwScale (x : FWin) : Nat := bitsOf x.scale.toNat 7 45 * 128
def fwCols (x : FWin) : Nat := bitsOf x.ctl.toNat 20 12
def fwSlot (x : FWin) : Nat := bitsOf x.ctl.toNat 12 8
def fwDfmt (x : FWin) : Bool := x.ctl.getLsbD 5
def fwSfmt (x : FWin) : Bool := x.ctl.getLsbD 4
/-- The view is decoded to FP8. -/
def fwDecodes (x : FWin) : Bool := fwSfmt x && fwDfmt x
/-- Rows, RSOFF and the bytes of the scale region (R340). -/
def fwRows (x : FWin) : Nat := 2 ^ 17 * fwLen x / (64 * fwCols x)
def fwRsoff (x : FWin) : Nat := (fwRows x * fwCols x + 127) / 128 * 128
def fwScaleBytes (x : FWin) : Nat := fwRsoff x + 2 * fwRows x
/-- The length of the view. -/
def fwViewLen (x : FWin) : Nat := (if fwDecodes x then 2 ^ 17 else 2 ^ 16) * fwLen x

/-- A decrypted byte of a stored range at a physical address. -/
def plainByte (m : Mem) (key : BitVec 512) (a : Nat) : Nat :=
  ((xtsLine key (lineOf a) (homeLine m (lineOf a))).getD (a % 128) 0).toNat

/-- The stored line that a view line is decoded from: it gives the view line its home (R338). -/
def viewStored (x : FWin) (v : Nat) : Nat := lineOf (fwStore x + (if fwDecodes x then v / 2 else v))
/-- The stored lines that a view line is made of, those of its scales among them. -/
def viewSources (x : FWin) (v : Nat) : List Nat :=
  if fwDecodes x then
    let row := fun (k : Nat) => k / (64 * fwCols x)
    let blk := fun (k : Nat) => k % (64 * fwCols x) / 64
    ([viewStored x v] ++ ([v, v + 63, v + 64, v + 127].map (fun k => lineOf (fwScale x + row k * fwCols x + blk k))) ++
      ([v, v + 63, v + 64, v + 127].map (fun k => lineOf (fwScale x + fwRsoff x + 2 * row k)))).dedup
  else [viewStored x v]

/-- The bytes of a view line under a key (R340). -/
def viewBytes (m : Mem) (x : FWin) (key : BitVec 512) (v : Nat) : List Byte :=
  if fwDecodes x then
    let byteAt := plainByte m key
    (List.range 128).map (fun i =>
      let k := v + i
      let q := byteAt (fwStore x + k / 2) / 16 ^ (k % 2) % 16
      let r := k / (64 * fwCols x)
      let blk := k % (64 * fwCols x) / 64
      let sub := byteAt (fwScale x + r * fwCols x + blk)
      let ra := fwScale x + fwRsoff x + 2 * r
      let rs := byteAt ra + 256 * byteAt (ra + 1)
      BitVec.ofNat 8 (encodeF fmtE4m3 .rn false (q4rVal q sub rs)).1)
  else
    let a := fwStore x + v
    xtsLine key (lineOf a) (homeLine m (lineOf a))

/-- A poisoned line. -/
def deadLine (part win off slot : Nat) : ViewLine :=
  { part, win, off, slot, data := List.replicate 128 0, poison := true }

/-- What a fill of a view line finds: the line, and a cause for the supervisor (R303, R339, R340). -/
def viewFill (s : State) (p w v : Nat) : ViewLine × Option Nat :=
  let x := mapGet {} (partAt s p).fwins w
  let slot := fwSlot x
  let ks := mapGet {} s.out.slots slot
  if !x.valid || decide (fwViewLen x ≤ v) then (deadLine p w v slot, some 0xB6)
  else
    match ks.key with
    | none => (deadLine p w v slot, some 0xB4)
    | some key =>
      if ks.emptying || !slotOwned s p slot then (deadLine p w v slot, some 0xB4)
      else
        let src := viewSources x v
        match src.findSome? (fun l => match atHome s p (128 * l) with
          | .dead c => some c
          | _ => none) with
        | some c => (deadLine p w v slot, some c)
        | none => ({ part := p, win := w, off := v, slot, data := viewBytes s.mem x key v
                     poison := src.any s.mem.poison.contains }, none)

/-- The partition whose supervisor hears of a fill that fails (R351): of a stored line in another partition's bin that partition. -/
def viewPart (s : State) (p w v c : Nat) : Nat :=
  match (viewSources (mapGet {} (partAt s p).fwins w) v).find? (fun l => atHome s p (128 * l) == .dead c) with
  | some l => fabricPart s p (128 * l) c
  | none => p

/-- A view line that a slice holds. -/
def viewAt (s : State) (p w v : Nat) : Option ViewLine :=
  s.mem.views.find? (fun l => l.part == p && l.win == w && l.off == v)

/-- A bin that must wake before a view line can be filled. -/
def viewAsleep (s : State) (p w v : Nat) : Option Nat :=
  ((viewSources (mapGet {} (partAt s p).fwins w) v).find? (fun l => atHome s p (128 * l) == .asleep)).map
    (fun l => binOf (128 * l))

/-- A view line enters its home slice: its stored lines have been read (R345). -/
def holdView (s : State) (l : ViewLine) : State :=
  let s := (viewSources (mapGet {} (partAt s l.part).fwins l.win) l.off).foldl (fun s n => touchBin s (128 * n)) s
  { s with mem := { s.mem with views := l :: s.mem.views } }

/-- The view line, filled where no slice holds it; a failed fill raises its cause and holds nothing. -/
def viewGet (s : State) (p w v : Nat) : ViewLine × State :=
  match viewAt s p w v with
  | some l => (l, s)
  | none =>
    match viewFill s p w v with
    | (l, some c) => (l, postNoGroup s (256 * viewPart s p w v c) c (viewPa w v))
    | (l, none) => (l, holdView s l)

/-- VIEW_LINE_FILL: a request for a view line that no slice holds fetches and decodes it (R340). A pref wakes no bin (R161). -/
def execViewLineFill (part win line : Nat) (s : State) : Result :=
  let wanted := s.reqs.filter (fun r => r.stage == .queued && r.attr.fmt && ctxPart r.ctx == part &&
    lineOf r.pa == lineOf (viewPa win (128 * line)))
  if !wanted.isEmpty && (viewAt s part win (128 * line)).isNone then
    match viewAsleep s part win (128 * line) with
    | some b => if needsWake s b && wanted.any (fun r => !isPref r) then .next (wakeBin s b) else .fault .notEnabled
    | none =>
      match viewFill s part win (128 * line) with
      | (l, none) => .next (holdView s l)
      | (l, some c) =>
        -- every request that waits for the line receives poison
        let hit := fun (r : Req) => r.stage == .queued && r.attr.fmt && ctxPart r.ctx == part &&
          lineOf r.pa == lineOf (viewPa win (128 * line))
        let rs := (s.reqs.filter (fun r => !(isPref r && hit r))).map (fun r =>
          if hit r then { r with stage := .accepted, data := l.data, poison := true, fill := false, tag := 0xB1 } else r)
        -- a pref's line is dropped silently (R161)
        let s' := { s with reqs := rs }
        .next (if wanted.all isPref then s'
          else postNoGroup s' (256 * viewPart s part win (128 * line) c) c (viewPa win (128 * line)))
  else .fault .notEnabled

end Sys2Proof.Machine
end

