-- ==== Sys2Proof/Machine/Tables.lean ====
section
/-! DEFINITION. Edits of a context's page tables (17 R223-R227, R231, R235, R238): the tables that an edit needs, the
leaves it writes, generations and mapping counts. -/

namespace Sys2Proof.Machine

/-- A page-table edit in progress: the state, the frames reserved for it, and the die of the graft unit. -/
structure Work where
  s : State
  avail : List Nat

/-- A fresh frame, zero-filled: a reserved one, else the pool's next (R226, R232). -/
def Work.take (w : Work) (k : Nat) : Nat × Work :=
  match w.avail with
  | a :: rest => (a, { s := { w.s with mem := zeroFill w.s.mem (a / 65536) }, avail := rest })
  | [] =>
    let r := takeFrame w.s k
    (r.1, { s := { r.2 with mem := zeroFill r.2.mem (r.1 / 65536) }, avail := [] })

/-- Bytes of a table at a level (R233). -/
def tableSize : Nat → Nat
  | 0 => 256
  | 4 => 2048
  | _ => 4096

/-- The lowest free aligned offset of the partly used table frame (R235). -/
def tableHole (used : List (Nat × Nat)) (size : Nat) : Option Nat :=
  ((List.range (65536 / size)).map (· * size)).find? (fun o =>
    !used.any (fun u => overlaps o size u.1 u.2))

/-- A new table (R235). -/
def Work.table (w : Work) (k level : Nat) : Nat × Work :=
  let size := tableSize level
  let p := (ctxAt w.s k).pool
  match p.tableFrame, tableHole p.tablesUsed size with
  | some fr, some o =>
    (fr + o, { w with s := updCtx w.s k (fun c => { c with pool := { p with tablesUsed := List.cons (o, size) p.tablesUsed } }) })
  | _, _ =>
    let r := w.take k
    let s := { r.2.s with mem := { r.2.s.mem with tables := insertNat r.2.s.mem.tables (r.1 / 65536) } }
    let s := updCtx s k (fun c =>
      { c with pool := { c.pool with tableFrame := some r.1, tablesUsed := [(0, size)] } })
    (r.1, { r.2 with s })

/-- Write an entry of a page table. -/
def writeEntry (s : State) (slot e : Nat) : State := { s with mem := homeWrite s.mem slot (leBytes 8 e) }

/-- The entry of a smaller page within a leaf (R238): its address is that far into the page. -/
def partEntry (e off : Nat) : Nat :=
  let a := pteAttr e
  if a.zero || (a.host && !a.owner) then e else e + off

/-- The slot of an address at a level, with the tables on the way to it (R235); a larger leaf on the way is split into
the leaves of the next level (R238). -/
def Work.descend (k va target : Nat) : Nat → Nat → Work → Nat × Work
  | 0, table, w => (pteSlot 0 table va, w)
  | level + 1, table, w =>
    let slot := pteSlot (level + 1) table va
    if level + 1 = target then (slot, w)
    else
      let e := leNat (homeRead w.s.mem slot 8)
      if pteV e && !pteLeaf e then Work.descend k va target level (pteAddr e) w
      else
        let r := w.table k level
        let s := writeEntry r.2.s slot (r.1 + 1)
        let s := if pteV e then
            (List.range (2 ^ (levelBits level).2)).foldl (fun s i =>
              writeEntry s (r.1 + 8 * i) (partEntry e (i * levelSize level))) s
          else s
        Work.descend k va target level r.1 { r.2 with s }

/-- The root table of a context (R235). -/
def rootTable (s : State) (k : Nat) : Nat := bitsOf (ctxAt s k).ptbase.toNat 11 41 * 2048

/-- An entry is set; one of a table in a bin that the partition does not reach is not written (R351). -/
def Work.setEntry (w : Work) (k va level e : Nat) : Work :=
  if (walkDead w.s k va).isSome then w else
  let r := Work.descend k va level 4 (rootTable w.s k) w
  { r.2 with s := writeEntry r.2.s r.1 e }

/-- A change of a mapping: the page of a level at va gets an entry, 0 for none. -/
structure Chg where
  va : Nat
  level : Nat
  entry : Nat
  deriving DecidableEq, Repr

/-- The entry of a 64 KiB page within a leaf of a level (R238). -/
def smallEntry (level e va : Nat) : Nat :=
  if level = 0 then e else partEntry e (va % levelSize level / 65536 * 65536)

/-- The mapping of a 64 KiB page: its level and its entry as a 64 KiB leaf. -/
def pageEntry (s : State) (k va : Nat) : Option (Nat × Nat) :=
  match walkCtx s k va with
  | some (f, true) => some (f.level, smallEntry f.level f.entry va)
  | _ => none

/-- The frame that an entry maps, where it maps one of the cellar. -/
def entryFrame (e : Nat) : Option Nat :=
  if pteV e && onFrame (pteAttr e) then some (pteAddr e / 65536) else none
/-- The frame that an entry of a context maps, of the cellar or of a view, by the number of its generation and its count. -/
def entryKey (k e : Nat) : Option Nat :=
  if pteV e && (onFrame (pteAttr e) || (pteAttr e).fmt) then some (genFrame k (pteAttr e) (pteAddr e)) else none

/-- Bytes of the 64 KiB pages of a change. -/
def Chg.pages (c : Chg) : List (Nat × Nat) :=
  (List.range (levelSize c.level / 65536)).map (fun i =>
    let va := c.va + i * 65536
    (va, if c.entry = 0 then 0 else smallEntry c.level c.entry va))

/-- The old and new entry of every page that changes. -/
def pageChanges (s : State) (k : Nat) (cs : List Chg) : List (Nat × Nat × Nat) :=
  ((cs.map Chg.pages).flatten).map (fun e =>
    (e.1, (match pageEntry s k e.1 with
      | some x => x.2
      | none => 0), e.2))

/-- Entries that map a page in the same way, but for the bits that hardware ignores. -/
def sameLeaf (a b : Nat) : Bool := a % 2 ^ 58 == b % 2 ^ 58

/-- The frames whose generation an edit bumps (R223): those that lose a page, by a supervisor's edit also those whose page
changes its attributes (R236), and those that gain a page and had none before; the frames of views among them (R234, R338). -/
def bumped (s : State) (k : Nat) (attrs : Bool) (pcs : List (Nat × Nat × Nat)) : List Nat :=
  let lost := pcs.filterMap (fun c =>
    if sameLeaf c.2.1 c.2.2 || (!attrs && entryKey k c.2.1 == entryKey k c.2.2) then none else entryKey k c.2.1)
  let gained := pcs.filterMap (fun c =>
    match entryKey k c.2.2 with
    | some fr => if sameLeaf c.2.1 c.2.2 || mapGet 0 s.mem.counts fr ≠ 0 then none else some fr
    | none => none)
  (lost ++ gained).dedup

/-- A frame's generation changes: what SHADOW copies kept of the frame is of no use any more (R201). -/
def setGen (m : Mem) (fr : Nat) (g : BitVec 16) : Mem :=
  { m with gens := mapSet 0 m.gens fr g, shadows := mapKeep m.shadows (fun l _ => frameOf (128 * l) != fr) }
/-- The next generation (R223). -/
def bumpGen (m : Mem) (fr : Nat) : Mem := setGen m fr (mapGet 0 m.gens fr + 1)

/-! ### Large pages and their frames' generations (R220) -/

/-- The key of the block of frames that a leaf of a level from 1 on maps, the block of a frame, and a block's frames. -/
def blockKey (level fr : Nat) : Nat := level * 2 ^ 50 + fr / (levelSize level / 65536)
def blockFrames (key : Nat) : List Nat :=
  let n := levelSize (key / 2 ^ 50) / 65536
  (List.range n).map (fun i => key % 2 ^ 50 * n + i)
/-- The block that an entry of a level maps. -/
def entryBlock (k level e : Nat) : Option Nat :=
  if level = 0 then none else (entryKey k e).map (blockKey level)

/-- The large leaves that an edit takes away, those it splits among them, and those it adds. -/
def largeLost (s : State) (k : Nat) (cs : List Chg) (bases : List (Nat × Nat)) : List Nat :=
  (cs.filterMap (fun c => match pageEntry s k c.va with
    | some (l, e) => if l = c.level then entryBlock k l e else none
    | none => none)) ++
  bases.filterMap (fun b => match pageEntry s k (b.2 * levelSize b.1) with
    | some (l, e) => entryBlock k l e
    | none => none)
def largeGained (k : Nat) (cs : List Chg) : List Nat := cs.filterMap (fun c => entryBlock k c.level c.entry)
def countLarge (m : Mem) (lost gained : List Nat) : Mem :=
  let up := gained.foldl (fun l b => mapSet 0 l b (mapGet 0 l b + 1)) m.large
  { m with large := lost.foldl (fun l b => mapSet 0 l b (mapGet 0 l b - 1)) up }

/-- The blocks of large pages that hold one of some frames, or are mapped anew. -/
def blocksOf (m : Mem) (frames gained : List Nat) : List Nat :=
  ((frames.map (fun fr => [blockKey 1 fr, blockKey 2 fr])).flatten ++ gained).dedup.filter (fun b => mapGet 0 m.large b != 0)
/-- The greatest generation in a block. -/
def blockTop (m : Mem) (b : Nat) : Nat :=
  (blockFrames b).foldl (fun g fr => max g (mapGet 0 m.gens fr).toNat) 0
/-- Frames get their next generations, and the frames of a large page stay at one generation: where one of them is bumped all
get the generation after the greatest. old is the memory before the edit. -/
def bumpFrames (old m : Mem) (frames blocks : List Nat) : Mem :=
  blocks.foldl (fun m b =>
    let top := BitVec.ofNat 16 (blockTop old b)
    let g := if (blockFrames b).any frames.contains then top + 1 else top
    (blockFrames b).foldl (fun m fr => if mapGet 0 m.gens fr = g then m else setGen m fr g) m) (frames.foldl bumpGen m)

/-- The mapping count of a frame rises with a page it gains. -/
def countGain (k : Nat) (m : Mem) (c : Nat × Nat × Nat) : Mem :=
  match entryKey k c.2.2 with
  | some fr => { m with counts := mapSet 0 m.counts fr (mapGet 0 m.counts fr + 1) }
  | none => m
/-- It falls with a page it loses; a frame of the cellar whose count reaches 0 is to be released (R231). -/
def countLoss (k : Nat) (m : Mem) (c : Nat × Nat × Nat) : Mem :=
  match entryKey k c.2.1 with
  | some fr =>
    let n := mapGet 0 m.counts fr - 1
    { m with counts := mapSet 0 m.counts fr n
             releasing := if n = 0 && (entryFrame c.2.1).isSome then m.releasing ++ [(k, fr)] else m.releasing }
  | none => m

/-- The larger pages that changes touch in part, each with its level (R238). -/
def splitBases (s : State) (k : Nat) (cs : List Chg) : List (Nat × Nat) :=
  (cs.filterMap (fun c => match pageEntry s k c.va with
    | some (l, _) => if c.level < l then some (l, c.va / levelSize l) else none
    | none => none)).dedup

/-- The frames of a larger page. -/
def splitFrames (s : State) (k : Nat) (b : Nat × Nat) : List Nat :=
  match pageEntry s k (b.2 * levelSize b.1) with
  | some (_, e) =>
    (match entryKey k e with
      | some fr => (List.range (levelSize b.1 / 65536)).map (fr + ·)
      | none => [])
  | none => []

/-- Write the entries of an edit; tables and leaves only. -/
def Work.writeAll (w : Work) (k : Nat) (cs : List Chg) : Work :=
  cs.foldl (fun w c =>
    if c.entry = 0 && (pageEntry w.s k c.va).isNone then w else w.setEntry k c.va c.level c.entry) w

/-- The frames that an edit bumps, those of the pages it splits among them (R223, R238). -/
def editFrames (s : State) (k : Nat) (attrs : Bool) (cs : List Chg) : List Nat :=
  (bumped s k attrs (pageChanges s k cs) ++ ((splitBases s k cs).map (splitFrames s k)).flatten).dedup

/-- Whether a commit would take a generation from 0xFFFF to 0 (R227). -/
def wrapsGen (s : State) (k : Nat) (attrs : Bool) (cs : List Chg) : Bool :=
  let frames := editFrames s k attrs cs
  let gained := largeGained k cs
  frames.any (fun fr => mapGet 0 s.mem.gens fr == 0xFFFF) ||
    (blocksOf (countLarge s.mem (largeLost s k cs (splitBases s k cs)) gained) frames gained).any (fun b =>
      (blockFrames b).any frames.contains && blockTop s.mem b == 0xFFFF)

/-- Translations of pages leave a core's cache. -/
def dropTlb (s : State) (core k : Nat) (ranges : List (Nat × Nat)) : State :=
  updCore s core (fun c => { c with tlb := c.tlb.filter (fun t =>
    !(t.ctx == k && ranges.any (fun r => overlaps t.va t.size r.1 r.2))) })
/-- Translations of pages leave every core's cache. -/
def dropTlbEvery (s : State) (k : Nat) (ranges : List (Nat × Nat)) : State :=
  (mapKeys s.cores).foldl (fun s c => dropTlb s c k ranges) s
/-- Every translation of a context leaves every cache (R227). -/
def dropTlbAll (s : State) (k : Nat) : State :=
  { s with cores := mapAll s.cores (fun _ c => { c with tlb := c.tlb.filter (fun t => t.ctx != k) }) }

/-- A commit that wraps a generation waits for the requests of the context that are on their way (R227). -/
def wrapWaits (s : State) (k : Nat) (attrs : Bool) (cs : List Chg) : Bool :=
  wrapsGen s k attrs cs && s.reqs.any (fun r => r.ctx == k && r.stage == .queued)

/-- A SHADOW page more or less that maps a frame. -/
def countShadow (m : Mem) (up : Bool) (e : Nat) : Mem :=
  match entryFrame e with
  | some fr =>
    if (pteAttr e).shadow then
      { m with shadowed := mapSet 0 m.shadowed fr (if up then mapGet 0 m.shadowed fr + 1 else mapGet 0 m.shadowed fr - 1) }
    else m
  | none => m

/-- The commit of changes (R223, R227): entries, generations, counts. -/
def commitChanges (w : Work) (k : Nat) (attrs : Bool) (cs : List Chg) : Work :=
  let pcs := pageChanges w.s k cs
  let frames := editFrames w.s k attrs cs
  let lost := largeLost w.s k cs (splitBases w.s k cs)
  let w := if wrapsGen w.s k attrs cs then { w with s := dropTlbAll w.s k } else w
  let old := w.s.mem
  let w := w.writeAll k cs
  let m := countLarge w.s.mem lost (largeGained k cs)
  let m := bumpFrames old m frames (blocksOf m frames (largeGained k cs))
  let m := pcs.foldl (fun m c => countShadow (countShadow m true c.2.2) false c.2.1) m
  { w with s := { w.s with mem := pcs.foldl (countLoss k) (pcs.foldl (countGain k) m) } }

/-- How many frames the tables of changes take from the pool (R235). -/
def tablesNeeded (s : State) (k : Nat) (cs : List Chg) : Nat :=
  let w := Work.writeAll { s, avail := [] } k cs
  ((ctxAt w.s k).pool.head - (ctxAt s k).pool.head).toNat

/-- The leaf that gives a first-written ZERO page its fresh frame (R222): the page's attributes but ZERO. -/
def zeroLeaf (e frame : Nat) : Nat := e % 2 ^ 57 + e / 2 ^ 58 * 2 ^ 58 + frame

/-- A ZERO page gets a frame (R222). The page may be a part of a large ZERO leaf, which is split. -/
def commitZero (w : Work) (k va : Nat) : Work :=
  match pageEntry w.s k va with
  | some (_, e) =>
    if (pteAttr e).zero then
      let r := w.take k
      commitChanges r.2 k false [{ va := va / 65536 * 65536, level := 0, entry := zeroLeaf e r.1 }]
    else w
  | none => w

/-- The frames that the first writes of ZERO pages take: one for each, and those of tables where larger leaves split. -/
def zeroNeed (s : State) (k : Nat) (pages : List Nat) : Nat :=
  pages.length + tablesNeeded s k (pages.map (fun q => { va := q * 65536, level := 0, entry := 3 }))
/-- The first write of a ZERO page would wrap the generation of a frame and waits for that (R227). -/
def zeroWaits (s : State) (k va frame : Nat) : Bool :=
  match pageEntry s k va with
  | some (_, e) => wrapWaits s k false [{ va := va / 65536 * 65536, level := 0, entry := zeroLeaf e frame }]
  | none => false

/-- Reserved frames that an edit did not use return to the pool. -/
def returnFrames (w : Work) (k : Nat) : State := w.avail.foldl (fun s a => giveFrame s k a) w.s

end Sys2Proof.Machine
end

