-- ==== Sys2Proof/Machine/Move.lean ====
section
/-! DEFINITION. Bytes moved by transfers and engines: reads and writes of pieces of a context's address space at home
slices, with the poison that the bytes carry (11 R167, 15 R211, 17 R222, 19 R280, R281, 21 R302, R303). -/

namespace Sys2Proof.Machine

/-- A byte and whether it was read from a poisoned unit. -/
abbrev PByte := Byte × Bool
def pbytes (bs : List Byte) (bad : Bool) : List PByte := bs.map (fun b => (b, bad))
def plain (bs : List PByte) : List Byte := bs.map (·.1)
def anyBad (bs : List PByte) : Bool := bs.any (·.2)
/-- Bytes whose units are poisoned. -/
def badBytes (n : Nat) : List PByte := List.replicate n (0, true)

/-- The bytes of a frame at its home, for a partition's request; the cause of a request that is not performed (R303). -/
def readFrame (s : State) (p pa n : Nat) : List PByte × Option Nat :=
  match atHome s p pa with
  | .dead c => (badBytes n, some c)
  | _ =>
    ((List.range n).map (fun i => (homeByte s.mem (pa + i), s.mem.poison.contains (lineOf (pa + i)))), none)

/-- A line leaves a proxy slice; its dirty bytes are written back to a bin that is awake (R205). -/
def evictProxy (s : State) (die line : Nat) : State :=
  match proxyAt s die line, ownerPart s.out.binOwner (binOf (128 * line)) with
  | some c, some p =>
    if c.mask = 0 then dropProxy s die line
    else
      match atHome s p (128 * line) with
      | .ok => touchBin (dropProxy { s with mem := mergeHome s.mem line c.data c.mask c.poison c.whole } die line) (128 * line)
      | .dead x => postFabric (dropProxy s die line) p (128 * line) (some x)
      | .asleep => s
  | _, _ => dropProxy s die line

/-- Poison of the lines that a write touches: a line written whole is clean, and bytes from poisoned units poison theirs
(R302, R303). -/
def markLines (m : Mem) (pa : Nat) (bs : List PByte) : Mem :=
  let m := (wholeLines pa bs.length).foldl cleanLine m
  (linesOf pa bs.length).foldl (fun m l =>
    let lo := max pa (128 * l)
    if anyBad ((bs.drop (lo - pa)).take (128 * l + 128 - lo)) then poisonLine m l else m) m

/-- Bytes written into a frame at its home; a request that is not performed is dropped (R303). -/
def writeFrame (s : State) (p pa : Nat) (bs : List PByte) : State :=
  match atHome s p pa with
  | .dead c => postFabric s p pa (some c)
  | _ => touchBin { s with mem := markLines (homeWrite s.mem pa (plain bs)) pa bs } pa

/-- The translation of a page for an engine or a transfer, with the checks of R170 that follow order 3. -/
def pieceCheck (s : State) (k die : Nat) (u : Use) (va : Nat) : Except Nat Trans :=
  if 2 ^ 56 ≤ va then .error 0x4B
  else
    match walk s k va with
    | none => .error 0x40
    | some t =>
      match transCause die u t (transPa t va) with
      | some c => .error c
      | none =>
        match stateCause s t (transPa t va) with
        | some c => .error c
        | none => .ok t

/-- The view lines of a range, one after another. -/
def readView (s : State) (p pa : Nat) : Nat → List PByte × State
  | 0 => ([], s)
  | n + 1 =>
    let w := viewWin pa
    let v := viewOff pa
    let r := viewGet s p w (v / 128 * 128)
    let q := readView r.2 p (pa + 1) n
    ((r.1.data.getD (v % 128) 0, r.1.poison) :: q.1, q.2)

/-- The bytes of a piece of a page. -/
def readPiece (s : State) (k : Nat) (t : Trans) (va n : Nat) : List PByte × State :=
  let p := ctxPart k
  let pa := transPa t va
  let s := touchTables s k va
  if t.attr.zero then (List.replicate n (0, false), s)
  else if t.attr.fmt then readView s p pa n
  else
    let r := readFrame s p pa n
    (r.1, touchBin (postFabric s p pa r.2) pa)

/-- The bytes written into a piece of a page; a ZERO page first gets its frame (R222). -/
def writePiece (s : State) (k va : Nat) (bs : List PByte) : State :=
  match walk s k va with
  | none => s
  | some t =>
    let s := touchTables s k va
    if t.attr.zero then
      let w := commitZero { s, avail := [] } k va
      -- no translation cache keeps the page's ZERO mapping
      let s := dropTlbEvery w.s k [(va / 65536 * 65536, 65536)]
      match walk s k va with
      | some u => writeFrame s (ctxPart k) (transPa u va) bs
      | none => s
    else writeFrame s (ctxPart k) (transPa t va) bs

/-- A bin that a piece of a page waits for: of its tables, of the pool's ring where it may need a frame, of its line. -/
def pieceAsleep (s : State) (k va : Nat) : Option Nat :=
  match tableAsleep s k va, walk s k va with
  | some b, _ => some b
  | none, none => none
  | none, some t =>
    if t.attr.zero then (if t.attr.w then poolAsleep s k else none)
    else if t.attr.host && !t.attr.owner then none
    else if t.attr.fmt then viewAsleep s (ctxPart k) (viewWin (transPa t va)) (viewOff (transPa t va) / 128 * 128)
    else match atHome s (ctxPart k) (transPa t va) with
      | .asleep => some (binOf (transPa t va))
      | _ => none

/-- The lines at home that a byte's request reaches, of a view its stored line. -/
def vaLines (s : State) (k va : Nat) : List Nat :=
  match walk s k va with
  | none => []
  | some t =>
    let pa := transPa t va
    if t.attr.zero || (t.attr.host && !t.attr.owner) then []
    else if t.attr.fmt then [viewStored (mapGet {} (partAt s (ctxPart k)).fwins (viewWin pa)) (viewOff pa)]
    else [lineOf pa]
/-- The lines of a range of bytes. -/
def rangeHomes (s : State) (k lo n : Nat) : List (List Nat) :=
  if n = 0 then [] else (List.range ((lo + n - 1) / 128 - lo / 128 + 1)).map (fun i => vaLines s k (max lo ((lo / 128 + i) * 128)))

/-- Whether a piece's page is a ZERO page that a write must first back with a frame (R222). -/
def needsFrame (s : State) (k va : Nat) : Bool :=
  match walk s k va with
  | some t => t.attr.zero && t.attr.w
  | none => false

/-- An event that writes into ZERO pages waits for frames where the pool has too few, with cause 0x54 once (R222), and for a
generation's wrap (R227). -/
def withFrames (s : State) (k : Nat) (vas : List Nat) (r : Result) : Result :=
  let pages := ((vas.filter (needsFrame s k)).map (· / 65536)).dedup
  if framesFree s k < zeroNeed s k pages then
    if (ctxAt s k).pool.waiting then .fault .notEnabled
    else .next (postNoGroup (updCtx s k (fun c => { c with pool := { c.pool with waiting := true } })) k 0x54 0)
  else if ((takeFrames s k pages.length).1.zip pages).any (fun e => zeroWaits s k (e.2 * 65536) e.1) then .fault .notEnabled
  else r

/-- An event that needs some bins awake: where one sleeps it starts the wake instead, and waits while it wakes. -/
def whenAwake (s : State) (bins : List Nat) (k : Result) : Result :=
  match bins with
  | [] => k
  | _ =>
    if bins.any (needsWake s) then .next (bins.foldl wakeBin s) else .fault .notEnabled

end Sys2Proof.Machine
end

