-- ==== Sys2Proof/Machine/Memory.lean ====
section
/-! DEFINITION. The memory instructions (11 R150-R173) as a run issues them: loads, stores, atomics and prefetches of
global memory and of the local SRAM, fences, write-back and invalidation of ranges, puts, gets, and ctrw. -/

namespace Sys2Proof.Machine

/-- The order has an acquire part, a release part. -/
def ordAcq (o : Order) : Bool := o == .acq || o == .ar
def ordRel (o : Order) : Bool := o == .rel || o == .ar
/-- Scopes from .clu on. -/
def wideScope (sc : Scope) : Bool := !(sc == .grp || sc == .team)

/-! ### What precedes an access -/

/-- A memory instruction waits for open acquires of its lanes (R184), for uncommitted edits of its lanes to what it
touches (R228), for the tables of its pages where their bins sleep (R345), and where it releases for what R187 names; a release from .clu on moves dirty MANUAL
bytes to the proxy slices (R204). -/
def ordered (f : Focus) (g : Group) (accs : List Acc) (n : Nat) (rel : Option Scope) (s : State)
    (k : State → Result) : Result :=
  if openAcq s g f.lanes then waits f .acquire s
  else if accs.any (fun a => editsOn s g.uid a.lanes a.addr n) then waits f .edits s
  else
    match walksAsleep s (gidCore f.gid) (groupCtx s g) (accs.map (fun a => (a.addr, n))) with
    | some b => waits f .operand (wakeBin s b)
    | none =>
      match rel with
      | none => k s
      | some sc =>
        if releaseWaits s f.gid g f.lanes sc then waits f (.release sc) s
        else k (if wideScope sc then drainL1 s (l1Cores s f.gid) else s)

/-- The scope of a release, where the order has one. -/
def relOf (x : MArgs) : Option Scope := if ordRel x.ord then some x.sc else none

/-! ### Instructions with a pending result (R76) -/

/-- The window that an instruction with a result opens. -/
def openPend (x : MArgs) (s : State) (f : Focus) (v : Group) (act : LaneMask) (atom sram : Bool) : Pend :=
  { id := s.fresh, lanes := f.lanes, active := act, left := x.look.toNat
    dest := if x.form = .s then .uni x.d.toNat else .vec (vReg v x.d)
    ty := x.ty, pc := f.pc, words := (f.npc.toNat - f.pc.toNat) / 4, issued := false, atom
    acq := if ordAcq x.ord then some x.sc else none, vals := [], sram, fault := none, held := false
    iter := f.iter.map (·.idx) }

/-- The instruction has issued with its result pending. -/
def startFL (f : Focus) (g : Group) (s : State) (p : Pend) : Result :=
  let g := retire f g
  .next (unfocus (putGroup s f.gid { g with pends := g.pends ++ [p] }))

/-! ### Loads of global memory (R155, R157) -/

/-- A request that keeps a load from reading an L1 copy of a generation (R179, R182, R221): an unfinished access of its lanes
to its bytes, or a waiting store of its core point to them, that the copy does not show: it went through another L1, or the copy is
one for SHADOW pages. -/
def hidesHit (s : State) (r q : Req) : Bool :=
  let shown := isStore q && (q.stage == .accepted || (reqCurrent s q && showsAtCore q)) && q.gen == r.gen &&
    reqL1 s q == reqL1 s r && !r.attr.shadow
  ((q.uid == r.uid && meets q.lanes r.lanes && !isPref q) || (isStore q && q.stage != .accepted && samePoint s q r)) &&
    !shown && sameBytes s q r

/-- The L1 copy that a load hits: of the translation's generation and of the page's regime (R182, R201, R202, R221). -/
def l1Hit (s : State) (f : Focus) (r : Req) : Option Copy :=
  match copyAt (coreAt s (l1Core s f.gid r.pa)).l1 (lineOf r.pa) with
  | none => none
  | some c =>
    if c.gen = r.gen && !r.attr.zero && c.manual == remoteManual r.core r.attr r.pa && c.shadow == r.attr.shadow &&
        !s.reqs.any (hidesHit s r)
    then some c else none

/-- Another lane of the load reads the same bytes through another mapping of their frame: they are read together at home, as the
lanes receive one value (R155). -/
def sharesBytes (s : State) (k : Nat) (l : List (Acc × Trans)) (e : Acc × Trans) : Bool :=
  l.any (fun d => d.1.addr != e.1.addr && (transPa d.2 d.1.addr == transPa e.2 e.1.addr ||
    (match placeOf s k d.1.addr, placeOf s k e.1.addr with
      | some a, some b => a == b
      | _, _ => false)))

/-- The request of a load's access. -/
def addLoad (s : State) (f : Focus) (g : Group) (pend n : Nat) (acq shared : Bool) (a : Acc) (t : Trans) : State :=
  let r := { newReq s f g a.lanes a.addr n t .load with pend, acq }
  match (if shared then none else l1Hit s f r) with
  | some c => addReq s { r with stage := .accepted, data := c.data, poison := c.poison, tag := if c.poison then 0xB1 else 0 }
  | none => addReq s { r with fill := !t.attr.zero }

/-- The same for ldc, through the core's constant cache of the grid. The cache is looked up by grid and physical line alone,
without a generation, and no edit or release of a frame drops its lines (DESIGN CHOICE, log entry 41: R157 is silent). -/
def addConst (s : State) (f : Focus) (g : Group) (pend n : Nat) (shared : Bool) (a : Acc) (t : Trans) : State :=
  let node := (teamAt s g.team).node
  let pa := transPa t a.addr
  let r := { newReq s f g a.lanes a.addr n t (.ldc node) with pend }
  match (if shared then none else (coreAt s (gidCore f.gid)).cc.find? (fun c => c.node == node && c.line == lineOf pa)) with
  | some c => addReq s { r with stage := .accepted, data := c.data }
  | none => addReq s { r with fill := !t.attr.zero }

/-- The accesses that passed their checks. -/
def passed {α : Type} (l : List (Acc × Except Nat α)) : List (Acc × α) :=
  l.filterMap (fun e => match e.2 with
    | .ok t => some (e.1, t)
    | .error _ => none)

/-- Enter the translations that an instruction used; those that a walk has found have touched its tables' bins (R345). -/
def fillTlb (s : State) (core : Nat) (l : List (Acc × Trans)) : State :=
  l.foldl (fun s e => tlbFill (touchWalk s core e.2.ctx e.1.addr) core e.2) s

/-- ld and ldc. -/
def loadOp (const : Bool) (x : MArgs) (s : State) : Result :=
  issuer s fun f g =>
    let v := seen f g
    let n := accSize x.ty
    let core := gidCore f.gid
    let accs := byAddr (accsOf x v f.lanes f.lanes)
    withRegs f g (memVecs x true false) s <|
      ordered f g accs n none s fun s =>
        let chk := (accsOf x v f.lanes f.lanes).map (fun a => (a, globalCheck s core (groupCtx s g) {} n a.addr n))
        withChecks f (failures chk) s <|
          let p := openPend x s f v f.lanes false false
          -- an acquire reads no line that L1 held before it (R187, R192)
          let s := if ordAcq x.ord then acquireAt s f.gid x.sc else s
          let s := { s with fresh := s.fresh + 1 }
          let ok := accs.filterMap (fun a => ((passed chk).find? (fun e => e.1.addr == a.addr)).map (fun e => (a, e.2)))
          let shared := sharesBytes s (groupCtx s g) ok
          let s := ok.foldl (fun s e =>
            if const then addConst s f g p.id n (shared e) e.1 e.2 else addLoad s f g p.id n (ordAcq x.ord) (shared e) e.1 e.2) s
          startFL f g (fillTlb s core ok) p

def execLd (x : MArgs) (s : State) : Result := loadOp false x s
def execLdc (x : MArgs) (s : State) : Result := loadOp true x s

/-! ### Stores to global memory (R156) -/

/-- The guard of st and sts, in bits 3:0 of d (R150). -/
def guardLanes (x : MArgs) (f : Focus) (v : Group) : LaneMask :=
  if x.form = .s then f.lanes else active f v (x.d.getLsbD 3) (x.d.extractLsb' 0 3)

/-- The data bytes of an access. -/
def dataBytes (x : MArgs) (v : Group) (l : Nat) : List Byte :=
  leBytes (accSize x.ty) (readReg (x.form != .s) v x.b l).toNat

/-- One store's request, past its core point (R178, R179). -/
def addStore (s : State) (f : Focus) (g : Group) (n : Nat) (rel : Bool) (iid cover : Nat) (bs : List Byte) (a : Acc)
    (t : Trans) : State :=
  let r := { newReq s f g a.lanes a.addr n t (.store bs) with rel, cover, iid }
  addReq (if showsAtCore r then l1Store s (l1Core s f.gid r.pa) r.pa r.gen bs else s) r

/-- Cause 0x54 where the pool has too few frames for the ZERO pages written; else the frames are reserved (R222). -/
def withZeroFrames (f : Focus) (g : Group) (l : List (Acc × Trans)) (s : State) (k : State → Result) : Result :=
  let c := groupCtx s g
  let pages := zeroPages s c l
  if framesFree s c < pages.length then superTrap f 0x54 0 s
  else
    match (if pages.isEmpty then none else poolAsleep s c) with
    | some b => waits f .operand (wakeBin s b)
    | none => k (reserveZero s f g c pages)

/-- st. -/
def execSt (x : MArgs) (s : State) : Result :=
  issuer s fun f g =>
    let v := seen f g
    let n := accSize x.ty
    let core := gidCore f.gid
    let all := accsOf x v f.lanes (guardLanes x f v)
    withRegs f g (memVecs x false true) s <|
      ordered f g all n (relOf x) s fun s =>
        let chk := all.map (fun a => (a, globalCheck s core (groupCtx s g) { write := true } n a.addr n))
        withChecks f (failures chk) s <|
          withZeroFrames f g (passed chk) s fun s =>
            -- of the lanes with one address the highest stores; those of one byte through two mappings are accepted together
            let last := (byAddr (passed chk |>.map (·.1)).reverse).reverse
            let ok := last.filterMap (fun a => ((passed chk).find? (fun e => e.1.addr == a.addr)).map (fun e => (a, e.2)))
            let rs := all.map (fun a => (a.addr, n))
            let iid := s.fresh
            let s := { s with fresh := s.fresh + 1 }
            let s := ok.foldl (fun s e =>
              let cover := if allCovered rs (e.1.addr / 128 * 128) 128 then iid else 0
              addStore s f g n (ordRel x.ord && wideScope x.sc) iid cover (dataBytes x v e.1.lane) e.1 e.2) s
            done f g (fillTlb s core ok)

/-! ### Scratchpad and operand buffer (R153, R155, R156, R189) -/

/-- The accesses' bytes and references, after the checks. -/
def sramChecks (s : State) (f : Focus) (g : Group) (w : Bool) (n : Nat) (accs : List Acc) :
    List (Acc × Except Nat SramRef) :=
  accs.map (fun a => (a, sramCheck s (gidCore f.gid) g.team w a.addr n))

/-- The poisoned granule that an access touches, as the unit's address. -/
def sramBad (s : State) (e : Acc × SramRef) (n : Nat) : Bool := sramPoisoned s (teamAt s e.2.team) e.2.ob e.2.off n

/-- lds: the banks are read at once (R189) and the result is written when it returns. -/
def execLds (x : MArgs) (s : State) : Result :=
  issuer s fun f g =>
    let v := seen f g
    let n := accSize x.ty
    let accs := accsOf x v f.lanes f.lanes
    withRegs f g (memVecs x true false) s <|
      ordered f g [] n none s fun s =>
        let chk := sramChecks s f g false n accs
        withChecks f (failures chk) s <|
          let p := openPend x s f v f.lanes false true
          let vals := (passed chk).map (fun e =>
            (e.1.lane, extendTo x.ty (leNat (sramRead s (teamAt s e.2.team) e.2.ob e.2.off n))))
          let fault := ((passed chk).find? (fun e => sramBad s e n)).map (fun e => (0xB1, e.1.addr / 32 * 32))
          startFL f g { s with fresh := s.fresh + 1 } { p with vals, fault }

/-- The granules of a space that accesses of one instruction write whole are clean (R303). -/
def cleanCovered (s : State) (n : Nat) (l : List SramRef) : State :=
  l.foldl (fun s r =>
    let rs := (l.filter (fun q => q.team == r.team && q.ob == r.ob)).map (fun q => (q.off, n))
    if allCovered rs (r.off / 32 * 32) 32 then setPoison s false (sramGranule s (teamAt s r.team) r.ob r.off) else s) s

/-- sts: lanes in ascending order, so that the highest-numbered lane's bytes stay (R156). -/
def execSts (x : MArgs) (s : State) : Result :=
  issuer s fun f g =>
    let v := seen f g
    let n := accSize x.ty
    withRegs f g (memVecs x false true) s <|
      ordered f g [] n (relOf x) s fun s =>
        let chk := sramChecks s f g true n (accsOf x v f.lanes (guardLanes x f v))
        withChecks f (failures chk) s <|
          let ok := passed chk
          let s := ok.foldl (fun s e => sramWrite s (teamAt s e.2.team) e.2.ob e.2.off (dataBytes x v e.1.lane)) s
          done f g (cleanCovered s n (ok.map (·.2)))

/-! ### Atomics (R159, R160) -/

/-- atom: one request for each lane, in ascending order. -/
def execAtom (x : MArgs) (s : State) : Result :=
  issuer s fun f g =>
    let v := seen f g
    let n := accSize x.ty
    let core := gidCore f.gid
    let accs := accsOf x v f.lanes f.lanes
    withRegs f g (memVecs x true true) s <|
      ordered f g accs n (relOf x) s fun s =>
        let chk := accs.map (fun a => (a, globalCheck s core (groupCtx s g) { atom := true } n a.addr n))
        withChecks f (failures chk) s <|
          withZeroFrames f g (passed chk) s fun s =>
            let p := openPend x s f v f.lanes true false
            let s := { s with fresh := s.fresh + 1 }
            let vec := x.form != .s
            let s := (passed chk).foldl (fun s e =>
              addReq s { newReq s f g e.1.lanes e.1.addr n e.2
                (.atom x.aop.toNat x.ty (readReg vec v x.b e.1.lane) (readReg vec v x.d e.1.lane) e.1.lane) with
                pend := p.id }) s
            startFL f g (fillTlb s core (passed chk)) p

/-- atoms: each lane in ascending order at its bank; a lane that meets poison is not performed (R173). -/
def execAtoms (x : MArgs) (s : State) : Result :=
  issuer s fun f g =>
    let v := seen f g
    let n := accSize x.ty
    let vec := x.form != .s
    let accs := accsOf x v f.lanes f.lanes
    withRegs f g (memVecs x true true) s <|
      ordered f g [] n (relOf x) s fun s =>
        let chk := sramChecks s f g true n accs
        withChecks f (failures chk) s <|
          let p := openPend x s f v f.lanes true true
          let r := (passed chk).foldl (fun (a : State × List (Nat × Word) × Option (Nat × Nat)) e =>
            let s := a.1
            let tm := teamAt s e.2.team
            if sramBad s e n then (s, a.2.1, if a.2.2.isSome then a.2.2 else some (0xB1, e.1.addr / 32 * 32))
            else
              let old := leNat (sramRead s tm e.2.ob e.2.off n)
              let new := atomNew x.aop.toNat x.ty old (readReg vec v x.b e.1.lane).toNat (readReg vec v x.d e.1.lane).toNat
              (sramWrite s tm e.2.ob e.2.off (leBytes n new), a.2.1 ++ [(e.1.lane, extendTo x.ty old)], a.2.2))
            (s, [], none)
          startFL f g { r.1 with fresh := r.1.fresh + 1 } { p with vals := r.2.1, fault := r.2.2 }

/-! ### Prefetch (R161) -/

/-- The lines that a pref asks for, by an address in each. In the lane-strided form they are the lines of the whole 32 x E span,
and the canonical check covers the addresses of all 32 lanes, inactive ones included (DEDUCED, log entry 27). -/
def prefAddrs (x : MArgs) (f : Focus) (v : Group) : List Acc :=
  match x.form with
  | .m => (List.range 32).map (fun l => { lanes := f.lanes, lane := l, addr := (addrOf x v l).toNat })
  | _ => accsOf x v f.lanes f.lanes

/-- The bins that hold a line of a page: of a format window, those of its stored lines. -/
def lineAwake (s : State) (k : Nat) (t : Trans) (pa : Nat) : Bool :=
  if t.attr.fmt then (viewAsleep s (ctxPart k) (viewWin pa) (viewOff pa / 128 * 128)).isNone
  else atHome s (ctxPart k) pa == .ok

/-- pref: only the canonical check; a line that would fault, stall, or is MANUAL, ZB or host-owned is dropped. -/
def execPref (x : MArgs) (s : State) : Result :=
  issuer s fun f g =>
    let v := seen f g
    let n := accSize x.ty
    let core := gidCore f.gid
    let k := groupCtx s g
    withRegs f g (memVecs x false false) s <|
      let accs := prefAddrs x f v
      let far := (accs.filter (fun a => decide (2 ^ 56 ≤ a.addr))).map (fun a => (0x4B, a.addr % 2 ^ 56))
      withChecks f far s <|
        let s := accs.foldl (fun s a =>
          match globalCheck s core k {} n a.addr n with
          | .error _ => s
          | .ok t =>
            let lva := a.addr / 128 * 128
            let lpa := transPa t lva
            if t.attr.manual || t.attr.zero || lockHit s core 0 k lva 128 true ||
              s.reqs.any (fun r => isPref r && r.core == core && r.pa == lpa) ||
              !lineAwake s k t lpa then s
            else addReq s (newReq s f g f.lanes lva 128 t (.pref (x.sc == .grp)))) s
        done f g s

/-! ### Fences (R162, R163) -/

/-- Loads of the lanes that have not been performed (R162). -/
def loadsOpen (s : State) (g : Group) (lanes : LaneMask) : Bool :=
  (reqsOf s g.uid lanes).any (fun r => isLoad r && r.stage != .accepted)

/-- fence. -/
def execFence (x : MArgs) (s : State) : Result :=
  issuer s fun f g =>
    ordered f g [] 0 (relOf x) s fun s =>
      if ordAcq x.ord && loadsOpen s g f.lanes then waits f .acquire s
      else done f g (if ordAcq x.ord then acquireAt s f.gid x.sc else s)

/-- The lines of another die's MANUAL pages whose dirty bytes a die's proxy slices hold for a partition. -/
def dirtyManual (s : State) (p die : Nat) : List Nat :=
  (s.mem.proxies.filter (fun e => sliceDie (e.1 / 2 ^ 45) == die && e.2.mask != 0 &&
    binOwned s p (binOf (128 * e.2.line)))).map (·.2.line)

/-- fence.eng: every earlier store and atomic to global memory has been accepted at its home slice. Bytes stored to another die's
MANUAL pages get there by evictions from the L1s and the proxy slices (R204, R205): the fence makes them, and where a bin has to
wake for one it waits (DEDUCED, log entry 27). -/
def execFenceEng (_x : MArgs) (s : State) : Result :=
  issuer s fun f g =>
    if openAcq s g f.lanes then waits f .acquire s
    else if (reqsOf s g.uid f.lanes).any (fun r => (isStore r || isAtom r) && r.stage != .accepted) then
      waits f .engFence s
    else
      let die := coreDie (gidCore f.gid)
      let p := ctxPart (groupCtx s g)
      let s := drainL1 s (l1Cores s f.gid)
      let lines := dirtyManual s p die
      let asleep := lines.filter (fun l => atHome s p (128 * l) == .asleep)
      if asleep.isEmpty then done f g (lines.foldl (fun s l => evictProxy s die l) s)
      else waits f .engFence (asleep.foldl (fun s l => wakeBin s (binOf (128 * l))) s)

/-! ### Range write-back and invalidation (R164, R165) -/

/-- The lines of remote MANUAL pages of a widened range that L1s of the group or the die's slices hold, or that requests in
flight may bring there: the line's virtual address and translation. -/
def manualLines (s : State) (f : Focus) (g : Group) (k lo n : Nat) : List (Nat × Trans) :=
  let core := gidCore f.gid
  let die := coreDie core
  let held := (((teamL1s s g.team core).map (fun c => (coreAt s c).l1.map (·.line))).flatten ++
    (s.mem.proxies.filter (fun e => sliceDie (e.1 / 2 ^ 45) == die)).map (fun e => e.2.line) ++
    s.reqs.map (fun r => lineOf r.pa)).dedup
  (piecesOf lo n).foldr (fun pc l =>
    match translate s core k pc.1 with
    | none => l
    | some t =>
      let pa := transPa t pc.1
      if remoteManual core t.attr pa then
        (held.filter (fun h => decide (pa ≤ 128 * h ∧ 128 * h < pa + pc.2))).map (fun h => (pc.1 + (128 * h - pa), t)) ++ l
      else l) []

/-- The failed check of a wbr or invr range: its pages' checks in the order of R170. -/
def rangeCause (s : State) (core k start n lo m : Nat) : Option Nat :=
  if 2 ^ 56 ≤ start then some 0x4B
  else if 2 ^ 56 < start + n then some 0x4D
  else
    let ts := (piecesOf lo m).map (fun pc => (translate s core k pc.1).map (fun t => stateCause s t (transPa t pc.1)))
    if ts.any Option.isNone then some 0x40
    else if lockHit s core 0 k lo m false then some 0x72
    else if ts.any (fun c => c == some (some 0x4A)) then some 0x4A
    else if ts.any (fun c => c == some (some 0x47)) then some 0x47
    else none

/-- wbr and invr: a posted request for each line, at which its dirty bytes go home as a masked write and an invr drops it
(R164, R165, R374). With .acq an invr is an acquire at its scope once those requests are accepted (R165, R184). -/
def rangeOp (inv : Bool) (x : MArgs) (s : State) : Result :=
  issuer s fun f g =>
    let v := seen f g
    let start := (sGet v x.a.toNat).toNat
    let n := (sGet v x.b.toNat).toNat
    let core := gidCore f.gid
    let k := groupCtx s g
    let lo := start / 128 * 128
    let m := (start + n + 127) / 128 * 128 - lo
    let acq := if inv && ordAcq x.ord then some x.sc else none
    if n = 0 then done f g s
    else
      ordered f g [{ lanes := f.lanes, lane := 0, addr := lo }] m (relOf x) s fun s =>
        trapOr f ((rangeCause s core k start n lo m).map (fun c => (c, start % 2 ^ 56))) s <|
          let iid := s.fresh
          let s := touchWalks { s with fresh := s.fresh + 1 } core k [(lo, m)]
          let s := acq.elim s (acquireAt s f.gid)
          let s := (manualLines s f g k lo m).foldl (fun s l =>
            addReq s { newReq s f g f.lanes l.1 128 l.2 (.wb inv acq) with iid }) s
          done f g s

def execWbr (x : MArgs) (s : State) : Result := rangeOp false x s
def execInvr (x : MArgs) (s : State) : Result := rangeOp true x s

/-! ### Windows and counters (R166-R169) -/

/-- The fields of a window address (R166). -/
def winNum (a : Nat) : Nat := a / 2 ^ 52 % 4096
def winCtr (a : Nat) : Nat := bitsOf a 48 4
def winOff (a : Nat) : Nat := bitsOf a 0 48
/-- The fields of a window (R208). -/
def winKind (w : Win) : Nat := bitsOf w.ctl.toNat 6 2
def winDie (w : Win) : Nat := bitsOf w.ctl.toNat 8 2
def winPeer (w : Win) : Nat := bitsOf w.ctl.toNat 48 16
def winPwin (w : Win) : Nat := bitsOf w.ctl.toNat 36 12
def winAt (s : State) (k w : Nat) : Win := mapGet {} (ctxAt s k).wins w

/-- The checks of put and get (R167, R170): the window operand, then each page of the local range. -/
def xferCause (s : State) (core k : Nat) (wa loc n : Nat) (write : Bool) : Option (Nat × Nat) :=
  let w := winNum wa
  let e := winAt s k w
  if w = 0 || !e.valid || n < 1 || 2 ^ 30 < n || e.len.toNat < winOff wa + n then some (0x4C, w)
  else
    reported ((piecesOf loc n).filterMap (fun pc =>
      match globalCheck s core k { write } 1 pc.1 pc.2 with
      | .error c => some (c, pc.1 % 2 ^ 56)
      | .ok _ => none))

/-- What a put's or get's accesses wait for (R167, R212): with .rel everything earlier of the run, else its accesses to
the same bytes. -/
def xferWaits (s : State) (g : Group) (lanes : LaneMask) (k loc n : Nat) (rel : Bool) : List Nat :=
  let pieces := (piecesOf loc n).map (fun pc => (pc.1, placeOf s k pc.1, pc.2))
  (reqsOf s g.uid lanes).filterMap (fun r =>
    if rel || pieces.any (fun p => touches s r k p.1 p.2.1 p.2.2) then some r.id else none) ++
  s.edits.filterMap (fun e =>
    if e.uid == g.uid && meets e.lanes lanes && (rel || e.ranges.any (fun r => overlaps r.1 r.2 loc n)) then some e.id
    else none)

/-- The scope that a put or get has: at least the one that reaches its window's target (R210). -/
def xferScope (w : Win) (die : Nat) (sc : Scope) : Scope :=
  let reach : Scope := if winKind w ≠ 0 then .sys else if winDie w = die then .die else .pkg
  if winKind w ≠ 0 ∨ scopeRank sc < scopeRank reach then reach else sc

/-- put and get. -/
def xferOp (isGet : Bool) (x : MArgs) (s : State) : Result :=
  issuer s fun f g =>
    let v := seen f g
    let k := groupCtx s g
    let core := gidCore f.gid
    let wa := (sGet v (if isGet then x.a else x.d).toNat).toNat
    let loc := (sGet v (if isGet then x.d else x.a).toNat).toNat
    let n := (sGet v x.b.toNat).toNat
    ordered f g [{ lanes := f.lanes, lane := 0, addr := loc }] n none s fun s =>
      trapOr f (xferCause s core k wa loc n isGet) s <|
        let s := touchWalks s core k [(loc, n)]
        let t : Xfer := { id := s.fresh, get := isGet, core, gid := f.gid, uid := g.uid, team := g.team, ctx := k
                          lanes := f.lanes, win := winNum wa, off := winOff wa, loc, len := n, ctr := winCtr wa, op := none
                          stage := 0, waits := xferWaits s g f.lanes k loc n (ordRel x.ord)
                          rel := if ordRel x.ord then some (xferScope (winAt s k (winNum wa)) (coreDie core) x.sc) else none }
        done f g { s with fresh := s.fresh + 1, xfers := s.xfers ++ [t] }

def execPut (x : MArgs) (s : State) : Result := xferOp false x s
def execGet (x : MArgs) (s : State) : Result := xferOp true x s

/-- The counter name is invalid for a lane of a die (R166, R170). -/
def badName (s : State) (k die : Nat) (a : Nat) : Bool :=
  if a < 2 ^ 63 then decide (16 ≤ a)
  else
    let w := winAt s k (a % 4096)
    decide (4096 ≤ a - 2 ^ 63) || !w.valid || winKind w != 0 || winDie w != die

/-- ctrw: the counter's value once it has reached the threshold (R169). -/
def execCtrw (x : MArgs) (s : State) : Result :=
  issuer s fun f g =>
    let v := seen f g
    let k := groupCtx s g
    let die := coreDie (gidCore f.gid)
    let name := sGet v x.a.toNat
    let thr := sGet v x.b.toNat
    if openAcq s g f.lanes then waits f .acquire s
    else if badName s k die name.toNat then trap f 0x4C (name.toNat % 4096) s
    else
      let c := ctrValue s k die name
      if thr.toNat ≤ c.toNat then
        done f (sSet g x.d.toNat c) (if ordAcq x.ord then acquireAt s f.gid .die else s)
      else waits f (.ctrw die name thr x.d (ordAcq x.ord)) s

end Sys2Proof.Machine
end

