-- ==== Sys2Proof/Machine/Control.lean ====
section
/-! DEFINITION. Control flow (09 R120-R143): transfers, barriers of a group, waits, the register window, traps raised on
purpose, and the repeat prefix (05 R72-R75). exit stands in Leaving.lean. Closing points are waited for before
an instruction reaches its meaning (Issue.lean, 05 R77). -/

namespace Sys2Proof.Machine

/-- The target of a relative transfer (R65, R126). -/
def relTarget (pc : Pc) (imm : BitVec 32) : Pc := pc + (imm.signExtend 56 <<< 2)

/-- bra: every lane of the run moves (R126). -/
def execBra (x : BraArgs) (s : State) : Result :=
  issuer s fun f g => doneAt f (pcSet g f.lanes (relTarget f.pc x.imm)) s

/-- brp: the lanes whose predicate exclusive-or NEG is 1 move (R126). -/
def execBrp (x : BrpArgs) (s : State) : Result :=
  issuer s fun f g =>
    let v := seen f g
    let taken := maskWhere f.lanes (fun l => pGet v x.p.toNat l != x.neg)
    doneAt f (pcSet (pcSet g f.lanes f.npc) taken (relTarget f.pc x.imm)) s

/-- call: the link, then the transfer (R127). -/
def execCall (x : CallArgs) (s : State) : Result :=
  issuer s fun f g =>
    let link : Word := f.npc.zeroExtend 64
    let go := fun g => doneAt f (pcSet g f.lanes (relTarget f.pc x.imm)) s
    if x.u then go (sSet g x.d.toNat link)
    else
      withRegs f g [x.d] s
        (go (writeLanes g (vReg (seen f g) x.d) ((lanesOf f.lanes).map (fun l => (l, link)))))

/-- The register target of jmpi and ret in a lane: bits 55:0 (R124, R128). -/
def jumpTarget (x : R3L) (v : Group) (l : Nat) : Pc :=
  (readReg (!x.b.getLsbD 0) v x.a l).setWidth 56

/-- A transfer through a register; a target with bits 1:0 nonzero is cause 0x07, and no lane moves (R124, R128). -/
def jumpOp (x : R3L) (s : State) : Result :=
  issuer s fun f g =>
    let v := seen f g
    withRegs f g (if x.b.getLsbD 0 then [] else [x.a]) s
      (if (lanesOf f.lanes).any (fun l => (jumpTarget x v l).extractLsb' 0 2 != 0) then trap f 0x07 0 s
       else doneAt f ((lanesOf f.lanes).foldl (fun g l => pcSet g (laneBit l) (jumpTarget x v l)) g) s)

/-- jmpi (R128). -/
def execJmpi (x : R3L) (s : State) : Result := jumpOp x s
/-- ret: the same visible effect as jmpi (R128). -/
def execRet (x : R3L) (s : State) : Result := jumpOp x s

/-- The run moves on to the next instruction. -/
def goOn (s : State) : Result := issuer s fun f g => doneAt f (pcSet g f.lanes f.npc) s

/-- yield (R131): the lanes go on, and the group's quadrant holds the group back (quadrantPick). The instruction that the other
port has in the same clock still issues (DEDUCED, log entry 18). -/
def execYield (_x : R3L) (s : State) : Result :=
  issuer s fun f g => doneAt f (pcSet { g with yielded := true } f.lanes f.npc) s
/-- nop (R132). -/
def execNop (_x : R3L) (s : State) : Result := goOn s

/-! ### gsync (R134-R137) -/

/-- The arrival of lanes at the barrier of a mask. -/
def arrive (m lanes : LaneMask) (g : Group) : Group :=
  if g.barriers.any (fun b => b.mask == m) then
    { g with barriers := g.barriers.map (fun b => if b.mask = m then { b with arrived := b.arrived ||| lanes } else b) }
  else { g with barriers := { mask := m, arrived := lanes } :: g.barriers }

/-- The mask of a barrier that every member has reached or exited (R135). -/
def fullBarrier (g : Group) : Option LaneMask :=
  (g.barriers.find? (fun b => b.mask &&& ~~~(b.arrived ||| g.exited) == 0)).map (·.mask)

/-- Barriers that are complete release their lanes (R135). A group has at most 32 barriers of disjoint masks. -/
def releaseBarriers : Nat → Nat → State → State
  | 0, _, s => s
  | n + 1, gid, s =>
    let g := groupAt s gid
    match fullBarrier g with
    | none => s
    | some m =>
      let s := putGroup s gid { g with barriers := g.barriers.filter (fun b => b.mask != m) }
      let bs := g.blocks.filter (fun b => b.why == .gsync m)
      releaseBarriers n gid (bs.foldl (fun s b => passBlock s gid b none) s)

/-- gsync vA (R135): the checks before any lane arrives, then the arrival, which as a fence .ar at .grp first waits for the
lanes' earlier accesses and renaming instructions (R136). -/
def execGsync (x : R3L) (s : State) : Result :=
  issuer s fun f g =>
    let v := seen f g
    withRegs f g [x.a] s
      (let mask := fun l => (readV v x.a l).setWidth 32
       let m : LaneMask := mask (lowLane f.lanes)
       if (lanesOf f.lanes).any (fun l => mask l != m) then trap f 0x70 m.toNat s
       else if meets f.lanes (~~~m) then trap f 0x71 m.toNat s
       else if g.barriers.any (fun b => b.mask != m && meets b.mask m) then trap f 0x70 m.toNat s
       else
         ordered f g [] 0 (some .grp) s fun s =>
           let s := waitOn f (.gsync m) (putGroup s f.gid (arrive m f.lanes g))
           .next (releaseBarriers 32 f.gid s))

/-! ### Waits (R138) -/

/-- wait: until every register result of the run's lanes has been written. -/
def execWait (_x : R3L) (s : State) : Result :=
  issuer s fun f g =>
    if (pendsOf g f.lanes).isEmpty then doneAt f (pcSet g f.lanes f.npc) s else waits f .results s

/-- wait.clk sA: until CLOCK is at least sA. -/
def execWaitClk (x : R3L) (s : State) : Result :=
  issuer s fun f g =>
    let d := sGet (seen f g) x.a.toNat
    if d.toNat ≤ s.clk.clock.toNat then doneAt f (pcSet g f.lanes f.npc) s else waits f (.clk d) s

/-- CLOCK reaches the deadline of a blocked wait.clk (R138). -/
def execWaitClkDeadline (gid : Nat) (lanes : LaneMask) (s : State) : Result :=
  let due := fun (b : Block) => b.lanes == lanes && (match b.why with
    | .clk d => decide (d.toNat ≤ s.clk.clock.toNat)
    | _ => false)
  match (groupAt s gid).blocks.find? due with
  | some b => .next (passBlock s gid b none)
  | none => .fault .notEnabled

/-! ### The register window (R133) -/

/-- win imm. -/
def execWin (x : ImmArgs) (s : State) : Result :=
  issuer s fun f g =>
    if g.rep.active then waits f .repEnd s
    else if g.allot ≤ x.imm.toNat then trap f 0x06 x.imm.toNat s
    else doneAt f (pcSet { g with winbase := x.imm.setWidth 9 } f.lanes f.npc) s

/-! ### Traps raised on purpose (R139, R140) -/

/-- A trap whose instruction is done: EPC is the next address, where the counters stand (R290). In the handler the
counters stay (R283). -/
def trapNext (f : Focus) (code info : Nat) (sup : Bool) (s : State) : Result :=
  let g := groupAt s f.gid
  let s' := putGroup s f.gid (pcSet g f.lanes f.npc)
  if !(pendsOf g f.lanes).isEmpty then .next (waitOn f .closing s)
  else if f.quiet then .next (unfocus s)
  else if sup then .next (superTrapAt f code info f.npc s')
  else if hmode g then trap f code info s
  else .next (trapAt f code info f.npc s')

/-- trap imm: cause 0x10 (R139). -/
def execTrap (x : ImmArgs) (s : State) : Result :=
  issuer s fun f _ => trapNext f 0x10 (x.imm.extractLsb' 0 8).toNat false s
/-- brk imm: cause 0x11 at the brk (R140). -/
def execBrk (x : ImmArgs) (s : State) : Result := issuer s fun f _ => trap f 0x11 x.imm.toNat s

/-! ### The repeat prefix (05 R72-R75) -/

/-- Which of the fields d, a and b of a repeatable instruction name registers (R75); an instruction that is not
repeatable has none. -/
def stepFields : Instr → Bool × Bool × Bool
  | .addVVV _ | .addVVS _ | .addSSS _ | .faddVVV _ | .faddVVS _ | .faddSSS _ | .subVVV _ | .subVVS _
  | .subSSS _ | .fsubVVV _ | .fsubVVS _ | .fsubSSS _ | .mulVVV _ | .mulVVS _ | .mulSSS _ | .fmulVVV _
  | .fmulVVS _ | .fmulSSS _ | .minVVV _ | .minVVS _ | .minSSS _ | .fminVVV _ | .fminVVS _ | .fminSSS _
  | .maxVVV _ | .maxVVS _ | .maxSSS _ | .fmaxVVV _ | .fmaxVVS _ | .fmaxSSS _ | .andVVV _ | .andVVS _
  | .andSSS _ | .orVVV _ | .orVVS _ | .orSSS _ | .xorVVV _ | .xorVVS _ | .xorSSS _ | .shlVVV _
  | .shlVVS _ | .shlSSS _ | .shrVVV _ | .shrVVS _ | .shrSSS _ | .sarVVV _ | .sarVVS _ | .sarSSS _
  | .rotVVV _ | .rotVVS _ | .rotSSS _ | .addX _ | .subX _ | .mulX _ | .mulhi _ | .mad _ | .minX _
  | .maxX _ | .andX _ | .orX _ | .xorX _ | .shlX _ | .shrX _ | .sarX _ | .rotX _ | .bfx _ | .bfi _
  | .sel _ | .dot4 _ | .sad _ | .faddX _ | .fsubX _ | .fmulX _ | .ffma _ | .fminX _ | .fmaxX _ | .pack _
  | .shfl _ => (true, true, true)
  | .absVV _ | .absVS _ | .absSS _ | .negVV _ | .negVS _ | .negSS _ | .notVV _ | .notVS _ | .notSS _
  | .popcVV _ | .popcVS _ | .popcSS _ | .clzVV _ | .clzVS _ | .clzSS _ | .brevVV _ | .brevVS _
  | .brevSS _ | .movVV _ | .movVS _ | .movSS _ | .addImm _ | .absX _ | .negX _ | .notX _ | .popcX _
  | .clzX _ | .brevX _ | .movX _ | .frnd _ | .cvt _ | .unpack _ | .exp2 _ | .log2 _ | .rcp _ | .rsqrt _
  | .sqrt _ | .sin _ | .cos _ | .tanh _ | .cbq _ | .gscan _ | .matchEq _ | .ld _ | .lds _ | .ldc _ => (true, true, false)
  | .moviVecImm _ | .moviUniImm _ | .moviVecIword _ | .moviUniIword _ | .cbrd _ => (true, false, false)
  | .cmp x | .fcmp x => (!x.imm.getLsbD 4, true, true)
  | .cbld _ => (false, true, false)
  | .bcast x => (x.form == .v, true, true)
  | .ballot x => (x.form == .v, false, x.form == .m)
  | .vote x => (false, false, x.form == .m)
  | .gred x => (x.form == .v, true, x.form == .m)
  | .st _ | .sts _ => (false, true, true)
  | _ => (false, false, false)

/-- The repeatable instructions by their first words and M-words (R75). -/
def repeatable (w x : IWord) : Bool :=
  let m := (Dec.fMajor w).toNat
  decide (1 ≤ m ∧ m ≤ 0x20) || (decide (0x23 ≤ m ∧ m ≤ 0x25) && decide ((Dec.mMop x).toNat ≤ 4))

/-- Whether a repeat of an instruction is misuse: a step on a field that is no register number, or a number past 127
(R73, R75). -/
def repMisuse (x : RepArgs) (w : IWord) (i : Instr) : Bool :=
  let n := x.cnt.toNat
  let u := stepFields i
  let past := fun (field : BitVec 7) (st : BitVec 2) => decide (127 < field.toNat + n * repStep st)
  (x.sd != 0 && !u.1) || (x.sa != 0 && !u.2.1) || (x.sb != 0 && !u.2.2) ||
    past (Dec.fD w) x.sd || past (Dec.fA w) x.sa || past (Dec.fB w) x.sb

/-- What the checks of a rep find at the instruction after it (R73): the misuse, or what keeps it from being read. -/
inductive RepCheck where
  | ok
  | misuse
  | cause (code info : Nat) (sup : Bool)
  | asleep (bin : Nat)
  deriving DecidableEq, Repr

/-- The checks of a rep with its instruction at a counter. A decode cause of the instruction itself falls in iteration 0. -/
def repCheck (s : State) (core k : Nat) (x : RepArgs) (ipc : Pc) : RepCheck :=
  match fetchWord s core k ipc.toNat with
  | .asleep b => .asleep b
  | .cause c i u => .cause c i u
  | .word w =>
    match (if hasSecond w then fetchWord s core k (pcPlus ipc 1).toNat else .word 0) with
    | .asleep b => .asleep b
    | .cause c i u => .cause c i u
    | .word w2 =>
      if !repeatable w w2 then .misuse
      else
        match decodeFor s (ctxPart k) w w2 with
        | .ok i => if repMisuse x w i then .misuse else .ok
        | .reject _ => .ok
/-- The instruction after a rep cannot be repeated by it. -/
def repBad (s : State) (core k : Nat) (x : RepArgs) (ipc : Pc) : Bool := repCheck s core k x ipc == .misuse

/-- rep count, sd, sa, sb (R73): its checks, then the repeat state; the iterations issue one by one with the run's
counters still at the rep. -/
def execRep (x : RepArgs) (s : State) : Result :=
  issuer s fun f g =>
    if hmode g then trap f 0x04 0 s
    else
      match repCheck s (gidCore f.gid) (groupCtx s g) x f.npc with
      | .asleep b => waits f .operand (wakeBin s b)
      | .cause c i u => if u then superTrap f c i s else trap f c i s
      | .misuse => trap f 0x04 0 s
      | .ok =>
        if g.rep.active && g.rep.lanes != f.lanes then waits f .repEnd s
        else
          .next (unfocus (putGroup s f.gid { g with
            rep := { lanes := f.lanes, active := true, next := if g.rep.active then g.rep.next else 0 }
            skipBp := g.skipBp &&& ~~~f.lanes }))

/-! ### Promotion (R122) -/

/-- A run outside the two lowest reaches age 4,096: the second port serves it in the clock that follows (R122). -/
def execRunPromoted (gid : Nat) (lanes : LaneMask) (s : State) : Result :=
  match mapFind s.groups gid with
  | none => .fault .notEnabled
  | some g =>
    match promotedRun g (runsOf s gid g) with
    | some r => if r.lanes = lanes then .next (putGroup s gid { g with promoted := lanes }) else .fault .notEnabled
    | none => .fault .notEnabled

end Sys2Proof.Machine
end

