-- ==== Sys2Proof/Machine/CrossLane.lean ====
section
/-! DEFINITION. The cross-lane instructions (07 R110-R116): shuffles, broadcasts, ballots, votes, scans, reductions and
matches over the group's elements in flat order. -/

namespace Sys2Proof.Machine

/-- An element read across lanes: zero and STALE where the source lane has exited (R111). -/
def readFlat (t : Ty) (v : Group) (n : BitVec 7) (fi : Nat) : Nat × Bool :=
  let l := fi / tyCount t
  if v.exited.getLsbD l then (0, true) else (elemN t (readV v n l) (fi % tyCount t), false)

/-- The lane and sub-element of a lane address (R110). -/
def addrLane (a : Nat) : Nat := a / 16
def addrSub (a : Nat) : Nat := a % 16
/-- Bits 8:0 of a register (R110). -/
def laneAddr (w : Word) : Nat := w.toNat % 512

/-- The element that a shuffle brings to element k of lane l (R112): mode 0 at, 1 slide, 2 rot, 3 mir. -/
def shflElem (t : Ty) (v : Group) (mode : Nat) (a : BitVec 7) (own fill : Word) (adr l k : Nat) : Nat × Bool :=
  let n := tyCount t
  let top := 32 * n
  let g := l * n + k
  match mode with
  | 0 =>
    if n ≤ addrSub adr then (0, true) else readFlat t v a ((addrLane adr * n + addrSub adr + k) % top)
  | 1 => if top ≤ g + adr then (elemN t fill k, false) else readFlat t v a (g + adr)
  | 2 => readFlat t v a ((g + adr) % top)
  | _ =>
    let b := 2 ^ min adr 9
    let src := g - g % b + (b - 1 - g % b)
    if top ≤ src then (elemN t own k, false) else readFlat t v a src

/-- A cross-lane instruction with a vector destination: a lane's result, and whether its STALE bit is set. -/
def crossOp (x : XArgs) (names : List (BitVec 7)) (fn : Group → Nat → Word × Bool × Flags) (s : State) : Result :=
  issuer s fun f g =>
    let v := seen f g
    withRegs f g names s
      (let rs := (lanesOf (active f v x.neg x.p)).map (fun l => (l, fn v l))
       let st := rs.foldl (fun m e => if e.2.2.1 then m ||| laneBit e.1 else m) 0
       let fl := rs.foldl (fun fl e => fl ||| e.2.2.2) 0
       done f (raiseFlags (raiseStale (writeLanes g (vReg v x.d) (rs.map (fun e => (e.1, e.2.1)))) st) fl) s)

/-- shfl.mode.T d, a, b (R112). -/
def execShfl (x : XArgs) (s : State) : Result :=
  let mode := (x.imm.extractLsb' 0 2).toNat
  let sel := selX true (mode == 1) x
  crossOp x sel.vecs (fun v l =>
    let o := sel.read v l
    let rs := (List.range (tyCount x.ty)).map (fun k => shflElem x.ty v mode x.a o.a o.c (laneAddr o.b) l k)
    (packElems x.ty (rs.map (·.1)), rs.any (·.2), 0)) s

/-- bcast (R113): in 0x1E the element at each lane's address, in 0x1F a lane's whole register. A c4 element is moved bit for bit,
as R113 writes the element and computes nothing with it (DEDUCED, log entry 25). -/
def execBcast (x : XArgs) (s : State) : Result :=
  if x.form = .m then
    issuer s fun f g =>
      let v := seen f g
      let l := x.imm.toNat
      withRegs f g [x.a] s
        (if v.exited.getLsbD l then done f (raiseStale (sSet g x.b.toNat 0) f.lanes) s
         else done f (sSet g x.b.toNat (readV v x.a l)) s)
  else
    crossOp x [x.d, x.a, x.b] (fun v l =>
      let adr := laneAddr (readV v x.b l)
      let r := if tyCount x.ty ≤ addrSub adr then (0, true)
        else readFlat x.ty v x.a (addrLane adr * tyCount x.ty + addrSub adr)
      (splat x.ty r.1, r.2, 0)) s

/-- The active lanes whose predicate is 1 (R114). -/
def ballotMask (v : Group) (act : LaneMask) (c : BitVec 7) : LaneMask := maskWhere act (fun l => pGet v (c.toNat % 8) l)

/-- ballot.n64 (R114). -/
def execBallot (x : XArgs) (s : State) : Result :=
  issuer s fun f g =>
    let v := seen f g
    let act := active f v x.neg x.p
    let m : Word := (ballotMask v act x.c).zeroExtend 64
    if x.form = .m then done f (sSet g x.b.toNat m) s
    else
      withRegs f g [x.d] s
        (done f (writeLanes g (vReg v x.d) ((lanesOf act).map (fun l => (l, m)))) s)

/-- vote.cond.n64 and vote.neg.cond.n64 (R114). -/
def execVote (x : XArgs) (s : State) : Result :=
  issuer s fun f g =>
    let v := seen f g
    let act := active f v x.neg x.p
    let ones := popLanes (ballotMask v act x.c)
    let q := if x.aux.getLsbD 3 then popLanes act - ones else ones
    let r := condI (x.aux.extractLsb' 0 3).toNat q x.imm.toNat
    if x.form = .m then done f (sSet g x.b.toNat (if r then 1 else 0)) s
    else done f (pSet g (x.d.toNat % 8) act (if r then act else 0)) s

/-! ### Scans and reductions (R115) -/

/-- The combination of integer codes by op 0 add, 1 min, 2 max, 3 and, 4 or, 5 xor; an empty list gives the identity. -/
def redInt (t : Ty) (op : Nat) (sat : Bool) (cs : List Nat) : Nat × Flags :=
  let w := tyWidth t
  let vs := cs.map (intVal (tySigned t) w)
  match op with
  | 0 => narrowInt sat (tySigned t) w (vs.foldl (· + ·) 0)
  | 1 => (wrapInt w (vs.foldl min (intMax (tySigned t) w)), 0)
  | 2 => (wrapInt w (vs.foldl max (intMin (tySigned t) w)), 0)
  | 3 => (cs.foldl Nat.land (2 ^ w - 1), 0)
  | 4 => (cs.foldl Nat.lor 0, 0)
  | _ => (cs.foldl Nat.xor 0, 0)

/-- The exact sum of values, left to right (R41, R115). -/
def sumVals (mode : Rnd) : List Val → Val × Flags
  | [] => (.zero false, 0)
  | v :: vs => vs.foldl (fun a x => if valIsNan a.1 then a else
      let s := sumVal mode a.1 x
      (s.1, a.2 ||| s.2)) (v, 0)

/-- Whether infinities of both signs are among values. -/
def bothInf (vs : List Val) : Bool :=
  vs.any (fun v => v == .inf false) && vs.any (fun v => v == .inf true)

/-- The identity of min (mx false) and max: an infinity, or the largest magnitude (R115). -/
def redEnd (t : Ty) (mx : Bool) : Nat :=
  let f := tyFmt t
  if f.inf then infCode f mx else f.max + fmtSign f mx

/-- The combination of floating-point codes: add encoded once, min and max left to right (R43, R115). -/
def redFlt (t : Ty) (op : Nat) (r : Rnd) (sat : Bool) (cs : List Nat) : Nat × Flags :=
  let vs := cs.map (decodeF (tyFmt t))
  let fl := snanFlag vs
  if op = 0 then
    let s := match firstNan vs with
      | some v => (v, 0)
      | none => if bothInf vs then (.dnan, flNV) else sumVals (modeOf r) vs
    let e := encodeF (tyFmt t) (modeOf r) sat s.1
    (e.1, fl ||| s.2 ||| e.2)
  else
    match cs with
    | [] => (redEnd t (op == 2), 0)
    | c :: cs => (cs.foldl (fun a x => (fminCode [] t (op == 2) a x).1) c, fl)

def redCodes (x : XArgs) (cs : List Nat) : Nat × Flags :=
  let op := (x.imm.extractLsb' 0 3).toNat
  if tyIsInt x.ty then redInt x.ty op x.sat cs else redFlt x.ty op x.rnd x.sat cs

/-- The elements of some lanes in flat order. -/
def flatCodes (t : Ty) (v : Group) (a : BitVec 7) (lanes : List Nat) : List Nat :=
  lanes.flatMap (fun l => codesOf t (readV v a l))

/-- gscan.op.T d, a (R115). -/
def execGscan (x : XArgs) (s : State) : Result :=
  issuer s fun f g =>
    let v := seen f g
    withRegs f g [x.d, x.a] s
      (let lanes := lanesOf (active f v x.neg x.p)
       let all := flatCodes x.ty v x.a lanes
       let n := tyCount x.ty
       let extra := if x.imm.getLsbD 3 then 0 else 1
       let rs := (List.range all.length).map (fun i => redCodes x (all.take (i + extra)))
       let words := (List.range lanes.length).map (fun j =>
         (lanes.getD j 0, packElems x.ty ((rs.drop (j * n)).take n |>.map (·.1))))
       done f (raiseFlags (writeLanes g (vReg v x.d) words) (flagsOf rs)) s)

/-- gred.op.T d, a (R115). -/
def execGred (x : XArgs) (s : State) : Result :=
  issuer s fun f g =>
    let v := seen f g
    withRegs f g (if x.form = .m then [x.a] else [x.d, x.a]) s
      (let lanes := lanesOf (active f v x.neg x.p)
       let r := redCodes x (flatCodes x.ty v x.a lanes)
       let w := splat x.ty r.1
       if x.form = .m then done f (raiseFlags (sSet g x.b.toNat w) r.2) s
       else done f (raiseFlags (writeLanes g (vReg v x.d) (lanes.map (fun l => (l, w))))
         (if lanes.isEmpty then 0 else r.2)) s)

/-- The result word of match: lead, count and rank (R116). -/
def matchWord (set : List Nat) (l : Nat) : Word :=
  BitVec.ofNat 64 (set.headD 0 * 2 ^ 48 + set.length * 2 ^ 32 + (set.filter (fun m => decide (m < l))).length)

/-- match.T d, a, k (R116). -/
def execMatchEq (x : XArgs) (s : State) : Result :=
  issuer s fun f g =>
    let v := seen f g
    withRegs f g [x.d, x.a] s
      (let lanes := lanesOf (active f v x.neg x.p)
       let k := (x.imm.extractLsb' 0 4).toNat
       let code := fun l => elemN x.ty (readV v x.a l) k
       let rs := lanes.map (fun l => (l, matchWord (lanes.filter (fun m => code m == code l)) l))
       done f (writeLanes g (vReg v x.d) rs) s)

end Sys2Proof.Machine
end

