-- ==== Sys2Proof/Machine/Special.lean ====
section
/-! DEFINITION. Special registers (07 R117-R119): rdsr and wrsr, and a BWPHASE write on its way (25 R348). -/

namespace Sys2Proof.Machine

/-- REPCTR as a word (R74). -/
def repWord (r : RepCtr) : Word :=
  (r.lanes ++ (0 : BitVec 25) ++ BitVec.ofBool r.active ++ r.next : BitVec (32 + 25 + 1 + 6))

/-- A special register as lane l of the issuing run reads it (R117); other numbers do not decode. -/
def specialReg (s : State) (f : Focus) (g : Group) (n : Nat) (l : Nat) : Word :=
  let tm := teamAt s g.team
  match n with
  | 0x00 => BitVec.ofNat 64 l
  | 0x01 => BitVec.ofNat 64 g.groupId
  | 0x02 => BitVec.ofNat 64 tm.teamId
  | 0x03 => BitVec.ofNat 64 tm.cluster
  | 0x04 => BitVec.ofNat 64 (gidCore f.gid)
  | 0x05 => g.winbase.zeroExtend 64
  | 0x06 => repWord g.rep
  | 0x07 => g.sticky.zeroExtend 64
  | 0x08 => g.stale.zeroExtend 64
  | 0x09 => f.lanes.zeroExtend 64
  | 0x0A => g.exited.zeroExtend 64
  | 0x0B => s.clk.clock
  | 0x0C => BitVec.ofNat 64 (nodeAt s tm.node).hdr.groups
  | 0x10 => (coreAt s (gidCore f.gid)).bankrole
  | 0x18 => g.cause
  | 0x19 => g.epc
  | 0x1A => g.trapbase
  | 0x20 => if f.view.isSome then g.bwSeen else (partAt s (ctxPart (groupCtx s g))).bwphase
  | _ => 0

/-- rdsr vD, NAME: every lane of the run receives the value, a lane register its own (R118). Every earlier
instruction of the group has completed when it issues, so STICKY and STALE are as R47 and R118 ask. -/
def execRdsrVector (x : SrRead) (s : State) : Result :=
  issuer s fun f g =>
    let v := seen f g
    withRegs f g [x.d] s
      (done f (writeLanes g (vReg v x.d) ((lanesOf f.lanes).map (fun l => (l, specialReg s f v x.n.toNat l)))) s)

/-- rdsr sD, NAME: read once (R118). -/
def execRdsrUniform (x : SrRead) (s : State) : Result :=
  issuer s fun f g => done f (sSet g x.d.toNat (specialReg s f (seen f g) x.n.toNat 0)) s

/-- A BWPHASE value leaves for the controllers (R348); a read gives the value last written. -/
def sendPhase (s : State) (p : Nat) (v : Word) : State :=
  let w := v &&& 0x3F
  updPart s p (fun x => { x with bwphase := w, bwSent := x.bwSent ++ [(s.clk.ns, w)] })

/-- The EPC fields that wrsr writes: DEFER, BACK and PC (R286). -/
def epcMask : Word := 0xBFFFFFFFFFFFFFFC
/-- The TRAPBASE fields that wrsr writes: ADDR and EN (R287). -/
def trapbaseMask : Word := 0x00FFFFFFFFFFFFFD

/-- wrsr NAME, sA (R119): the RW fields are replaced; EPC is writable only where HMODE was 1 at the start of the clock (R286,
R288). A flag that the first port's instruction raises in the same clock stays (R89), and so does a STALE bit that it has set
anew (DEDUCED, log entry 9: R89 names STICKY alone). -/
def execWrsr (x : SrWrite) (s : State) : Result :=
  issuer s fun f g =>
    let v := seen f g
    let w := sGet v x.a.toNat
    match x.n.toNat with
    | 0x07 => done f { g with sticky := w.setWidth 6 ||| g.raised } s
    | 0x08 => done f { g with stale := w.setWidth 32 ||| (g.stale &&& ~~~v.stale) } s
    | 0x19 => if hmode v then done f { g with epc := w &&& epcMask } s else trap f 0x01 0 s
    | 0x1A => done f { g with trapbase := (w &&& trapbaseMask) ||| (g.trapbase &&& 2) } s
    | 0x20 => done f g (sendPhase s (ctxPart (groupCtx s g)) w)
    | _ => trap f 0x01 0 s

/-- A BWPHASE write is sent to a partition's bin controllers (R348); without feature 7 there is none to send (R355). -/
def execBwphaseWrite (part : Nat) (v : Word) (s : State) : Result :=
  .next (if feature s part 7 then sendPhase s part v else s)

end Sys2Proof.Machine
end

