-- ==== Sys2Proof/Machine/Requests.lean ====
section
/-! DEFINITION. What happens to a request after its instruction has issued: acceptance or refusal at the home slice (13
R177-R181, 17 R221), retranslation (11 R172, 21 R374), the response or acknowledgement at the core (11 R155, R173, 13
R180, R188), table walks, and evictions (15 R204, R205). -/

namespace Sys2Proof.Machine

/-- A request waits behind an earlier one of its lanes that has not been performed and touches a common byte (R182); a load
reads such a store in the write queue. A pref orders nothing (R161). -/
def behindLane (s : State) (q r : Req) : Bool :=
  q.uid == r.uid && meets q.lanes r.lanes && !isPref q && !isPref r && sameBytes s q r &&
    !(isStore q && r.kind == .load && showsTo s q r)

/-- A request waits at its core point: a store, atomic or write-back behind earlier ones to its line, those that are held for the
supervisor among them (R178, R193), a load behind an earlier store to its bytes that it cannot see in the write queue (R179). -/
def behindPoint (s : State) (q r : Req) : Bool :=
  let writes := fun (q : Req) => isStore q || isAtom q || isWb q
  let line := fun (q : Req) => (reqPlace s q).map lineOf
  samePoint s q r &&
    ((writes q && writes r && (((line q).isSome && line q == line r) || (q.ctx == r.ctx && q.va / 128 == r.va / 128))) ||
      (isStore q && r.kind == .load && sameBytes s q r && !showsTo s q r))

/-! ### Lanes of one instruction at one place (R155, R156) -/

/-- The first byte that a request reaches, in the cellar or in a view. -/
def bytePlace (s : State) (r : Req) : Option Nat := if r.attr.fmt && reqCurrent s r then some r.pa else reqPlace s r

/-- The checks of a retranslation. -/
def recheck (s : State) (r : Req) : Except Nat Trans :=
  pieceCheck s r.ctx (coreDie r.core) { write := isStore r, atom := isAtom r } r.va

/-- The requests that lanes of the same load or store make for the same bytes through another mapping of their frame. -/
def twins (s : State) (r : Req) : List Req :=
  s.reqs.filter (fun q => q.id != r.id &&
    ((isStore r && isStore q && r.iid != 0 && q.iid == r.iid) || (isLoad r && isLoad q && r.pend != 0 && q.pend == r.pend)) &&
    q.stage != .accepted && q.stage != .held && q.size == r.size && (bytePlace s r).isSome && bytePlace s q == bytePlace s r &&
    (reqCurrent s q || (match recheck s q with
      | .ok _ => true
      | .error _ => false)))

/-- A request waits behind an earlier one, other than its twins. -/
def waitsBehind (s : State) (r : Req) : Bool :=
  s.reqs.any (fun q => decide (q.id < r.id) && q.stage != .accepted && (behindLane s q r || behindPoint s q r) &&
    !((twins s r).any (fun t => t.id == q.id)))
/-- A request and its twins are accepted together, and wait for what any of them waits for. -/
def reqBlocked (s : State) (r : Req) : Bool := waitsBehind s r || (twins s r).any (waitsBehind s)

/-- A refused request; a refused store drops its core's L1 copy (R221). -/
def refuse (s : State) (r : Req) : State :=
  let core := reqL1 s r
  let s := putReq s { r with stage := .refused }
  if isStore r then
    match copyAt (coreAt s core).l1 (lineOf r.pa) with
    | some c => if c.mask = 0 then l1Drop s core c.line else s
    | none => clearFills s core (fun q => lineOf q.pa == lineOf r.pa)
  else s

/-- A read request is answered with a line. -/
def answer (s : State) (r : Req) (data : List Byte) (poison : Bool) (tag : Nat) (fill : Bool) : State :=
  let r := { r with stage := .accepted, data, poison, tag := if poison then 0xB1 else tag, fill := r.fill && fill && !poison }
  match r.kind with
  | .pref l1 =>
    let s := dropReq s r.id
    if l1 && !poison then l1Fill s (reqL1 s r) (lineOf r.pa) r.gen tag (remoteManual r.core r.attr r.pa) r.attr.shadow data
    else s
  | _ => putReq s r

/-- A write that is not performed counts as accepted (R303). -/
def dropWrite (s : State) (r : Req) : State := putReq s { r with stage := .accepted, tag := 0 }

/-- The read of a line at home, with what the core's write queue lays over it; of a SHADOW page as it was when its frame last
changed, and with no waiting store (R201; log entry 41). -/
def homeLoad (s : State) (r : Req) : State :=
  let line := lineOf r.pa
  let s := touchBin s r.pa
  match r.attr.shadow, mapFind s.mem.shadows line with
  | true, some c => answer s r c.data c.poison c.tag true
  | true, none => answer s r (homeLine s.mem line) (s.mem.poison.contains line) (lineTag s.mem line) true
  | false, _ => answer s r (overlayQueue s r (homeLine s.mem line)) (s.mem.poison.contains line) (lineTag s.mem line) true

/-- A store at home (R156, R180): its bytes, one tag; poison goes when the last request of an instruction that covers
the line is accepted (R303). A release store leaves no older copy of the line in its core's L1, and no store one in another L1
through which agents of its core read (R179, R193). -/
def homeStore (s : State) (r : Req) (bs : List Byte) : State :=
  let line := lineOf r.pa
  let m := homeWrite s.mem r.pa bs
  let more := s.reqs.any (fun q => q.id != r.id && q.cover == r.cover && lineOf q.pa == line && q.stage != .accepted)
  let m := if r.cover ≠ 0 ∧ more = false then cleanLine m line else m
  let s := (if r.rel then reqL1 s r :: otherL1s s r else otherL1s s r).foldl (fun s c => l1Drop s c line) s
  touchBin (putReq { s with mem := m } { r with stage := .accepted, tag := lineTag m line }) r.pa

/-- An atomic at home (R160, R181); where the line is poisoned it is not performed (R173). -/
def homeAtom (s : State) (r : Req) (op : Nat) (ty : Ty) (b c : Word) : State :=
  let line := lineOf r.pa
  let old := homeRead s.mem r.pa r.size
  if s.mem.poison.contains line then
    touchBin (putReq s { r with stage := .accepted, data := old, poison := true, tag := 0xB1 }) r.pa
  else
    let new := atomNew op ty (leNat old) b.toNat c.toNat
    let m := homeWrite s.mem r.pa (leBytes r.size new)
    touchBin (putReq { s with mem := m } { r with stage := .accepted, data := old, tag := lineTag m line }) r.pa

/-- A store of another die to a MANUAL line: the core's L1 copy, filled from the proxy slice, takes the bytes and their
mask bits (R204). -/
def manualStore (s : State) (r : Req) (bs : List Byte) : State :=
  let line := lineOf r.pa
  let core := reqL1 s r
  let base := match copyAt (coreAt s core).l1 line with
    | some c =>
      if c.gen = r.gen ∧ c.manual then (c, s)
      else
        let p := proxyFill s (coreDie r.core) line
        ({ p.1 with
            gen := r.gen, data := mergeMask c.mask p.1.data c.data, mask := c.mask
            poison := (p.1.poison && !c.whole) || c.poison, whole := c.whole }, p.2)
    | none =>
      let p := proxyFill s (coreDie r.core) line
      ({ p.1 with gen := r.gen, mask := 0, whole := false }, p.2)
  let more := s.reqs.any (fun q => q.id != r.id && q.cover == r.cover && lineOf q.pa == line && q.stage != .accepted)
  let c := { base.1 with
    data := lineWith base.1.data (r.pa % 128) bs
    mask := base.1.mask ||| byteMask (r.pa % 128) bs.length
    poison := base.1.poison && (r.cover == 0 || more)
    whole := base.1.whole || (r.cover != 0 && !more) }
  let s := updCore base.2 core (fun x => { x with l1 := putCopy x.l1 c })
  -- where the L1 may not hold the line, it is evicted at once (R193)
  let s := if l1May s core line then s else l1Drop (drainCopy s core c) core line
  putReq s { r with stage := .accepted, tag := c.tag }

/-- The write-back of a wbr or invr at a line (R164, R165, R204, R205): the dirty bytes of the group's L1s and of the die's
proxy slice reach the home; an invr then drops the line from them. -/
def rangeLine (s : State) (r : Req) (inv : Bool) : State :=
  let line := lineOf r.pa
  let die := coreDie r.core
  let cores := teamL1s s r.team r.core
  let s := cleanProxy (drainLine s cores line) die line
  if inv then cores.foldl (fun s c => l1Drop s c line) (dropProxy s die line) else s

/-- A request performed at its ordering point. -/
def performReq (s : State) (r : Req) : State :=
  let line := lineOf r.pa
  match r.kind with
  | .load | .ldc _ | .pref _ =>
    if remoteManual r.core r.attr r.pa then
      let p := manualLine s r.core (reqL1 s r) line
      answer p.2 r (overlayQueue p.2 r p.1.data) p.1.poison p.1.tag true
    else homeLoad s r
  | .store bs => if remoteManual r.core r.attr r.pa then manualStore s r bs else homeStore s r bs
  | .atom op ty b c _ => homeAtom s r op ty b c
  | .wb inv acq =>
    let s := if remoteManual r.core r.attr r.pa then rangeLine s r inv else s
    let s := acq.elim s (acquireAt s r.gid)
    touchBin (putReq s { r with stage := .accepted, tag := lineTag s.mem line }) r.pa

/-- A store with the bytes of the highest lane among its twins (R156). -/
def topStore (ts : List Req) (r : Req) : Req :=
  match (r :: ts).foldl (fun a q => if a.id < q.id then q else a) r with
  | q => if isStore r then { r with kind := q.kind } else r

/-- A request and its twins are performed at once: their loads receive one value, and of their stores the highest lane's bytes
are all that is written (R155, R156). A twin whose translation was an old one is refused and retranslated with that. -/
def performAll (s : State) (r : Req) : State :=
  let ts := twins s r
  let s := ts.foldl (fun s q => if reqCurrent s q || !isStore q then s else l1Drop s (reqL1 s q) (lineOf q.pa)) s
  let ids := ts.map (·.id)
  let s := { s with reqs := s.reqs.map (fun q => if ids.contains q.id then { q with stage := .accepted } else q) }
  let s := performReq s (topStore ts r)
  match reqAt s r.id with
  | none => s
  | some a => { s with reqs := s.reqs.map (fun q =>
      if ids.contains q.id then
        { q with pa := r.pa, gen := r.gen, attr := r.attr, data := a.data, poison := a.poison, tag := a.tag, fill := false }
      else q) }

/-- A request that its home does not perform (R303, R347, R351); a pref is dropped silently (R161). -/
def deadReq (s : State) (r : Req) (c : Nat) : State :=
  if isPref r then dropReq s r.id
  else
  let s := postFabric s (ctxPart r.ctx) r.pa (some c)
  match r.kind with
  | .load | .ldc _ | .pref _ => answer s r (List.replicate 128 0) true 0 false
  | .atom _ _ _ _ _ => putReq s { r with stage := .accepted, poison := true, tag := 0xB1 }
  | .store _ => dropWrite (if showsAtCore r then l1Drop s (reqL1 s r) (lineOf r.pa) else s) r
  | .wb _ _ => dropWrite s r

/-- REQUEST_AT_HOME_SLICE (R177, R180, R221). -/
def execRequestAtHomeSlice (id : Nat) (s : State) : Result :=
  match reqAt s id with
  | none => .fault .notEnabled
  | some r =>
    if r.stage != .queued || reqBlocked s r then .fault .notEnabled
    else if reqRefused s r then .next (refuse s r)
    else if r.attr.zero then
      -- a first write waits for its page's frame (R222)
      if isStore r || isAtom r then .fault .notEnabled
      else .next (answer s r (overlayQueue s r (List.replicate 128 0)) false 0 false)
    else if r.attr.fmt then
      if heldBySwitch s r (viewStored (mapGet {} (partAt s (ctxPart r.ctx)).fwins (viewWin r.pa)) (viewOff r.pa)) then
        .fault .notEnabled
      else
      match viewAt s (ctxPart r.ctx) (viewWin r.pa) (viewOff r.pa / 128 * 128) with
      | some l => .next (answer s r l.data l.poison 1 true)
      | none =>
        if isPref r && (viewAsleep s (ctxPart r.ctx) (viewWin r.pa) (viewOff r.pa / 128 * 128)).isSome then
          .next (dropReq s id)
        else .fault .notEnabled
    else if heldBySwitch s r (lineOf r.pa) then .fault .notEnabled
    else
      match atHome s (ctxPart r.ctx) r.pa with
      | .ok => .next (performAll s r)
      | .asleep => if isPref r then .next (dropReq s id) else whenAwake s [binOf r.pa] (.fault .notEnabled)
      | .dead c => .next (deadReq s r c)

/-! ### Retranslation (R172, R291, R374) -/

/-- The requests of one posted instruction that fail their retranslation with one cause, the instruction's lowest lane first. -/
def failSet (s : State) (r : Req) (c : Nat) : List Req :=
  s.reqs.filter (fun q => q.id == r.id ||
    (r.iid != 0 && q.iid == r.iid && q.stage != .accepted && !reqCurrent s q && q.stage != .held &&
      (match recheck s q with
        | .error d => d == c
        | .ok _ => false)))
/-- The address of the lowest-numbered lane that met the cause (R374). -/
def failInfo (l : List Req) : Nat :=
  ((leastBy (fun q => lowLane q.lanes) l).elim 0 (·.va)) % 2 ^ 56

/-- A failed retranslation: a load or atomic answers with the cause; of a posted instruction, every request that fails so is
dropped and the cause latched once, or they are held for the supervisor (R374); a pref is dropped (R161). -/
def failReq (s : State) (r : Req) (c : Nat) : State :=
  match r.kind with
  | .pref _ => dropReq s r.id
  | .load | .ldc _ | .atom _ _ _ _ _ => putReq s { r with stage := .accepted, poison := true, fill := false, tag := c }
  | .store _ | .wb _ _ =>
    let l := failSet s r c
    let info := failInfo l
    let here := match mapFind s.groups r.gid with
      | some g => g.uid == r.uid
      | none => false
    if supCause c && here then
      updGroup (l.foldl (fun s q => putReq s { q with stage := .held }) s) r.gid (latch c info true)
    else
      let s := l.foldl (fun s q => dropReq s q.id) s
      if supCause c then postNoGroup s r.ctx c info else latchOrPost s r.gid r.uid r.ctx c info

/-- A first-written ZERO page already has an edit under way. -/
def zeroPending (s : State) (k va : Nat) : Bool :=
  s.edits.any (fun e => e.ctx == k && !e.committed && e.op == .zeroPage (va / 65536 * 65536))

/-- A request goes out again with a new translation, past its core point where it is a store; a first write of a ZERO page
reserves its frame (R222). -/
def reissue (s : State) (r : Req) (t : Trans) : State :=
  let s := dropTlb s r.core r.ctx [(r.va, 1)]
  let s := tlbFill s r.core t
  let q := { r with stage := .queued, pa := transPa t r.va, attr := t.attr, gen := t.gen }
  let s := putReq s q
  let s := match r.kind with
    | .store bs => if showsAtCore q then l1Store s (reqL1 s q) q.pa q.gen bs else s
    | _ => s
  if t.attr.zero && (isStore r || isAtom r) && !zeroPending s r.ctx r.va then
    let f : Focus := { gid := r.gid, lanes := 0, pc := 0, npc := 0 }
    reserveZero s f { uid := r.uid } r.ctx [r.va / 65536]
  else s

/-- REQUEST_RETRANSLATION. -/
def execRequestRetranslation (id : Nat) (s : State) : Result :=
  match reqAt s id with
  | none => .fault .notEnabled
  | some r =>
    if r.stage != .refused then .fault .notEnabled
    else
      match recheck s r with
      | .error c => .next (failReq s r c)
      | .ok t =>
        if isPref r && (t.attr.manual || t.attr.zero) then .next (dropReq s id)
        else if t.attr.zero && (isStore r || isAtom r) && !zeroPending s r.ctx r.va then
          withFrames s r.ctx [r.va] (.next (reissue s r t))
        else .next (reissue s r t)

/-- The requests that the supervisor's resume performs first (R298, R374): they are retranslated. -/
def releaseHeld (s : State) (gid uid : Nat) : State :=
  { s with reqs := s.reqs.map (fun r =>
      if r.gid = gid ∧ r.uid = uid ∧ r.stage = .held then { r with stage := .refused } else r) }

/-- TABLE_WALK: a translation enters a core's cache (R220, R233). -/
def execTableWalk (core ctx va : Nat) (s : State) : Result :=
  match walk s ctx va with
  | some t =>
    if core < 336 && va < 2 ^ 56 then
      whenAwake s (tableAsleep s ctx va).toList (.next (tlbFill (touchTables s ctx va) core t))
    else .fault .notEnabled
  | none => .fault .notEnabled

/-! ### Responses (R155, R160, R173, R291) -/

/-- A pending result by its number, with its group's slot. -/
def pendAt (s : State) (id : Nat) : Option (Nat × Pend) :=
  s.groups.findSome? (fun e => (e.2.pends.find? (fun p => p.id == id)).map (fun p => (e.1, p)))

/-- The requests of a pending result. -/
def pendReqs (s : State) (id : Nat) : List Req := s.reqs.filter (fun r => r.pend == id)

/-- Everything that a pending result waits for has been answered. -/
def pendReady (s : State) (p : Pend) : Bool :=
  p.fault.isNone && (pendReqs s p.id).all (fun r => r.stage == .accepted)

/-- The fault of an answered instruction: the cause that R171 reports; for poison the address of the unit. -/
def pendFault (rs : List Req) : Option (Nat × Nat) :=
  reported ((rs.filter (fun r => r.poison)).map (fun r =>
    (r.tag, if r.tag = 0xB1 then r.va / 128 * 128 else r.va % 2 ^ 56)))

/-- The bytes of a load's access in its line. -/
def reqBytes (r : Req) : List Byte := (r.data.drop (r.va % 128)).take r.size

/-- Write the lanes of a destination. -/
def writeDest (g : Group) (d : Dest) (vals : List (Nat × Word)) : Group :=
  match d with
  | .vec j => writeLanes g j vals
  | .uni n => match vals.getLast? with
    | some e => sSet g n e.2
    | none => g

/-- The response of a load fills the L1 or the constant cache; a response that no longer fills the L1 evicts a copy with other
bytes, which may be older. What loads in flight have read of the line before it no longer fills the L1 (R182). -/
def fillFrom (s : State) (r : Req) : State :=
  match r.kind with
  | .ldc node =>
    if r.fill then updCore s r.core (fun c => { c with cc := { node, line := lineOf r.pa, data := r.data } :: c.cc }) else s
  | _ =>
    let core := reqL1 s r
    let s :=
      if r.fill then l1Fill s core (lineOf r.pa) r.gen r.tag (remoteManual r.core r.attr r.pa) r.attr.shadow r.data
      else match copyAt (coreAt s core).l1 (lineOf r.pa) with
        | some c => if !r.attr.zero && c.mask == 0 && c.data != r.data then l1Drop s core c.line else s
        | none => s
    if r.attr.zero then s else clearFills s core (fun q => lineOf q.pa == lineOf r.pa && decide (q.tag < r.tag))

/-- A pending result ends: its requests are finished, and it writes its destination, or keeps the fault to be taken. -/
def finishPend (s : State) (gid : Nat) (p : Pend) (vals : List (Nat × Word)) (fault : Option (Nat × Nat)) : State :=
  let s := { s with reqs := s.reqs.filter (fun r => r.pend != p.id) }
  let s := updGroup s gid (fun g =>
    match fault with
    | some x => { g with pends := g.pends.map (fun q => if q.id = p.id then { q with fault := some x } else q) }
    | none => writeDest { g with pends := g.pends.filter (fun q => q.id != p.id) } p.dest vals)
  match p.acq, fault with
  | some sc, none => acquireAt s gid sc
  | _, _ => s

/-- LOAD_RESPONSE: the data of every lane has returned (R155); in any lane poisoned, none is written (R173). -/
def execLoadResponse (id : Nat) (s : State) : Result :=
  match pendAt s id with
  | none => .fault .notEnabled
  | some (gid, p) =>
    if p.atom || !pendReady s p then .fault .notEnabled
    else
      let rs := pendReqs s id
      let vals := if p.sram then p.vals
        else (rs.map (fun r => (lanesOf (r.lanes &&& p.active)).map (fun l =>
          (l, extendTo p.ty (leNat (reqBytes r)))))).flatten
      let fault := pendFault rs
      let s := if fault.isSome then s else rs.foldl fillFrom s
      .next (finishPend s gid p vals fault)

/-- The new value of an atomic enters the L1 copy with its tag (R181); a copy that has a later write's tag already may lack the
atomic's bytes and is evicted (R182). Loads that read the line before it no longer fill it. -/
def l1Atom (s : State) (r : Req) : State :=
  match r.kind with
  | .atom op ty b c _ =>
    if r.poison then s
    else
      let core := reqL1 s r
      let new := leBytes r.size (atomNew op ty (leNat r.data) b.toNat c.toNat)
      clearFills (updCore s core (fun x => { x with l1 := x.l1.filterMap (fun y =>
        if !copyOpen y (lineOf r.pa) r.gen then some y
        else if y.tag < r.tag then
          some { y with tag := r.tag, data := overlayStores s core y.line r.tag y.gen (lineWith y.data (r.pa % 128) new) }
        else none) })) core (fun q => lineOf q.pa == lineOf r.pa && decide (q.tag < r.tag))
  | _ => s

/-- ATOMIC_RESPONSE: the old values of every lane have returned (R160, R181). -/
def execAtomicResponse (id : Nat) (s : State) : Result :=
  match pendAt s id with
  | none => .fault .notEnabled
  | some (gid, p) =>
    if !p.atom || !pendReady s p then .fault .notEnabled
    else
      let rs := pendReqs s id
      let vals := if p.sram then p.vals
        else (rs.map (fun r => (lanesOf r.lanes).map (fun l => (l, extendTo p.ty (leNat r.data))))).flatten
      .next (finishPend (rs.foldl l1Atom s) gid p vals (pendFault rs))

/-- STORE_ACKNOWLEDGEMENT: the tag of an accepted store or write-back returns (R180, R188). A release store took no bytes at
the core point, and its tag enters no copy. -/
def execStoreAcknowledgement (id : Nat) (s : State) : Result :=
  match reqAt s id with
  | none => .fault .notEnabled
  | some r =>
    if r.stage != .accepted || !(isStore r || isWb r) then .fault .notEnabled
    else
      let core := reqL1 s r
      let s := dropReq s id
      if isWb r || r.rel || remoteManual r.core r.attr r.pa then .next s else .next (l1Tag s core r.pa r.gen r.tag)

/-! ### Evictions (R204, R205) -/

/-- L1_EVICTION: a line leaves an L1; dirty bytes move to the proxy slice (R204). -/
def execL1Eviction (core line : Nat) (s : State) : Result :=
  match copyAt (coreAt s core).l1 line with
  | none => .fault .notEnabled
  | some c => .next (l1Drop (drainCopy s core c) core line)

/-- PROXY_SLICE_EVICTION: a line leaves a proxy slice; dirty bytes are written back, once the bin of their home is awake (R205). -/
def execProxySliceEviction (die line : Nat) (s : State) : Result :=
  match proxyAt s die line with
  | none => .fault .notEnabled
  | some c =>
    if c.mask != 0 && (match ownerPart s.out.binOwner (binOf (128 * line)) with
        | some p => atHome s p (128 * line) == .asleep
        | none => false) then
      whenAwake s [binOf (128 * line)] (.fault .notEnabled)
    else .next (evictProxy s die line)

end Sys2Proof.Machine
end

