-- ==== Sys2Proof/Machine/Rename.lean ====
section
/-! DEFINITION. Renaming (17 R223-R247): the checks and the acceptance of the seven instructions, the commit and the
completion of an edit, the frames of first-written ZERO pages, and the release of frames. -/

namespace Sys2Proof.Machine

/-- P of R238. -/
def pageP : Nat := 65536

/-- The 64 KiB entry of a page, 0 where it is unmapped. -/
def entryAt (s : State) (k va : Nat) : Nat :=
  match pageEntry s k va with
  | some e => e.2
  | none => 0
/-- The level of a page's mapping. -/
def levelAt (s : State) (k va : Nat) : Nat :=
  match pageEntry s k va with
  | some e => e.1
  | none => 0

/-- The pages that bytes lo to lo + n - 1 touch, by their addresses. -/
def pagesIn (lo n : Nat) : List Nat :=
  if n = 0 then [] else (List.range ((lo + n - 1) / pageP - lo / pageP + 1)).map (fun i => (lo / pageP + i) * pageP)

/-- The operands of a renaming instruction with what R239 to R245 ask of them. -/
structure Plan where
  addrs : List Nat                          -- address operands, in the order of the text
  bad : Bool                                -- cause 0x51
  seam : Bool := false                      -- cause 0x50
  mapped : List Nat := []                   -- pages that must be mapped and renamable
  empty : List Nat := []                    -- pages that must be unmapped
  copied : List Nat := []                   -- pages a remainder copy reads or writes
  target : List Nat := []                   -- pages a remainder copy writes in place
  writable : List Nat := []                 -- sources of map.alias.rw
  isDrop : Bool := false
  moves : Bool := true                      -- the mapped pages' translations change
  fresh : Nat := 0
  op : EditOp

/-- The pages that an instruction's checks look at. -/
def Plan.pages (p : Plan) : List Nat := p.mapped ++ p.empty

/-- A length is out of range (R238). -/
def badLen (n : Nat) : Bool := decide (n = 0 ∨ 2 ^ 36 < n)

def planCat (x la y lb : Nat) : Plan :=
  let e := x + la
  let c := min ((pageP - y % pageP) % pageP) lb
  { addrs := [x, y]
    bad := badLen la || badLen lb || overlaps x la y lb || decide (2 ^ 56 < e + lb ∨ 2 ^ 56 < y + lb)
    seam := e % pageP != y % pageP
    mapped := pagesIn y lb ++ (if c = 0 then [] else [e / pageP * pageP])
    empty := pagesIn (e + c) (lb - c)
    copied := if c = 0 then [] else [y / pageP * pageP, e / pageP * pageP]
    target := if c = 0 then [] else [e / pageP * pageP]
    op := .cat x la y lb }

def planSplit (z x l o : Nat) : Plan :=
  let cut := (x + o) % pageP != 0
  { addrs := [z, x]
    bad := badLen l || decide (o = 0 ∨ l ≤ o) || overlaps x l z (l - o) || decide (2 ^ 56 < x + l ∨ 2 ^ 56 < z + (l - o))
    seam := z % pageP != (x + o) % pageP
    mapped := pagesIn (x + o) (l - o)
    empty := pagesIn z (l - o)
    copied := if cut then [(x + o) / pageP * pageP] else []
    fresh := if cut then 1 else 0
    op := .split x l o z }

def planPerm (n base : Nat) (list : List Nat) : Plan :=
  { addrs := [base]
    bad := decide (n = 0 ∨ 64 < n) || base % pageP != 0 || decide (2 ^ 56 < base + n * pageP) ||
      list.any (fun e => decide (n ≤ e)) || decide (list.dedup.length ≠ list.length)
    mapped := ((List.range n).filter (fun j => list.getD j 0 != j)).map (fun j => base + j * pageP)
    op := .perm base list }

def badPair (a b n : Nat) : Bool :=
  badLen n || a % pageP != 0 || b % pageP != 0 || n % pageP != 0 || overlaps a n b n ||
    decide (2 ^ 56 < a + n ∨ 2 ^ 56 < b + n)

def planXchg (a b n : Nat) : Plan :=
  { addrs := [a, b], bad := badPair a b n, mapped := pagesIn a n ++ pagesIn b n, op := .xchg a b n }

def planAlias (d a n : Nat) (rw : Bool) : Plan :=
  { addrs := [d, a], bad := badPair d a n, mapped := pagesIn a n, empty := pagesIn d n
    writable := if rw then pagesIn a n else [], moves := false, op := .renameAlias d a n rw }

def planDrop (a n : Nat) : Plan :=
  { addrs := [a], bad := badLen n || decide (2 ^ 56 < a + n), mapped := pagesIn a n, isDrop := true, op := .drop a n }

/-! ### The new mapping -/

/-- Addresses and lengths that keep 2 MiB mappings whole (R238): every operand of the instruction counts, a whole range of map.drop
too (DEDUCED, log entry 28). -/
def wholeOp : EditOp → Bool
  | .cat x la y lb => [x, la, y, lb].all (fun v => v % 2 ^ 21 == 0)
  | .split x l o z => [x, l, o, z].all (fun v => v % 2 ^ 21 == 0)
  | .xchg a b n => [a, b, n].all (fun v => v % 2 ^ 21 == 0)
  | .renameAlias d a n _ => [d, a, n].all (fun v => v % 2 ^ 21 == 0)
  | .drop a n => [a, n].all (fun v => v % 2 ^ 21 == 0)
  | _ => false

/-- Pages dst, dst + P, ... (n bytes) get what src, src + P, ... map now, changed by f; whole 2 MiB pages stay whole. -/
def moveChgs (s : State) (k : Nat) (whole : Bool) (src dst n : Nat) (f : Nat → Nat) : List Chg :=
  let small := fun (src dst n : Nat) =>
    (List.range ((n + pageP - 1) / pageP)).map (fun i =>
      ({ va := dst + i * pageP, level := 0, entry := f (entryAt s k (src + i * pageP)) } : Chg))
  if whole then
    ((List.range (n / 2 ^ 21)).map (fun i =>
      let a := src + i * 2 ^ 21
      if levelAt s k a = 1 then
        [({ va := dst + i * 2 ^ 21, level := 1, entry := f (entryAt s k a) } : Chg)]
      else small a (dst + i * 2 ^ 21) (2 ^ 21))).flatten
  else small src dst n

/-- Pages of a range become unmapped. -/
def unmapChgs (s : State) (k : Nat) (whole : Bool) (lo n : Nat) : List Chg :=
  moveChgs s k whole (lo / pageP * pageP) (lo / pageP * pageP) (lo % pageP + n) (fun _ => 0)

/-- The leaf of a page dropped to the zero frame: W of the mapping is kept (R222, R245). Its bits SW are cleared, where the other
instructions carry them with the leaf (no rule speaks of them; DEDUCED, log entry 28). -/
def dropLeaf (e : Nat) : Nat := if e = 0 then 0 else 3 + bitsOf e 2 1 * 4 + 2 ^ 57

/-- The pages that an edit touches besides those it changes: the sources of map.alias, what a remainder copy reads or writes, and
the pages that map.drop drops in part (R238). -/
def touchedPages : EditOp → List Nat
  | .cat x la y lb => if min ((pageP - y % pageP) % pageP) lb = 0 then [] else [(x + la) / pageP * pageP]
  | .split x _ o _ => if (x + o) % pageP = 0 then [] else [(x + o) / pageP * pageP]
  | .renameAlias _ a n _ => pagesIn a n
  | .drop a n => (pagesIn a n).filter (fun q => decide (q < a ∨ a + n < q + pageP))
  | _ => []
/-- Each 2 MiB page that an edit touches and does not keep whole is replaced by 32 mappings of 64 KiB (R238): one of them
written as it is makes the others. -/
def touchChgs (s : State) (k : Nat) (op : EditOp) : List Chg :=
  if wholeOp op then []
  else (((touchedPages op).filter (fun a => levelAt s k a == 1)).map (fun a => a / 2 ^ 21 * 2 ^ 21)).dedup.map (fun a =>
    { va := a, level := 0, entry := entryAt s k a })

/-- The changes of an edit on the mapping as it stands; fresh is the first reserved frame (R238, R240-R245, R236). The fresh frame
that map.split maps takes the attributes of the page it is split from, but for ZERO (R241 names none; DEDUCED, log entry 28). -/
def editChgs (s : State) (k : Nat) (op : EditOp) (fresh : Nat) : List Chg :=
  let w := wholeOp op
  touchChgs s k op ++
  match op with
  | .cat x la y lb =>
    let c := min ((pageP - y % pageP) % pageP) lb
    moveChgs s k w (y + c) (x + la + c) (lb - c) id ++ unmapChgs s k w y lb
  | .split x l o z =>
    let xo := x + o
    if xo % pageP = 0 then moveChgs s k w xo z (l - o) id ++ unmapChgs s k w xo (l - o)
    else
      let t := xo / pageP * pageP
      let zp := z / pageP * pageP
      let e := entryAt s k t
      let rest := (x + l) - (t + pageP)
      [{ va := zp, level := 0, entry := e % 2 ^ 8 + fresh + bitsOf e 52 5 * 2 ^ 52 + bitsOf e 58 6 * 2 ^ 58 }] ++
        moveChgs s k false (t + pageP) (zp + pageP) rest id ++ unmapChgs s k false (t + pageP) rest
  | .perm base list =>
    (List.range list.length).filterMap (fun j =>
      let q := list.getD j 0
      if q = j then none
      else some { va := base + j * pageP, level := 0, entry := entryAt s k (base + q * pageP) })
  | .xchg a b n => moveChgs s k w b a n id ++ moveChgs s k w a b n id
  | .renameAlias d a n rw => moveChgs s k w a d n (fun e => if rw then e else e - bitsOf e 2 1 * 4)
  | .drop a n =>
    let lo := (a + pageP - 1) / pageP * pageP
    let hi := (a + n) / pageP * pageP
    if hi ≤ lo then [] else moveChgs s k w lo lo (hi - lo) dropLeaf
  | .install va size leaf => [{ va, level := if size = pageP then 0 else if size = 2 ^ 21 then 1 else 2, entry := leaf.toNat }]
  | .remove va size => [{ va, level := if size = pageP then 0 else if size = 2 ^ 21 then 1 else 2, entry := 0 }]
  | .zeroPage _ => []

/-- The remainder copy of an edit: source address, bytes, and the target as a virtual address of the old mapping or an
offset in the fresh frame (R225, R240, R241). -/
def editCopy (op : EditOp) : Option (Nat × Nat × (Nat ⊕ Nat)) :=
  match op with
  | .cat x la y lb =>
    let c := min ((pageP - y % pageP) % pageP) lb
    if c = 0 then none else some (y, c, .inl (x + la))
  | .split x l o _ =>
    let xo := x + o
    if xo % pageP = 0 then none
    else some (xo, min (xo / pageP * pageP + pageP) (x + l) - xo, .inr (xo % pageP))
  | _ => none

/-! ### Acceptance (R223, R239) -/

/-- The ranges of pages that an edit affects, those of the larger pages it splits included (R238), and the pages that map.drop only
clears a part of (for cause 0x72; DEDUCED, log entry 28). -/
def editRanges (s : State) (k : Nat) (p : Plan) : List (Nat × Nat) :=
  let pages := (p.empty ++ (if p.moves then p.mapped else []) ++ p.copied).dedup
  let cs := editChgs s k p.op 0
  pages.map (fun a => (a, pageP)) ++
    (splitBases s k cs).map (fun b => (b.2 * levelSize b.1, levelSize b.1))

/-- The checks of R239 on the mapping, orders 4 to 9, with INFO: a page's address where a page has the cause, else the first
address operand. -/
def mapCause (s : State) (core k : Nat) (p : Plan) : Option (Nat × Nat) :=
  let first := p.addrs.headD 0
  let attr := fun (a : Nat) => pteAttr (entryAt s k a)
  match p.mapped.find? (fun a => (pageEntry s k a).isNone) with
  | some a => some (0x40, a)
  | none =>
    if p.empty.any (fun a => (pageEntry s k a).isSome) then some (0x52, first)
    else if p.mapped.any (fun a => levelAt s k a == 2 || (attr a).host) ||
        (p.copied ++ (if p.isDrop then p.mapped else [])).any (fun a => (attr a).zb || (attr a).fmt) then some (0x53, first)
    else
      match (p.target ++ p.writable).find? (fun a => !(attr a).w) with
      | some a => some (0x41, a)
      | none =>
        match (p.target ++ (if p.isDrop then p.mapped else [])).find? (fun a => (attr a).shadow) with
        | some a => some (0x43, a)
        | none =>
          match (editRanges s k p).find? (fun r => lockHit s core 0 k r.1 r.2 false) with
          | some r => some (0x72, r.1)
          | none => none

/-- The frames an edit takes: fresh ones, and those of new tables; a ZERO page that a remainder copy writes needs one too. -/
def framesNeeded (s : State) (k : Nat) (p : Plan) : Nat :=
  p.fresh + tablesNeeded s k (editChgs s k p.op 0) +
    (p.target.filter (fun a => (pteAttr (entryAt s k a)).zero)).length

/-- An uncommitted edit of the context touches one of the ranges. -/
def rangesBusy (s : State) (k : Nat) (rs : List (Nat × Nat)) (old : Edit → Bool) : Bool :=
  s.edits.any (fun e => e.ctx == k && !e.committed && old e &&
    e.ranges.any (fun a => rs.any (fun b => overlaps a.1 a.2 b.1 b.2)))

/-- A renaming instruction: operand checks, then, once no earlier edit holds its pages, the checks on the mapping, the
reservation of frames, and acceptance, after which the run goes on (R223, R239). -/
def editOp (sc : Scope) (plan : Group → Plan) (early : Group → Bool) (s : State) : Result :=
  issuer s fun f g =>
    let v := seen f g
    let k := groupCtx s g
    let core := gidCore f.gid
    let p := plan v
    let first := p.addrs.headD 0 % 2 ^ 56
    if early v then trap f 0x02 0 s
    else if openAcq s g f.lanes then waits f .acquire s
    else
      match p.addrs.find? (fun a => decide (2 ^ 56 ≤ a)) with
      | some a => trap f 0x4B (a % 2 ^ 56) s
      | none =>
        if p.bad then trap f 0x51 first s
        else if p.seam then trap f 0x50 first s
        else if rangesBusy s k (p.pages.map (fun a => (a, pageP))) (fun _ => true) then
          waits f (.accept k (p.pages.map (fun a => (a, pageP)))) s
        else
          match (walksAsleep s core k (p.pages.map (fun a => (a, pageP)))).or
              (if framesNeeded s k p = 0 then none else poolAsleep s k), mapCause s core k p with
          | some b, _ => waits f .operand (wakeBin s b)
          | none, some (c, i) => trap f c i (reportWalk f c i s)
          | none, none =>
            let n := framesNeeded s k p
            let pool := (ctxAt s k).pool
            -- a disabled pool is cause 0x54; behind frames held back by a full ring an edit waits (R232)
            if n ≠ 0 && pool.en && !pool.heldFrames.isEmpty then waits f (.accept k []) s
            else if framesFree s k < n then superTrap f 0x54 0 s
            else
              let s := touchWalks s core k (p.pages.map (fun a => (a, pageP)))
              let rs := editRanges s k p
              let q := takeFrames s k n
              let e : Edit := { id := s.fresh, ctx := k, die := coreDie core, core, gid := f.gid, uid := g.uid
                                lanes := f.lanes, scope := sc, op := p.op, ranges := rs, frames := q.1
                                waits := ((reqsOf s g.uid f.lanes).filter (fun r =>
                                  rs.any (fun a => overlaps a.1 a.2 r.va r.size))).map (·.id)
                                committed := false, upTo := 0, pte := false }
              done f g { q.2 with fresh := s.fresh + 1, edits := q.2.edits ++ [e] }

/-- A uniform register of a number. -/
def sNat (v : Group) (r : BitVec 7) (i : Nat) : Nat := (sGet v (r.toNat + i)).toNat

def execMapCat (x : MArgs) (s : State) : Result :=
  editOp x.sc (fun v => planCat (sNat v x.d 0) (sNat v x.d 1) (sNat v x.a 0) (sNat v x.a 1)) (fun _ => false) s
def execMapSplit (x : MArgs) (s : State) : Result :=
  editOp x.sc (fun v => planSplit (sNat v x.d 0) (sNat v x.a 0) (sNat v x.a 1) (sNat v x.b 0)) (fun _ => false) s
/-- The list of a map.perm goes past s127 (R242). -/
def permPast (x : MArgs) (v : Group) : Bool := decide (127 < x.b.toNat + (sNat v x.d 0 + 3) / 4 - 1)
/-- map.perm: the list stands in as many registers as its n entries need; past s127 it is cause 0x02 (R242). -/
def execMapPerm (x : MArgs) (s : State) : Result :=
  editOp x.sc (fun v =>
    let n := sNat v x.d 0
    planPerm n (sNat v x.a 0) ((List.range (min n 64)).map (fun i => elemW 16 (sGet v (x.b.toNat + i / 4)) (i % 4))))
    (permPast x) s
def execMapXchg (x : MArgs) (s : State) : Result :=
  editOp x.sc (fun v => planXchg (sNat v x.d 0) (sNat v x.a 0) (sNat v x.b 0)) (fun _ => false) s
def execMapAlias (x : MArgs) (s : State) : Result :=
  editOp x.sc (fun v => planAlias (sNat v x.d 0) (sNat v x.a 0) (sNat v x.b 0) (x.aop == 1)) (fun _ => false) s
def execMapDrop (x : MArgs) (s : State) : Result :=
  editOp x.sc (fun v => planDrop (sNat v x.a 0) (sNat v x.b 0)) (fun _ => false) s

/-- The word that map.query gives for a page (R246). -/
def queryWord (s : State) (k va : Nat) : Nat :=
  match walk s k va with
  | none => 0
  | some t =>
    let a := t.attr
    let pa := transPa t (va / pageP * pageP)
    let frame := if a.zero then (Config.zeroFrame (ctxPart k)).toNat else if a.host && !a.owner then 0 else pa / pageP
    let b := fun (x : Bool) (i : Nat) => if x then 2 ^ i else 0
    t.gen.toNat * 2 ^ 48 + frame % 2 ^ 36 * 2 ^ 12 + 2 ^ 11 + b a.w 10 + b a.shadow 9 + b a.manual 8 + b a.zb 7 +
      b a.fmt 6 + b a.host 5 + b a.owner 4 + b a.zero 3 +
      b ((onFrame a || a.fmt) && decide (1 < mapGet 0 s.mem.counts (genFrame k a pa))) 2 +
      (if t.size = pageP then 0 else if t.size = 2 ^ 21 then 1 else 2)

/-- map.query: after the lanes' earlier edits have committed (R246), and with the tables of the page awake (R345). -/
def execMapQuery (x : MArgs) (s : State) : Result :=
  issuer s fun f g =>
    let va := sNat (seen f g) x.a 0
    let k := groupCtx s g
    if 2 ^ 56 ≤ va then trap f 0x4B (va % 2 ^ 56) s
    else if s.edits.any (fun e => !e.committed && e.uid == g.uid && meets e.lanes f.lanes) then waits f .edits s
    else
      match walksAsleep s (gidCore f.gid) k [(va, 1)] with
      | some b => waits f .operand (wakeBin s b)
      | none =>
        let w := BitVec.ofNat 64 (queryWord s k va)
        done f (sSet g x.d.toNat w) (touchWalks (reportWalk f 0x40 va s) (gidCore f.gid) k [(va, 1)])

/-! ### Commit (R223-R227) -/

/-- The remainder copy, with its poison, into an A page or the fresh frame (R225). -/
def remainder (s : State) (k : Nat) (op : EditOp) (fresh : Nat) : State :=
  match editCopy op with
  | none => s
  | some (src, n, dst) =>
    match walk s k src with
    | none => s
    | some t =>
      let r := readPiece s k t src n
      match dst with
      | .inl va => writePiece r.2 k va r.1
      | .inr off => writeFrame r.2 (ctxPart k) (fresh + off) r.1

/-- The lines of partial pages that map.drop drops without write-back (R245). -/
def dropLines (s : State) (k : Nat) (op : EditOp) : State :=
  match op with
  | .drop a n =>
    (pagesIn a n).foldl (fun s q =>
      if a ≤ q ∧ q + pageP ≤ a + n then s
      else
        match walk s k q with
        | none => s
        | some t =>
          if !onFrame t.attr then s
          else
            let lo := max a q
            let hi := min (a + n) (q + pageP)
            (linesOf (transPa t lo) (hi - lo)).foldl (fun s l =>
              { s with
                mem := dropCopies (dropDirty s.mem l) l
                cores := mapAll s.cores (fun _ c => { c with l1 := dropCopy c.l1 l }) }) s) s
  | _ => s

/-- The host pages in a range that the host has granted. -/
def grantedIn (s : State) (k va size : Nat) : List (Nat × Nat × Nat) :=
  (partAt s (ctxPart k)).granted.filter (fun x => x.1 == k && decide (va ≤ x.2.1 ∧ x.2.1 < va + size))

/-- A page is shared with the host and the device's. -/
def deviceOwned (s : State) (k va : Nat) : Bool :=
  match pageEntry s k va with
  | some (_, w) => (pteAttr w).host && (pteAttr w).owner
  | none => false

/-- An install that makes a page shared with the host the device's brings the bytes of the page that the host granted, where the
page was not the device's before it (R216, R217). The manual gives this step to the supervisor's handler, which has no other way to
host memory (log entry 22). -/
def takePages (old s : State) (k va size : Nat) (leaf : Nat) : State :=
  let a := pteAttr leaf
  if a.host && a.owner then
    ((grantedIn s k va size).filter (fun x => !deviceOwned old k x.2.1)).foldl (fun s x =>
      match walk s k x.2.1 with
      | some t => { s with mem := homeWrite s.mem (transPa t x.2.1) (mapGetList 0 s.out.mem x.2.2 65536) }
      | none => s) s
  else s

/-- The granted pages that an edit makes the host's again, with the frames they leave (R216). -/
def returning (s : State) (e : Edit) : List (Nat × Nat × Nat) :=
  match e.op with
  | .install va size leaf =>
    let a := pteAttr leaf.toNat
    if a.host && !a.owner then
      (grantedIn s e.ctx va size).filterMap (fun x =>
        match pageEntry s e.ctx x.2.1 with
        | some (_, w) => if (pteAttr w).host && (pteAttr w).owner then some (x.2.1, x.2.2, pteAddr w) else none
        | none => none)
    else []
  | _ => []

/-- A page goes back to the host once no translation and no request reaches it any more (R216): its bytes are written to host
memory, every copy of its lines is dropped, and the host is told. -/
def returnPage (s : State) (k : Nat) (x : Nat × Nat × Nat) : State :=
  let mine := fun (l : Nat) => decide (frameOf (128 * l) = x.2.2 / 65536)
  let s := { s with
    out := { s.out with mem := mapSetList 0 s.out.mem x.2.1 (homeRead s.mem x.2.2 65536) }
    mem := { s.mem with proxies := mapKeep s.mem.proxies (fun _ c => !mine c.line) }
    cores := mapAll s.cores (fun _ c => { c with
      l1 := c.l1.filter (fun l => !mine l.line), cc := c.cc.filter (fun l => !mine l.line) }) }
  updPart (askHost s k 3 x.1 x.2.1) (ctxPart k) (fun q => { q with granted := q.granted.filter (fun y => y != (k, x.1, x.2.1)) })

/-- Whether an edit cuts a page, so that it takes a fresh frame for the tail (R241). -/
def cutsPage : EditOp → Bool
  | .split x _ o _ => (x + o) % pageP != 0
  | _ => false
/-- An edit is the supervisor's, by its attributes too (R236). -/
def setsAttrs : EditOp → Bool
  | .install _ _ _ => true
  | .remove _ _ => true
  | _ => false

/-- The commit of an edit: fresh frames, remainder copy, dropped lines, the new mapping; frames left over return. A
ZERO page that a remainder copy writes gets its frame first. -/
def commitEdit (s : State) (e : Edit) : State :=
  let k := e.ctx
  let w : Work := { s, avail := e.frames }
  let q := if cutsPage e.op then w.take k else (0, w)
  let w := q.2
  let w := match editCopy e.op with
    | some (_, _, .inl va) => commitZero w k va
    | _ => w
  let s := dropLines (remainder w.s k e.op q.1) k e.op
  let t := returnFrames (commitChanges { s, avail := w.avail } k (setsAttrs e.op) (editChgs s k e.op q.1)) k
  match e.op with
  | .install va size leaf => takePages s t k va size leaf.toNat
  | _ => t

/-- The frames that an edit's commit takes as things stand: more than it reserved, where an edit before it has filled the
partly used table frame (R232, R235). -/
def commitNeed (s : State) (e : Edit) : Nat :=
  (if cutsPage e.op then 1 else 0) + tablesNeeded s e.ctx (editChgs s e.ctx e.op (e.frames.headD 0)) +
    (match editCopy e.op with
      | some (_, _, .inl va) => if (pteAttr (entryAt s e.ctx va)).zero then 1 else 0
      | _ => 0)
/-- The frames that it lacks are there: none is held back (R232). -/
def framesThere (s : State) (e : Edit) : Bool :=
  let n := commitNeed s e - e.frames.length
  n == 0 || ((ctxAt s e.ctx).pool.heldFrames.isEmpty && decide (n ≤ framesFree s e.ctx))

/-- The bins that a commit waits for: of its tables, of the frames beyond those reserved, of its copy. -/
def editAsleep (s : State) (e : Edit) : List Nat :=
  (e.ranges.map (fun r => (piecesOf r.1 r.2).map (fun pc => tableAsleep s e.ctx pc.1))).flatten.filterMap id ++
  (if commitNeed s e ≤ e.frames.length then [] else (poolAsleep s e.ctx).toList) ++
  match editCopy e.op with
  | some (src, _, .inl dst) => [pieceAsleep s e.ctx src, pieceAsleep s e.ctx dst].filterMap id
  | some (src, _, .inr _) => [pieceAsleep s e.ctx src].filterMap id
  | none => []

/-- The tables of an edit's pages are written: an access to their bins (R345). -/
def touchEdit (s : State) (e : Edit) : State :=
  e.ranges.foldl (fun s r => (piecesOf r.1 r.2).foldl (fun s pc => touchTables s e.ctx pc.1) s) s

def putEdit (s : State) (e : Edit) : State :=
  { s with edits := s.edits.map (fun x => if x.id = e.id then e else x) }
def dropEdit (s : State) (id : Nat) : State := { s with edits := s.edits.filter (fun e => e.id != id) }
def editAt (s : State) (id : Nat) : Option Edit := s.edits.find? (fun e => e.id == id)
def isZeroEdit (e : Edit) : Bool := match e.op with
  | .zeroPage _ => true
  | _ => false

/-- The ZERO page that a remainder copy writes gets its frame at the commit, whose generation may wrap with that (R222, R227). -/
def zeroTargetWaits (s : State) (e : Edit) (va : Nat) : Bool :=
  (pteAttr (entryAt s e.ctx va)).zero && zeroWaits s e.ctx va (e.frames.headD (nextFrame s e.ctx))

/-- An edit may commit: its run's earlier requests to the ranges are accepted, earlier edits of its lanes and of its pages have
committed, the frames it needs are there, and at a generation wrap no request of the context is on its way (R223, R224, R227). -/
def mayCommit (s : State) (e : Edit) : Bool :=
  !e.committed &&
    !(s.reqs.any (fun r => e.waits.contains r.id && r.stage != .accepted)) &&
    !(s.edits.any (fun x => decide (x.id < e.id) && !x.committed && x.uid == e.uid && meets x.lanes e.lanes)) &&
    !rangesBusy s e.ctx e.ranges (fun x => decide (x.id < e.id)) &&
    framesThere s e &&
    !wrapWaits s e.ctx (setsAttrs e.op) (editChgs s e.ctx e.op (e.frames.headD 0)) &&
    (match editCopy e.op with
      | some (_, _, .inl va) => !zeroTargetWaits s e va
      | _ => true)

/-- EDIT_COMMIT. The issuing core's translations of the pages are gone at once, so that its lanes use the new mapping (R228). -/
def execEditCommit (id : Nat) (s : State) : Result :=
  match editAt s id with
  | none => .fault .notEnabled
  | some e =>
    if isZeroEdit e || !mayCommit s e then .fault .notEnabled
    else
      whenAwake s (editAsleep s e)
        (.next (putEdit (dropTlb (commitEdit (touchEdit s e) e) e.core e.ctx e.ranges)
          { e with committed := true, upTo := 1, back := returning s e }))

/-- ZERO_PAGE_COMMIT: the frame reserved for a first-written ZERO page becomes its mapping, or returns to the pool when
another write has been first (R222). -/
def execZeroPageCommit (id : Nat) (s : State) : Result :=
  match editAt s id with
  | none => .fault .notEnabled
  | some e =>
    if e.committed then .fault .notEnabled
    else
      match e.op with
      | .zeroPage va =>
        if rangesBusy s e.ctx e.ranges (fun x => decide (x.id < e.id)) ||
            decide (e.frames.length + framesFree s e.ctx < zeroNeed s e.ctx [va / 65536]) ||
            zeroWaits s e.ctx va (e.frames.headD 0) then .fault .notEnabled
        else
          whenAwake s (tableAsleep s e.ctx va).toList <|
            let w := commitZero { s := touchEdit s e, avail := e.frames } e.ctx va
            let s := putEdit (dropTlb (returnFrames w e.ctx) e.core e.ctx e.ranges) { e with committed := true, upTo := 1 }
            .next (resumeEvents s (ctxPart e.ctx))
      | _ => .fault .notEnabled

/-! ### Completion (R229, R230) -/

/-- The cores of the issuing lane's cluster, and of its instances of wider scopes, by the scope's rank (R175). -/
def scopeCores (s : State) (e : Edit) (rank : Nat) : List Nat :=
  match rank with
  | 0 | 1 => [e.core]
  | 2 => match mapFind s.groups e.gid with
    | some g =>
      if g.uid = e.uid then
        let t := teamAt s g.team
        (s.teams.filter (fun x => x.2.node == t.node && x.2.cluster == t.cluster)).map (·.2.core)
      else [e.core]
    | none => [e.core]
  | 3 => (List.range 84).map (fun i => 84 * e.die + i)
  | _ => List.range 336

/-- The page that an edit returns next to the host waits for the accesses that were accepted before the commit, and for room in the
host's ring (R216, R362). -/
def returnWaits (s : State) (e : Edit) : Bool :=
  !e.back.isEmpty && (boxFull s (ctxPart e.ctx) ||
    s.reqs.any (fun r => r.stage == .accepted && e.back.any (fun x => x.2.2 / 65536 == frameOf r.pa)))

/-- EDIT_COMPLETE: at one scope after the other, .clu, .die and the package, no translation cache holds what the edit replaced;
then pages go back to the host, one for each step (R216, R362), and the edit ends, a supervisor's command with BUSY 0 and ERR 0
(R229, R230, R236). -/
def execEditComplete (id : Nat) (s : State) : Result :=
  match editAt s id with
  | none => .fault .notEnabled
  | some e =>
    if !e.committed then .fault .notEnabled
    else if e.upTo < 3 then
      .next (putEdit ((scopeCores s e (e.upTo + 1)).foldl (fun s c => dropTlb s c e.ctx e.ranges) s) { e with upTo := e.upTo + 1 })
    else if returnWaits s e then .fault .notEnabled
    else
      let s := dropTlbEvery s e.ctx e.ranges
      match e.back with
      | x :: rest => .next (putEdit (returnPage s e.ctx x) { e with back := rest })
      | [] =>
        let s := if e.pte then updCtx s e.ctx (fun c => { c with pteBusy := false, pteErr := false }) else s
        .next (dropEdit s id)

/-! ### Release of frames (R231, R232) -/

/-- The lines of a frame leave every cache without write-back. -/
def dropFrame (s : State) (frame : Nat) : State :=
  let inF := fun (l : Nat) => decide (frameOf (128 * l) = frame)
  { s with
    mem := { s.mem with
      dirty := mapKeep s.mem.dirty (fun a _ => frameOf a != frame)
      proxies := mapKeep s.mem.proxies (fun _ c => !inF c.line)
      shadows := mapKeep s.mem.shadows (fun l _ => !inF l) }
    cores := mapAll s.cores (fun _ c => { c with l1 := c.l1.filter (fun x => !inF x.line) }) }

/-- A frame is still to be read by the return of its page to the host (R216). -/
def frameKept (s : State) (frame : Nat) : Bool := s.edits.any (fun e => e.back.any (fun x => x.2.2 / 65536 == frame))

/-- FRAME_RELEASE: a frame whose count is 0 is dropped from the caches and appended to the pool; a full ring makes the
graft unit hold it, with cause 0x55, until there is room (R231, R232). -/
def execFrameRelease (frame : Nat) (s : State) : Result :=
  match s.mem.releasing.find? (fun e => e.2 == frame) with
  | some (k, _) =>
    if frameKept s frame then .fault .notEnabled
    else
    let s := { s with mem := { s.mem with releasing := s.mem.releasing.filter (fun e => e.2 != frame) } }
    if mapGet 0 s.mem.counts frame ≠ 0 then .next s
    else .next (giveFrame (dropFrame s frame) k (frame * 65536))
  | none =>
    match s.ctxs.find? (fun e => e.2.pool.heldFrames.contains frame) with
    | some (k, c) =>
      if ringRefuses c.pool then .fault .notEnabled
      else
        .next (appendFrame (updCtx s k (fun c =>
          { c with pool := { c.pool with heldFrames := c.pool.heldFrames.filter (fun x => x != frame) } })) k (frame * 65536))
    | none => .fault .notEnabled

end Sys2Proof.Machine
end

