-- ==== Sys2Proof/Machine/Tx.lean ====
section
/-! DEFINITION. Transaction words (19 R252-R260): their fields, arrivals, the runs that wait on them, and the tx
instructions. -/

namespace Sys2Proof.Machine

/-- The fields of a word (R252). -/
structure TxWord where
  target : Nat
  arrived : Nat
  gen : Nat
  state : Nat                               -- 1 armed, 2 complete, 3 overrun
  flags : Nat                               -- byte 11: ERR, POI, XF
  infl : Nat
  base : Nat
  chunk : Nat
  deriving DecidableEq, Repr

def txOfNat (n : Nat) : TxWord :=
  { target := bitsOf n 0 24, arrived := bitsOf n 32 32, gen := bitsOf n 64 16, state := bitsOf n 80 3
    flags := bitsOf n 88 8, infl := bitsOf n 117 10, base := bitsOf n 96 21, chunk := bitsOf n 128 128 }
def TxWord.toNat (w : TxWord) : Nat :=
  w.target % 2 ^ 24 + w.arrived % 2 ^ 32 * 2 ^ 32 + w.gen % 2 ^ 16 * 2 ^ 64 + w.state % 8 * 2 ^ 80 +
    w.flags % 256 * 2 ^ 88 + w.base % 2 ^ 21 * 2 ^ 96 + w.infl % 1024 * 2 ^ 117 + w.chunk % 2 ^ 128 * 2 ^ 128

def txRead (s : State) (r : SramRef) : TxWord := txOfNat (leNat (sramRead s (teamAt s r.team) r.ob r.off 32))
def txWrite (s : State) (r : SramRef) (w : TxWord) : State :=
  sramWrite s (teamAt s r.team) r.ob r.off (leBytes 32 w.toNat)
def txGranule (s : State) (r : SramRef) : Option Nat := sramGranule s (teamAt s r.team) r.ob r.off
def txLive (s : State) (r : SramRef) : Bool := sramLive s (teamAt s r.team) r.ob r.off 32

/-- The scratchpad address of a word in its own team. -/
def txAddr (r : SramRef) : Nat := (if r.ob then 2 ^ 20 else 0) + r.off

/-- The word that an address names: 32-byte aligned, and in the issuing team unless peers are allowed (R253, R255). -/
def txRef (s : State) (tuid : Nat) (peers : Bool) (a : Nat) : Option SramRef :=
  if a % 32 ≠ 0 then none
  else
    match sramRef s tuid a 32 with
    | some r => if peers || r.team == tuid then some r else none
    | none => none

/-! ### Runs that wait on a word (R259) -/

/-- The condition of tx.wait and tx.test. -/
def txDone (w : TxWord) (g mask : Nat) : Bool :=
  w.gen != g || (mask != 0 && Nat.land w.chunk mask == mask)

/-- The status that they write. -/
def txStatus (w : TxWord) (done : Bool) : Word :=
  BitVec.ofNat 64 (w.gen + w.state * 2 ^ 16 + w.flags * 2 ^ 24 + (if done then 2 ^ 32 else 0))

/-- The blocked runs that wait on a word. -/
def txWaiters (s : State) (r : SramRef) : List (Nat × Block) :=
  (allBlocks s).filter (fun e => match e.2.why with
    | .tx t a _ _ _ => t == r.team && a == txAddr r
    | _ => false)

/-- Runs whose tx.wait finds done return, with an acquire at .die (R259); from a poisoned word they trap (R302). -/
def wakeTx (s : State) (r : SramRef) : State :=
  (txWaiters s r).foldl (fun s e =>
    match e.2.why with
    | .tx _ _ g mask d =>
      let w := txRead s r
      if !txDone w g.toNat mask.toNat then s
      else if sramPoisoned s (teamAt s r.team) r.ob r.off 32 then
        updGroup s e.1 (fun g => { g with blocks := g.blocks.map (fun b =>
          if b = e.2 then { b with why := .txTrap 0xB1 (txAddr r) } else b) })
      else
        acquireAt (passBlock s e.1 e.2 (some (d, txStatus w true))) e.1 .die
    | _ => s) s

/-- Runs blocked on a word trap at their tx.wait (R254, R256, R260). -/
def trapWaiters (s : State) (r : SramRef) (code : Nat) : State :=
  (txWaiters s r).foldl (fun s e =>
    updGroup s e.1 (fun g => { g with blocks := g.blocks.map (fun b =>
      if b = e.2 then { b with why := .txTrap code (txAddr r) } else b) })) s

/-! ### Arrivals (R254) -/

/-- Arrive(w, n, bits): the state, and whether the word went past its target. -/
def txArriveAt (s : State) (r : SramRef) (n bits flags : Nat) : State × Bool :=
  let w := txRead s r
  let w := { w with
    arrived := (w.arrived + n) % 2 ^ 32, chunk := Nat.lor w.chunk bits, flags := Nat.lor w.flags flags }
  if w.state = 3 then (txWrite s r w, false)
  else if w.state = 2 ∨ w.target < w.arrived then
    (trapWaiters (txWrite s r { w with state := 3 }) r 0x74, true)
  else
    let w := if w.arrived = w.target then { w with gen := (w.gen + 1) % 2 ^ 16, state := 2 } else w
    (wakeTx (txWrite s r w) r, false)

/-! ### The instructions (R255-R260) -/

/-- A lock of the issuing core covers a byte of the word (R256, R260, R279). -/
def txLocked (s : State) (f : Focus) (r : SramRef) : Bool :=
  lockHit s (gidCore f.gid) (sramSpace r.ob) r.team r.off 32 false

/-- tx.init: TARGET and BASE; a live word keeps its GEN and traps its waiters (R256). -/
def execTxInit (x : R3L) (s : State) : Result :=
  issuer s fun f g =>
    let v := seen f g
    let a := (sGet v x.a.toNat).toNat
    let b := (sGet v x.b.toNat).toNat
    let bad := trap f 0x76 (a % 2 ^ 56) s
    ordered f g [] 0 none s fun s =>
      match txRef s g.team false a with
      | none => bad
      | some r =>
        if txLocked s f r then trap f 0x72 (a % 2 ^ 56) s
        else if bitsOf b 0 24 = 0 ∨ bitsOf b 24 8 ≠ 0 ∨ 2 ^ 53 ≤ b then bad
        else
          let fresh : TxWord := { target := bitsOf b 0 24, arrived := 0, gen := 0, state := 1, flags := 0, infl := 0
                                  base := bitsOf b 32 21, chunk := 0 }
          if txLive s r then
            if (txRead s r).infl ≠ 0 then trap f 0x77 (a % 2 ^ 56) s
            else doneIn f (trapWaiters (txWrite s r { fresh with gen := (txRead s r).gen }) r 0x75)
          else done f g (setPoison (setLive (txWrite s r fresh) true (txGranule s r)) false (txGranule s r))

/-- tx.aim and tx.aim.add (R257). -/
def execTxAim (x : R3L) (s : State) : Result :=
  issuer s fun f g =>
    let v := seen f g
    let a := (sGet v x.a.toNat).toNat
    let b := (sGet v x.b.toNat).toNat
    let n := bitsOf b 0 24
    let add := bitsOf b 31 1 == 1
    let bad := trap f 0x76 (a % 2 ^ 56) s
    ordered f g [] 0 none s fun s =>
      match txRef s g.team false a with
      | none => bad
      | some r =>
        let w := txRead s r
        if !txLive s r then bad
        else if w.state = 3 then trap f 0x74 (a % 2 ^ 56) s
        else if n = 0 ∨ bitsOf b 24 7 ≠ 0 ∨ 2 ^ 32 ≤ b then bad
        else if w.state = 2 then
          done f g (txWrite s r { w with target := n, arrived := 0, flags := 0, chunk := 0, state := 1 })
        else if add then
          if 2 ^ 24 ≤ w.target + n then bad else done f g (txWrite s r { w with target := w.target + n })
        else if n ≤ w.arrived then bad
        else done f g (txWrite s r { w with target := n })

/-- tx.arrive: a release at .clu, then the arrival; an overrun traps after it, with EPC at the next instruction (R258). -/
def execTxArrive (x : R3L) (s : State) : Result :=
  issuer s fun f g =>
    let v := seen f g
    let a := (sGet v x.a.toNat).toNat
    let b := (sGet v x.b.toNat).toNat
    let bad := trap f 0x76 (a % 2 ^ 56) s
    match txRef s g.team true a with
    | none => bad
    | some r =>
      if b = 0 ∨ 2 ^ 24 ≤ b ∨ txLive s r = false then bad
      else
        ordered f g [] 0 (some .clu) s fun s =>
          let q := txArriveAt s r b 0 0
          if !q.2 then doneIn f q.1
          else if f.quiet then .next (unfocus s)
          else if !(pendsOf g f.lanes).isEmpty then waits f .closing s
          else if hmode g then .next (trapAt f 0x74 (a % 2 ^ 56) f.pc q.1)
          else .next (trapAt f 0x74 (a % 2 ^ 56) f.npc (updGroup q.1 f.gid (retire f)))

/-- tx.wait and tx.test. The fields of a word in a poisoned granule reach no register: cause 0xB1 (R173, R302). -/
def txAsk (wait : Bool) (x : R3L) (s : State) : Result :=
  issuer s fun f g =>
    let v := seen f g
    let a := (sGet v x.a.toNat).toNat
    let gIn := (sGet v x.d.toNat).toNat
    let mask := (sGet v x.b.toNat).toNat + (sGet v (x.b.toNat + 1)).toNat * 2 ^ 64
    let bad := trap f 0x76 (a % 2 ^ 56) s
    ordered f g [] 0 none s fun s =>
      match txRef s g.team false a with
      | none => bad
      | some r =>
        let w := txRead s r
        if !txLive s r then bad
        else if w.state = 3 then trap f 0x74 (a % 2 ^ 56) s
        else if 2 ^ 16 ≤ gIn then bad
        else
          let ok := txDone w gIn mask
          if (ok || !wait) && sramPoisoned s (teamAt s r.team) r.ob r.off 32 then trap f 0xB1 (a % 2 ^ 56) s
          else if ok || !wait then
            done f (sSet g x.d.toNat (txStatus w ok)) (if ok then acquireAt s f.gid .die else s)
          else
            waits f (.tx r.team (txAddr r) (BitVec.ofNat 16 gIn) (BitVec.ofNat 128 mask) x.d) s

def execTxWait (x : R3L) (s : State) : Result := txAsk true x s
def execTxTest (x : R3L) (s : State) : Result := txAsk false x s

/-- tx.drop: the tag is cleared and the waiters trap (R260). -/
def execTxDrop (x : R3L) (s : State) : Result :=
  issuer s fun f g =>
    let a := (sGet (seen f g) x.a.toNat).toNat
    ordered f g [] 0 none s fun s =>
      match txRef s g.team false a with
      | none => trap f 0x76 (a % 2 ^ 56) s
      | some r =>
        if txLocked s f r then trap f 0x72 (a % 2 ^ 56) s
        else if !txLive s r then trap f 0x76 (a % 2 ^ 56) s
        else if (txRead s r).infl ≠ 0 then trap f 0x77 (a % 2 ^ 56) s
        else
          doneIn f (trapWaiters (setLive s false (txGranule s r)) r 0x75)

end Sys2Proof.Machine
end

