-- ==== Sys2Proof/Machine/Engines.lean ====
section
/-! DEFINITION. Engine operations (19 R248-R254, R262, R272, R278, R281): control words, the checks at issue, registering an
operation, the bytes that it writes, and the arrival of a part. -/

namespace Sys2Proof.Machine

/-! ### Places -/

/-- A byte's place: a virtual address, or a byte of a team's space. -/
inductive Loc where
  | glob (va : Nat)
  | sram (team : Nat) (ob : Bool) (off : Nat)
  deriving DecidableEq, Repr

/-- A scratchpad address of a team's own space (R153): bit 20 OB. -/
def ownLoc (team a : Nat) : Loc := .sram team (bitsOf a 20 1 == 1) (a % 2 ^ 20)
def refLoc (r : SramRef) (i : Nat) : Loc := .sram r.team r.ob (r.off + i)

/-- A run of bytes that an operation writes: where it begins, its length, and what it holds. -/
structure Seg where
  glob : Bool
  team : Nat
  lo : Nat                                  -- virtual address, or scratchpad address with bit 20 OB
  len : Nat
  role : Nat := 0
  row : Nat := 0
  deriving DecidableEq, Repr

/-! ### Control words (R249) -/

/-- A field of a control word that must be zero is not. -/
def controlBad (c : Nat) : Bool :=
  decide (bitsOf c 53 10 ≠ 0 ∨ bitsOf c 24 8 ≠ 0 ∨ (c < 2 ^ 63 ∧ bitsOf c 32 21 ≠ 0))
/-- The fields of a control word: the word's address where TXV is 1, and LEN. -/
def controlWord (c : Nat) : Option Nat × Nat := (if c < 2 ^ 63 then none else some (bitsOf c 32 21), bitsOf c 0 24)

/-! ### Checks at issue (R249, R250, R282) -/

/-- The failed checks of a global range, page by page (R250). -/
def engGlobal (s : State) (core k : Nat) (u : Use) (va n : Nat) : List (Nat × Nat) :=
  (piecesOf va n).filterMap (fun pc =>
    if 2 ^ 56 ≤ pc.1 then some (0x4B, pc.1 % 2 ^ 56)
    else
      match translate s core k pc.1 with
      | none => some (0x40, pc.1)
      | some t =>
        match transCause (coreDie core) { u with engine := true } t (transPa t pc.1) with
        | some c => some (c, pc.1)
        | none => (stateCause s t (transPa t pc.1)).map (fun c => (c, pc.1)))

/-- A scratchpad operand: its place, or the cause of R250 or R261. -/
def engSram (s : State) (tuid a n : Nat) (own : Bool) : Except (Nat × Nat) SramRef :=
  match sramRef s tuid a n with
  | none => .error (0x49, a % 2 ^ 56)
  | some r => if own && r.team != tuid then .error (0x78, 0) else .ok r

def exFails {α : Type} (r : Except (Nat × Nat) α) : List (Nat × Nat) := match r with
  | .error e => [e]
  | .ok _ => []
def failIf (b : Bool) (c i : Nat) : List (Nat × Nat) := if b then [(c, i)] else []

/-- The word that a team's operation names is aligned, within the space and live, or cause 0x76 (R249). -/
def engWord (s : State) (team : Nat) (tx : Option Nat) : List (Nat × Nat) :=
  match tx with
  | none => []
  | some a =>
    match txRef s team false a with
    | some r => failIf (!txLive s r) 0x76 a
    | none => [(0x76, a)]

/-- A destination over a word that is live at issue (R252). -/
def engLive (s : State) (r : Except (Nat × Nat) SramRef) (n : Nat) : List (Nat × Nat) :=
  match r with
  | .ok r => failIf (sramLive s (teamAt s r.team) r.ob r.off n) 0x73 (txAddr r)
  | .error _ => []

/-- A range for the lock table (R278). -/
def lockGlob (k lo n : Nat) (dest : Bool) : Lock :=
  { op := 0, dest, space := 0, owner := k, lo := lo / 128 * 128, hi := (lo + n + 127) / 128 * 128 }
def lockSram (r : SramRef) (n : Nat) (dest : Bool) : Lock :=
  { op := 0, dest, space := sramSpace r.ob, owner := r.team, lo := r.off / 32 * 32, hi := (r.off + n + 31) / 32 * 32 }
def lockOf (r : Except (Nat × Nat) SramRef) (n : Nat) (dest : Bool) : List Lock := match r with
  | .ok r => [lockSram r n dest]
  | .error _ => []

/-- What an engine instruction asks for. -/
structure EngPlan where
  fails : List (Nat × Nat)
  kind : OpKind
  tx : Option Nat := none
  txTeams : List Nat := []
  locks : List Lock := []
  segs : List Seg := []
  vas : List (Nat × Nat) := []              -- global ranges, for the lanes' edits (R228)
  asleep : List Nat := []                   -- bins that a read at issue needs awake

/-- The window, offset, counter, source and length of a cp.s2g into a window (R263). -/
def winPart : OpKind → Option (Nat × Nat × Nat × Nat × Nat)
  | .s2w src w off ctr len => some (w, off, ctr, src, len)
  | _ => none

/-! ### Parts (R254) -/

/-- A word's BASE where a segment's bytes lie in the space of BASE of the word's own team. -/
def segBase (s : State) (tx : Option Nat) (txTeams : List Nat) (g : Seg) : Option Nat :=
  match tx with
  | none => none
  | some a =>
    if g.glob || !txTeams.contains g.team then none
    else
      match txRef s g.team false a with
      | none => none
      | some r =>
        let b := (txRead s r).base
        if bitsOf b 20 1 = bitsOf g.lo 20 1 then some b else none

/-- The pieces of a run of bytes cut at the boundaries org + 512 c: start, length, end of the block. -/
def cutBlocks (org lo n : Nat) : List (Nat × Nat × Nat) :=
  let o := (lo + 512 - org % 512) % 512
  (List.range ((o + n + 511) / 512)).map (fun i =>
    let a := max lo (lo + 512 * i - o)
    let e := lo + 512 * (i + 1) - o
    (a, min (lo + n) e - a, e))

/-- The chunk of a block that ends at an address, for a word's BASE (R252). -/
def chunkOf (base : Option Nat) (hi : Nat) : Option Nat :=
  match base with
  | none => none
  | some b => if b + 512 ≤ hi ∧ hi ≤ b + 512 * 128 ∧ (hi - b) % 512 = 0 then some ((hi - b) / 512 - 1) else none

/-- Pieces of one block are one part. -/
def joinPart (l : List Part) (p : Part) : List Part :=
  match l with
  | [] => [p]
  | q :: qs =>
    if q.team = p.team ∧ q.hi = p.hi then { q with lo := min q.lo p.lo, len := q.len + p.len } :: qs
    else q :: joinPart qs p

/-- The parts of an operation. -/
def partsOf (s : State) (tx : Option Nat) (txTeams : List Nat) (segs : List Seg) : List Part :=
  (segs.filter (fun g => decide (0 < g.len))).foldl (fun l g =>
    let b := segBase s tx txTeams g
    (cutBlocks (b.getD 0) g.lo g.len).foldl (fun l c =>
      joinPart l { team := if g.glob then 0 else g.team, lo := c.1, hi := c.2.2, len := c.2.1, chunk := chunkOf b c.2.2 }) l) []

/-! ### Issue (R248) -/

/-- Change INFL of the words an operation names. -/
def bumpInfl (s : State) (tx : Option Nat) (teams : List Nat) (up : Bool) : State :=
  match tx with
  | none => s
  | some a =>
    teams.foldl (fun s t =>
      match txRef s t false a with
      | none => s
      | some r =>
        let w := txRead s r
        txWrite s r { w with infl := if up then w.infl + 1 else w.infl - 1 }) s

/-- The transfer that moves the bytes of a cp.s2g into a window (R263). -/
def opXfer (s : State) (o : EngOp) (lanes : LaneMask) : List Xfer :=
  match winPart o.kind with
  | some (w, off, ctr, src, len) =>
    [{ id := s.fresh + 1, get := false, core := o.core, gid := o.gid, uid := o.uid, team := o.team, ctx := o.ctx, lanes
       win := w, off, loc := src, len, ctr, op := some o.id, stage := 0, waits := [], rel := none }]
  | none => []

/-- Register an operation: its locks, its slot, INFL (R248). -/
def startOp (s : State) (o : EngOp) (locks : List Lock) (lanes : LaneMask) : State :=
  let s := { s with fresh := s.fresh + 2, ops := s.ops ++ [o], xfers := s.xfers ++ opXfer s o lanes }
  let s := updCore s o.core (fun c => { c with locks := c.locks ++ locks.map (fun l => { l with op := o.id }) })
  bumpInfl s o.tx o.txTeams true

/-- An engine instruction: checks, the wait for entries, a slot and room in INFL, then the operation is registered and
the run goes on (R248). -/
def engineOp (press : Bool) (plan : State → Focus → Group → EngPlan) (s : State) : Result :=
  issuer s fun f g =>
    let k := groupCtx s g
    let core := gidCore f.gid
    let p := plan s f g
    if openAcq s g f.lanes then waits f .acquire s
    else if p.vas.any (fun r => editsOn s g.uid f.lanes r.1 r.2) then waits f .edits s
    else if (walksAsleep s core k p.vas).isSome then waits f .operand ((walksAsleep s core k p.vas).elim s (wakeBin s))
    else if !p.asleep.isEmpty then waits f .operand (p.asleep.foldl wakeBin s)
    else
      withLowest f p.fails s <|
        let words := match p.tx with
          | some a => p.txTeams.map (fun t => (t, a))
          | none => []
        let need := (p.locks.filter (fun l => !l.cont)).length
        if !engineRoom s core press need words then waits f (.locks press need words) s
        else
          let o : EngOp := { id := s.fresh, core, gid := f.gid, uid := g.uid, team := g.team, ctx := k, press, kind := p.kind
                             tx := p.tx, txTeams := p.txTeams, parts := partsOf s p.tx p.txTeams p.segs, block := 0
                             done := !press && (winPart p.kind).isNone }
          doneIn f (startOp (touchWalks s core k p.vas) o p.locks f.lanes)

/-! ### Bytes (R251, R280, R302) -/

/-- The byte of a view, from a held line or by decoding it. -/
def viewByte (s : State) (p pa : Nat) : PByte :=
  let v := viewOff pa / 128 * 128
  let l := (viewAt s p (viewWin pa) v).getD (viewFill s p (viewWin pa) v).1
  (l.data.getD (viewOff pa % 128) 0, l.poison)

/-- A byte that an engine reads; none where its page fails the checks (R251). -/
def readLoc (s : State) (k die : Nat) (u : Use) (l : Loc) : Option PByte :=
  match l with
  | .sram t ob off =>
    let tm := teamAt s t
    some (sramGet s (sramByte s tm ob off), sramPoisoned s tm ob off 1)
  | .glob va =>
    match pieceCheck s k die u va with
    | .error _ => none
    | .ok t =>
      let pa := transPa t va
      if t.attr.zero then some (0, false)
      else if t.attr.fmt then some (viewByte s (ctxPart k) pa)
      else (readFrame s (ctxPart k) pa 1).1.head?

/-- The fabric cause of a byte's request (R303): the partition that hears of it, the code, the physical line (R284). -/
def locFabric (s : State) (k : Nat) (l : Loc) : Option (Nat × Nat × Nat) :=
  match l with
  | .sram _ _ _ => none
  | .glob va =>
    match walk s k va with
    | none => none
    | some t =>
      let pa := transPa t va
      if t.attr.zero || (t.attr.host && !t.attr.owner) then none
      else if t.attr.fmt then
        let v := viewOff pa / 128 * 128
        if (viewAt s (ctxPart k) (viewWin pa) v).isSome then none
        else (viewFill s (ctxPart k) (viewWin pa) v).2.map (fun c =>
          (viewPart s (ctxPart k) (viewWin pa) v c, c, viewPa (viewWin pa) v))
      else match atHome s (ctxPart k) pa with
        | .dead c => some (fabricPart s (ctxPart k) pa c, c, lineOf pa * 128)
        | _ => none

/-- What the reads of some bytes leave besides their data: the causes of requests that are not performed, one for each line
(R303), and the time of their bins' last access (R345). -/
def readLocs (s : State) (k : Nat) (l : List Loc) : State :=
  let s := ((l.filterMap (locFabric s k)).dedup).foldl (fun s e => postNoGroup s (256 * e.1) e.2.1 e.2.2) s
  ((l.filterMap (fun x => match x with
    | .sram _ _ _ => none
    | .glob va => (walk s k va).map (fun t => binOf (transPa t va) :: (tableSlots s k va).map binOf))).flatten.dedup).foldl
    (fun s b => touchBin s (b * 2 ^ 28)) s

/-- The lines at home that a byte's request reaches. -/
def locLines (s : State) (k : Nat) (l : Loc) : List Nat := match l with
  | .sram _ _ _ => []
  | .glob va => vaLines s k va
/-- A bin that a byte's request waits for. -/
def locAsleep (s : State) (k : Nat) (l : Loc) : Option Nat := match l with
  | .sram _ _ _ => none
  | .glob va => pieceAsleep s k va

/-- Runs of consecutive addresses within 128-byte lines. -/
def runsFrom (a : Nat) (acc : List PByte) : List (Nat × PByte) → List (Nat × List PByte)
  | [] => [(a - acc.length, acc.reverse)]
  | (b, x) :: rest =>
    if b = a ∧ b % 65536 ≠ 0 then runsFrom (a + 1) (x :: acc) rest
    else (a - acc.length, acc.reverse) :: runsFrom (b + 1) [x] rest
def runsOfBytes : List (Nat × PByte) → List (Nat × List PByte)
  | [] => []
  | (a, x) :: rest => runsFrom (a + 1) [x] rest

/-- Bytes written into a team's space: a live word keeps its bytes (R252); a granule that the bytes cover is clean, one
that a poisoned byte reaches is poisoned. -/
def writeSram (s : State) (team : Nat) (bs : List (Nat × PByte)) : State :=
  let tm := teamAt s team
  let ok := bs.filter (fun e => !sramLive s tm (bitsOf e.1 20 1 == 1) (e.1 % 2 ^ 20) 1)
  let s := ok.foldl (fun s e => sramWrite s tm (bitsOf e.1 20 1 == 1) (e.1 % 2 ^ 20) [e.2.1]) s
  let granules := (ok.map (fun e => e.1 / 32)).dedup
  granules.foldl (fun s q =>
    let mine := ok.filter (fun e => e.1 / 32 == q)
    let g := sramGranule s tm (bitsOf (32 * q) 20 1 == 1) (32 * q % 2 ^ 20)
    let s := if mine.length = 32 then setPoison s false g else s
    if mine.any (fun e => e.2.2) then setPoison s true g else s) s

/-- The live words that bytes reach. -/
def reachesLive (s : State) (team : Nat) (bs : List Nat) : Bool :=
  bs.any (fun a => sramLive s (teamAt s team) (bitsOf a 20 1 == 1) (a % 2 ^ 20) 1)

def opAt (s : State) (id : Nat) : Option EngOp := s.ops.find? (fun o => o.id == id)
def putOp (s : State) (o : EngOp) : State := { s with ops := s.ops.map (fun p => if p.id = o.id then o else p) }
def dropOp (s : State) (id : Nat) : State := { s with ops := s.ops.filter (fun o => o.id != id) }

/-- Cause 0x79 for the issuer of an operation (R251). -/
def failOp (s : State) (o : EngOp) (info : Nat) : State := latchOrPost s o.gid o.uid o.ctx 0x79 info

/-- A part arrives at its word: the count, the chunk bit, the flags; an overrun reaches the issuer (R254). -/
def arrivePart (s : State) (o : EngOp) (team : Nat) (n : Nat) (chunk : Option Nat) (flags : Nat) : State :=
  match o.tx with
  | none => s
  | some a =>
    -- bytes in global memory and in other teams count for the word of the issuing team
    let t := if o.txTeams.contains team then team else o.txTeams.headD 0
    match txRef s t false a with
    | none => s
    | some r =>
      if !txLive s r then s
      else
        let q := txArriveAt s r n (match chunk with
          | some c => 2 ^ c
          | none => 0) flags
        if q.2 then latchOrPost q.1 o.gid o.uid o.ctx 0x74 (txAddr r) else q.1

/-- A departed team keeps its reservations while a lock of its core names one of its spaces (R130). -/
def teamNamed (s : State) (t : Nat) : Bool :=
  s.cores.any (fun e => e.2.locks.any (fun l => l.space != 0 && l.owner == t))
/-- Departed teams whose reservations have ended. -/
def reapTeams (s : State) : State :=
  { s with teams := mapKeep s.teams (fun t x => !x.gone || teamNamed s t) }

/-- An operation ends: its locks and its slot are free and INFL falls (R248). -/
def endOp (s : State) (o : EngOp) : State :=
  let s := updCore s o.core (fun c => { c with locks := c.locks.filter (fun l => l.op != o.id) })
  reapTeams (bumpInfl (dropOp s o.id) o.tx o.txTeams false)

/-! ### Send queues and packets (R264, R366, R367) -/

/-- The Ethernet ports of one connector that are up: a whole port stands under its first half's number. -/
def etherPorts (o : Outside) (i : Nat) : List Nat :=
  (if o.ethSplit.getLsbD i then [2 * i, 2 * i + 1] else [2 * i]).filter o.ethUp.getLsbD
def queueAt (s : State) (p q : Nat) : SendQ := mapGet {} (partAt s p).queues q
/-- The ports over which a queue sprays its packets: those it may use that are up. -/
def queuePorts (s : State) (p q : Nat) : List Nat :=
  (((List.range 4).filter (fun i => (queueAt s p q).ctl.getLsbD (4 + i))).map (etherPorts s.out)).flatten
/-- The queue sends: it is enabled and has a port. -/
def queueOpen (s : State) (p q : Nat) : Bool := (queueAt s p q).ctl.getLsbD 0 && !(queuePorts s p q).isEmpty

/-- Bytes as packets of at most 4,096; poisoned bytes are not sent (R302). -/
def ueCut (off : Nat) (bs : List PByte) : List (Nat × List Byte) :=
  ((runsOfBytes (((bs.zipIdx off).filter (fun e => !e.1.2)).map (fun e => (e.2, e.1)))).map (fun r =>
    (List.range ((r.2.length + 4095) / 4096)).map (fun i => (r.1 + 4096 * i, plain ((r.2.drop (4096 * i)).take 4096))))).flatten
/-- A message leaves on a queue: its packets over the queue's ports in turn. -/
def ueLeave (s : State) (p q xfer win : Nat) (pkts : List (Nat × List Byte)) : State :=
  let x := queueAt s p q
  let up := queuePorts s p q
  let m : UeMsg := {
    part := p, queue := q, svc := fieldW x.ctl 1 2, job := fieldW x.dest 32 24, addr := fieldW x.dest 0 32, xfer, win
    packets := pkts.zipIdx.map (fun e => { port := up.getD (e.2 % up.length) 0, off := e.1.1, data := e.1.2 }) }
  { s with out := { s.out with ue := s.out.ue ++ [m] } }

end Sys2Proof.Machine
end

