-- ==== Sys2Proof/Machine/Links.lean ====
section
/-! DEFINITION. The Theush link (27 R363-R365): flits as bytes, their CRC, and what a port sends, replays and drops. -/

namespace Sys2Proof.Machine

/-- Ports of the link. -/
def theushPorts : Nat := 18
def portAt (s : State) (i : Nat) : Port := mapGet {} s.out.ports i
def putPort (s : State) (i : Nat) (p : Port) : State := { s with out := { s.out with ports := mapSet {} s.out.ports i p } }
def updPort (s : State) (i : Nat) (f : Port → Port) : State := putPort s i (f (portAt s i))

/-! ### Flits as bytes (R364) -/

/-- One bit of CRC-64 (ECMA-182): polynomial 0x42F0_E1EB_A9EA_3693, most significant bit first. -/
def crcBit (c : BitVec 64) : BitVec 64 := if c.getLsbD 63 then (c <<< 1) ^^^ 0x42F0E1EBA9EA3693 else c <<< 1
def crcByte (c : BitVec 64) (b : Byte) : BitVec 64 :=
  crcBit (crcBit (crcBit (crcBit (crcBit (crcBit (crcBit (crcBit (c ^^^ (b.setWidth 64 <<< 56)))))))))
/-- The CRC of some bytes, from 0. -/
def crc64 (bs : List Byte) : BitVec 64 := bs.foldl crcByte 0

/-- Bytes 0 to 247 of a flit. -/
def flitBytes (f : Flit) : List Byte :=
  [f.typ, f.len] ++ leBytes 2 f.src.toNat ++ leBytes 2 f.dst.toNat ++ leBytes 2 f.seq.toNat ++
    leBytes 8 (f.window.toNat + f.offset.toNat * 2 ^ 12) ++
    (f.payload ++ List.replicate (224 - f.payload.length) 0).take 224 ++ [f.poison.setWidth 8] ++ List.replicate 7 0
/-- A flit whose CRC is right. -/
def flitCrcOk (f : Flit) : Bool := f.crc == crc64 (flitBytes f)
def sealFlit (f : Flit) : Flit := { f with crc := crc64 (flitBytes f) }

/-! ### Sending -/

/-- A port sends a flit: it takes the next sequence number and enters the replay buffer of 512. -/
def sendOn (s : State) (i : Nat) (f : Flit) : State :=
  updPort s i (fun p =>
    let g := sealFlit { f with src := s.out.thdev, seq := p.txSeq }
    let buf := p.replay ++ [g]
    { p with txSeq := p.txSeq + 1, sent := p.sent ++ [g], replay := buf.drop (buf.length - 512) })

/-- The ports that are up. -/
def portsUp (s : State) : List Nat := (List.range theushPorts).filter (fun i => (portAt s i).up)

/-- Flits to a peer, spread over every port that is up (R363). -/
def sendSpread (s : State) (fs : List Flit) : State :=
  let up := portsUp s
  (fs.foldl (fun (a : State × Nat) f =>
    match up[a.2 % up.length]? with
    | some i => (sendOn a.1 i f, a.2 + 1)
    | none => (a.1, a.2 + 1)) (s, 0)).1

/-- A flit of this device without its number and CRC. -/
def newFlit (typ : BitVec 8) (dst : BitVec 16) (w : BitVec 12) (off : Nat) (payload : List Byte) (poison : BitVec 7) : Flit :=
  { typ, len := BitVec.ofNat 8 payload.length, src := 0, dst, seq := 0, window := w, offset := BitVec.ofNat 48 off
    payload, poison, crc := 0 }

/-- POISON of a payload: bit g for the granule that holds a byte read from a poisoned unit. -/
def flitPoison (bs : List PByte) : BitVec 7 :=
  BitVec.ofNat 7 ((List.range 7).foldl (fun m g => if anyBad ((bs.drop (32 * g)).take 32) then m + 2 ^ g else m) 0)

/-- Some bytes as put data flits of up to 224 bytes (R364). -/
def dataFlits (dst : BitVec 16) (w : BitVec 12) (off : Nat) (bs : List PByte) : List Flit :=
  (List.range ((bs.length + 223) / 224)).map (fun i =>
    let part := (bs.drop (224 * i)).take 224
    newFlit 1 dst w (off + 224 * i) (plain part) (flitPoison part))

/-! ### Receiving (R365) -/

/-- The flit's own number is the next expected one and its CRC is right. -/
def flitGood (s : State) (i : Nat) (f : Flit) : Bool := flitCrcOk f && f.seq == (portAt s i).rxSeq

/-- A retry request names the expected number in its first two payload bytes (log entry 21). -/
def retryFlit (dst : BitVec 16) (n : BitVec 16) : Flit := newFlit 5 dst 0 0 (leBytes 2 n.toNat) 0

/-- Flits of data, counter rises and acknowledgements are for the device that they name (R363). -/
def flitMine (s : State) (f : Flit) : Bool := !decide (1 ≤ f.typ.toNat ∧ f.typ.toNat ≤ 3) || f.dst == s.out.thdev
/-- A flit that a port takes and this device acts on. -/
def flitTaken (s : State) (i : Nat) (f : Flit) : Bool := flitGood s i f && flitMine s f

/-- A flit is received on a port that is up: a bad one is dropped and asked for again; a good one of its type goes on where it
is for this device, and is dropped where it is for another (R363, R365). -/
def receive (s : State) (i : Nat) (typ : BitVec 8) (f : Flit) (k : State → State) : Result :=
  if !s.out.ready || decide (theushPorts ≤ i) || !(portAt s i).up || f.typ != typ then .fault .notEnabled
  else if !flitGood s i f then .next (sendOn s i (retryFlit f.src (portAt s i).rxSeq))
  else
    let t := updPort s i (fun p => { p with rxSeq := p.rxSeq + 1 })
    .next (if flitMine s f then k t else t)

/-- CREDIT_FLIT: the credits it carries (R364; log entry 21). -/
def execCreditFlit (port : Nat) (f : Flit) (s : State) : Result :=
  receive s port 4 f (fun s => updPort s port (fun p => { p with credits := p.credits + leNat (f.payload.take 8) }))

/-- IDLE_FLIT: nothing but its number; a flit of a reserved type is dropped alike (R364). -/
def execIdleFlit (port : Nat) (f : Flit) (s : State) : Result := receive s port (if 6 ≤ f.typ.toNat then f.typ else 0) f id

/-- RETRY_REQUEST_FLIT: the sender replays from the expected number; a request that names the last one's number again says
that the replay before it failed (R365). -/
def execRetryRequestFlit (port : Nat) (f : Flit) (s : State) : Result :=
  receive s port 5 f (fun s => updPort s port (fun p =>
    let n := leNat (f.payload.take 2)
    let same := p.askedFor == some (BitVec.ofNat 16 n)
    { p with
      failed := if same then p.failed + 1 else 1
      askedFor := some (BitVec.ofNat 16 n)
      sent := p.sent ++ p.replay.dropWhile (fun g => g.seq.toNat != n) }))

/-- LANE_LOSS: a port that loses a lane retrains at 4 lanes (R363). -/
def execLaneLoss (port : Nat) (s : State) : Result :=
  if theushPorts ≤ port then .fault .notEnabled else .next (updPort s port (fun p => { p with lanes := 4 }))

/-- THEUSH_PORT_RETRAIN: a port that is down comes up again (R365). -/
def execTheushPortRetrain (port : Nat) (s : State) : Result :=
  if decide (theushPorts ≤ port) || (portAt s port).up then .fault .notEnabled
  else .next (updPort s port (fun p => { p with up := true, failed := 0, askedFor := none, txSeq := 0, rxSeq := 0, replay := [] }))

end Sys2Proof.Machine
end

