-- ==== Sys2Proof/Machine/Windows.lean ====
section
/-! DEFINITION. Puts, gets and copies into windows as they are carried out (11 R166-R168, 15 R208-R214, 19 R263), over the
package and to peers (27 R363-R367). -/

namespace Sys2Proof.Machine

def xferAt (s : State) (id : Nat) : Option Xfer := s.xfers.find? (fun x => x.id == id)
def putXfer (s : State) (x : Xfer) : State := { s with xfers := s.xfers.map (fun y => if y.id = x.id then x else y) }
def dropXfer (s : State) (id : Nat) : State := { s with xfers := s.xfers.filter (fun x => x.id != id) }

/-- What a transfer waits for has been accepted and committed, for a .rel at its scope (R167, R210, R212). -/
def xferReady (s : State) (x : Xfer) : Bool :=
  !x.waits.any (fun i => s.reqs.any (fun r => r.id == i && r.stage != .accepted) ||
    s.edits.any (fun e => e.id == i && !(x.rel.elim e.committed (editDone e))))

/-- A transfer's first byte moves: a .rel first moves the dirty bytes of its lanes' MANUAL stores to the proxy slices (R204). -/
def xferStart (s : State) (x : Xfer) : State := if x.rel.isSome then drainL1 s (teamL1s s x.team x.core) else s

/-- A dirty byte of a remote MANUAL line that the transfer's core or its die's proxy slice holds. -/
def dirtyByte (s : State) (x : Xfer) (a : Nat) : Option PByte :=
  let at_ := fun (c : Copy) => if c.mask.getLsbD (a % 128) then some (c.data.getD (a % 128) 0, c.poison) else none
  match (teamL1s s x.team x.core).findSome? (fun c => (copyAt (coreAt s c).l1 (lineOf a)).bind at_) with
  | some b => some b
  | none => (proxyAt s (coreDie x.core) (lineOf a)).bind at_

/-- Bytes of local memory with the lanes' own dirty bytes over them (R212). -/
def withDirty (s : State) (x : Xfer) (t : Trans) (pa : Nat) (bs : List PByte) : List PByte :=
  if remoteManual x.core t.attr pa then bs.zipIdx.map (fun e => (dirtyByte s x (pa + e.2)).getD e.1) else bs

/-- Before a get writes a remote MANUAL page, the dirty bytes of its lines go home, so that they do not land on its bytes later
(R212): an eviction, which R205 allows at any time. -/
def flushDirty (s : State) (x : Xfer) (t : Trans) (pa n : Nat) : State :=
  if remoteManual x.core t.attr pa then
    (linesOf pa n).foldl (fun s l => cleanProxy (drainLine s (teamL1s s x.team x.core) l) (coreDie x.core) l) s
  else s

/-- A range of n bytes at a and at b, cut where either reaches a new page: offset and length of each piece. -/
def cutBoth (a b : Nat) : Nat → Nat → Nat → List (Nat × Nat)
  | 0, _, _ => []
  | fuel + 1, o, n =>
    if n = 0 then []
    else
      let m := min n (min (65536 - (a + o) % 65536) (65536 - (b + o) % 65536))
      (o, m) :: cutBoth a b fuel (o + m) (n - m)
def chunksOf (a b n : Nat) : List (Nat × Nat) := cutBoth a b (2 * (n / 65536) + 4) 0 n

/-- The virtual address of a byte of a window of this package (R209). -/
def winVa (w : Win) (off : Nat) : Nat := bitsOf w.addr.toNat 7 49 * 128 + off

/-- The translation of a page of a window for an access at its home (R209, R211): its die is the frame's. -/
def winCheck (s : State) (k : Nat) (write : Bool) (va : Nat) : Option Nat :=
  let die := match walk s k va with
    | some t => dieOf (transPa t va)
    | none => 0
  match pieceCheck s k die { write } va with
  | .ok _ => none
  | .error c => some c

/-- The bytes that a transfer reads of a piece: of the scratchpad for a copy, else of local memory; none where the page
fails its checks. -/
def xferRead (s : State) (x : Xfer) (o n : Nat) : Option (List PByte) × State :=
  match x.op with
  | some i =>
    let team := (opAt s i).elim 0 (·.team)
    (some ((List.range n).filterMap (fun j =>
      match sramRef s team (x.loc + o + j) 1 with
      | some r => readLoc s x.ctx 0 {} (refLoc r 0)
      | none => some (0, false))), s)
  | none =>
    match pieceCheck s x.ctx (coreDie x.core) {} (x.loc + o) with
    | .ok t =>
      let r := readPiece s x.ctx t (x.loc + o) n
      (some (withDirty s x t (transPa t (x.loc + o)) r.1), r.2)
    | .error _ => (none, s)

/-- The pages of local memory that a transfer reads or writes, by an address in each piece. -/
def localVas (x : Xfer) : List Nat := if x.op.isSome then [] else (piecesOf x.loc x.len).map (·.1)
/-- The pages of its window on this package. -/
def remoteVas (s : State) (x : Xfer) : List Nat :=
  let w := winAt s x.ctx x.win
  if winKind w = 0 then (piecesOf (winVa w x.off) x.len).map (·.1) else []

/-- The bins that a transfer needs awake. -/
def xferAsleep (s : State) (x : Xfer) : List Nat :=
  ((localVas x ++ remoteVas s x).filterMap (pieceAsleep s x.ctx)).dedup

/-- A transfer issued since a GO waits where the switch moves one of its lines (R334). -/
def xferSwitched (s : State) (x : Xfer) : Bool :=
  let w := winAt s x.ctx x.win
  switchHolds s x.ctx x.id (fun _ => (if x.op.isSome then [] else rangeHomes s x.ctx x.loc x.len) ++
    (if winKind w = 0 then rangeHomes s x.ctx (winVa w x.off) x.len else []))

/-- Cause 0x4C with the window's number for the supervisor (R167, R210). -/
def winLost (s : State) (x : Xfer) (lost : Bool) : State := if lost then postNoGroup s x.ctx 0x4C x.win else s

/-! ### Puts -/

/-- The pieces of a put written at their homes; the pages that fail are left out (R167). -/
def putPieces (s : State) (x : Xfer) : State × Bool × Bool :=
  let base := winVa (winAt s x.ctx x.win) x.off
  (chunksOf x.loc base x.len).foldl (fun (a : State × Bool × Bool) c =>
    let r := xferRead a.1 x c.1 c.2
    match r.1 with
    | none => (r.2, true, a.2.2)
    | some bs =>
      match winCheck r.2 x.ctx true (base + c.1) with
      | some _ => (r.2, true, a.2.2)
      | none => (writePiece r.2 x.ctx (base + c.1) bs, a.2.1, a.2.2 || anyBad bs)) (s, false, false)

/-- What a put to a peer reads: pieces with their offsets, whether a page failed. -/
def putRead (s : State) (x : Xfer) : State × List (Nat × List PByte) × Bool :=
  (chunksOf x.loc x.loc x.len).foldl (fun (a : State × List (Nat × List PByte) × Bool) c =>
    let r := xferRead a.1 x c.1 c.2
    match r.1 with
    | none => (r.2, a.2.1, true)
    | some bs => (r.2, a.2.1 ++ [(c.1, bs)], a.2.2)) (s, [], false)

/-- The poison that a copy's word will show (R251, R263). -/
def opPoison (s : State) (x : Xfer) (bad : Bool) : State :=
  match x.op.bind (opAt s) with
  | some o => if bad then putOp s { o with bad := [0] } else s
  | none => s
/-- The first page of a copy's destination in a window of this package that fails its checks: its bytes are not moved (R251). -/
def opLost (s : State) (x : Xfer) : State :=
  match x.op.bind (opAt s) with
  | some o =>
    match (remoteVas s x).find? (fun va => (winCheck s x.ctx true va).isSome) with
    | some va => putOp s { o with lost := [va] }
    | none => s
  | none => s

/-- A transfer has raised local counter L of its die: a copy's word receives its arrival, and the copy ends (R263); bytes that a
failed page kept from moving set ERR and reach the issuer as cause 0x79 (R251). -/
def localRise (s : State) (x : Xfer) : State :=
  let s := raiseCtr (dropXfer s x.id) x.ctx (coreDie x.core) x.ctr x.len
  match x.op.bind (opAt s) with
  | none => s
  | some o =>
    let s := arrivePart s o 0 x.len none ((if o.bad.isEmpty then 0 else 64) + (if o.lost.isEmpty then 0 else 128))
    endOp (match o.lost.head? with
      | some va => failOp s o (va % 2 ^ 56)
      | none => s) o

/-- A put that the peer refused, or that could not leave (R210). -/
def refusePut (s : State) (x : Xfer) : State := winLost (localRise s x) x true

/-- A put over the Theush link: its data, then its counter rise (R364). -/
def sendTheush (s : State) (x : Xfer) : State :=
  if (portsUp s).isEmpty then refusePut s x
  else
    let w := winAt s x.ctx x.win
    let dst := BitVec.ofNat 16 (winPeer w)
    let pw := BitVec.ofNat 12 (winPwin w)
    let r := putRead s x
    let fs := (r.2.1.map (fun p => dataFlits dst pw (x.off + p.1) p.2)).flatten
    let s := opPoison r.1 x (r.2.1.any (fun p => anyBad p.2))
    putXfer (winLost (sendSpread s (fs ++ [newFlit 2 dst pw x.off (leBytes 8 x.len) 0])) x r.2.2) { x with stage := 2 }

/-- A put over Ethernet, on the queue that PEER names, to the endpoint of its NQDEST (R367): its poisoned units are not sent and
count as refused (R302); a queue that is not enabled or has no port refuses it all. -/
def sendUe (s : State) (x : Xfer) : State :=
  let w := winAt s x.ctx x.win
  let p := ctxPart x.ctx
  let q := winPeer w % 64
  if !queueOpen s p q then refusePut s x
  else
    let r := putRead s x
    let bad := r.2.1.any (fun p => anyBad p.2)
    let pkts := (r.2.1.map (fun e => ueCut (x.off + e.1) e.2)).flatten
    putXfer (winLost (ueLeave (opPoison r.1 x bad) p q x.id (winPwin w) pkts) x (r.2.2 || bad)) { x with stage := 2 }

/-- PUT_ARRIVAL: the bytes of a put, or of a copy into a window, are written at the target and its arrival counter rises; a
put to a peer leaves on its link (R167, R210, R263). -/
def execPutArrival (id : Nat) (s : State) : Result :=
  match xferAt s id with
  | none => .fault .notEnabled
  | some x =>
    if x.get || x.stage != 0 || !xferReady s x || xferSwitched s x then .fault .notEnabled
    else
      whenAwake s (xferAsleep s x) <|
        match winKind (winAt s x.ctx x.win) with
        | 0 =>
          withFrames s x.ctx (remoteVas s x) <|
            let s := opLost (xferStart s x) x
            let r := putPieces s x
            let s := raiseWin (opPoison r.1 x r.2.2) x.ctx x.win x.len
            .next (winLost (putXfer s { x with stage := 1 }) x r.2.1)
        | 1 => .next (sendTheush (xferStart s x) x)
        | _ => .next (sendUe (xferStart s x) x)

/-- PUT_ACKNOWLEDGED: the target has acknowledged the rise, and local counter L rises (R167, R263). -/
def execPutAcknowledged (id : Nat) (s : State) : Result :=
  match xferAt s id with
  | none => .fault .notEnabled
  | some x => if x.get || x.stage != 1 then .fault .notEnabled else .next (localRise s x)

/-! ### Gets -/

/-- The pieces of a get written at their homes. The bytes of a peer are free values (log entry 21). -/
def getPieces (s : State) (x : Xfer) : State × Bool :=
  let w := winAt s x.ctx x.win
  let base := winVa w x.off
  (chunksOf x.loc base x.len).foldl (fun (a : State × Bool) c =>
    let s := a.1
    match pieceCheck s x.ctx (coreDie x.core) { write := true } (x.loc + c.1) with
    | .error _ => (s, true)
    | .ok u =>
      let s := flushDirty s x u (transPa u (x.loc + c.1)) c.2
      if winKind w != 0 then
        (writePiece s x.ctx (x.loc + c.1) ((List.range c.2).map (fun i => (Config.peerByte x.id (c.1 + i), false))), a.2)
      else
        match winCheck s x.ctx false (base + c.1), walk s x.ctx (base + c.1) with
        | none, some t =>
          let r := readPiece s x.ctx t (base + c.1) c.2
          (writePiece r.2 x.ctx (x.loc + c.1) r.1, a.2)
        | _, _ => (s, true)) (s, false)

/-- GET_COMPLETE: every byte is written locally and local counter L rises (R168). -/
def execGetComplete (id : Nat) (s : State) : Result :=
  match xferAt s id with
  | none => .fault .notEnabled
  | some x =>
    if !x.get || x.stage != 0 || !xferReady s x || xferSwitched s x then .fault .notEnabled
    else
      whenAwake s (xferAsleep s x) <|
        withFrames s x.ctx (localVas x) <|
          let r := getPieces (xferStart s x) x
          .next (winLost (localRise r.1 x) x r.2)

/-! ### What peers send (R210, R364-R367) -/

/-- The window that an incoming number names: the entry of the lowest context that has it for a die of this package
(log entry 21). -/
def incoming (s : State) (w : Nat) : Option (Nat × Win) :=
  match s.ctxs.find? (fun e => (mapGet {} e.2.wins w).valid && winKind (mapGet {} e.2.wins w) == 0) with
  | some e => some (e.1, mapGet {} e.2.wins w)
  | none => none

/-- The range is in an incoming window. -/
def inWindow (s : State) (w off n : Nat) : Option (Nat × Win) :=
  match incoming s w with
  | some e => if off + n ≤ e.2.len.toNat then some e else none
  | none => none

/-- Bytes from a peer written into a window of this package; a page that fails its checks is left out. -/
def placeIncoming (s : State) (k : Nat) (e : Win) (w off : Nat) (bs : List PByte) : State :=
  let va := winVa e off
  let r := (piecesOf va bs.length).foldl (fun (a : State × Bool) pc =>
    match winCheck a.1 k true pc.1 with
    | some _ => (a.1, true)
    | none => (writePiece a.1 k pc.1 ((bs.drop (pc.1 - va)).take pc.2), a.2)) (s, false)
  if r.2 then postNoGroup r.1 k 0x4C w else r.1

/-- The payload with the poison that the flit marks (R302). -/
def flitPayload (f : Flit) : List PByte :=
  (List.range (min f.len.toNat 224)).map (fun i => (f.payload.getD i 0, f.poison.getLsbD (i / 32)))

/-- The bins that an incoming range needs awake. -/
def incomingAsleep (s : State) (w off n : Nat) : List Nat :=
  match inWindow s w off n with
  | some (k, e) => (((piecesOf (winVa e off) n).map (·.1)).filterMap (pieceAsleep s k)).dedup
  | none => []
/-- The pages that it writes, for the frames of ZERO pages. -/
def withIncoming (s : State) (w off n : Nat) (r : Result) : Result :=
  whenAwake s (incomingAsleep s w off n) <|
    match inWindow s w off n with
    | some (k, e) => withFrames s k ((piecesOf (winVa e off) n).map (·.1)) r
    | none => r

/-- PUT_DATA_FLIT: its payload is written into the window it names; bytes outside a window are refused (R210, R364). -/
def execPutDataFlit (port : Nat) (f : Flit) (s : State) : Result :=
  let bs := flitPayload f
  let w := f.window.toNat
  let off := f.offset.toNat
  withIncoming s w off (if flitTaken s port f then bs.length else 0) <|
    receive s port 1 f (fun s =>
      match inWindow s w off bs.length with
      | some (k, e) => placeIncoming s k e w off bs
      | none => s)

/-- The reply to a counter rise: its window and offset, with 1 in the first payload byte for a refusal (log entry 21). -/
def ackFlit (f : Flit) (refused : Bool) : Flit :=
  newFlit 3 f.src f.window f.offset.toNat [if refused then 1 else 0] 0

/-- COUNTER_RISE_FLIT: the window's arrival counter rises by the amount, unless the put's bytes were refused (R210). -/
def execCounterRiseFlit (port : Nat) (f : Flit) (s : State) : Result :=
  receive s port 2 f (fun s =>
    let n := leNat (f.payload.take 8)
    match inWindow s f.window.toNat f.offset.toNat n with
    | some (k, _) => sendOn (raiseWin s k f.window.toNat n) port (ackFlit f false)
    | none => sendOn s port (ackFlit f true))

/-- The put to a peer that an acknowledgement names. -/
def ackedPut (s : State) (f : Flit) : Option Xfer :=
  s.xfers.find? (fun x =>
    let w := winAt s x.ctx x.win
    x.stage == 2 && winKind w == 1 && winPeer w == f.src.toNat && winPwin w == f.window.toNat && x.off == f.offset.toNat)

/-- ACKNOWLEDGEMENT_FLIT: the local counter of the put it names rises; of a refused one too, with cause 0x4C (R210). -/
def execAcknowledgementFlit (port : Nat) (f : Flit) (s : State) : Result :=
  receive s port 3 f (fun s =>
    match ackedPut s f with
    | some x => if f.payload.headD 0 = 1 then refusePut s x else localRise s x
    | none => s)

/-- PORT_DOWN: after 16 failed replays the port is down; with the last one, puts not acknowledged count as refused (R365). -/
def execPortDown (port : Nat) (s : State) : Result :=
  if decide (theushPorts ≤ port) || !(portAt s port).up || decide ((portAt s port).failed ≤ 16) then .fault .notEnabled
  else
    let s := updPort s port (fun p => { p with up := false })
    if !(portsUp s).isEmpty then .next s
    else
      .next ((s.xfers.filter (fun x => x.stage == 2 && winKind (winAt s x.ctx x.win) == 1)).foldl refusePut s)

/-- The put that an Ethernet packet answers. -/
def uePut (s : State) (id : Nat) : Option Xfer :=
  s.xfers.find? (fun x => x.id == id && x.stage == 2 && winKind (winAt s x.ctx x.win) == 2)

/-- ULTRA_ETHERNET_PACKET: put bytes into a window, or the answer to a put of this device (R210, R366, R367). -/
def execUltraEthernetPacket (p : UePacket) (s : State) : Result :=
  if !s.out.ready then .fault .notEnabled
  else
    match p with
    | .deliver w off bs rise =>
      if 4096 < bs.length then .fault .notEnabled
      else withIncoming s w off bs.length <|
        match inWindow s w off bs.length with
        | some (k, e) => .next (raiseWin (placeIncoming s k e w off (pbytes bs false)) k w rise)
        | none => .next s
    | .acked i => (match uePut s i with
        | some x => .next (localRise s x)
        | none => .fault .notEnabled)
    | .refused i => (match uePut s i with
        | some x => .next (refusePut s x)
        | none => .fault .notEnabled)

end Sys2Proof.Machine
end

