-- ==== Sys2Proof/Machine/Nodes.lean ====
section
/-! DEFINITION. Nodes of the task graph (05 R84, R85; 23 R306-R314): descriptors, kernel headers and tasting blocks as the
Trellis reads them, creation of a node, tiles, conflicts and eligibility; task.spawn, tile.set and tile.get. -/

namespace Sys2Proof.Machine

/-! ### What the Trellis reads -/

/-- Bytes of a context's memory as the Trellis reads them at their homes: the first failed check, a poisoned unit, bins
still asleep, the bytes. -/
structure Got where
  bytes : List Byte := []
  fail : Option (Nat × Nat) := none
  poison : Option Nat := none
  asleep : List Nat := []
  deriving DecidableEq, Repr

/-- Read n bytes at va; chk gives the failed check of a page. -/
def readVa (s : State) (k : Nat) (chk : Nat → Nat → Option Nat) (va n : Nat) : Got :=
  match (piecesOf va n).findSome? (fun pc => (chk pc.1 pc.2).map (fun c => (c, pc.1 % 2 ^ 56))) with
  | some e => { fail := some e }
  | none =>
    let sleep := (((piecesOf va n).map (·.1)).filterMap (pieceAsleep s k)).dedup
    if !sleep.isEmpty then { asleep := sleep }
    else
      let bs := (List.range n).map (fun i => ((readLoc s k 0 {} (.glob (va + i))).getD (0, true), i))
      match bs.find? (fun b => b.1.2) with
      | some b => { poison := some ((va + b.2) / 128 * 128 % 2 ^ 56) }
      | none => { bytes := bs.map (fun b => b.1.1) }

/-- The checks of an ld by a core, and of a read for the mailbox (R170, R357). -/
def coreChk (s : State) (core k va n : Nat) : Option Nat :=
  match globalCheck s core k {} 1 va n with
  | .error c => some c
  | .ok _ => none
def postChk (s : State) (k va _n : Nat) : Option Nat :=
  match pieceCheck s k 0 {} va with
  | .error c => some c
  | .ok _ => none

/-- A field of some bytes, little-endian. -/
def fieldOf (bs : List Byte) (lo n : Nat) : Nat := leNat ((bs.drop lo).take n)

/-! ### The descriptor (R306) -/

def descOf (b r : List Byte) : Desc :=
  let f := fieldOf b
  { kernel := f 0 8, arg := BitVec.ofNat 64 (f 8 8), teams := f 16 4, prio := bitsOf (f 20 1) 0 3
    eaves := bitsOf (f 20 1) 3 1 == 1, taste := bitsOf (f 20 1) 4 1 == 1, diemask := BitVec.ofNat 4 (f 21 1)
    lead := f 23 1, items := f 48 8, key := BitVec.ofNat 64 (f 56 8), result := f 64 8
    tbind := (List.range 8).map (fun j => f (32 + 2 * j) 2)
    ranges := (List.range (f 22 1)).map (fun i =>
      { base := fieldOf r (16 * i) 8, len := bitsOf (fieldOf r (16 * i + 8) 8) 0 41
        w := bitsOf (fieldOf r (16 * i + 8) 8) 63 1 == 1 }) }

/-- Limits of the descriptor's own fields (R306). -/
def descBad (va : Nat) (b : List Byte) : Bool :=
  let f := fieldOf b
  let flags := f 20 1
  let items := f 48 8
  let tasteOn := bitsOf flags 4 1 == 1
  let eavesOn := bitsOf flags 3 1 == 1
  decide (va % 128 ≠ 0) || decide (f 16 4 = 0) || decide (32 ≤ flags) || (tasteOn && eavesOn) || decide (16 ≤ f 21 1) ||
    decide (16 < f 22 1) || (eavesOn != decide (f 23 1 ≠ 0)) || decide (f 24 8 % 16 ≠ 0) ||
    (decide (f 22 1 = 0) && decide (f 24 8 ≠ 0)) || (List.range 8).any (fun j => decide (4096 ≤ f (32 + 2 * j) 2)) ||
    (if tasteOn then decide (items = 0 ∨ 2 ^ 40 < items) else decide (items ≠ 0 ∨ f 56 8 ≠ 0)) ||
    decide (f 64 8 % 64 ≠ 0 ∨ 2 ^ 56 ≤ f 64 8) || (b.drop 72).any (· != 0)

/-- Limits of the range entries. -/
def rangesBad (n : Nat) (r : List Byte) : Bool :=
  (List.range n).any (fun i =>
    let x := fieldOf r (16 * i + 8) 8
    decide (bitsOf x 0 41 = 0 ∨ 2 ^ 40 < bitsOf x 0 41 ∨ bitsOf x 41 22 ≠ 0))

/-! ### The kernel header (R20, R23, R84, R85, R307) -/

/-- The banks of the roles that a header gives an empty core (R23): L1, operand buffer, scratchpad. -/
def bankSplit (h : Header) : Nat × Nat × Nat :=
  let r := 32 - h.l1
  let need := h.opbuf + h.scratch
  let o := if need = 0 then 0 else (r * h.opbuf + need - 1) / need
  (h.l1, o, r - o)
/-- The needs fit one core (R20, R23). -/
def headerFits (h : Header) : Bool :=
  let b := bankSplit h
  decide (h.opbuf ≤ 8 * b.2.1 ∧ h.scratch ≤ 8 * b.2.2 ∧ h.groups * h.allot ≤ 2048)
/-- BANKROLE as R23 writes it. -/
def bankroleOf (h : Header) : Word :=
  let b := bankSplit h
  BitVec.ofNat 64 ((List.range 32).foldl (fun m i =>
    m + (if i < b.1 then 0 else if 32 - b.2.1 ≤ i then 2 else 1) * 2 ^ (2 * i)) 0)

def headerOf (b t q : List Byte) : Header :=
  let w := fun (i : Nat) => fieldOf b (4 * i) 4
  { groups := bitsOf (w 1) 0 5 + 1, allot := 8 * bitsOf (w 1) 8 8, scratch := bitsOf (w 2) 16 9, opbuf := bitsOf (w 2) 0 9
    l1 := bitsOf (w 3) 0 6, cw := bitsOf (w 3) 10 2 + 1, ch := bitsOf (w 3) 12 3, fuse := bitsOf (w 3) 15 1 == 1
    entry := w 4, roles := if w 5 = 0 then [] else t.map (·.toNat)
    taste := if w 6 = 0 then none
      else some (BitVec.ofNat 64 (fieldOf q 0 8), BitVec.ofNat 64 (fieldOf q 8 8), fieldOf q 16 8, bitsOf (fieldOf q 24 1) 0 1 == 1) }

/-- Limits of the header's words; fused is whether the partition accepts fused L1s (R355). -/
def headerBad (va : Nat) (fused : Bool) (b : List Byte) : Bool :=
  let w := fun (i : Nat) => fieldOf b (4 * i) 4
  let h := headerOf b [] []
  decide (va % 64 ≠ 0 ∨ w 0 ≠ 0xCA9E0110) || decide (bitsOf (w 1) 16 16 ≠ 0 ∨ bitsOf (w 1) 5 3 ≠ 0) ||
    decide (h.allot < 16 ∨ 512 < h.allot) || decide (bitsOf (w 2) 25 7 ≠ 0 ∨ bitsOf (w 2) 9 7 ≠ 0) ||
    decide (256 < h.scratch ∨ 256 < h.opbuf) || decide (bitsOf (w 3) 16 16 ≠ 0 ∨ bitsOf (w 3) 6 4 ≠ 0) ||
    decide (32 < h.l1) || decide (h.ch = 0 ∨ 12 < h.cw * h.ch) || (h.fuse && !fused) ||
    decide (h.entry % 4 ≠ 0 ∨ h.entry < 64) || (b.drop 28).any (· != 0) || !headerFits h

/-- Limits of the tile-declaration table and of the tasting block (R307). -/
def rolesBad (t : List Byte) : Bool := t.any (fun x => decide (2 < x.toNat))
def finiteF64 (c : Nat) : Bool := match decodeF fmtF64 c with
  | .fin _ _ _ => true
  | .zero _ => true
  | _ => false
def tasteBad (q : List Byte) : Bool :=
  let z := decodeF fmtF64 (fieldOf q 0 8)
  let tol := decodeF fmtF64 (fieldOf q 8 8)
  !finiteF64 (fieldOf q 0 8) || !valLt (.zero false) z || !finiteF64 (fieldOf q 8 8) || valLt tol (.zero false) ||
    decide (2 ^ 40 < fieldOf q 16 8 ∨ 2 ≤ fieldOf q 24 1) || (q.drop 25).any (· != 0)

/-- The role of a tile slot: 0 undeclared, 1 input, 2 output. -/
def slotRole (h : Header) (j : Nat) : Nat := h.roles.getD j 0
/-- The tiles of a node in a role; a tile that two of its slots name counts once (R311). -/
def nodeTiles (d : Desc) (h : Header) (role : Nat) : List Nat :=
  (((List.range 8).filter (fun j => slotRole h j == role)).map (fun j => d.tbind.getD j 0)).dedup
def nodeIns (n : Node) : List Nat := nodeTiles n.desc n.hdr 1
def nodeOuts (n : Node) : List Nat := nodeTiles n.desc n.hdr 2

/-- A descriptor asks for a feature that the partition has not accepted (R355). -/
def featBad (s : State) (p : Nat) (d : Desc) : Bool := (d.taste && !feature s p 1) || (d.eaves && !feature s p 2)
/-- The descriptor against the header (R306, R308); roles says that the slots' roles are known, as they are where the header has
no tile table and where the table could be read. -/
def bindBad (roles : Bool) (d : Desc) (h : Header) : Bool :=
  decide (h.ch ≠ 0 ∧ d.teams % (h.cw * h.ch) ≠ 0) ||
    (roles && ((List.range 8).any (fun j => decide (slotRole h j = 0) != decide (d.tbind.getD j 0 = 0)) ||
      (nodeTiles d h 1).any (fun t => (nodeTiles d h 2).contains t))) ||
    (d.taste && h.taste.isNone)

/-- What reading a node finds. -/
inductive Loaded where
  | ok (d : Desc) (h : Header)
  | page (post code info : Nat)             -- post is the code that a post reports
  | bad (code : Nat) (kernel : Nat)
  | asleep (bins : List Nat)
  deriving DecidableEq, Repr

/-- A poisoned unit of the descriptor or header counts as a failed page (R308, R357). -/
def gotFail (post : Nat) (g : Got) : Option Loaded :=
  match g.fail, g.poison, g.asleep with
  | some (c, i), _, _ => some (.page post c i)
  | _, some a, _ => some (.page post 0xB1 a)
  | _, _, b :: bs => some (.asleep (b :: bs))
  | _, _, _ => none

/-- Live nodes of a context. -/
def liveNodes (s : State) (k : Nat) : List (Nat × Node) := s.nodes.filter (fun e => e.2.ctx == k)

/-- Read and check a node (R308, R357): the lowest code of those that apply, a failed page of a spawn before them all. The tile
table and the tasting block of a header whose own words are invalid are not looked for (DEDUCED, log entry 42). -/
def loadNode (s : State) (k : Nat) (chk : Nat → Nat → Option Nat) (va : Nat) : Loaded :=
  let none' : Got := {}
  let d := readVa s k chk va 128
  let n := min (fieldOf d.bytes 22 1) 16
  let r := if n = 0 then none' else readVa s k chk (fieldOf d.bytes 24 8) (16 * n)
  let kern := fieldOf d.bytes 0 8
  let h := readVa s k chk kern 64
  let p := ctxPart k
  let wordsBad := headerBad kern (feature s p 3) h.bytes
  let t := if wordsBad || fieldOf h.bytes 20 4 == 0 then none' else readVa s k chk (kern + fieldOf h.bytes 20 4) 8
  let q := if wordsBad || fieldOf h.bytes 24 4 == 0 then none' else readVa s k chk (kern + fieldOf h.bytes 24 4) 32
  let ds := descOf d.bytes r.bytes
  let hd := headerOf h.bytes t.bytes q.bytes
  let roles := fieldOf h.bytes 20 4 == 0 || !t.bytes.isEmpty
  let bad := descBad va d.bytes || rangesBad n r.bytes || featBad s p ds || (!h.bytes.isEmpty && bindBad roles ds hd)
  let post := if bad then 0x80 else 0x92
  match [gotFail 0x80 d, gotFail 0x80 r, gotFail post h, gotFail post t, gotFail post q].findSome? id with
  | some x => x
  | none =>
    if bad then .bad 0x80 kern
    else if wordsBad || rolesBad t.bytes || (hd.taste.isSome && tasteBad q.bytes) then .bad 0x92 kern
    else if 4096 ≤ (liveNodes s k).length then .bad 0x96 kern
    else .ok ds hd

/-! ### Tiles (R311) -/

def tileAt (s : State) (k t : Nat) : Tile := mapGet {} (ctxAt s k).tiles t
def updTile (s : State) (k : Nat) (f : Tile → Tile) (t : Nat) : State :=
  updCtx s k (fun c => { c with tiles := mapSet {} c.tiles t (f (mapGet {} c.tiles t)) })

/-- A node names its tiles. -/
def tilesSpawn (s : State) (k : Nat) (d : Desc) (h : Header) : State :=
  let s := (nodeTiles d h 1).foldl (fun s t => updTile s k (fun x => { x with pend := x.pend + 1 }) t) s
  (nodeTiles d h 2).foldl (fun s t => updTile s k (fun x => { x with prod := x.prod + 1 }) t) s

/-- A node completes: outputs first, then inputs. -/
def tilesDone (s : State) (n : Node) : State :=
  let s := (nodeOuts n).foldl (fun s t =>
    updTile s n.ctx (fun x => { x with full := true, fail := n.failed, prod := x.prod - 1 }) t) s
  (nodeIns n).foldl (fun s t => updTile s n.ctx (fun x =>
    let x := { x with pend := x.pend - 1 }
    if x.pend = 0 ∧ x.full = true then { x with full := false, fail := false } else x) t) s

/-! ### Creation (R308) -/

/-- A node enters its context's spawn order, with the budget and the highest priority that stand now (R146, R315). -/
def createNode (s : State) (k : Nat) (d : Desc) (h : Header) : State :=
  let c := ctxAt s k
  let n : Node := { uid := s.fresh, ctx := k, seq := c.nextSeq, hdr := h
                    desc := { d with prio := min d.prio c.maxprio }
                    budget := if c.gridbudget = 0 then 2 ^ 40 else c.gridbudget }
  let s := putNode { s with fresh := s.fresh + 1 } n.uid n
  tilesSpawn (updCtx s k (fun c => { c with nextSeq := c.nextSeq + 1 })) k d h

/-- task.spawn sD, sA (R308). -/
def execTaskSpawn (x : R3L) (s : State) : Result :=
  issuer s fun f g =>
    let v := seen f g
    let k := groupCtx s g
    let va := (sGet v x.a.toNat).toNat
    ordered f g [] 0 (some .pkg) s fun s =>
      match loadNode s k (coreChk s (gidCore f.gid) k) va with
      | .asleep bs => waits f .operand (bs.foldl wakeBin s)
      | .page _ c i => if supCause c then superTrap f c i s else trap f c i s
      | .bad c kern => trap f c (if c = 0x92 then kern % 2 ^ 56 else 0) s
      | .ok d h =>
        let seq := (ctxAt s k).nextSeq
        done f (sSet g x.d.toNat seq) (createNode s k d h)

/-! ### Conflicts and eligibility (R313, R314) -/

/-- Two ranges share a 256-byte unit and one of them may be written. -/
def rangesMeet (a b : NodeRange) : Bool :=
  (a.w || b.w) && decide (a.base / 256 ≤ (b.base + b.len - 1) / 256 ∧ b.base / 256 ≤ (a.base + a.len - 1) / 256)

/-- One names as output a tile that the other names. -/
def linked (x y : Node) : Bool :=
  (nodeOuts x).any (fun t => (nodeIns y).contains t || (nodeOuts y).contains t) ||
    (nodeOuts y).any (fun t => (nodeIns x).contains t)

def nodesConflict (x y : Node) : Bool :=
  !linked x y && x.desc.ranges.any (fun a => y.desc.ranges.any (rangesMeet a))

/-- A node that has not started may start (R314). -/
def eligible (s : State) (n : Node) : Bool :=
  (nodeIns n).all (fun t => (tileAt s n.ctx t).full) && (nodeOuts n).all (fun t => !(tileAt s n.ctx t).full) &&
    (liveNodes s n.ctx).all (fun e =>
      !(decide (e.2.seq.toNat < n.seq.toNat) && nodesConflict e.2 n) &&
      !(n.desc.taste && e.2.desc.taste && e.2.started && e.2.uid != n.uid))

/-- An input tile carries FAIL (R310). -/
def failInput (s : State) (n : Node) : Bool := (nodeIns n).any (fun t => (tileAt s n.ctx t).fail)

/-! ### tile.set and tile.get (R312) -/

/-- tile.set sA, sB. -/
def execTileSet (x : R3L) (s : State) : Result :=
  issuer s fun f g =>
    let v := seen f g
    let t := (sGet v x.a.toNat).toNat
    let b := (sGet v x.b.toNat).toNat
    if t = 0 ∨ 4096 ≤ t ∨ 2 ≤ b then trap f 0x7B 0 s
    else
      ordered f g [] 0 (some .pkg) s fun s =>
        done f g (updTile s (groupCtx s g) (fun x => { x with full := b == 1, fail := false }) t)

/-- An entry as tile.get writes it. -/
def tileWord (x : Tile) : Word :=
  BitVec.ofNat 64 ((if x.full then 1 else 0) + (if x.fail then 2 else 0) + x.prod % 2 ^ 24 * 2 ^ 16 + x.pend % 2 ^ 24 * 2 ^ 40)

/-- tile.get sD, sA. -/
def execTileGet (x : R3L) (s : State) : Result :=
  issuer s fun f g =>
    let t := (sGet (seen f g) x.a.toNat).toNat
    if t = 0 ∨ 4096 ≤ t then trap f 0x7B 0 s
    else
      ordered f g [] 0 none s fun s =>
        done f (sSet g x.d.toNat (tileWord (tileAt s (groupCtx s g) t))) (acquireAt s f.gid .pkg)

end Sys2Proof.Machine
end

