-- ==== Sys2Proof/Machine/Ridge.lean ====
section
/-! DEFINITION. The Ridge network's barriers (23 R318-R320) and the eaves counters (R321). -/

namespace Sys2Proof.Machine

/-! ### Barriers -/

/-- Names 0-7 are the team's barriers, 8-63 the grid's. -/
def teamBar (name : Nat) : Bool := decide (name < 8)
def barScope (name : Nat) : Scope := if teamBar name then .team else .pkg

/-- The groups of saved teams. -/
def savedGroups (s : State) : List Group := (s.saved.map (·.groups)).flatten
/-- A group that still has lanes, resident or saved, or whose accesses are still on their way: it has not exited for
the barriers (R319). -/
def groupLives (s : State) (uid : Nat) : Bool :=
  s.groups.any (fun e => e.2.uid == uid &&
    (e.2.exited != 0xFFFFFFFF || releaseWaits s e.1 e.2 0xFFFFFFFF .pkg)) ||
    (savedGroups s).any (fun g => g.uid == uid && g.exited != 0xFFFFFFFF)

/-- Groups of a node by uid: resident ones and saved ones. -/
def nodeGroups (s : State) (n : Nat) : List Nat :=
  (s.groups.filter (fun e => (teamAt s e.2.team).node == n)).map (·.2.uid) ++
    (((s.saved.filter (fun x => x.team.node == n)).map (·.groups)).flatten).map (·.uid)
/-- Groups of teams not placed yet. -/
def unplacedGroups (n : Node) : Nat := (n.desc.teams - n.nextCluster * (n.hdr.cw * n.hdr.ch)) * n.hdr.groups

/-- A barrier as a group of a team sees it: with its initial members where nothing has happened to it yet (R318). -/
def barAt (s : State) (tuid name : Nat) : Bar :=
  let t := teamAt s tuid
  if teamBar name then
    (mapFind t.bars name).getD
      { members := (s.groups.filter (fun e => e.2.team == tuid)).map (·.2.uid) }
  else
    let n := nodeAt s t.node
    (mapFind n.bars name).getD { members := nodeGroups s t.node, unplaced := unplacedGroups n }
def putBar (s : State) (tuid name : Nat) (b : Bar) : State :=
  if teamBar name then updTeam s tuid (fun t => { t with bars := mapPut t.bars name b })
  else updNode s (teamAt s tuid).node (fun n => { n with bars := mapPut n.bars name b })

/-- Runs blocked in ridge.wait on a barrier, with their group slots. -/
def ridgeWaiters (s : State) (tuid name : Nat) : List (Nat × Block) :=
  (allBlocks s).filter (fun e =>
    let t := (groupAt s e.1).team
    (if teamBar name then t == tuid else (teamAt s t).node == (teamAt s tuid).node) &&
      (match e.2.why with
        | .ridge n _ => n == name
        | _ => false))

/-- Runs that wait for a generation other than their token's return, with an acquire at the barrier's scope. -/
def wakeRidge (s : State) (tuid name : Nat) : State :=
  (ridgeWaiters s tuid name).foldl (fun s e =>
    match e.2.why with
    | .ridge _ tok =>
      if (barAt s tuid name).gen != tok then acquireAt (passBlock s e.1 e.2 none) e.1 (barScope name) else s
    | _ => s) s

/-- The L1s of the members of a barrier whose lanes have all exited. -/
def exitedL1s (s : State) (b : Bar) : List Nat :=
  ((s.groups.filter (fun e => b.members.contains e.2.uid && e.2.exited == 0xFFFFFFFF)).map (fun e =>
    teamL1s s e.2.team (gidCore e.1))).flatten.dedup

/-- Advance (R319). An exit releases at the barrier's scope, so that a grid barrier's finds the exited groups' dirty bytes in the
proxy slices (R204). -/
def advanceBar (s : State) (tuid name : Nat) : State :=
  let b := barAt s tuid name
  if b.unplaced = 0 ∧ b.members.all (fun m => b.arrived.contains m || !groupLives s m) then
    let s := if teamBar name then s else drainL1 s (exitedL1s s b)
    let members := (b.members ++ b.joining).filter (fun m => !b.leaving.contains m && groupLives s m)
    wakeRidge (putBar s tuid name { members, gen := b.gen + 1 }) tuid name
  else s

/-- The barriers that a team's groups may be members of. -/
def barNames (s : State) (tuid : Nat) : List Nat :=
  mapKeys (teamAt s tuid).bars ++ mapKeys (nodeAt s (teamAt s tuid).node).bars
/-- A group of a team has exited: it counts as arrived in every barrier that it is a member of (R319). -/
def advanceAll (s : State) (tuid uid : Nat) : State :=
  (barNames s tuid).foldl (fun s n => if (barAt s tuid n).members.contains uid then advanceBar s tuid n else s) s

/-! ### The instructions (R319) -/

/-- Cause 0x7C for a name out of range, or of a grid barrier in an eaves node. -/
def ridgeNameBad (s : State) (g : Group) (a : Nat) : Bool :=
  decide (64 ≤ a) || (decide (8 ≤ a) && (nodeAt s (teamAt s g.team).node).desc.eaves)

/-- ridge.arrive sD, sA. -/
def execRidgeArrive (x : R3L) (s : State) : Result :=
  issuer s fun f g =>
    let name := (sGet (seen f g) x.a.toNat).toNat
    if ridgeNameBad s g name then trap f 0x7C 0 s
    else
      let b := barAt s g.team name
      if !b.members.contains g.uid || b.arrived.contains g.uid then trap f 0x7D 0 s
      else
        ordered f g [] 0 (some (barScope name)) s fun s =>
          let b := barAt s g.team name
          let s := putBar s g.team name { b with arrived := b.arrived ++ [g.uid] }
          let s := updGroup s f.gid (fun g => retire f (sSet g x.d.toNat (b.gen.setWidth 64)))
          .next (unfocus (advanceBar s g.team name))

/-- ridge.wait sA, sB. -/
def execRidgeWait (x : R3L) (s : State) : Result :=
  issuer s fun f g =>
    let v := seen f g
    let name := (sGet v x.a.toNat).toNat
    let tok := sGet v x.b.toNat
    if ridgeNameBad s g name || decide (2 ^ 32 ≤ tok.toNat) then trap f 0x7C 0 s
    else
      ordered f g [] 0 none s fun s =>
        if (barAt s g.team name).gen = tok.setWidth 32 then waits f (.ridge name (tok.setWidth 32)) s
        else done f g (acquireAt s f.gid (barScope name))

/-- ridge.join sD, sA. -/
def execRidgeJoin (x : R3L) (s : State) : Result :=
  issuer s fun f g =>
    let name := (sGet (seen f g) x.a.toNat).toNat
    if ridgeNameBad s g name then trap f 0x7C 0 s
    else
      let b := barAt s g.team name
      if (b.members.contains g.uid && !b.leaving.contains g.uid) || b.joining.contains g.uid then trap f 0x7D 0 s
      else
        let s := putBar s g.team name { b with joining := b.joining ++ [g.uid] }
        let s := updGroup s f.gid (fun g => retire f (sSet g x.d.toNat (b.gen.setWidth 64)))
        .next (unfocus (advanceBar s g.team name))

/-- ridge.leave sA. -/
def execRidgeLeave (x : R3L) (s : State) : Result :=
  issuer s fun f g =>
    let name := (sGet (seen f g) x.a.toNat).toNat
    if ridgeNameBad s g name then trap f 0x7C 0 s
    else
      let b := barAt s g.team name
      if !b.members.contains g.uid || b.leaving.contains g.uid then trap f 0x7D 0 s
      else
        let arrived := b.arrived.contains g.uid
        ordered f g [] 0 (if arrived then none else some (barScope name)) s fun s =>
          let b := barAt s g.team name
          let s := putBar s g.team name
            { b with arrived := if arrived then b.arrived else b.arrived ++ [g.uid], leaving := b.leaving ++ [g.uid] }
          let s := updGroup s f.gid (retire f)
          .next (unfocus (advanceBar s g.team name))

/-! ### Eaves counters (R321) -/

/-- The groups of a rank's team, resident or saved, with the lanes that have exited. -/
def rankGroups (s : State) (n cluster rank : Nat) : List Group :=
  let at' := fun (t : Team) => t.node == n && t.cluster == cluster && t.rank == rank
  (s.groups.filter (fun e => at' (teamAt s e.2.team))).map (·.2) ++
    ((s.saved.filter (fun x => at' x.team)).map (·.groups)).flatten

/-- A team's phase, none where every group has exited. -/
def teamPhase (s : State) (n cluster rank : Nat) : Option Nat :=
  (((rankGroups s n cluster rank).filter (fun g => g.exited != 0xFFFFFFFF)).map (fun g => g.phase.toNat)).min?

/-- The neighbours of a rank in a w × h cluster: rank positions that differ by 1 in one coordinate (R18, R321). -/
def neighbours (w h rank : Nat) : List Nat :=
  (List.range (w * h)).filter (fun r =>
    let dx := max (r % w) (rank % w) - min (r % w) (rank % w)
    let dy := max (r / w) (rank / w) - min (r / w) (rank / w)
    decide (dx + dy = 1))

/-- Every neighbour has come within LEAD of a group's phase. -/
def leadMet (s : State) (g : Group) : Bool :=
  let t := teamAt s g.team
  let n := nodeAt s t.node
  (neighbours n.hdr.cw n.hdr.ch t.rank).all (fun r =>
    match teamPhase s t.node t.cluster r with
    | none => true
    | some p => decide (g.phase.toNat ≤ p + n.desc.lead))

/-- Blocked lead.step runs of a cluster whose neighbours have come near return, with an acquire at .clu. -/
def wakeLead (s : State) (node cluster : Nat) : State :=
  ((allBlocks s).filter (fun e =>
    let t := teamAt s (groupAt s e.1).team
    t.node == node && t.cluster == cluster && e.2.why == .lead)).foldl (fun s e =>
      if leadMet s (groupAt s e.1) then acquireAt (passBlock s e.1 e.2 none) e.1 .clu else s) s

/-- lead.step sD. -/
def execLeadStep (x : R3L) (s : State) : Result :=
  issuer s fun f g =>
    let t := teamAt s g.team
    if !(nodeAt s t.node).desc.eaves then trap f 0x7C 0 s
    else
      ordered f g [] 0 (some .clu) s fun s =>
        let p := g.phase + 1
        let g := sSet { g with phase := p } x.d.toNat p
        let s := if leadMet s g then acquireAt (retired f g s) f.gid .clu
          else waitOn f .lead (putGroup s f.gid g)
        .next (wakeLead s t.node t.cluster)

end Sys2Proof.Machine
end

