-- ==== Sys2Proof/Machine/Tasting.lean ====
section
/-! DEFINITION. The tasting unit (23 R322-R328): the permutation of items, tickets, contributions, the running mean and
its stop test, and the three tasting instructions. -/

namespace Sys2Proof.Machine

/-! ### The permutation (R323) -/

/-- One round: from (hi, lo, width of hi) with the other width. -/
def feistelRound (key : Nat) (i : Nat) (a c : Nat) (x : Nat × Nat) : Nat × Nat :=
  let wh := if i % 2 = 0 then a else c
  let k := bitsOf key (16 * i) 16
  let t := (Nat.xor x.2 k * 0x9E3779B9) % 2 ^ 32
  (x.2, Nat.xor x.1 (t / 2 ^ (32 - wh)))

def feistel (key a c x : Nat) : Nat :=
  let r := [0, 1, 2, 3].foldl (fun r i => feistelRound key i a c r) (x / 2 ^ c, x % 2 ^ c)
  r.1 * 2 ^ c + r.2

/-- Cycle-walking: at most 2^m steps. -/
def walkPerm (key a c n : Nat) : Nat → Nat → Nat
  | 0, y => y
  | fuel + 1, y => if y < n then y else walkPerm key a c n fuel (feistel key a c y)

/-- ceil(log2 n). -/
def log2Up (n : Nat) : Nat := if n ≤ 1 then 0 else Nat.log2 (n - 1) + 1

def tastePerm (n key j : Nat) : Nat :=
  let m := log2Up n
  let a := m / 2
  walkPerm key a (m - a) n (2 ^ m) (feistel key a (m - a) j)

/-! ### The unit (R322) -/

def tasteState (u : Taste) (s : Nat) : Taste := { u with state := s }

/-- STATUS (R322). -/
def tasteStatus (u : Taste) : Word :=
  BitVec.ofNat 64 (u.outcome + u.state * 2 ^ 8 + (if u.ordered then 2 ^ 10 else 0) + (if u.nx then 2 ^ 13 else 0) +
    (if u.ov then 2 ^ 14 else 0) + (if u.nv then 2 ^ 15 else 0))

/-- A register of the unit by its selector. -/
def tasteReg (u : Taste) (sel : Nat) : Word :=
  match sel with
  | 0 => u.count
  | 1 => u.mean
  | 2 => u.m2
  | 3 => u.late
  | 4 => u.reject
  | 5 => BitVec.ofNat 64 u.issued
  | _ => tasteStatus u

/-- The lowest position handed out and not yet contributed (R324). -/
def tasteH (u : Taste) : Nat := (leastBy id (u.out.map (·.2))).getD u.issued

/-! ### Merging (R325) -/

/-- A result in f64 and its NX and OF. -/
def inF64 (u : Taste) (v : Val × Flags) : Word × Taste :=
  let e := encodeF fmtF64 .rn false v.1
  let fl := v.2 ||| e.2
  (BitVec.ofNat 64 e.1, { u with nx := u.nx || (fl &&& flNX) != 0, ov := u.ov || (fl &&& flOF) != 0 })
def f64Val (w : Word) : Val := decodeF fmtF64 w.toNat

/-- The quotient of two values (R42): 0 / 0 and ∞ / ∞ do not arise here, where b is finite and above 0. -/
def f64Div (u : Taste) (a b : Word) : Word × Taste := inF64 u (divVal (f64Val a) (f64Val b), 0)

/-- The parameters of the grid's block: Z, TOL, NMIN. -/
structure TasteParams where
  items : Nat
  key : Nat
  z : Word
  tol : Word
  nmin : Nat
  deriving DecidableEq, Repr

/-- Every position has been taken. -/
def tasteSpent (q : TasteParams) (u : Taste) : Taste :=
  if u.state = 0 ∧ q.items ≤ u.merged then tasteState u 2 else u

/-- The stop test. -/
def tasteTest (q : TasteParams) (u : Taste) : Taste :=
  let cv := f64Val u.count
  if valLt cv (.fin false (max q.nmin 2) 1) then u
  else
    let n1 := inF64 u (fsubVal .rn cv (.fin false 1 1))
    let v := f64Div n1.2 u.m2 n1.1
    let sd := inF64 v.2 (fsqrtVal (f64Val v.1))
    let zs := inF64 sd.2 (fmulVal (f64Val q.z) (f64Val sd.1))
    let sc := inF64 zs.2 (fsqrtVal cv)
    let r := f64Div sc.2 zs.1 sc.1
    let x := f64Val r.1
    let tol := f64Val q.tol
    if !valIsNan x && !valLt tol x then tasteState r.2 1 else r.2

/-- Merge (R325). -/
def tasteMerge (q : TasteParams) (u : Taste) (x : Word) : Taste :=
  let c := inF64 u (faddVal .rn (f64Val u.count) (.fin false 1 1))
  let d := inF64 c.2 (fsubVal .rn (f64Val x) (f64Val u.mean))
  let dc := f64Div d.2 d.1 c.1
  let mean := inF64 dc.2 (faddVal .rn (f64Val u.mean) (f64Val dc.1))
  let e := inF64 mean.2 (fsubVal .rn (f64Val x) (f64Val mean.1))
  let p := inF64 e.2 (fmulVal (f64Val d.1) (f64Val e.1))
  let m2 := inF64 p.2 (faddVal .rn (f64Val u.m2) (f64Val p.1))
  tasteSpent q (tasteTest q { m2.2 with count := c.1, mean := mean.1, m2 := m2.1, merged := u.merged + 1 })

/-- A contribution is taken: a NaN or an infinite value is rejected (R325). -/
def tasteTake (q : TasteParams) (u : Taste) (x : Word) : Taste :=
  if finiteF64 x.toNat then tasteMerge q u x
  else tasteSpent q { u with reject := u.reject + 1, nv := true, merged := u.merged + 1 }

/-- Contributions still held when the state leaves running are late (R326). -/
def tasteLate (u : Taste) : Taste :=
  if u.state = 0 then u else { u with late := u.late + BitVec.ofNat 64 u.held.length, held := [] }

/-- Held contributions are taken while the next position holds one (R326). -/
def tasteDrain (q : TasteParams) : Nat → Taste → Taste
  | 0, u => tasteLate u
  | n + 1, u =>
    if u.state ≠ 0 then tasteLate u
    else
      match mapFind u.held u.merged with
      | some x => tasteDrain q n (tasteTake q { u with held := mapDel u.held u.merged } x)
      | none => u

/-- A contribution at a position (R325, R326). -/
def tasteGive (q : TasteParams) (u : Taste) (slot : Nat) (x : Word) : Taste :=
  let pos := (mapFind u.out slot).getD 0
  let u := { u with out := mapDel u.out slot }
  if u.state ≠ 0 then { u with late := u.late + 1 }
  else if u.ordered then
    let u := { u with held := mapPut u.held pos x }
    tasteDrain q (u.held.length + 1) u
  else tasteLate (tasteTake q u x)

/-! ### Tickets (R324) -/

def tasteStop : Word := 0xFFFFFFFFFFFFFFFF
def ticketOf (q : TasteParams) (pos : Nat) : Word :=
  BitVec.ofNat 64 (tastePerm q.items q.key pos + pos % 4096 * 2 ^ 40)

/-- Grant n tickets, if the positions they need are all below H + 4,096; stop values where the unit has stopped and past
the last position. -/
def tasteGrant (q : TasteParams) (u : Taste) (n : Nat) : Option (List Word × Taste) :=
  if u.state ≠ 0 then some (List.replicate n tasteStop, u)
  else
    let m := min n (q.items - u.issued)
    if m ≠ 0 ∧ tasteH u + 4096 < u.issued + m then none
    else
      let ps := (List.range m).map (u.issued + ·)
      some (ps.map (ticketOf q) ++ List.replicate (n - m) tasteStop,
        { u with issued := u.issued + m, out := ps.foldl (fun o p => mapPut o (p % 4096) p) u.out })

/-- The tasting grid of a group, with its parameters. -/
def tasteOf (s : State) (g : Group) : Option (Nat × TasteParams × Taste) :=
  let i := (teamAt s g.team).node
  let n := nodeAt s i
  match n.taste, n.hdr.taste with
  | some u, some (z, tol, nmin, _) =>
    some (i, { items := n.desc.items, key := n.desc.key.toNat, z, tol, nmin }, u)
  | _, _ => none
def putTaste (s : State) (i : Nat) (u : Taste) : State := updNode s i (fun n => { n with taste := some u })

/-- The lanes that an issue serves: each active lane, or one for the run. -/
def tasteLanes (vec : Bool) (lanes : LaneMask) : List Nat := if vec then lanesOf lanes else [lowLane lanes]

/-- Write the tickets of an issue. -/
def writeTickets (g : Group) (vec : Bool) (d : BitVec 7) (lanes : LaneMask) (ts : List Word) : Group :=
  if vec then writeLanes g (vReg g d) ((lanesOf lanes).zip ts) else sSet g d.toNat (ts.headD 0)

/-- Blocked issues are granted in the order in which they reached the unit (R324). -/
def grantWaiters (i : Nat) : Nat → State → State
  | 0, s => s
  | fuel + 1, s =>
    match (nodeAt s i).taste with
    | none => s
    | some u =>
      match u.waiters with
      | [] => s
      | (gid, lanes) :: rest =>
        let g := groupAt s gid
        let blk := g.blocks.find? (fun b => b.lanes == lanes && (match b.why with
          | .taste _ _ _ => true
          | _ => false))
        match blk, tasteOf s g with
        | some b, some (_, q, _) =>
          (match b.why with
            | .taste vec d ls =>
              match tasteGrant q u (tasteLanes vec ls).length with
              | none => s
              | some (ts, u) =>
                let s := putTaste s i { u with waiters := rest }
                let s := putGroup s gid (writeTickets (groupAt s gid) vec d ls ts)
                grantWaiters i fuel (passBlock s gid b none)
            | _ => s)
        | _, _ => grantWaiters i fuel (putTaste s i { u with waiters := rest })

/-- The issues that are still blocked in taste.next: a run that has left its block for the handler or the supervisor comes to the
unit anew (R289, R324). -/
def liveWaiters (s : State) (u : Taste) : Taste :=
  { u with waiters := u.waiters.filter (fun w => (groupAt s w.1).blocks.any (fun b => b.lanes == w.2 && (match b.why with
      | .taste _ _ _ => true
      | _ => false))) }
/-- Runs have left their blocks: those behind them are granted what they can be. -/
def settleTaste (s : State) (i : Nat) : State :=
  match (nodeAt s i).taste with
  | some u => if u.waiters.isEmpty then s else grantWaiters i u.waiters.length (putTaste s i (liveWaiters s u))
  | none => s

/-! ### The instructions -/

/-- taste.next d (R324). -/
def execTasteNext (x : R3L) (s : State) : Result :=
  issuer s fun f g =>
    let v := seen f g
    let vec := x.a.getLsbD 0
    withRegs f g (if vec then [x.d] else []) s <|
      match tasteOf s g with
      | none => trap f 0x7E 0 s
      | some (i, q, u) =>
        ordered f g [] 0 none s fun s =>
          let u := liveWaiters s u
          let waitHere : Result :=
            let s := putTaste s i { u with waiters := u.waiters ++ [(f.gid, f.lanes)] }
            .next (waitOn f (.taste vec x.d f.lanes) s)
          if u.state = 0 && !u.waiters.isEmpty then waitHere
          else
            match tasteGrant q u (tasteLanes vec f.lanes).length with
            | none => waitHere
            | some (ts, u) =>
              let g' := if vec then writeLanes g (vReg v x.d) ((lanesOf f.lanes).zip ts) else sSet g x.d.toNat (ts.headD 0)
              done f g' (putTaste s i u)

/-- A lane's ticket is outstanding with its item, given the slots freed so far (R325). -/
def ticketOk (q : TasteParams) (u : Taste) (freed : List Nat) (t : Word) : Bool :=
  let item := bitsOf t.toNat 0 40
  let slot := bitsOf t.toNat 40 12
  decide (t.toNat < 2 ^ 52) && decide (item < q.items) && !freed.contains slot &&
    (match mapFind u.out slot with
      | some p => tastePerm q.items q.key p == item
      | none => false)

/-- All tickets are good, each after the slots of the lower lanes are freed. -/
def ticketsOk (q : TasteParams) (u : Taste) : List Nat → List Word → Bool
  | _, [] => true
  | freed, t :: ts => ticketOk q u freed t && ticketsOk q u (bitsOf t.toNat 40 12 :: freed) ts

/-- taste.add a, b (R325). -/
def execTasteAdd (x : R3L) (s : State) : Result :=
  issuer s fun f g =>
    let v := seen f g
    let vec := x.d.getLsbD 0
    withRegs f g (if vec then [x.a, x.b] else []) s <|
      match tasteOf s g with
      | none => trap f 0x7E 0 s
      | some (i, q, u) =>
        let ls := tasteLanes vec f.lanes
        let ts := ls.map (readReg vec v x.a)
        if !ticketsOk q u [] ts then trap f 0x7F 0 s
        else
          ordered f g [] 0 none s fun s =>
            let u := (ls.zip ts).foldl (fun u e => tasteGive q u (bitsOf e.2.toNat 40 12) (readReg vec v x.b e.1)) u
            let s := updGroup (putTaste s i u) f.gid (retire f)
            .next (unfocus (grantWaiters i (u.waiters.length + 1) s))

/-- taste.stat sD, sel (R327). -/
def execTasteStat (x : R3L) (s : State) : Result :=
  issuer s fun f g =>
    match tasteOf s g with
    | none => trap f 0x7E 0 s
    | some (_, _, u) =>
      if 7 ≤ x.b.toNat then trap f 0x7F 0 s else done f (sSet g x.d.toNat (tasteReg u x.b.toNat)) s

/-- The unit at a node's start (R322). -/
def tasteStart (h : Header) : Taste := { ordered := (h.taste.map (·.2.2.2)).getD false }

end Sys2Proof.Machine
end

