-- ==== Sys2Proof/Machine/Image.lean ====
section
/-! DEFINITION. The image of a group (21 R295, 09 R145, 05 R69-R71): its bytes, full or by a liveness word, what a restore
takes from it, and gsave and grest. -/

namespace Sys2Proof.Machine

/-! ### Liveness words (R69) -/

def liveVoct (w : BitVec 32) (k : Nat) : Bool := w.getLsbD (16 + k)
def liveUblk (w : BitVec 32) (j : Nat) : Bool := w.getLsbD (8 + j)
def livePrs (w : BitVec 32) : Bool := w.getLsbD 4
def liveTxw (w : BitVec 32) : Bool := w.getLsbD 3
def liveRep : BitVec 32 := 4
def liveCb (w : BitVec 32) : Bool := w.getLsbD 1
def livePred (w : BitVec 32) : Bool := w.getLsbD 0

/-- Whether lane-register j of the allotment is named, the octets being relative to WINBASE (R295). -/
def liveReg (g : Group) (w : BitVec 32) (j : Nat) : Bool :=
  decide (g.winbase.toNat ≤ j ∧ j < g.winbase.toNat + 128) && liveVoct w ((j - g.winbase.toNat) / 8)

/-- What a restore by liveness words leaves of a group (R70): the named parts, everything else zero. -/
def keepLive (w : BitVec 32) (g : Group) : Group :=
  { g with
    vregs := mapKeep g.vregs (fun i _ => liveReg g w (i / 32))
    sregs := mapKeep g.sregs (fun n _ => liveUblk w (n / 16))
    preds := if livePred w then g.preds else []
    codebook := if liveCb w then g.codebook else [] }

/-! ### The image's bytes -/

/-- One bit for each latched cause code (R289). -/
def latchedWord (g : Group) : Nat := g.latched.foldl (fun n c => Nat.lor n (2 ^ c.code)) 0

/-- Words as bytes. -/
def wordBytes (ws : List Word) : List Byte := (ws.map (fun w => leBytes 8 w.toNat)).flatten

/-- The control state at 0x000-0x13F. -/
def controlBytes (g : Group) : List Byte :=
  wordBytes ((List.range 32).map (fun l => (pcGet g l).zeroExtend 64)) ++
  wordBytes [g.exited.zeroExtend 64, repWord g.rep, g.winbase.zeroExtend 64, g.sticky.zeroExtend 64,
    g.stale.zeroExtend 64, g.cause, g.epc, g.trapbase]

/-- Bytes of an image. -/
def imageSize (g : Group) : Nat := 0x600 + 256 * g.allot

/-- The parts of an image with their offsets: full, or those that a liveness word names. -/
def imageParts (full : Bool) (w : BitVec 32) (g : Group) : List (Nat × List Byte) :=
  let part := fun (on : Bool) (off : Nat) (bs : List Byte) => if full || on then [(off, bs)] else []
  [(0, controlBytes g)] ++
  part (livePred w) 0x140 (wordBytes ((List.range 7).map (fun i => (mapGet 0 g.preds (i + 1)).zeroExtend 64))) ++
  [(0x178, leBytes 8 (g.allot / 8 + (if full then 2 ^ 16 else w.toNat * 2 ^ 32)))] ++
  part (liveCb w) 0x180 ((cbList g).map (leBytes 2)).flatten ++
  [(0x1A0, leBytes 32 (latchedWord g))] ++
  part false 0x1C0 (List.replicate 64 0) ++
  ((List.range 8).map (fun j => part (liveUblk w j) (0x200 + 128 * j) (wordBytes (mapGetList 0 g.sregs (16 * j) 16)))).flatten ++
  ((List.range g.allot).map (fun j =>
    part (liveReg g w j) (0x600 + 256 * j) (wordBytes (mapGetList 0 g.vregs (32 * j) 32)))).flatten

/-- The full image. -/
def fullImage (g : Group) : List Byte := ((imageParts true 0 g).map (·.2)).flatten

/-! ### Reading an image -/

/-- The words of some bytes. -/
def wordsFrom (bs : List Byte) (off n : Nat) : List Word :=
  (List.range n).map (fun i => BitVec.ofNat 64 (fieldOf bs (off + 8 * i) 8))

/-- The causes that an image lists; one that the group had keeps its INFO. -/
def latchedFrom (g : Group) (n : Nat) : List Latched :=
  ((List.range 256).filter (fun c => n.testBit c)).map (fun c =>
    (g.latched.find? (fun x => x.code == c)).getD { code := c, info := 0, sup := supCause c })

/-- The allotment that an image records, in lane-registers. -/
def imageAllot (bs : List Byte) : Nat := 8 * bitsOf (fieldOf bs 0x178 8) 0 10

/-- A group with the state that an image gives it (R295, R145): a liveness image's named parts, everything else zero. -/
def fromImage (g : Group) (bs : List Byte) : Group :=
  let word := fun (i : Nat) => (BitVec.ofNat 64 (fieldOf bs (0x100 + 8 * i) 8) : Word)
  let h := fieldOf bs 0x178 8
  let rep := word 1
  let x := { g with
    pcs := mapSetList 0 [] 0 ((wordsFrom bs 0 32).map (fun w => w.setWidth 56))
    exited := (word 0).setWidth 32
    rep := { lanes := rep.extractLsb' 32 32, active := rep.getLsbD 6, next := rep.setWidth 6 }
    winbase := (word 2).setWidth 9, sticky := (word 3).setWidth 6, stale := (word 4).setWidth 32
    cause := word 5, epc := word 6 &&& epcMask, trapbase := word 7 &&& (trapbaseMask ||| 2)
    preds := mapSetList 0 [] 1 ((wordsFrom bs 0x140 7).map (fun w => w.setWidth 32))
    codebook := mapSetList 0 [] 0 ((List.range 16).map (fun i => BitVec.ofNat 16 (fieldOf bs (0x180 + 2 * i) 2)))
    latched := latchedFrom g (fieldOf bs 0x1A0 32)
    sregs := mapSetList 0 [] 0 (wordsFrom bs 0x200 128)
    vregs := mapSetList 0 [] 0 (wordsFrom bs 0x600 (32 * g.allot))
    hlanes := if !(word 7).getLsbD 1 then 0 else if g.hlanes = 0 then ~~~(word 0).setWidth 32 else g.hlanes
    blocks := [], barriers := [], pends := [], ages := [], skipBp := 0, safeStop := 0, promoted := 0 }
  if bitsOf h 16 1 = 1 then x else keepLive (BitVec.ofNat 32 (bitsOf h 32 32)) x

/-- Whether a restore reads the byte at an offset of an image: the parts that a liveness image does not name are not
read. -/
def imageReads (bs : List Byte) (g : Group) (i : Nat) : Bool :=
  let h := fieldOf bs 0x178 8
  let shape := imageParts (bitsOf h 16 1 == 1) (BitVec.ofNat 32 (bitsOf h 32 32))
    { g with winbase := BitVec.ofNat 9 (fieldOf bs 0x110 8) }
  shape.any (fun q => decide (q.1 ≤ i ∧ i < q.1 + q.2.length))

/-! ### Locators -/

/-- The group slot of a locator that names a stopped group of the partition (R295, R298). -/
def stoppedAt (s : State) (p : Nat) (loc : Nat) : Option (Nat × Group) :=
  let gid := bitsOf loc 0 9 * 64 + bitsOf loc 9 6
  match mapFind s.groups gid with
  | some g => if decide (loc < 2 ^ 15) && g.stopped.isSome && decide (ctxPart (groupCtx s g) = p) then some (gid, g) else none
  | none => none

/-! ### gsave and grest -/

/-- The accesses of an image, by pages. -/
def imageChecks (s : State) (f : Focus) (g : Group) (w : Bool) (va n : Nat) : List (Acc × Except Nat Trans) :=
  (piecesOf va n).map (fun pc =>
    ({ lanes := f.lanes, lane := lowLane f.lanes, addr := pc.1 },
      globalCheck s (gidCore f.gid) (groupCtx s g) { write := w } 256 pc.1 pc.2))

/-- What both instructions do first: the context, the locator, whose group's windows have closed. -/
def imageOp (x : R3L) (s : State) (k : Focus → Group → Nat → Nat → Group → Result) : Result :=
  issuer s fun f g =>
    let v := seen f g
    let va := (sGet v x.a.toNat).toNat
    let loc := (sGet v x.b.toNat).toNat
    if ctxNum (groupCtx s g) ≠ 0 then trap f 0x08 0 s
    else
      match stoppedAt s (ctxPart (groupCtx s g)) loc with
      | none => trap f 0x94 (loc % 2 ^ 56) s
      | some (gid, t) => if (pendsOf t 0xFFFFFFFF).isEmpty then k f g va gid t else waits f .operand s

/-- gsave [sA], sB: the full image as stores; the instruction is done when they have been accepted (wakeRuns), and issues again
where a latched cause takes its run before (R289). -/
def execGsave (x : R3L) (s : State) : Result :=
  imageOp x s fun f g va _ t =>
    let n := imageSize t
    ordered f g [{ lanes := f.lanes, lane := lowLane f.lanes, addr := va }] n none s fun s =>
      let chk := imageChecks s f g true va n
      withChecks f (failures chk) s <|
        withZeroFrames f g (passed chk) s fun s =>
          let bs := fullImage t
          let s := { s with fresh := s.fresh + 1 }
          let cover := s.fresh - 1
          let s := (List.range (n / 128)).foldl (fun s i =>
            let a := va + 128 * i
            match (passed chk).find? (fun e => transCovers e.2 (groupCtx s g) a) with
            | some e => addStore s f g 128 false cover cover ((bs.drop (128 * i)).take 128) { e.1 with addr := a } e.2
            | none => s) s
          let s := fillTlb s (gidCore f.gid) (passed chk)
          waits f .stored s

/-- A byte as a load of a group's core reads it: the L1 copy of its line, a proxy slice's with the L1's dirty bytes over it,
what a SHADOW page keeps, or its home. -/
def coreByte (s : State) (gid k : Nat) (t : Trans) (va : Nat) : PByte :=
  let pa := transPa t va
  let at_ := fun (c : Copy) => (c.data.getD (pa % 128) 0, c.poison)
  let home := (readLoc s k (coreDie (gidCore gid)) {} (.glob va)).getD (0, true)
  let manual := remoteManual (gidCore gid) t.attr pa
  let copy := copyAt (coreAt s (l1Core s gid pa)).l1 (lineOf pa)
  if t.attr.zero then home
  else
    match copy.filter (fun c => c.manual == manual && (c.gen == t.gen || c.mask.getLsbD (pa % 128))) with
    | some c => at_ c
    | none =>
      if manual then ((proxyAt s (coreDie (gidCore gid)) (lineOf pa)).map at_).getD home
      else if t.attr.shadow then ((mapFind s.mem.shadows (lineOf pa)).map at_).getD home
      else home

/-- A store of the group's core that has not been accepted touches a range that a grest reads. -/
def imageStores (s : State) (f : Focus) (g : Group) (k va n : Nat) : Bool :=
  let r := newReq s f g f.lanes va n {
    ctx := k, va, size := n, pa := 0, attr := {}, gen := 0 } .load
  s.reqs.any (fun q => isStore q && q.stage != .accepted && samePoint s q r && q.ctx == k && overlaps q.va q.size va n)

/-- grest [sA], sB: the image is read as loads of the issuing core; the stopped group takes its state and stays
stopped. -/
def execGrest (x : R3L) (s : State) : Result :=
  imageOp x s fun f g va gid t =>
    let n := imageSize t
    let k := groupCtx s g
    ordered f g [{ lanes := f.lanes, lane := lowLane f.lanes, addr := va }] n none s fun s =>
      if (reqsOn s g.uid f.lanes k va n).any (fun r => r.stage != .accepted) || imageStores s f g k va n then waits f .operand s
      else
        let chk := imageChecks s f g false va n
        withChecks f (failures chk) s <|
          let sleep := (((piecesOf va n).map (·.1)).filterMap (pieceAsleep s k)).dedup
          if !sleep.isEmpty then waits f .operand (sleep.foldl wakeBin s)
          else
            let bs := (List.range n).map (fun i =>
              match (passed chk).find? (fun e => transCovers e.2 k (va + i)) with
              | some e => coreByte s f.gid k e.2 (va + i)
              | none => (0, true))
            let img := bs.map (·.1)
            match (bs.zipIdx).find? (fun b => b.1.2 && imageReads img t b.2) with
            | some b => trap f 0xB1 ((va + b.2) / 128 * 128) s
            | none =>
              if imageAllot img ≠ t.allot then trap f 0x94 ((sGet (seen f g) x.b.toNat).toNat % 2 ^ 56) s
              else
                let s := readLocs (putGroup s gid (fromImage t img)) k ((List.range (n / 128)).map (fun i => .glob (va + 128 * i)))
                doneIn f (fillTlb s (gidCore f.gid) (passed chk))

end Sys2Proof.Machine
end

