-- ==== Sys2Proof/Machine/Leaving.lean ====
section
/-! DEFINITION. The end of work: exit (09 R129), a group leaving its quadrant and a team its core (09 R130, 01 R19), the
completion of a node and its record (23 R310, R328), and a node that fails by an input (R310). -/

namespace Sys2Proof.Machine

/-! ### exit -/

/-- Lanes exit. When the handler's lanes have all exited, HMODE falls and the held runs go on (R288). REPCTR names only unexited
lanes: a handler that was entered inside a repeat may exit (R144). -/
def exitLanes (lanes : LaneMask) (g : Group) : Group :=
  let left := g.rep.lanes &&& ~~~lanes
  let g := { g with exited := g.exited ||| lanes, rep := if left = 0 then {} else { g.rep with lanes := left } }
  if hmode g && !meets g.hlanes (~~~g.exited) then
    { g with trapbase := g.trapbase &&& ~~~2, hlanes := 0, pends := g.pends.map (fun p => { p with held := false }) }
  else g

/-- What the exit of a group's lanes lets go: its own barriers (R129), the Ridge network's (R319), eaves counters (R321). -/
def afterExit (s : State) (gid : Nat) : State :=
  let s := releaseBarriers 32 gid s
  let g := groupAt s gid
  if g.exited = 0xFFFFFFFF then
    let t := teamAt s g.team
    wakeLead (advanceAll s g.team g.uid) t.node t.cluster
  else s

/-- exit. -/
def execExit (_x : R3L) (s : State) : Result :=
  issuer s fun f g =>
    let g := exitLanes f.lanes { countWindow f.lanes g with skipBp := g.skipBp &&& ~~~f.lanes }
    .next (afterExit (unfocus (putGroup s f.gid g)) f.gid)

/-! ### Latched causes (R289, R374) -/

/-- The run that takes a latched cause: the eligible run with the lowest entry, or, when every run is blocked, the
blocked run with the lowest entry (R289); none before the requests that a resume performs first (R298, R374). -/
def latchTaker (s : State) (gid : Nat) (g : Group) : Option LaneMask :=
  if g.blocks.any (fun b => b.why == .held && blockHolds s gid g b) then none
  else
  match runsOf s gid g with
  | r :: _ => some r.lanes
  | [] =>
    let all := (if hmode g then g.hlanes else 0xFFFFFFFF) &&& ~~~g.exited
    (leastBy (fun b => b.pc.toNat) (g.blocks.filter (fun b => meets b.lanes all))).map (·.lanes)

/-- The latched causes that a group takes now: all of them, in its handler those of the supervisor (R289, R374). -/
def latchReady (g : Group) : List Latched := g.latched.filter (fun c => c.sup || !hmode g)
/-- Whether a group has a latched cause to take now. -/
def latchDue (g : Group) : Bool := !(latchReady g).isEmpty && g.stopped.isNone

/-- A latched cause is delivered: the lowest code first, with EPC at the taking run's counter (R289, R374). -/
def execLatchedCauseDelivery (gid : Nat) (s : State) : Result :=
  match mapFind s.groups gid with
  | none => .fault .notEnabled
  | some g =>
    match latchDue g, leastBy (·.code) (latchReady g), latchTaker s gid g with
    | true, some c, some lanes =>
      if !(pendsOf g lanes).isEmpty then .fault .notEnabled
      else
        let s := putGroup s gid { g with latched := g.latched.erase c }
        let epc := epcWord (pcGet g (lowLane lanes)) none
        let s := if c.sup then stopGroup s gid lanes (causeWord c.code c.info) epc false
          else takeTrap s gid lanes c.code c.info epc
        .next (settleTaste s (teamAt s g.team).node)
    | _, _, _ => .fault .notEnabled

/-! ### GROUP_LEAVE -/

/-- Everything a group has issued has been accepted (R130). -/
def groupDrained (s : State) (g : Group) : Bool :=
  g.pends.isEmpty &&
    !(s.reqs.any (fun r => r.uid == g.uid && (isStore r || isAtom r || isWb r) && r.stage != .accepted)) &&
    !(s.xfers.any (fun x => x.uid == g.uid && x.stage == 0 && x.op.isNone)) &&
    !(s.edits.any (fun e => e.uid == g.uid && !e.committed))

/-- A team whose last group has left: it leaves its core, with its reservations kept while locks name them. The slot and the
allotment of each group were free when that group left (R130; DEDUCED beside R19, log entry 43). -/
def teamLeaves (s : State) (t : Nat) : State :=
  if s.groups.any (fun e => e.2.team == t) then s
  else
    let s := updTeam s t (fun x => { x with gone := true, slots := [], bases := [], preemptAt := none })
    reapTeams (endFusion s (teamAt s t))

/-- GROUP_LEAVE (R130). What the group wrote to MANUAL pages has moved to the proxy slices (R204, R314, R319). -/
def execGroupLeave (gid : Nat) (s : State) : Result :=
  match mapFind s.groups gid with
  | none => .fault .notEnabled
  | some g =>
    if g.exited != 0xFFFFFFFF || !groupDrained s g || g.stopped.isSome then .fault .notEnabled
    else
      let t := teamAt s g.team
      let s := drainL1 s (l1Cores s gid)
      let s := { s with groups := mapDel s.groups gid }
      let s := wakeLead (advanceAll s g.team g.uid) t.node t.cluster
      .next (teamLeaves s g.team)

/-! ### Completion of a node -/

/-- Every team of a node has left its core or will never be placed (R310). -/
def nodeLeft (s : State) (n : Node) : Bool :=
  decide (n.desc.teams ≤ n.nextCluster * (n.hdr.cw * n.hdr.ch)) && (nodeGroups s n.uid).isEmpty

/-- Every operation that a node's groups issued has completed. -/
def nodeQuiet (s : State) (n : Node) : Bool :=
  !s.ops.any (fun o => n.uids.contains o.uid) && !s.xfers.any (fun x => n.uids.contains x.uid) &&
    !s.edits.any (fun e => n.uids.contains e.uid && !editDone e e.scope)

/-- OUTCOME (R322). -/
def nodeOutcome (n : Node) : Nat := if !n.failed then 0 else if n.expiredAt.isSome then 1 else 2

/-- The completion record (R328). -/
def nodeRecord (n : Node) : List Byte :=
  if n.desc.taste then
    let u := { (n.taste.getD (tasteStart n.hdr)) with outcome := nodeOutcome n }
    ([6, 0, 1, 2, 3, 4, 5].map (fun i => leBytes 8 (tasteReg u i).toNat)).flatten ++ List.replicate 8 0
  else leBytes 8 (nodeOutcome n) ++ List.replicate 56 0

/-- The record is written at RESULT as stores of the Trellis; a page that fails its checks is left out. -/
def writeRecord (s : State) (n : Node) : State :=
  let va := n.desc.result
  if va = 0 then s
  else
    match winCheck s n.ctx true va with
    | some _ => s
    | none => writePiece s n.ctx va (pbytes (nodeRecord n) false)

/-- A node's table entry is freed: its constant-cache lines and a sector kept for it go with it. -/
def freeNode (s : State) (n : Node) : State :=
  let s := { s with
    nodes := mapDel s.nodes n.uid
    cores := mapAll s.cores (fun _ c => { c with cc := c.cc.filter (fun l => l.node != n.uid) }) }
  updCtx s n.ctx (fun c => { c with
    waitFor := if (c.waitFor.map (·.1)) = some n.uid then none else c.waitFor
    sectors := mapDel c.sectors n.uid })

/-- The steps of a completion, in order (R310). -/
def completeNode (s : State) (n : Node) : State := freeNode (tilesDone (writeRecord s n) n) n

/-- The pages of the record and their bins. -/
def withRecord (s : State) (n : Node) (r : Result) : Result :=
  if n.desc.result = 0 then r
  else whenAwake s (pieceAsleep s n.ctx n.desc.result).toList (withFrames s n.ctx [n.desc.result] r)

/-- NODE_COMPLETE. -/
def execNodeComplete (node : Nat) (s : State) : Result :=
  match mapFind s.nodes node with
  | none => .fault .notEnabled
  | some n =>
    if !n.started || !nodeLeft s n || !nodeQuiet s n || (ctxAt s n.ctx).kill.isSome then .fault .notEnabled
    else withRecord s n (.next (completeNode s n))

/-- NODE_FAIL_INPUT: the node completes as failed when it would become eligible, and the supervisor and the host are
told; with the host's ring full it waits for room (R310, R362). -/
def execNodeFailInput (node : Nat) (s : State) : Result :=
  match mapFind s.nodes node with
  | none => .fault .notEnabled
  | some n =>
    if n.started || n.failed || !failInput s n || !eligible s n || (ctxAt s n.ctx).kill.isSome || boxFull s (ctxPart n.ctx) then
      .fault .notEnabled
    else
      withRecord s n <|
        let n := { n with failed := true }
        let s := postNoGroup (putNode s node n) n.ctx 0x98 n.seq.toNat
        let s := sendMsg s (ctxPart n.ctx) { kind := 4, ctx := ctxNum n.ctx, tag := 0, va := 0, d0 := n.seq, d1 := 0 }
        .next (completeNode s n)

end Sys2Proof.Machine
end

