-- ==== Sys2Proof/Machine/Placement.lean ====
section
/-! DEFINITION. Placement (01 R18-R26, 23 R309, R315, R316): which cores a team or a cluster fits, what it takes there, the
order in which the Trellis serves contexts and nodes, restoring a saved cluster (21 R301, 19 R277), and the wait for a
sector. -/

namespace Sys2Proof.Machine

/-! ### What a core holds (R14, R21, R24, R26) -/

/-- The teams whose reservations stand on a core, departed ones with a lock among them (R130). -/
def coreTeams (s : State) (c : Nat) : List Team := (s.teams.filter (fun e => e.2.core == c)).map (·.2)
/-- No resident team and no reservation (R23). -/
def coreIdle (s : State) (c : Nat) : Bool := (coreTeams s c).isEmpty

/-- The lowest numbers below a bound that are not taken. -/
def lowestFree (bound : Nat) (taken : List Nat) (n : Nat) : Option (List Nat) :=
  let l := ((List.range bound).filter (fun i => !taken.contains i)).take n
  if l.length = n then some l else none

/-- The first free run of lane-registers that begins at a multiple of 8 (R21). -/
def freeRun (taken : List (Nat × Nat)) (allot : Nat) : Option Nat :=
  ((List.range 256).map (· * 8)).find? (fun b =>
    decide (b + allot ≤ 2048) && !taken.any (fun t => overlaps b allot t.1 t.2))

/-- Runs for n groups, one after another. -/
def freeRuns (allot : Nat) : Nat → List (Nat × Nat) → Option (List Nat)
  | 0, _ => some []
  | n + 1, taken =>
    match freeRun taken allot with
    | none => none
    | some b => (freeRuns allot n ((b, allot) :: taken)).map (b :: ·)

/-- The groups resident on a core, with their slots: a group that has left has freed its slot and its allotment (R130). -/
def coreGroups (s : State) (c : Nat) : List (Nat × Group) :=
  (s.groups.filter (fun e => gidCore e.1 == c)).map (fun e => (gidSlot e.1, e.2))
/-- The allotments that the groups of a core hold. -/
def takenRuns (s : State) (c : Nat) : List (Nat × Nat) := (coreGroups s c).map (fun e => (e.2.base, e.2.allot))

/-- What a team takes on a core: bank roles, slots, allotments, granules. -/
structure Seat where
  role : Word
  slots : List Nat
  bases : List Nat
  scratch : List Nat
  opbuf : List Nat
  deriving DecidableEq, Repr

/-- The seat of a team of a header on a core, where it fits (R23, R24). -/
def seatOn (s : State) (h : Header) (c : Nat) : Option Seat :=
  let ts := coreTeams s c
  let core := coreAt s c
  let role := if ts.isEmpty && !core.pin then bankroleOf h else core.bankrole
  if (roleBanks role 0).length < h.l1 ∨ 16 ≤ (ts.filter (fun t => !t.gone)).length then none
  else
    match lowestFree 64 ((coreGroups s c).map (·.1)) h.groups, freeRuns h.allot h.groups (takenRuns s c),
      lowestFree (roleGranules role 1) (ts.map (·.scratch)).flatten h.scratch,
      lowestFree (roleGranules role 2) (ts.map (·.opbuf)).flatten h.opbuf with
    | some slots, some bases, some scratch, some opbuf => some { role, slots, bases, scratch, opbuf }
    | _, _, _, _ => none

/-! ### What a node would place next (R315) -/

/-- The next team or cluster of a node: a saved one or a new one. -/
inductive Unplaced where
  | saved (cluster : Nat)
  | fresh (cluster : Nat)
  deriving DecidableEq, Repr

/-- The saved teams of a cluster of a node. -/
def savedOf (s : State) (n cluster : Nat) : List SavedTeam :=
  s.saved.filter (fun x => x.team.node == n && x.team.cluster == cluster)
/-- No team of a cluster is still resident, so that it can be restored whole (R317). -/
def clusterAway (s : State) (n cluster : Nat) : Bool :=
  !s.teams.any (fun e => e.2.node == n && e.2.cluster == cluster && !e.2.gone)

/-- Saved teams come before unplaced ones (R315), each in the order of their clusters (R316). -/
def nextUnit (s : State) (n : Node) : Option Unplaced :=
  match leastBy (·.team.cluster) (s.saved.filter (fun x => x.team.node == n.uid && clusterAway s n.uid x.team.cluster)) with
  | some x => some (.saved x.team.cluster)
  | none => if n.nextCluster * (n.hdr.cw * n.hdr.ch) < n.desc.teams then some (.fresh n.nextCluster) else none

/-- Insert a node: descending PRIO, then ascending sequence. -/
def insertNode (n : Node) : List Node → List Node
  | [] => [n]
  | x :: xs =>
    if x.desc.prio < n.desc.prio ∨ (x.desc.prio = n.desc.prio ∧ n.seq.toNat < x.seq.toNat) then n :: x :: xs
    else x :: insertNode n xs

/-- The nodes of a context that have something to place, in the order in which they are taken. -/
def nodeOrder (s : State) (k : Nat) : List Node :=
  ((liveNodes s k).map (·.2)).foldl (fun l n =>
    if (nextUnit s n).isSome && n.expiredAt.isNone && !n.failed && (n.started || (eligible s n && !failInput s n)) then
      insertNode n l
    else l) []

/-! ### Where it fits (R316) -/

def rectInSector (w h c : Nat) : Bool := decide (c % 28 % 4 + w ≤ 4 ∧ c % 28 / 4 + h ≤ 7)

/-- A saved team's Press entries find room on a core (R277). -/
def entriesFit (s : State) (x : SavedTeam) (c : Nat) : Bool := engineRoom s c true 0 [] &&
  decide (((coreAt s c).locks.filter (fun l => !l.cont)).length + (x.locks.filter (fun l => !l.cont)).length ≤ 96) &&
  decide ((s.ops.filter (fun o => o.core == c && o.press)).length + x.ops.length ≤ 32)

/-- Whether rank r of the unit fits a core. -/
def rankFits (s : State) (n : Node) (u : Unplaced) (r c : Nat) : Bool :=
  match u with
  | .fresh _ => (seatOn s n.hdr c).isSome
  | .saved k =>
    match (savedOf s n.uid k).find? (fun x => x.team.rank == r) with
    | some x => (seatOn s n.hdr c).isSome && (x.ops.isEmpty || entriesFit s x c)
    | none => true

/-- The fitting rectangle with the lowest corner. -/
def whereFits (s : State) (n : Node) (u : Unplaced) (avoid : List Nat) : Option Nat :=
  let p := ctxPart n.ctx
  (List.range 336).find? (fun c =>
    rectInSector n.hdr.cw n.hdr.ch c && !avoid.contains (coreSector c) &&
      (n.desc.diemask == 0 || n.desc.diemask.getLsbD (coreDie c)) &&
      (let cs := rectCores n.hdr.cw n.hdr.ch c
       (List.range cs.length).all (fun r => coreOwned s p (cs.getD r 0) && rankFits s n u r (cs.getD r 0))))

/-- The sectors that a node must leave alone for other nodes of its context (R315). -/
def keptFrom (s : State) (n : Node) : List Nat :=
  ((ctxAt s n.ctx).sectors.filter (fun e => e.1 != n.uid)).map (·.2)

/-- Where a node's next team or cluster fits now. -/
def nodeFits (s : State) (n : Node) : Option (Unplaced × Nat) :=
  match nextUnit s n with
  | none => none
  | some u => (whereFits s n u (keptFrom s n)).map (fun c => (u, c))

/-! ### Turns (R315) -/

/-- What a context would place now. -/
def ctxChoice (s : State) (k : Nat) : Option (Node × Unplaced × Nat) :=
  if (ctxAt s k).kill.isSome then none
  else (nodeOrder s k).findSome? (fun n => (nodeFits s n).map (fun x => (n, x.1, x.2)))

/-- The contexts of a partition that hold nodes, ascending. -/
def partCtxs (s : State) (p : Nat) : List Nat :=
  (s.nodes.filter (fun e => ctxPart e.2.ctx == p)).foldl (fun l e => insertNat l e.2.ctx) []

/-- The order in which the contexts are served: the one whose turn runs while teams are left in it, then the next ones. -/
def serveOrder (s : State) (p : Nat) : List Nat :=
  let x := partAt s p
  let l := partCtxs s p
  let last := 256 * p + x.lastCtx
  (if x.turn = 0 then [] else l.filter (· == last)) ++ l.filter (fun k => decide (last < k)) ++ l.filter (fun k => decide (k ≤ last))

/-- The placement that comes next in a partition. -/
def partChoice (s : State) (p : Nat) : Option (Node × Unplaced × Nat) :=
  if partStill s p then none else (serveOrder s p).findSome? (ctxChoice s)

/-! ### Placing (R19, R23, R26, R309) -/

/-- A core receives a team: an empty core's roles and L1 follow the header (R23), and every clean line is dropped (R309). As a
member of a fused cluster it drops every line, dirty bytes moving to the proxy slices, for lines get new L1 homes (R193). -/
def prepareCore (s : State) (c : Nat) (fuse : Bool) (seat : Seat) : State :=
  let s := if fuse then drainL1 s [c] else s
  if coreIdle s c then
    let s := drainL1 s [c]
    updCore s c (fun x => { x with bankrole := seat.role, l1 := if x.bankrole = seat.role then x.l1.filter (fun l => l.mask != 0) else [] })
  else dropClean s c

/-- Tags that earlier teams left in a team's granules are gone. -/
def clearTags (s : State) (t : Nat) : State :=
  let tm := teamAt s t
  let gone := ((List.range (tm.scratch.length * 128)).filterMap (fun i => sramGranule s tm false (32 * i))) ++
    ((List.range (tm.opbuf.length * 128)).filterMap (fun i => sramGranule s tm true (32 * i)))
  { s with sram := { s.sram with tags := s.sram.tags.filter (fun a => !gone.contains a) } }

/-- A new group of a node (R309). -/
def newGroup (s : State) (n : Node) (t i base : Nat) : Group :=
  let entry : Pc := BitVec.ofNat 56 (n.desc.kernel + n.hdr.entry)
  { uid := s.fresh, team := t, groupId := i, base, allot := n.hdr.allot, sregs := mapSet 0 [] 0 n.desc.arg
    pcs := (List.range 32).foldl (fun m l => mapSet 0 m l entry) []
    trapbase := (ctxAt s n.ctx).ctxtrap &&& ~~~2, lastSel := s.fresh }

/-- A new team of a node on a core. -/
def placeTeam (s : State) (n : Node) (cluster rank c : Nat) : State :=
  match seatOn s n.hdr c with
  | none => s
  | some seat =>
    let uid := s.fresh
    let t : Team := { uid, node := n.uid, teamId := cluster * (n.hdr.cw * n.hdr.ch) + rank, rank, cluster, core := c
                      slots := seat.slots, bases := seat.bases, scratch := seat.scratch, opbuf := seat.opbuf, placedAt := uid }
    let s := prepareCore { s with fresh := uid + 1 } c n.hdr.fuse seat
    let s := clearTags (putTeam s uid t) uid
    (List.range seat.slots.length).foldl (fun s i =>
      let g := newGroup s n uid i (seat.bases.getD i 0)
      putGroup { s with fresh := s.fresh + 1 } (64 * c + seat.slots.getD i 0) g) s

/-- A node starts with its first team (R309, R322); new groups become placed members of its grid barriers (R318). -/
def startNode (s : State) (n : Node) : State :=
  let all := (nodeGroups s n.uid).filter (fun u => !n.uids.contains u)
  updNode s n.uid (fun x => { x with
    started := true
    taste := if x.desc.taste && x.taste.isNone then some (tasteStart x.hdr) else x.taste
    uids := x.uids ++ all
    nextCluster := x.nextCluster + 1
    bars := mapAll x.bars (fun _ b => { b with unplaced := b.unplaced - all.length, members := b.members ++ all }) })

/-- Put back bytes and marks of a saved team's space. -/
def restoreSpace (s : State) (t : Nat) (ob : Bool) (bytes : SMap Byte) (x : SavedTeam) : State :=
  let tm := teamAt s t
  let n := teamBytes tm ob
  let s := sramWrite s tm ob 0 (mapGetList 0 bytes 0 n)
  let sp := sramSpace ob
  let s := (List.range (n / 32)).foldl (fun s i =>
    setPoison s (x.poison.contains (sp, i)) (sramGranule s tm ob (32 * i))) s
  (x.tags.filter (fun e => e.1 == sp)).foldl (fun s e => setLive s true (sramGranule s tm ob (32 * e.2))) s

/-- Room has come free in a context's save area: pre-emptions that found none may be asked again (R317). -/
def roomAgain (s : State) (k : Nat) : State :=
  { s with teams := mapAll s.teams (fun _ t => if (nodeAt s t.node).ctx = k then { t with noRoom := false } else t) }

/-- A saved team on a core (R301, R277): its groups as their images give them, its spaces, its Press entries. -/
def restoreTeam (s : State) (h : Header) (x : SavedTeam) (c : Nat) : State :=
  match seatOn s h c with
  | none => s
  | some seat =>
    let t := { x.team with
      core := c, slots := seat.slots, bases := seat.bases, scratch := seat.scratch, opbuf := seat.opbuf, placedAt := s.fresh
      preemptAt := none, noRoom := false }
    let s := prepareCore { s with saved := s.saved.filter (fun y => y.uid != x.uid) } c h.fuse seat
    let s := clearTags (putTeam s x.uid t) x.uid
    let s := restoreSpace (restoreSpace s x.uid false x.scratch x) x.uid true x.opbuf x
    let s := (x.groups).foldl (fun s g =>
      let g := { g with base := seat.bases.getD g.groupId 0, lastSel := s.fresh }
      putGroup { s with fresh := s.fresh + 1 } (64 * c + seat.slots.getD g.groupId 0) g) s
    let gidOf := fun (u : Nat) => 64 * c + seat.slots.getD (((x.groups.find? (fun g => g.uid == u)).map (·.groupId)).getD 0) 0
    let ops := x.ops.map (fun o => { o with core := c, gid := gidOf o.uid })
    updCore { s with ops := s.ops ++ ops } c (fun k => { k with locks := k.locks ++ x.locks })

/-- A placement ends a node's wait and its hold on a sector (R315). -/
def endWait (s : State) (k n : Nat) : State :=
  updCtx s k (fun c => { c with
    waitFor := if (c.waitFor.map (·.1)) = some n then none else c.waitFor
    sectors := mapDel c.sectors n })

/-- The turn of a context after it has placed some teams (R315). -/
def countTurn (s : State) (k m : Nat) : State :=
  updPart s (ctxPart k) (fun x =>
    let w := max 1 (ctxAt s k).weight
    let left := if x.lastCtx = ctxNum k ∧ x.turn ≠ 0 then x.turn else w
    { x with lastCtx := ctxNum k, turn := left - m })

/-- Place a unit at a corner. -/
def placeUnit (s : State) (n : Node) (u : Unplaced) (c : Nat) : State :=
  let cs := rectCores n.hdr.cw n.hdr.ch c
  let s := countTurn (endWait s n.ctx n.uid) n.ctx cs.length
  match u with
  | .fresh k =>
    startNode ((List.range cs.length).foldl (fun s r => placeTeam s n k r (cs.getD r 0)) s) n
  | .saved k =>
    roomAgain ((savedOf s n.uid k).foldl (fun s x => restoreTeam s n.hdr x (cs.getD x.team.rank 0)) s) n.ctx

/-- TEAM_PLACEMENT: the partition's next placement is of this node. -/
def execTeamPlacement (node : Nat) (s : State) : Result :=
  match mapFind s.nodes node with
  | none => .fault .notEnabled
  | some n =>
    match partChoice s (ctxPart n.ctx) with
    | some (m, u, c) => if m.uid = node then .next (placeUnit s m u c) else .fault .notEnabled
    | none => .fault .notEnabled

/-! ### The wait for a sector (R315) -/

/-- Since when the first node of a context has not fitted. -/
def trackWait (s : State) (k : Nat) : State :=
  let w := match (nodeOrder s k).head? with
    | none => none
    | some n =>
      if (nodeFits s n).isSome then none
      else
        match (ctxAt s k).waitFor with
        | some (m, t) => if m = n.uid then some (m, t) else some (n.uid, s.clk.ns)
        | none => some (n.uid, s.clk.ns)
  if w = (ctxAt s k).waitFor then s else updCtx s k (fun c => { c with waitFor := w })
def trackWaits (s : State) : State :=
  ((s.nodes.map (fun e => e.2.ctx)).dedup).foldl trackWait s

/-- The partition's sector with the most free cores, the lowest among equals. -/
def roomiest (s : State) (p : Nat) : Option Nat :=
  let owned := (List.range 336).filter (coreOwned s p)
  let sectors := (owned.map coreSector).dedup
  let free := fun (e : Nat) => (owned.filter (fun c => coreSector c == e &&
    ((coreTeams s c).filter (fun t => !t.gone)).isEmpty)).length
  leastBy (fun e => (336 - free e) * 12 + e) sectors

/-- PLACEMENT_WAIT_EXPIRY: 50 µs after the first node began to wait, a sector is kept for it. -/
def execPlacementWaitExpiry (ctx : Nat) (s : State) : Result :=
  let c := ctxAt s ctx
  match c.waitFor with
  | none => .fault .notEnabled
  | some (n, t) =>
    if s.clk.ns < t + 50000 ∨ (mapFind c.sectors n).isSome then .fault .notEnabled
    else
      match roomiest s (ctxPart ctx) with
      | some e => .next (updCtx s ctx (fun c => { c with sectors := mapPut c.sectors n e }))
      | none => .fault .notEnabled

end Sys2Proof.Machine
end

