-- ==== Sys2Proof/Machine/Kill.lean ====
section
/-! DEFINITION. The end of a grid by its budget and of a context by a kill (09 R146, R147, 21 R305). -/

namespace Sys2Proof.Machine

/-! ### Killing a context (R305) -/

/-- What a killed context's requests become: stores that have passed their core point, atomics and write-backs go on, the
rest is dropped. -/
def survivesKill (r : Req) : Bool :=
  (isStore r && (!r.rel || r.stage == .accepted) && r.stage != .held) || isAtom r || isWb r

/-- An edit that a kill undoes: it has not committed, and it is neither the supervisor's nor a first write that goes on. -/
def undoneByKill (k : Nat) (e : Edit) : Bool := e.ctx == k && !e.committed && !e.pte && !isZeroEdit e

/-- The groups, saved teams and nodes of a context go, its operations are abandoned with their locks, its windows are
deregistered; cause is what the supervisor receives when the kill is complete. -/
def killContext (s : State) (k : Nat) (cause : Word) : State :=
  let mine := fun (node : Nat) => (nodeAt s node).ctx == k && (mapFind s.nodes node).isSome
  let ops := (s.ops.filter (fun o => o.ctx == k)).map (·.id)
  let frames := ((s.edits.filter (undoneByKill k)).map (·.frames)).flatten
  let nodes := (liveNodes s k).map (·.2)
  let lost := (s.teams.filter (fun e => mine e.2.node)).map (·.2)
  let s := { s with
    groups := mapKeep s.groups (fun _ g => !mine (teamAt s g.team).node)
    teams := mapKeep s.teams (fun _ t => !mine t.node)
    saved := s.saved.filter (fun x => !mine x.team.node)
    ops := s.ops.filter (fun o => o.ctx != k)
    xfers := s.xfers.filter (fun x => x.ctx != k)
    reqs := s.reqs.filter (fun r => r.ctx != k || survivesKill r)
    edits := s.edits.filter (fun e => !undoneByKill k e)
    cores := mapAll s.cores (fun _ c => { c with locks := c.locks.filter (fun l => !ops.contains l.op) }) }
  let s := lost.foldl endFusion (frames.foldl (fun s a => giveFrame s k a) s)
  let s := nodes.foldl freeNode s
  updCtx (reapTeams s) k (fun c => { c with
    wins := mapAll c.wins (fun _ w => { w with valid := false })
    kill := some cause })

/-- KILL_COMPLETE: every core, slot and lock of the context is free, and what it wrote has been accepted. -/
def execKillComplete (ctx : Nat) (s : State) : Result :=
  match (ctxAt s ctx).kill with
  | none => .fault .notEnabled
  | some w =>
    if s.teams.any (fun e => (nodeAt s e.2.node).ctx == ctx && (mapFind s.nodes e.2.node).isSome) ||
      s.ops.any (fun o => o.ctx == ctx) || s.reqs.any (fun r => r.ctx == ctx && r.stage != .accepted)
    then .fault .notEnabled
    else .next (postEvent (updCtx s ctx (fun c => { c with kill := none })) ctx 0 0 1 w 0)

/-! ### The grid budget (R147) -/

/-- Whether a node's budget has run out. -/
def budgetOut (n : Node) : Bool := n.started && n.expiredAt.isNone && decide (1000 * n.budget ≤ n.ran)

/-- A grid's budget expires: its resident groups take cause 0x90, its other teams are discarded. -/
def expireNode (s : State) (i : Nat) : State :=
  let lost := ((nodeAt s i).bars.filter (fun e => e.2.unplaced ≠ 0 ∨ (savedGroups s).any (fun g => e.2.members.contains g.uid))).map (·.1)
  let s := updNode s i (fun n => { n with
    failed := true, expiredAt := some s.clk.ns, nextCluster := max n.nextCluster n.desc.teams
    taste := n.taste.map (fun u => { u with outcome := 1 })
    bars := mapAll n.bars (fun _ b => { b with unplaced := 0 }) })
  let s := { s with
    saved := s.saved.filter (fun x => x.team.node != i)
    teams := mapAll s.teams (fun _ t => if t.node = i then { t with preemptAt := none } else t)
    groups := mapAll s.groups (fun _ g =>
      if (teamAt s g.team).node = i then { latch 0x90 0 false g with safeStop := 0 } else g) }
  -- the discarded groups will never arrive: they count as exited in the grid's barriers (R319)
  match s.teams.find? (fun e => e.2.node == i && !e.2.gone) with
  | some e => lost.foldl (fun s n => advanceBar s e.1 n) s
  | none => s

/-- GRID_BUDGET_EXPIRED. -/
def execGridBudgetExpired (node : Nat) (s : State) : Result :=
  match mapFind s.nodes node with
  | none => .fault .notEnabled
  | some n => if budgetOut n then .next (expireNode s node) else .fault .notEnabled

/-- Whether a group of an expired grid is still resident 1 ms after the expiry: one whose lanes have all exited but which has not left
yet, because its accesses are still on their way, is (R130, R147; DEDUCED, log entry 30). -/
def watchdogDue (s : State) (n : Node) : Bool :=
  match n.expiredAt with
  | some t => decide (t + 1000000 ≤ s.clk.ns) && s.groups.any (fun e => (teamAt s e.2.team).node == n.uid)
  | none => false

/-- WATCHDOG_KILL: the whole context is killed, and its supervisor receives 0x91 with the context's number (R284). -/
def execWatchdogKill (node : Nat) (s : State) : Result :=
  match mapFind s.nodes node with
  | none => .fault .notEnabled
  | some n =>
    if watchdogDue s n then .next (killContext s n.ctx (causeWord 0x91 (ctxNum n.ctx))) else .fault .notEnabled

end Sys2Proof.Machine
end

