-- ==== Sys2Proof/Machine/Csr.lean ====
section
/-! DEFINITION. The control registers of a partition's supervisor (21 R294-R298, R304; 01 R25; 09 R142, R146, R148; 15
R208, R209; 17 R232, R235, R236; 19 R265; 23 R315, R317; 25 R333, R334, R337, R339, R344, R346; 27 R358, R367): what a read
gives and what a write does. Every write of a control register goes through csrWrite. -/

namespace Sys2Proof.Machine

/-- What a write of a control register comes to: no such register; a refusal with a cause and INFO; a wait for an earlier
edit or for the transfers of a window; a wait for a bin that wakes; done. -/
inductive CsrRes where
  | absent
  | refused (code info : Nat)
  | later (why : Why)
  | asleep (bin : Nat)
  | done (s : State)

/-- The register fields that stand, by a mask of their bits. -/
def keepBits (m : Nat) (v : Word) : Word := v &&& BitVec.ofNat 64 m
/-- A word of fields, each a value at a place. -/
def packW (l : List (Nat × Nat)) : Word := BitVec.ofNat 64 (l.foldl (fun n e => n + e.1 * 2 ^ e.2) 0)
def bit01 (b : Bool) : Nat := if b then 1 else 0

/-- The context that the partition's CTXSEL selects (R294). -/
def selCtx (s : State) (p : Nat) : Nat := 256 * p + fieldW (partAt s p).ctxsel 0 8

/-! ### Windows (R208, R209) -/

/-- A put or get that names the window has not raised its counters yet. -/
def winBusy (s : State) (k w : Nat) : Bool := s.xfers.any (fun x => x.ctx == k && x.win == w)

def wtctlMask : Nat := 0xFFFFFFF0000003C0
def wtctlWord (w : Win) : Word := w.ctl ||| packW [(bit01 w.err, 1), (bit01 w.valid, 0)]

/-- The fields agree with TKIND, the window lies below 2^56, and the network is accepted where it is used. -/
def winOk (s : State) (p : Nat) (w : Win) (v : Word) : Bool :=
  let peer := fieldW v 48 16
  let pwin := fieldW v 36 12
  let die := fieldW v 8 2
  let addr := fieldW w.addr 7 49
  let len := fieldW w.len 7 41
  decide (1 ≤ len) && decide (128 * addr + 128 * len ≤ 2 ^ 56) &&
    (match fieldW v 6 2 with
      | 0 => peer == 0 && pwin == 0
      | 1 => pwin != 0 && die == 0 && addr == 0
      | 2 => decide (peer < 64) && pwin != 0 && die == 0 && addr == 0 && feature s p 8
      | _ => false)

/-- A write of WTCTL: VALID 1 registers the entry or sets ERR. VALID 0 deregisters it, once every put and get that names it
has raised its counters; it writes the RW fields as any other write of the register does (DEDUCED, log entry 32: R209 states
only the deregistration). -/
def writeWtctl (s : State) (p : Nat) (v : Word) : CsrRes :=
  let k := selCtx s p
  let i := (ctxAt s k).wtsel.toNat
  let w := winAt s k i
  let put := fun (w : Win) => CsrRes.done (updCtx s k (fun c => { c with wins := mapSet {} c.wins i w }))
  if i = 0 then .done s
  else if v.getLsbD 0 then
    if !w.valid && winOk s p w v then put { w with ctl := keepBits wtctlMask v, err := false, valid := true, arrivals := 0 }
    else put { w with err := true }
  else if winBusy s k i then .later (.window k i)
  else put { w with ctl := keepBits wtctlMask v, valid := false }

/-- WTADDR and WTLEN stand still while the entry is registered. -/
def writeWin (s : State) (p : Nat) (f : Win → Win) : State :=
  let k := selCtx s p
  let i := (ctxAt s k).wtsel.toNat
  if i = 0 ∨ (winAt s k i).valid then s
  else updCtx s k (fun c => { c with wins := mapSet {} c.wins i (f (mapGet {} c.wins i)) })

/-! ### Frame pools (R232) -/

def fpbaseWord (q : Pool) : Word := packW [(q.logn, 52), (q.base, 0), (bit01 q.err, 1), (bit01 q.en, 0)]

def writeFpbase (s : State) (k : Nat) (v : Word) : State :=
  updCtx s k (fun c =>
    let q := c.pool
    let logn := fieldW v 52 5
    if q.en && v.getLsbD 0 then c
    else
      { c with pool := { q with logn, base := fieldW v 7 45 * 128, en := v.getLsbD 0 && decide (4 ≤ logn ∧ logn ≤ 25) } })

/-- FPADD: refused with ERR, or the frame is appended; a frame that held tables of a torn-down context is free again
(R235). -/
def writeFpadd (s : State) (p k : Nat) (v : Word) : State :=
  -- a frame of the last 2 MiB of the boot mapping's bin holds that mapping's tables while it stands (R361)
  let boot := (ctxAt s (256 * p)).ptbase
  let kept := fun (frame : Nat) => boot.getLsbD 0 && fieldW boot 11 41 * 2048 % 2 ^ 28 == 0xFE00000 &&
    frame / 2 ^ 21 == fieldW boot 11 41 * 2048 / 2 ^ 21
  let frame := fieldW v 16 36 * 65536
  let setErr := fun (s : State) (b : Bool) => updCtx s k (fun c => { c with pool := { c.pool with err := b } })
  if !inAllocated s p frame 65536 || ringRefuses (ctxAt s k).pool || kept frame then setErr s true
  else
    setErr (appendFrame { s with mem := { s.mem with tables := removeNat s.mem.tables (frame / 65536) } } k frame) false

/-! ### Page tables (R235, R236) -/

def ptbaseMask : Nat := 0x000FFFFFFFFFF801

/-- A context without resident teams, saved teams and live nodes. -/
def ctxQuiet (s : State) (k : Nat) : Bool := (liveNodes s k).isEmpty

/-- PTBASE: a root table in an allocated bin and in a frame that no context maps, whatever EN is. EN rising sets the context
up: the root table is zeroed, and its completion counters start at 0 (R166). Clearing EN gives the frames of the tables up. -/
def writePtbase (s : State) (p k : Nat) (v : Word) : State :=
  let v := keepBits ptbaseMask v
  let old := (ctxAt s k).ptbase
  let root := fieldW v 11 41 * 2048
  if !ctxQuiet s k || !inAllocated s p root 2048 || mapGet 0 s.mem.counts (root / 65536) != 0 then s
  else
    let was := fieldW old 11 41 * 2048 / 65536
    let shared := s.ctxs.any (fun e => e.1 != k && e.2.ptbase != 0 && fieldW e.2.ptbase 11 41 * 2048 / 65536 == was)
    let left := if old = 0 || was = root / 65536 || shared then s.mem.tables else removeNat s.mem.tables was
    let m := { s.mem with tables := insertNat left (root / 65536) }
    let rise := v.getLsbD 0 && !old.getLsbD 0
    let m := if rise then homeWrite m root (List.replicate 2048 0) else m
    updCtx (dropTlbAll { s with mem := m } k) k (fun c =>
      { c with
        ptbase := v
        ctrs := if rise then [] else c.ctrs
        pool := if v.getLsbD 0 then c.pool else { c.pool with tableFrame := none, tablesUsed := [] } })

/-- The size that PTEVA names, none for 0b11. -/
def pteSize (v : Word) : Option Nat :=
  match fieldW v 0 2 with
  | 0 => some 65536
  | 1 => some (2 ^ 21)
  | 2 => some (2 ^ 30)
  | _ => none
def pteLevel (size : Nat) : Nat := if size = 65536 then 0 else if size = 2 ^ 21 then 1 else 2

/-- A page of a size covers mappings of another size, other than by the split of a 2 MiB page (R236, R238). -/
def sizeClash (s : State) (k va size : Nat) : Bool :=
  (List.range (size / 65536)).any (fun i =>
    match pageEntry s k (va + 65536 * i) with
    | some (l, _) => l != pteLevel size && !(pteLevel size == 0 && l == 1)
    | none => false)

/-- The frame that an install names is allowed (R235, R236). -/
def installOk (s : State) (p : Nat) (size : Nat) (leaf : Nat) : Bool :=
  let a := pteAttr leaf
  let pa := pteAddr leaf
  pteV leaf && pteLeaf leaf && leafOk true true (pteLevel size) leaf &&
    (if a.zero || (a.host && !a.owner) then true
     else if a.fmt then
       let x := mapGet {} (partAt s p).fwins (viewWin pa)
       decide (viewBase ≤ pa) && x.valid && decide (pa < viewBase + 2 ^ 51) && decide (viewOff pa + size ≤ fwViewLen x)
     else inAllocated s p pa size &&
      !(List.range (size / 65536)).any (fun i => s.mem.tables.contains (pa / 65536 + i)))

/-- An accepted command: an edit of one page at scope .sys, by the graft unit of the writing lane's die (R223, R236). While the
pool holds released frames back, an edit that needs frames waits for them (R232). -/
def startPte (s : State) (k die : Nat) (op : EditOp) (va size n : Nat) : State :=
  let q := takeFrames s k (if (ctxAt s k).pool.heldFrames.isEmpty then n else 0)
  let rs := (va, size) :: (splitBases s k (editChgs s k op 0)).map (fun b => (b.2 * levelSize b.1, levelSize b.1))
  -- the earlier accesses of the writing run to the pages (R223)
  let waits := match s.focus with
    | some f => ((reqsOf s (groupAt s f.gid).uid f.lanes).filter (fun r =>
        r.ctx == k && rs.any (fun a => overlaps a.1 a.2 r.va r.size))).map (·.id)
    | none => []
  let e : Edit := { id := s.fresh, ctx := k, die, core := 84 * die, gid := 0, uid := 0, lanes := 0, scope := .sys, op
                    ranges := rs, frames := q.1, waits, committed := false, upTo := 0, pte := true }
  let s := { q.2 with fresh := s.fresh + 1, edits := q.2.edits ++ [e] }
  updCtx s k (fun c => { c with pteBusy := true })

/-- A write of PTECMD. -/
def writePtecmd (s : State) (p k die : Nat) (v : Word) : CsrRes :=
  let c := ctxAt s k
  let err := fun (b : Bool) => updCtx s k (fun c => { c with pteErr := b })
  let va := fieldW c.pteva 16 40 * 65536
  if !v.getLsbD 0 then .done s
  else if c.pteBusy then .done (err true)
  else
    match pteSize c.pteva with
    | none => .done (err true)
    | some size =>
      if va % size ≠ 0 ∨ fieldW v 1 2 = 3 then .done (err true)
      else if rangesBusy s k [(va, size)] (fun _ => true) then .later (.accept k [(va, size)])
      else if (tableAsleep s k va).isSome then (tableAsleep s k va).elim (.done s) .asleep
      else
        let here := walkCtx s k va
        let mapped := (pageEntry s k va).isSome
        let op : EditOp := if fieldW v 1 2 = 0 then .install va size c.pteval else .remove va size
        let n := tablesNeeded s k (editChgs s k op 0)
        let start := match (if n = 0 then none else poolAsleep s k) with
          | some b => .asleep b
          | none => .done (startPte s k die op va size n)
        match fieldW v 1 2 with
        | 2 =>
          match here with
          | some (f, true) =>
            if f.level = pteLevel size then
              .done (updCtx (err false) k (fun c => { c with pteval := BitVec.ofNat 64 f.entry }))
            else .done (err true)
          | _ => .done (updCtx (err false) k (fun c => { c with pteval := 0 }))
        | 0 =>
          if here.isNone || (walkDead s k va).isSome || !installOk s p size c.pteval.toNat || sizeClash s k va size || decide (framesFree s k < n) then
            .done (err true)
          else start
        | _ =>
          if !mapped || sizeClash s k va size || decide (framesFree s k < n) then .done (err true)
          else start

/-! ### Stopped groups (R298) -/

/-- The group's runs wait for requests that the supervisor's resume performs first. -/
def holdUntilStored (g : Group) : Group :=
  { g with blocks := (runsAmong g (~~~g.exited)).map (fun r => { lanes := r.lanes, pc := r.pc, npc := r.pc, why := .held }) ++ g.blocks }

/-- Resume: the run issues again from EPC.PC, in a handler from its counters. -/
def resumeGroup (s : State) (gid : Nat) (g : Group) (x : Stop) : State :=
  let held := s.reqs.any (fun r => r.uid == g.uid && r.stage == .held)
  let g := { g with stopped := none }
  let g := if x.cont then g else pcSet g (x.lanes &&& ~~~g.exited) (epcPc g.epc)
  if held then putGroup (releaseHeld s gid g.uid) gid (holdUntilStored g) else putGroup s gid g

/-- Kill of a context through GCTL; cause 0x95 is reported when it is complete (R284, R298). -/
def killByGctl (s : State) (k : Nat) : State := killContext s k (causeWord 0x95 (ctxNum k))

/-- Reflect: the group's own handler with the recorded CAUSE, or a kill where it has none or is in it. A request that was held for the supervisor
is then not performed. -/
def reflectGroup (s : State) (gid : Nat) (g : Group) (x : Stop) : State :=
  if !handlerOn g || hmode g then killByGctl s (groupCtx s g)
  else
    let s := { s with reqs := s.reqs.filter (fun r => !(r.uid == g.uid && r.stage == .held)) }
    putGroup s gid (enterHandler (x.lanes &&& ~~~g.exited) g.cause g.epc { g with stopped := none })

/-- A write of GCTL. -/
def writeGctl (s : State) (p : Nat) (v : Word) : CsrRes :=
  let loc := fieldW v 0 15
  match stoppedAt s p loc with
  | none => .refused 0x94 loc
  | some (gid, g) =>
    match fieldW v 56 8, g.stopped with
    | 1, some x => .done (resumeGroup s gid g x)
    | 2, some x => .done (reflectGroup s gid g x)
    | 3, _ => .done (killByGctl s (groupCtx s g))
    | _, _ => .refused 0x94 loc

/-! ### Cores (R25) -/

def selCore (s : State) (p : Nat) : Nat := fieldW (partAt s p).banksel 0 9
def coreMine (s : State) (p : Nat) : Bool := decide (selCore s p < 336) && coreOwned s p (selCore s p)

def writeBankrole (s : State) (p : Nat) (v : Word) : State :=
  let c := selCore s p
  if !coreMine s p || !coreIdle s c || (List.range 32).any (fun i => bankRole v i == 3) then s
  else
    let s := drainL1 s [c]
    updCore s c (fun x => { x with bankrole := v, l1 := if x.bankrole = v then x.l1 else [] })

/-! ### Interleave domains (R333, R334, R337) -/

/-- The domain that SLSEL selects, where the partition owns a slice on its die. -/
def selDom (s : State) (p : Nat) : Option Nat :=
  let d := fieldW (partAt s p).slsel 0 6
  if (List.range 48).any (fun i => sliceOwned s p (48 * (d / 16) + i)) then some d else none

def curMask (x : Partition) (d : Nat) : BitVec 48 := mapGet 0 x.masks d
def stagedMask (x : Partition) (d : Nat) : BitVec 48 := (mapFind x.staged d).getD (curMask x d)
def slBusy (x : Partition) : Bool := x.switching || x.slwb.isSome

/-- The bins that a partition has allocated. -/
def ownBins (s : State) (p : Nat) : List Nat :=
  (s.bins.filter (fun e => binOwned s p e.1 && e.2.alloc)).map (·.1)

/-- Whether the staged state may be switched to. -/
def goOk (s : State) (p : Nat) : Bool :=
  let x := partAt s p
  let doms := List.range 64
  !slBusy x &&
    doms.all (fun d => (List.range 48).all (fun i =>
      !(stagedMask x d).getLsbD i || (sliceOwned s p (48 * (d / 16) + i) &&
        doms.all (fun e => e == d || e / 16 != d / 16 || !(stagedMask x e).getLsbD i)))) &&
    (ownBins s p).all (fun b => stagedMask x (16 * (b / 1152) + (binAt s b).sdom.toNat) != 0)

/-- A GO that is not refused: the switch begins. -/
def startSwitch (s : State) (p : Nat) : State :=
  updPart s p (fun x => { x with switching := true, slErr := false, goAt := s.fresh })

def writeSlctl (s : State) (p : Nat) (v : Word) : State :=
  if !v.getLsbD 0 then s
  else if goOk s p then startSwitch s p
  else updPart s p (fun x => { x with slErr := true })

/-- A write of SLWB. -/
def writeSlwb (s : State) (p : Nat) (v : Word) : State :=
  let n := fieldW v 52 12
  let a := fieldW v 16 36 * 65536
  updPart s p (fun x =>
    if slBusy x || n == 0 || !inAllocated s p a (65536 * n) then { x with slErr := true }
    else { x with slErr := false, slwb := some (a / 128, 512 * n) })

/-! ### Bins (R344, R346) -/

def selBin (s : State) (p : Nat) : Nat := fieldW (partAt s p).binsel 0 13
def binMine (s : State) (p : Nat) : Bool := decide (selBin s p < 4608) && binOwned s p (selBin s p)

/-- STATE as software reads it. -/
def binState (b : Bin) : Nat :=
  if !b.alloc then 3
  else
    match b.wake with
    | some _ => if b.clear then 2 else b.state
    | none => b.state

def binmapWord (p : Nat) (b : Bin) : Word :=
  packW [(b.sets.toNat, 56), (p, 52), (b.sdom.toNat, 48), (b.dom.toNat, 44), (bit01 b.alloc, 2), (binState b, 0)]

/-- The effect of ALLOC: 0 puts the bin in D at once, 1 wakes a bin in D within 40 µs. -/
def allocBin (ns : Nat) (on : Bool) (b : Bin) : Bin :=
  if on && !b.alloc then { b with alloc := true, falling := false, state := 2, wake := some (0, ns + 40000), clear := true, awaited := false }
  else if !on && b.alloc then { b with alloc := false, falling := true, state := 3, wake := none, clear := false, awaited := false }
  else b

def writeBinmap (s : State) (p : Nat) (v : Word) : State :=
  if !binMine s p then s
  else holdBin (updBin s (selBin s p) (fun b =>
    allocBin s.clk.ns (v.getLsbD 2) { b with sets := BitVec.ofNat 8 (fieldW v 56 8), sdom := BitVec.ofNat 4 (fieldW v 44 4) }))
    (selBin s p)

/-! ### Format windows (R339) -/

def selFwin (s : State) (p : Nat) : Nat := fieldW (partAt s p).fwsel 0 4
def fwinAt (s : State) (p : Nat) : FWin := mapGet {} (partAt s p).fwins (selFwin s p)
def putFwin (s : State) (p : Nat) (x : FWin) : State :=
  let w := selFwin s p
  updPart s p (fun q => { q with fwins := mapSet {} q.fwins w x })
/-- FWSTORE, FWLEN and FWSCALE are written only while VALID is 0. -/
def writeFw (s : State) (p : Nat) (f : FWin → FWin) : State :=
  if (fwinAt s p).valid then s else putFwin s p (f (fwinAt s p))

def fwctlMask : Nat := 0xFFFFF030
def fwctlWord (x : FWin) : Word := x.ctl ||| packW [(bit01 x.err, 1), (bit01 x.valid, 0)]

/-- Whether a window with these fields may become valid (R339, R355). -/
def fwOk (s : State) (p : Nat) (x : FWin) : Bool :=
  feature s p 4 && decide (1 ≤ fwLen x) && inAllocated s p (fwStore x) (65536 * fwLen x) && slotOwned s p (fwSlot x) &&
    (if fwSfmt x then
      decide (1 ≤ fwCols x) && decide (2 ^ 17 * fwLen x % (64 * fwCols x) = 0) && inAllocated s p (fwScale x) (fwScaleBytes x)
     else !fwDfmt x)

/-- Whether a line is a line of a window's view. -/
def viewLine (w line : Nat) : Bool := decide (viewBase ≤ 128 * line) && viewWin (128 * line) == w

/-- Every view line of a window of a partition is dropped from every slice and from the caches of its cores; what loads
have already read no longer fills them. -/
def dropViews (s : State) (p w : Nat) : State :=
  { s with
    mem := { s.mem with views := s.mem.views.filter (fun l => !(l.part == p && l.win == w)) }
    cores := mapAll s.cores (fun c x =>
      if coreOwned s p c then
        { x with l1 := x.l1.filter (fun l => !viewLine w l.line), cc := x.cc.filter (fun l => !viewLine w l.line) }
      else x)
    reqs := s.reqs.map (fun r =>
      if ctxPart r.ctx = p ∧ r.attr.fmt = true ∧ r.stage = .accepted ∧ viewWin r.pa = w then { r with fill := false } else r) }

def writeFwctl (s : State) (p : Nat) (v : Word) : State :=
  let x := { fwinAt s p with ctl := keepBits fwctlMask v }
  if v.getLsbD 0 then
    if fwOk s p x then putFwin s p { x with err := false, valid := true }
    else putFwin s p { fwinAt s p with err := true }
  else putFwin (dropViews s p (selFwin s p)) p { x with valid := false }

/-! ### Send queues (R367) -/

def selQueue (s : State) (p : Nat) : Nat := fieldW (partAt s p).nqsel 0 6
def updQueue (s : State) (p : Nat) (f : SendQ → SendQ) : State :=
  updPart s p (fun x => { x with queues := mapSet {} x.queues (selQueue s p) (f (mapGet {} x.queues (selQueue s p))) })
/-- NQCTL: an SVC other than 0 and 1 leaves EN at 0. -/
def nqctlOf (v : Word) : Word := if 2 ≤ fieldW v 1 2 then keepBits 0xF6 v else keepBits 0xF7 v

/-! ### Reading -/

/-- SEVPTR (R297). -/
def sevptrWord (x : Partition) : Word := packW [(bit01 x.sevOvf, 63), (x.sevTail.toNat, 32), (x.sevHead.toNat, 0)]

/-- What csrr gives for a number; none where no map defines it (R294). Registers that are written only read as 0 (R6). -/
def csrRead (s : State) (p n : Nat) : Option Word :=
  let x := partAt s p
  let k := selCtx s p
  let c := ctxAt s k
  let w := if c.wtsel = 0 then {} else winAt s k c.wtsel.toNat
  match n with
  | 0x40 => some (packW [(bit01 c.dbgctl, 0)])
  | 0x41 => some (packW [(c.gridbudget, 0)])
  | 0x44 | 0x45 | 0x46 | 0x47 => some (mapGet 0 c.bkpta (n - 0x44))
  | 0x48 | 0x49 | 0x4A | 0x4B => some (mapGet 0 c.bkptc (n - 0x48))
  | 0x50 => some (c.wtsel.zeroExtend 64)
  | 0x51 => some w.addr
  | 0x52 => some w.len
  | 0x53 => some (wtctlWord w)
  | 0x54 => some c.pteva
  | 0x55 => some c.pteval
  | 0x56 => some (packW [(bit01 c.pteErr, 9), (bit01 c.pteBusy, 8)])
  | 0x58 => some (fpbaseWord c.pool)
  | 0x59 => some (packW [(c.pool.tail.toNat, 32), (c.pool.head.toNat, 0)])
  | 0x5A => some 0
  | 0x5C => some c.lrbase
  | 0x60 => some (packW [(x.transient.toNat, 32), (x.corrected.toNat, 0)])
  | 0x61 => some x.sevbase
  | 0x62 => some (sevptrWord x)
  | 0x63 => some 0
  | 0x64 => some c.ctxtrap
  | 0x65 => some x.ctxsel
  | 0x66 => some (packW [(bit01 (c.en || (k == 256 * p && x.started)), 0)])
  | 0x67 => some c.ptbase
  | 0x68 => some (packW [(c.maxprio, 8), (c.weight, 0)])
  | 0x69 => some c.savebase
  | 0x6A => some x.banksel
  | 0x6B => some (if coreMine s p then (coreAt s (selCore s p)).bankrole else 0)
  | 0x6C => some (if coreMine s p then packW [(bit01 (coreAt s (selCore s p)).pin, 0)] else 0)
  | 0x70 => some x.slsel
  | 0x71 => some ((selDom s p).elim 0 (fun d => (curMask x d).zeroExtend 64))
  | 0x72 => some (packW [(bit01 x.slErr, 2), (bit01 (slBusy x), 1)])
  | 0x73 => some x.binsel
  | 0x74 => some (if binMine s p then binmapWord p (binAt s (selBin s p)) else 0)
  | 0x75 => some x.binidle
  | 0x76 => some 0
  | 0x78 => some x.fwsel
  | 0x79 => some (fwinAt s p).store
  | 0x7A => some (fwinAt s p).len
  | 0x7B => some (fwinAt s p).scale
  | 0x7C => some (fwctlWord (fwinAt s p))
  | 0x7D => some x.nqsel
  | 0x7E => some (mapGet {} x.queues (selQueue s p)).ctl
  | 0x7F => some (mapGet {} x.queues (selQueue s p)).dest
  | _ => none

/-! ### Writing -/

/-- A write of a control register of a partition by a lane of a die. -/
def csrWrite (s : State) (p die n : Nat) (v : Word) : CsrRes :=
  let k := selCtx s p
  let ctx := fun (f : Ctx → Ctx) => CsrRes.done (updCtx s k f)
  let part := fun (f : Partition → Partition) => CsrRes.done (updPart s p f)
  match n with
  | 0x40 => ctx (fun c => { c with dbgctl := v.getLsbD 0 })
  | 0x41 => ctx (fun c => { c with gridbudget := fieldW v 0 40 })
  | 0x44 | 0x45 | 0x46 | 0x47 => ctx (fun c => { c with bkpta := mapSet 0 c.bkpta (n - 0x44) (keepBits 0x00FFFFFFFFFFFFFC v) })
  | 0x48 | 0x49 | 0x4A | 0x4B => ctx (fun c => { c with bkptc := mapSet 0 c.bkptc (n - 0x48) (keepBits 0x3F03 v) })
  | 0x50 => ctx (fun c => { c with wtsel := v.setWidth 12 })
  | 0x51 => .done (writeWin s p (fun w => { w with addr := keepBits 0x00FFFFFFFFFFFF80 v }))
  | 0x52 => .done (writeWin s p (fun w => { w with len := keepBits 0x0000FFFFFFFFFF80 v }))
  | 0x53 => writeWtctl s p v
  | 0x54 => ctx (fun c => { c with pteva := keepBits 0x00FFFFFFFFFF0003 v })
  | 0x55 => ctx (fun c => { c with pteval := v })
  | 0x56 => writePtecmd s p k die v
  | 0x58 => .done (writeFpbase s k v)
  | 0x59 => .done s
  | 0x5A => .done (writeFpadd s p k v)
  | 0x5C => ctx (fun c => { c with lrbase := keepBits 0x00FFFFFFFFFC0001 v })
  | 0x60 => part (fun x => { x with
      transient := x.transient &&& ~~~(v.extractLsb' 32 32), corrected := x.corrected &&& ~~~(v.setWidth 32) })
  | 0x61 => part (fun x => { x with sevbase := keepBits 0x00FFFFFFFFFFFFFF v })
  | 0x62 => part (fun x => { x with sevOvf := x.sevOvf && !v.getLsbD 63, sevHead := v.setWidth 31 })
  | 0x63 => writeGctl s p v
  | 0x64 => ctx (fun c => { c with ctxtrap := v &&& trapbaseMask })
  | 0x65 => part (fun x => { x with ctxsel := keepBits 0xFF v })
  | 0x66 => ctx (fun c => { c with en := v.getLsbD 0 })
  | 0x67 => .done (writePtbase s p k v)
  | 0x68 => ctx (fun c => { c with maxprio := fieldW v 8 3, weight := fieldW v 0 8 })
  | 0x69 => .done (roomAgain (updCtx s k (fun c => { c with savebase := keepBits 0x00FFFFFFFFFF003F v })) k)
  | 0x6A => part (fun x => { x with banksel := keepBits 0x1FF v })
  | 0x6B => .done (writeBankrole s p v)
  | 0x6C => .done (if coreMine s p then updCore s (selCore s p) (fun c => { c with pin := v.getLsbD 0 }) else s)
  | 0x70 => part (fun x => { x with slsel := keepBits 0x3F v })
  | 0x71 =>
    match selDom s p with
    | some d => part (fun x => { x with staged := mapPut x.staged d (v.setWidth 48) })
    | none => .done s
  | 0x72 => .done (writeSlctl s p v)
  | 0x73 => part (fun x => { x with binsel := keepBits 0x1FFF v })
  | 0x74 => .done (writeBinmap s p v)
  | 0x75 => part (fun x => { x with binidle := keepBits 0xFFFFFFFF v })
  | 0x76 => .done (writeSlwb s p v)
  | 0x78 => part (fun x => { x with fwsel := keepBits 0xF v })
  | 0x79 => .done (writeFw s p (fun x => { x with store := keepBits 0x000FFFFFFFFF0000 v }))
  | 0x7A => .done (writeFw s p (fun x => { x with len := keepBits 0x0000000FFFFF0000 v }))
  | 0x7B => .done (writeFw s p (fun x => { x with scale := keepBits 0x000FFFFFFFFFFF80 v }))
  | 0x7C => .done (writeFwctl s p v)
  | 0x7D => part (fun x => { x with nqsel := keepBits 0x3F v })
  | 0x7E => .done (updQueue s p (fun q => { q with ctl := nqctlOf v }))
  | 0x7F => .done (updQueue s p (fun q => { q with dest := keepBits 0x00FFFFFFFFFFFFFF v }))
  | _ => .absent

end Sys2Proof.Machine
end

