-- ==== Sys2Proof/Machine/Saving.lean ====
section
/-! DEFINITION. Pre-emption (23 R317) and the save of a cluster's teams (21 R299-R301, 19 R277). -/

namespace Sys2Proof.Machine

/-! ### The save area (R317) -/

def saveLog (s : State) (k : Nat) : Nat := bitsOf (ctxAt s k).savebase.toNat 0 6
def saveOn (s : State) (k : Nat) : Bool := decide (16 ≤ saveLog s k ∧ saveLog s k ≤ 40)
/-- The base of a context's save area, aligned to its size. -/
def saveBase (s : State) (k : Nat) : Nat :=
  bitsOf (ctxAt s k).savebase.toNat 16 40 * 65536 / 2 ^ saveLog s k * 2 ^ saveLog s k

/-- Bytes in whole 4 KiB blocks. -/
def blocks4K (n : Nat) : Nat := (n + 4095) / 4096 * 4096
/-- The room that a team takes in the save area: an image for each group, its scratchpad, its operand buffer
(log entry 14). -/
def saveRoom (h : Header) : Nat := h.groups * blocks4K (0x600 + 256 * h.allot) + 4096 * (h.scratch + h.opbuf)

/-- The places of a context's save area that are taken: by saved teams, and by teams that are about to be. -/
def savePlaces (s : State) (k : Nat) : List (Nat × Nat) :=
  (s.saved.filter (fun x => (nodeAt s x.team.node).ctx == k)).map (fun x => (x.place, x.room)) ++
  (s.teams.filter (fun e => (nodeAt s e.2.node).ctx == k && e.2.preemptAt.isSome)).map (fun e =>
    (e.2.saveSlot, saveRoom (nodeAt s e.2.node).hdr))

/-- The lowest place of a size in an area that overlaps none of those taken. -/
def savePlace (size : Nat) (taken : List (Nat × Nat)) (n : Nat) : Option Nat :=
  leastBy id ((0 :: taken.map (fun t => t.1 + t.2)).filter (fun b =>
    decide (b + n ≤ size) && !taken.any (fun t => overlaps b n t.1 t.2)))

/-- The pages of a team's place pass the checks of a store. -/
def placeOk (s : State) (k a n : Nat) : Bool := (piecesOf a n).all (fun pc => (winCheck s k true pc.1).isNone)

/-- Places for some teams, in order; none where the area has no room for one. -/
def saveSeats (s : State) (k : Nat) : List Nat → List (Nat × Nat) → Option (List (Nat × Nat))
  | [], _ => some []
  | t :: ts, taken =>
    let n := saveRoom (nodeAt s (teamAt s t).node).hdr
    match savePlace (2 ^ saveLog s k) taken n with
    | some b =>
      if placeOk s k (saveBase s k + b) n then (saveSeats s k ts ((b, n) :: taken)).map ((t, b) :: ·) else none
    | none => none

/-! ### Victims (R317) -/

/-- A cluster as a victim: its teams, the priority of its node, when it was placed. -/
structure Victim where
  node : Nat
  cluster : Nat
  prio : Nat
  placedAt : Nat
  deriving DecidableEq, Repr

def victimTeams (s : State) (v : Victim) : List Nat :=
  (s.teams.filter (fun e => e.2.node == v.node && e.2.cluster == v.cluster && !e.2.gone)).map (·.1)

/-- Insert a victim: lowest priority first, the latest placed first among equals. -/
def insertVictim (v : Victim) : List Victim → List Victim
  | [] => [v]
  | x :: xs =>
    if v.prio < x.prio ∨ (v.prio = x.prio ∧ x.placedAt < v.placedAt) then v :: x :: xs else x :: insertVictim v xs

/-- The clusters of a partition that a node of a priority may pre-empt, in the order in which they are taken. -/
def victims (s : State) (p prio : Nat) : List Victim :=
  (s.teams.foldl (fun l e =>
    let n := nodeAt s e.2.node
    let v : Victim := { node := n.uid, cluster := e.2.cluster, prio := n.desc.prio, placedAt := e.2.placedAt }
    if !e.2.gone && ctxPart n.ctx == p && decide (n.desc.prio < prio) && e.2.preemptAt.isNone && !e.2.noRoom &&
      saveOn s n.ctx && n.expiredAt.isNone && !l.any (fun x => x.node == v.node && x.cluster == v.cluster)
    then l ++ [v] else l) []).foldl (fun l v => insertVictim v l) []

/-- The package without some clusters' teams, their groups, operations and locks. -/
def without (s : State) (vs : List Victim) : State :=
  let ts := (vs.map (victimTeams s)).flatten
  let ops := (s.ops.filter (fun o => ts.contains o.team)).map (·.id)
  { s with
    teams := mapKeep s.teams (fun t _ => !ts.contains t)
    groups := mapKeep s.groups (fun _ g => !ts.contains g.team)
    ops := s.ops.filter (fun o => !ops.contains o.id)
    cores := mapAll s.cores (fun _ c => { c with locks := c.locks.filter (fun l => !ops.contains l.op) }) }

/-- The shortest beginning of a list of victims whose release lets the node's next unit fit. -/
def enough (s : State) (n : Node) (taken : List Victim) : List Victim → Option (List Victim)
  | [] => none
  | v :: vs => if (nodeFits (without s (taken ++ [v])) n).isSome then some (taken ++ [v]) else enough s n (taken ++ [v]) vs

/-- Victims whose release does not help are none. -/
def needed (s : State) (n : Node) (vs : List Victim) : List Victim :=
  vs.reverse.foldl (fun l v =>
    let m := l.filter (fun x => x != v)
    if (nodeFits (without s m) n).isSome then m else l) vs

/-- The victims of a node that can place nothing. -/
def victimsOf (s : State) (n : Node) : Option (List Victim) :=
  let p := ctxPart n.ctx
  if (nodeFits s n).isSome || partStill s p || (ctxAt s n.ctx).kill.isSome ||
    !(nodeOrder s n.ctx).any (fun m => m.uid == n.uid) ||
    s.teams.any (fun e => e.2.preemptAt.isSome && ctxPart (nodeAt s e.2.node).ctx == p)
  then none
  else (enough s n [] (victims s p n.desc.prio)).map (needed s n)

/-- A victim is asked to stop where the save area has room for it beside what is taken. -/
def seatVictim (s : State) (v : Victim) : Option State :=
  let k := (nodeAt s v.node).ctx
  (saveSeats s k (victimTeams s v) (savePlaces s k)).map (fun l =>
    l.foldl (fun s e => updTeam s e.1 (fun t => { t with preemptAt := some s.clk.ns, saveSlot := e.2 })) s)

/-- The victims for which the save areas have no room beside those before them. -/
def noSeat : State → List Victim → List Victim
  | _, [] => []
  | s, v :: vs =>
    match seatVictim s v with
    | some s' => noSeat s' vs
    | none => v :: noSeat s vs

/-- The pre-emption of a victim that finds no room is abandoned, and the supervisor is told. -/
def abandonVictim (s : State) (v : Victim) : State :=
  postNoGroup ((victimTeams s v).foldl (fun s t => updTeam s t (fun x => { x with noRoom := true })) s) (nodeAt s v.node).ctx 0x97 0

/-- The request: all victims, or, where some find no room, only the report of those. -/
def askVictims (s : State) (vs : List Victim) : State :=
  if (noSeat s vs).isEmpty then vs.foldl (fun s v => (seatVictim s v).getD s) s
  else (noSeat s vs).foldl abandonVictim s

/-- PREEMPTION. -/
def execPreemption (node : Nat) (s : State) : Result :=
  match mapFind s.nodes node with
  | none => .fault .notEnabled
  | some n =>
    match victimsOf s n with
    | some vs => .next (askVictims s vs)
    | none => .fault .notEnabled

/-! ### Where the groups stand (R299, R300) -/

/-- The liveness word of the instruction whose first word is at an address; all parts where it cannot be read. -/
def liveWord (s : State) (core k : Nat) (pc : Pc) : BitVec 32 :=
  match fetchWord s core k pc.toNat with
  | .word w =>
    if !Dec.fS w then 0xFFFFFFFF
    else
      match fetchWord s core k (pcPlus pc (if hasSecond w then 2 else 1)).toNat with
      | .word x => x
      | _ => 0xFFFFFFFF
  | _ => 0xFFFFFFFF

/-- Whether an instruction has S set. -/
def isSafe (s : State) (core k : Nat) (pc : Pc) : Bool :=
  match fetchWord s core k pc.toNat with
  | .word w => Dec.fS w
  | _ => false

/-- The instruction before which a lane of a group stands: inside a repeat, the repeated one (R71). -/
def standsAt (s : State) (core k : Nat) (g : Group) (l : Nat) : Pc :=
  let pc := pcGet g l
  if g.rep.active && g.rep.lanes.getLsbD l then
    match fetchWord s core k pc.toNat with
    | .word w => pcPlus pc (wordsOf w)
    | _ => pc
  else pc

/-- The waits that count as stopped at a safe point (R299). -/
def waitStops : Why → Bool
  | .gsync _ | .results | .clk _ | .ctrw _ _ _ _ _ | .tx _ _ _ _ _ => true
  | _ => false

/-- Whether every unexited lane of a group stands at a safe point. -/
def groupSafe (s : State) (gid : Nat) (g : Group) : Bool :=
  let core := gidCore gid
  let k := groupCtx s g
  (lanesOf (~~~g.exited)).all (fun l =>
    g.safeStop.getLsbD l || g.blocks.any (fun b => b.lanes.getLsbD l && waitStops b.why && isSafe s core k b.pc))

/-- A group that is saved in full without being halted (R299). -/
def savedWhole (g : Group) : Bool := g.stopped.isSome || hmode g

/-- What precedes an image (R300): windows closed, stores and atomics accepted, edits committed. -/
def groupSettled (s : State) (g : Group) : Bool :=
  (pendsOf g 0xFFFFFFFF).isEmpty &&
    !(s.reqs.any (fun r => r.uid == g.uid && (isStore r || isAtom r || isWb r) && r.stage != .accepted)) &&
    !(s.edits.any (fun e => e.uid == g.uid && !e.committed))

/-- The groups of a team with their slots. -/
def teamGroups (s : State) (t : Nat) : List (Nat × Group) := s.groups.filter (fun e => e.2.team == t)

/-- The teams that are saved together with a team: its cluster's. -/
def savedWith (s : State) (tm : Team) : List Nat :=
  (s.teams.filter (fun e => e.2.node == tm.node && e.2.cluster == tm.cluster && !e.2.gone)).map (·.1)

/-- A cluster is ready for its images. -/
def clusterSettled (s : State) (ts : List Nat) : Bool :=
  ts.all (fun t => (teamGroups s t).all (fun e => groupSettled s e.2) &&
    !(s.ops.any (fun o => o.team == t && !o.press)))
def clusterSafe (s : State) (ts : List Nat) : Bool :=
  ts.all (fun t => (teamGroups s t).all (fun e => savedWhole e.2 || groupSafe s e.1 e.2))

/-! ### Saving (R301) -/

/-- The union of the words at which a group's lanes stand; none for a group saved in full. -/
def groupLive (s : State) (gid : Nat) (g : Group) : Option (BitVec 32) :=
  if savedWhole g || !groupSafe s gid g then none
  else
    let core := gidCore gid
    let k := groupCtx s g
    some ((lanesOf (~~~g.exited)).foldl (fun w l =>
      let at' := standsAt s core k g l
      w ||| liveWord s core k at' ||| (if at' = pcGet g l then 0 else liveRep)) 0)

/-- A run that a transaction word has trapped no longer waits, and its trap is still to be taken (R254, R256). -/
def trappedRun (b : Block) : Bool :=
  match b.why with
  | .txTrap _ _ => true
  | _ => false

/-- A group as its restore finds it (R145): nothing of its control state but what the image keeps, and the traps that runs have
still to take. -/
def restoredAs (live : Option (BitVec 32)) (g : Group) : Group :=
  let g := { g with
    blocks := g.blocks.filter trappedRun, barriers := [], ages := [], skipBp := 0, safeStop := 0, promoted := 0
    sel := 0, yielded := false, raised := 0 }
  match live with
  | some w => keepLive w g
  | none => g

/-- A Press product stops at its K-block boundary: the operand buffer holds the partial C (R277). -/
def flushC (s : State) (o : EngOp) : State :=
  match o.kind with
  | .mm _ _ _ _ _ _ c =>
    if o.done || o.block = 0 then s
    else
      match sramRef s o.team (2 ^ 20 + c) 65536 with
      | some r => sramWrite s (teamAt s r.team) r.ob r.off ((o.acc.map (fun x => leBytes 4 x.toNat)).flatten)
      | none => s
  | _ => s

/-- The granules of a space that a list of SRAM granules names, by their index in the space. -/
def spaceMarks (s : State) (tm : Team) (ob : Bool) (l : List Nat) : List (Nat × Nat) :=
  ((List.range (teamBytes tm ob / 32)).filter (granIs s tm ob l)).map (fun i => (sramSpace ob, i))

/-- The union of the liveness words of a team's groups. -/
def teamLive (s : State) (t : Nat) : BitVec 32 :=
  (teamGroups s t).foldl (fun w e => w ||| (groupLive s e.1 e.2).getD 0) 0

/-- The entries of a team's Press that are queued or running. -/
def pressOf (s : State) (t : Nat) : List EngOp := s.ops.filter (fun o => o.team == t && o.press)

/-- PRS: the operand buffer is saved whole. -/
def savesBuffer (s : State) (t : Nat) : Bool := livePrs (teamLive s t) || !(pressOf s t).isEmpty

/-- TXW, or a forced save: the live words keep their tags and fields. -/
def savesWords (s : State) (t : Nat) : Bool :=
  liveTxw (teamLive s t) || (teamGroups s t).any (fun e => !savedWhole e.2 && !groupSafe s e.1 e.2)

/-- The granules of a team's operand buffer that are saved: all of them, or those of the live words (R252). -/
def savedGrans (s : State) (t : Nat) : List Nat :=
  let tm := teamAt s t
  if savesBuffer s t then List.range (teamBytes tm true / 32)
  else if savesWords s t then (spaceMarks s tm true s.sram.tags).map (·.2) else []

/-- What is kept of a team. -/
def savedTeamOf (s : State) (t : Nat) : SavedTeam :=
  let tm := teamAt s t
  let gs := teamGroups s t
  let ops := pressOf s t
  let grans := savedGrans s t
  let marks := fun (l : List Nat) =>
    spaceMarks s tm false l ++ (spaceMarks s tm true l).filter (fun e => grans.contains e.2)
  { uid := t, team := { tm with preemptAt := none }
    groups := gs.map (fun e => restoredAs (groupLive s e.1 e.2) e.2)
    scratch := mapSetList 0 [] 0 (sramRead s tm false 0 (teamBytes tm false))
    opbuf := grans.foldl (fun m i => mapSetList 0 m (32 * i) (sramRead s tm true (32 * i) 32)) []
    poison := marks s.sram.poison
    tags := if savesWords s t then marks s.sram.tags else []
    ops
    locks := (coreAt s tm.core).locks.filter (fun l => ops.any (fun o => o.id == l.op))
    place := tm.saveSlot
    room := saveRoom (nodeAt s tm.node).hdr }

/-- The pieces of a save area's writing: the images, the scratchpad, and what is saved of the operand buffer. -/
def savePieces (s : State) (t : Nat) : List (Nat × List PByte) :=
  let tm := teamAt s t
  let h := (nodeAt s tm.node).hdr
  let k := (nodeAt s tm.node).ctx
  let base := saveBase s k + tm.saveSlot
  let img := blocks4K (0x600 + 256 * h.allot)
  let space := fun (ob : Bool) (a n : Nat) (l : List Nat) => l.map (fun i =>
    (a + n * i, (List.range n).map (fun j => (sramGet s (sramByte s tm ob (n * i + j)), sramPoisoned s tm ob (n * i + j) 1))))
  let buf := base + img * h.groups + teamBytes tm false
  ((teamGroups s t).map (fun e =>
    let live := groupLive s e.1 e.2
    (imageParts live.isNone (live.getD 0) e.2).map (fun q => (base + img * e.2.groupId + q.1, pbytes q.2 false)))).flatten ++
  space false (base + img * h.groups) 4096 (List.range (teamBytes tm false / 4096)) ++
  (if savesBuffer s t then space true buf 4096 (List.range (teamBytes tm true / 4096))
   else space true buf 32 (savedGrans s t))

/-- The pages that a save writes. -/
def saveVas (s : State) (ts : List Nat) : List Nat :=
  ((ts.map (fun t =>
    let tm := teamAt s t
    let n := nodeAt s tm.node
    (piecesOf (saveBase s n.ctx + tm.saveSlot) (saveRoom n.hdr)).map (·.1))).flatten)

/-- A team leaves its core with its state saved. -/
def saveTeam (s : State) (t : Nat) : State :=
  let tm := teamAt s t
  let k := (nodeAt s tm.node).ctx
  let s := (s.ops.filter (fun o => o.team == t && o.press)).foldl flushC s
  let x := savedTeamOf s t
  let s := (savePieces s t).foldl (fun s q =>
    match winCheck s k true q.1 with
    | none => writePiece s k q.1 q.2
    | some _ => s) s
  let s := { s with
    saved := s.saved ++ [x]
    groups := mapKeep s.groups (fun _ g => g.team != t)
    teams := mapDel s.teams t
    ops := s.ops.filter (fun o => !x.ops.any (fun y => y.id == o.id)) }
  updCore s tm.core (fun c => { c with locks := c.locks.filter (fun l => !x.locks.contains l) })

/-- A cluster's teams leave their cores. Their L1s' dirty bytes move to the proxy slices (R204), groups that have exited count
as arrived in their barriers (R319), and the tasting unit grants what waited behind theirs (R324). -/
def takeAway (s : State) (ts : List Nat) : State :=
  let teams := ts.map (teamAt s)
  let s := drainL1 s (teams.map (fun t => teamL1s s t.uid t.core)).flatten.dedup
  let s := (ts.map (fun t => (teamGroups s t).map (fun e => (t, e.2)))).flatten.foldl (fun s e =>
    if e.2.exited = 0xFFFFFFFF then advanceAll s e.1 e.2.uid else s) s
  (teams.map (·.node)).dedup.foldl settleTaste (teams.foldl endFusion (ts.foldl saveTeam s))

/-- The save of a cluster, once its save area's bins are awake and its ZERO pages have frames. -/
def saveCluster (s : State) (ts : List Nat) (k : Nat) : Result :=
  let vas := saveVas s ts
  whenAwake s ((vas.filterMap (pieceAsleep s k)).dedup) (withFrames s k vas (.next (takeAway s ts)))

/-- A pending save that names a team, the first of its cluster: its context and teams. -/
def pendingSave (s : State) (team : Nat) : Option (Nat × List Nat × Nat) :=
  match mapFind s.teams team with
  | none => none
  | some tm =>
    let ts := savedWith s tm
    match tm.preemptAt, ts.head? with
    | some at', some t => if t = team && clusterSettled s ts then some ((nodeAt s tm.node).ctx, ts, at') else none
    | _, _ => none

/-- TEAM_SAVE: every group of the cluster stands at safe points, in its handler, or stopped. -/
def execTeamSave (team : Nat) (s : State) : Result :=
  match pendingSave s team with
  | some (k, ts, _) => if clusterSafe s ts then saveCluster s ts k else .fault .notEnabled
  | none => .fault .notEnabled

/-- FORCED_SAVE: 20 µs after the request some group has not stopped; those that have not are saved in full. -/
def execForcedSave (team : Nat) (s : State) : Result :=
  match pendingSave s team with
  | some (k, ts, at') =>
    if clusterSafe s ts || s.clk.ns < at' + 20000 then .fault .notEnabled else saveCluster s ts k
  | none => .fault .notEnabled

end Sys2Proof.Machine
end

