-- ==== Sys2Proof/Machine/Errors.lean ====
section
/-! DEFINITION. Machine errors (21 R302-R304), and the events of the memory system's control: the switch of domains and range
write-backs (25 R334-R337), key slots (25 R341), the power states of bins and BWPHASE (25 R343-R349). -/

namespace Sys2Proof.Machine

/-! ### Errors -/

/-- A counter that saturates at all ones (R304). -/
def satInc (c : BitVec 32) : BitVec 32 := if c = 0xFFFFFFFF then c else c + 1

def countTransient (s : State) (p : Option Nat) : State :=
  match p with
  | some p => updPart s p (fun x => { x with transient := satInc x.transient })
  | none => s

/-- The partition in whose unit an error lies. -/
def errPart (s : State) (e : ErrPlace) : Option Nat :=
  match e with
  | .line l | .proxy _ l | .shadow l => ownerPart s.out.binOwner (binOf (128 * l))
  | .view p _ _ => some p
  | .l1 c _ => ownerPart s.out.coreOwner c
  | .sram c _ => ownerPart s.out.coreOwner c
  | .group gid _ => ownerPart s.out.coreOwner (gidCore gid)
  | .engine k => some (ctxPart k)

/-- Whether there is something at a place that a read could find faulty. -/
def errPossible (s : State) (e : ErrPlace) : Bool :=
  match e with
  | .line l => decide (128 * l < cellarTop)
  | .proxy d l => (proxyAt s d l).isSome
  | .shadow l => decide (mapGet 0 s.mem.shadowed (frameOf (128 * l)) ≠ 0)
  | .view p w l => (viewAt s p w (128 * l)).isSome
  | .l1 c l => (copyAt (coreAt s c).l1 l).isSome
  | .sram c q => decide (c < 336 ∧ q < 32768)
  | .group gid _ =>
    match mapFind s.groups gid with
    | some g => g.stopped.isNone && g.exited != 0xFFFFFFFF
    | none => false
  | .engine k => (ctxAt s k).kill.isNone

/-- The lanes whose counter a group stopped by an error reports: the run that would take a latched cause, or the lowest
lane's. -/
def errLanes (s : State) (gid : Nat) (g : Group) : LaneMask :=
  match latchTaker s gid g with
  | some m => m
  | none => laneBit (lowLane (~~~g.exited))

/-- The slices' copy of a line for SHADOW pages is faulty: it is taken from home first where the line has not changed since. -/
def poisonShadow (m : Mem) (l : Nat) : Mem :=
  let m := keepShadow m l
  { m with shadows := mapUpd m.shadows l (fun c => { c with poison := true }) }

/-- An error that the retry meets again (R302). -/
def hardError (s : State) (e : ErrPlace) : State :=
  match e with
  | .line l => { s with mem := poisonLine (keepShadow s.mem l) l }
  | .proxy d l => (match proxyAt s d l with
    | some c => putProxy s d { c with poison := true }
    | none => s)
  | .shadow l => { s with mem := poisonShadow s.mem l }
  | .view p w l =>
    let hit := fun (v : ViewLine) => v.part == p && v.win == w && v.off == 128 * l
    { s with mem := { s.mem with views := s.mem.views.map (fun v => if hit v then { v with poison := true } else v) } }
  | .l1 c l =>
    updCore s c (fun x => { x with l1 := (x.l1.filter (fun y => y.line != l || y.mask != 0)).map (fun y =>
      if y.line = l then { y with poison := true } else y) })
  | .sram c q => { s with sram := { s.sram with poison := insertNat s.sram.poison (c * 32768 + q) } }
  | .group gid r =>
    let g := groupAt s gid
    let lanes := errLanes s gid g
    settleTaste (stopGroup s gid lanes (causeWord 0xB0 r) (epcWord (pcGet g (lowLane lanes)) none) false)
      (teamAt s g.team).node
  | .engine k => killContext (postNoGroup s k 0xB2 0) k (causeWord 0x95 (256 + ctxNum k))

/-- UNCORRECTABLE_ERROR: counted as transient where the retry reads correctly, else handled by where it lies. -/
def execUncorrectableError (place : ErrPlace) (retryOk : Bool) (s : State) : Result :=
  if !errPossible s place then .fault .notEnabled
  else .next (if retryOk then countTransient s (errPart s place) else hardError s place)

/-- CORRECTED_ERROR (R304). -/
def execCorrectedError (part : Nat) (s : State) : Result :=
  .next (updPart s part (fun x => { x with corrected := satInc x.corrected }))

/-- LINK_ERROR: cause 0xB3 with the die and the port (R303). -/
def execLinkError (part die port : Nat) (s : State) : Result :=
  .next (postNoGroup s (256 * part) 0xB3 (256 * die + port))

/-! ### The switch (R334-R336) -/

/-- A view line changes its home with the stored line it is decoded from (R338). -/
def viewMoves (s : State) (p : Nat) (v : ViewLine) : Bool :=
  v.part == p && moves s p (viewStored (mapGet {} (partAt s p).fwins v.win) v.off)

/-- The bins that some lines wait for. -/
def linesAsleep (s : State) (ls : List Nat) : List Nat :=
  (((ls.map (fun l => binOf (128 * l))).dedup).filter (fun b => (binAt s b).alloc && (binAt s b).state != 0))

/-- Every staged mask and every staged domain takes effect at one instant, with those staged since GO (R333, R334). -/
def switchNow (s : State) (p : Nat) : State :=
  let gone := (dirtyLines s.mem).filter (moves s p)
  let views := s.mem.views.filter (fun v => !viewMoves s p v)
  let m := { gone.foldl writeBackLine s.mem with views }
  let s := { s with mem := m, bins := mapAll s.bins (fun b x => if binOwned s p b then { x with dom := x.sdom } else x) }
  updPart s p (fun x => { x with masks := stagedMasks x, staged := [], switching := false })

/-- SWITCH_POINT, with steps 2 to 4 of R334. -/
def execSwitchPoint (part : Nat) (s : State) : Result :=
  if !(partAt s part).switching then .fault .notEnabled
  else whenAwake s (linesAsleep s ((dirtyLines s.mem).filter (moves s part))) (.next (switchNow s part))

/-- SLWB_DONE: the dirty lines of the range are in the cellar and kept clean (R337). -/
def execSlwbDone (part : Nat) (s : State) : Result :=
  match (partAt s part).slwb with
  | none => .fault .notEnabled
  | some (lo, n) =>
    let ls := (dirtyLines s.mem).filter (fun l => decide (lo ≤ l ∧ l < lo + n))
    whenAwake s (linesAsleep s ls)
      (.next (updPart { s with mem := ls.foldl writeBackLine s.mem } part (fun x => { x with slwb := none })))

/-! ### Key slots (R341) -/

/-- The sessions of a function end (R369). -/
def endSessions (s : State) (fn : Nat) (keep : Option Nat) : State :=
  let o := s.out
  let x := mapGet {} o.spdm fn
  let y := { x with sessions := x.sessions.filter (fun y => some y.id == keep) }
  { s with out := { o with spdm := mapSet {} o.spdm fn y } }
/-- A measured property of a partition changes: its function's sessions end. -/
def measuredChange (s : State) (p : Option Nat) : State :=
  match p with
  | some p => endSessions s (p + 1) none
  | none => s

/-- Every view line of a partition leaves the caches of its cores; what loads have already read no longer fills them. -/
def dropViewCopies (s : State) (p : Nat) : State :=
  let isView := fun (l : Nat) => decide (viewBase ≤ 128 * l)
  { s with
    cores := mapAll s.cores (fun c x =>
      if coreOwned s p c then { x with l1 := x.l1.filter (fun l => !isView l.line), cc := x.cc.filter (fun l => !isView l.line) }
      else x)
    reqs := s.reqs.map (fun r =>
      if ctxPart r.ctx = p ∧ r.attr.fmt = true ∧ r.stage = .accepted then { r with fill := false } else r) }

/-- KEY_SLOT_EMPTIED: the view lines decrypted with the key are gone; the slot is empty and a waiting owner entry takes
effect, which changes what is measured of the partition that owned the slot (R341, R350, R369). -/
def execKeySlotEmptied (slot : Nat) (s : State) : Result :=
  let k := mapGet {} s.out.slots slot
  if !k.emptying then .fault .notEnabled
  else
    let s := match ownerPart s.out.slotOwner slot with
      | some p => dropViewCopies s p
      | none => s
    let s := { s with mem := { s.mem with views := s.mem.views.filter (fun v => v.slot != slot) } }
    let o := s.out
    let empty : SMap KeySlot := mapSet {} o.slots slot {}
    .next (match k.owner with
      | some e =>
        measuredChange { s with out := { o with slots := empty, slotOwner := mapSet 0 o.slotOwner slot e } }
          (ownerPart o.slotOwner slot)
      | none => { s with out := { o with slots := empty } })

/-! ### Bins (R343-R349) -/

/-- BINIDLE.TIME of the bin's partition in nanoseconds; none where it is never. -/
def binTime (s : State) (b : Nat) : Option Nat :=
  match ownerPart s.out.binOwner b with
  | none => none
  | some p => if (partAt s p).binidle = 0 then none else some ((partAt s p).binidle.toNat * 1000)

/-- A bin may leave A: 1 µs without access, not held at A; an access that waits to be performed keeps it there (R345). -/
def mayStandby (s : State) (b : Nat) : Bool :=
  let x := binAt s b
  x.alloc && x.state == 0 && x.wake.isNone && decide (x.last + 1000 ≤ s.clk.ns) && bwHold s b != some 0 &&
    !s.reqs.any (fun r => r.stage == .queued && !isPref r && binOf r.pa == b)

/-- BIN_TO_STANDBY. -/
def execBinToStandby (bin : Nat) (s : State) : Result :=
  if mayStandby s bin then .next (updBin s bin (fun x => { x with state := 1 })) else .fault .notEnabled

/-- A bin may leave S for T: TIME since its last access, not held. -/
def mayRetain (s : State) (b : Nat) : Bool :=
  let x := binAt s b
  x.alloc && x.state == 1 && x.wake.isNone && (bwHold s b).isNone &&
    (match binTime s b with
      | some t => decide (x.last + t ≤ s.clk.ns)
      | none => false)

/-- BIN_TO_RETENTION. -/
def execBinToRetention (bin : Nat) (s : State) : Result :=
  if mayRetain s bin then .next (updBin s bin (fun x => { x with state := 2 })) else .fault .notEnabled

/-- A bin's contents are gone: every byte reads zero, no zero bit is set, no cache holds a line of it; tags go on. -/
def clearBin (s : State) (b : Nat) : State :=
  let mine := fun (l : Nat) => binOf (128 * l) == b
  let m := s.mem
  { s with
    mem := { m with
      cellar := mapKeep m.cellar (fun a _ => binOf a != b)
      dirty := mapKeep m.dirty (fun a _ => binOf a != b)
      zbit := m.zbit.filter (fun l => !mine l)
      poison := m.poison.filter (fun l => !mine l)
      proxies := mapKeep m.proxies (fun _ c => !mine c.line)
      shadows := mapKeep m.shadows (fun _ c => !mine c.line) }
    -- no load in flight brings a line of it back
    reqs := s.reqs.map (fun r => if mine (lineOf r.pa) then { r with fill := false } else r)
    cores := mapAll s.cores (fun _ c => { c with l1 := c.l1.filter (fun l => !mine l.line), cc := c.cc.filter (fun l => !mine l.line) }) }

/-- The event records that waited for a bin of their partition (R297, R345). -/
def resumeBin (s : State) (b : Nat) : State :=
  match ownerPart s.out.binOwner b with
  | some p => resumeEvents s p
  | none => s

/-- BIN_WAKE_DONE: the bin is in the state it was woken to, zeroed after D; the accesses that waited for it are performed from
now on, so that its time without access begins anew. -/
def execBinWakeDone (bin : Nat) (s : State) : Result :=
  let x := binAt s bin
  match x.wake with
  | none => .fault .notEnabled
  | some (st, t) =>
    if s.clk.ns < t then .fault .notEnabled
    else
      let s := if x.clear then clearBin s bin else s
      let s := updBin s bin (fun x =>
        { x with state := st, wake := none, clear := false, awaited := false
                 last := if x.clear || x.awaited then s.clk.ns else x.last })
      .next (resumeBin s bin)

/-- BIN_POWER_DOWN (R346). -/
def execBinPowerDown (bin : Nat) (s : State) : Result :=
  if (binAt s bin).falling then .next (resumeBin (updBin (clearBin s bin) bin (fun x => { x with falling := false })) bin)
  else .fault .notEnabled

/-- BWPHASE_ARRIVAL: the oldest value on its way reaches the controllers (R348, R349). -/
def execBwphaseArrival (part : Nat) (s : State) : Result :=
  match (partAt s part).bwSent with
  | [] => .fault .notEnabled
  | (_, w) :: rest =>
    let s := updPart s part (fun x => { x with bwSent := rest, bwNow := w })
    .next { s with bins := mapAll s.bins (fun b x => if binOwned s part b then phaseWake s.clk.ns (bwHold s b) x else x) }

end Sys2Proof.Machine
end

