-- ==== Sys2Proof/Machine/Extended.lean ====
section
/-! DEFINITION. The extended majors 0x1E-0x20 but for the cross-lane operations: integer, floating-point, conversion,
special-function and codebook instructions (07 R92-R109). -/

namespace Sys2Proof.Machine

/-- An extended operation with two register sources. -/
def ext2 (x : XArgs) (op : List Nat → Word → Word → Res) (s : State) : Result :=
  regOp (selX true false x) (fun v _ o => op (cbList v) o.a o.b) s
/-- An extended operation with one register source. -/
def ext1 (x : XArgs) (op : List Nat → Word → Res) (s : State) : Result :=
  regOp (selX false false x) (fun v _ o => op (cbList v) o.a) s
/-- An extended operation with three register sources and the old d. -/
def ext3 (x : XArgs) (op : List Nat → Opnds → Res) (s : State) : Result :=
  regOp (selX true true x) (fun v _ o => op (cbList v) o) s

/-! ### Integer instructions (R93-R98) -/

/-- add.T (R94). -/
def execAddX (x : XArgs) (s : State) : Result := ext2 x (fun _ => addOp x.ty x.sat) s
/-- sub.T (R94). -/
def execSubX (x : XArgs) (s : State) : Result := ext2 x (fun _ => subOp x.ty x.sat) s
/-- mul.T (R94). -/
def execMulX (x : XArgs) (s : State) : Result := ext2 x (fun _ => mulOp x.ty x.sat) s
/-- mulhi.T: floor(x y / 2^w) (R93). -/
def execMulhi (x : XArgs) (s : State) : Result := ext2 x (fun _ => mulhiOp x.ty) s
/-- mad.T: x y + z (R93). -/
def execMad (x : XArgs) (s : State) : Result := ext3 x (fun _ o => madOp x.ty x.sat o.a o.b o.c) s
/-- min.T (R93). -/
def execMinX (x : XArgs) (s : State) : Result := ext2 x (fun _ => minOp x.ty) s
/-- max.T (R93). -/
def execMaxX (x : XArgs) (s : State) : Result := ext2 x (fun _ => maxOp x.ty) s
/-- abs.T of an integer type (R93, R94). -/
def execAbsX (x : XArgs) (s : State) : Result := ext1 x (fun _ => absOp x.ty x.sat) s
/-- neg.T of an integer type (R93, R94). -/
def execNegX (x : XArgs) (s : State) : Result := ext1 x (fun _ => negOp x.ty x.sat) s
/-- and (R93). -/
def execAndX (x : XArgs) (s : State) : Result := ext2 x (fun _ a b => (a &&& b, 0)) s
/-- or (R93). -/
def execOrX (x : XArgs) (s : State) : Result := ext2 x (fun _ a b => (a ||| b, 0)) s
/-- xor (R93). -/
def execXorX (x : XArgs) (s : State) : Result := ext2 x (fun _ a b => (a ^^^ b, 0)) s
/-- not (R93). -/
def execNotX (x : XArgs) (s : State) : Result := ext1 x (fun _ a => (~~~a, 0)) s
/-- shl (R95). -/
def execShlX (x : XArgs) (s : State) : Result := ext2 x (fun _ => shiftOp x.ty shlBits) s
/-- shr (R95). -/
def execShrX (x : XArgs) (s : State) : Result := ext2 x (fun _ => shiftOp x.ty shrBits) s
/-- sar (R95). -/
def execSarX (x : XArgs) (s : State) : Result := ext2 x (fun _ => shiftOp x.ty sarBits) s
/-- rot (R95). -/
def execRotX (x : XArgs) (s : State) : Result := ext2 x (fun _ => shiftOp x.ty rotBits) s
/-- popc (R95). -/
def execPopcX (x : XArgs) (s : State) : Result := ext1 x (fun _ => bitUn x.ty popcBits) s
/-- clz (R95). -/
def execClzX (x : XArgs) (s : State) : Result := ext1 x (fun _ => bitUn x.ty clzBits) s
/-- brev (R95). -/
def execBrevX (x : XArgs) (s : State) : Result := ext1 x (fun _ => bitUn x.ty brevBits) s
/-- bfx (R96). -/
def execBfx (x : XArgs) (s : State) : Result := ext3 x (fun _ o => bfxOp x.ty o.a o.b o.c) s
/-- bfi (R96). -/
def execBfi (x : XArgs) (s : State) : Result := ext3 x (fun _ o => bfiOp x.ty o.d o.a o.b o.c) s
/-- sel.T d, a, b, pN: a whole register by the predicate (R98). -/
def execSel (x : XArgs) (s : State) : Result :=
  regOp (selX true false x) (fun v l o => (if pGet v (x.c.toNat % 8) l then o.a else o.b, 0)) s
/-- A compare of two registers: the condition of an element, with the flags that element raises. With PD 0 every
sub-element of d becomes all ones or zero; with PD 1 a predicate receives the condition of sub-element k (R98). -/
def cmpOp (x : XArgs) (cond : List Nat → Word → Word → Nat → Bool × Flags) (s : State) : Result :=
  if x.imm.getLsbD 4 then
    predOp (selX true false x) (fun v _ o => cond (cbList v) o.a o.b (x.imm.extractLsb' 0 4).toNat) s
  else
    ext2 x (fun cb a b => eachElem x.ty (fun k =>
      let r := cond cb a b k
      (onesIf (tyWidth x.ty) r.1, r.2))) s
/-- cmp.cond.T (R98). -/
def execCmp (x : XArgs) (s : State) : Result :=
  cmpOp x (fun _ a b k => (condI x.aux.toNat (elemI x.ty a k) (elemI x.ty b k), 0)) s
/-- mov (R93). -/
def execMovX (x : XArgs) (s : State) : Result := ext1 x (fun _ a => (a, 0)) s
/-- dot4 (R97). -/
def execDot4 (x : XArgs) (s : State) : Result :=
  ext3 x (fun _ o => sumOp x.ty x.sat (fun a b => a * b) o.a o.b o.c) s
/-- sad (R97). -/
def execSad (x : XArgs) (s : State) : Result :=
  ext3 x (fun _ o => sumOp x.ty x.sat (fun a b => ((a - b).natAbs : Int)) o.a o.b o.c) s

/-! ### Floating-point instructions (R99-R101) -/

/-- fadd (R100). -/
def execFaddX (x : XArgs) (s : State) : Result := ext2 x (fun cb => faddOp cb x.ty x.rnd x.sat) s
/-- fsub (R100). -/
def execFsubX (x : XArgs) (s : State) : Result := ext2 x (fun cb => fsubOp cb x.ty x.rnd x.sat) s
/-- fmul (R100). -/
def execFmulX (x : XArgs) (s : State) : Result := ext2 x (fun cb => fmulOp cb x.ty x.rnd x.sat) s
/-- ffma: one rounding (R42, R100). -/
def execFfma (x : XArgs) (s : State) : Result := ext3 x (fun cb o => ffmaOp cb x.ty x.rnd x.sat o.a o.b o.c) s
/-- fmin (R43, R100). -/
def execFminX (x : XArgs) (s : State) : Result := ext2 x (fun cb => fminOp cb x.ty false) s
/-- fmax (R43, R100). -/
def execFmaxX (x : XArgs) (s : State) : Result := ext2 x (fun cb => fminOp cb x.ty true) s
/-- fcmp (R100). -/
def execFcmp (x : XArgs) (s : State) : Result :=
  cmpOp x (fun cb a b k => condF x.aux.toNat (elemV cb x.ty a k) (elemV cb x.ty b k)) s
/-- frnd (R101). -/
def execFrnd (x : XArgs) (s : State) : Result := ext1 x (fun cb => frndOp cb x.ty x.rnd) s

/-! ### Conversions (R102-R104) -/

/-- The source type of a conversion, which the decoder has checked (R102). -/
def srcTy (x : XArgs) : Ty := (tyOf x.aux).getD .i64
/-- cvt.T.U: one part (R103). -/
def execCvt (x : XArgs) (s : State) : Result :=
  regOp (selX false false x)
    (fun v _ o => cvtPart (cbList v) x.ty (srcTy x) (cvtMode x.ty x.rnd) x.sat x.imm.toNat o.d o.a) s
/-- pack.T.U: a into part h of d and b into part h + 1 (R104). -/
def execPack (x : XArgs) (s : State) : Result :=
  regOp (selX true false x) (fun v _ o =>
    let cb := cbList v
    let m := cvtMode x.ty x.rnd
    let r := cvtPart cb x.ty (srcTy x) m x.sat x.imm.toNat o.d o.a
    let q := cvtPart cb x.ty (srcTy x) m x.sat (x.imm.toNat + 1) r.1 o.b
    (q.1, r.2 ||| q.2)) s
/-- unpack.T.U: part h of a into d and part h + 1 into d + 1; both read before either is written (R104, R90). -/
def execUnpack (x : XArgs) (s : State) : Result :=
  issuer s fun f g =>
    let v := seen f g
    let cb := cbList v
    let d2 := x.d + 1
    let part := fun (h : Nat) (o a : Word) => cvtPart cb x.ty (srcTy x) (cvtMode x.ty x.rnd) x.sat h o a
    if x.form = .s then
      let a := sGet v x.a.toNat
      let r := part x.imm.toNat (sGet v x.d.toNat) a
      let q := part (x.imm.toNat + 1) (sGet v d2.toNat) a
      done f (raiseFlags (sSet (sSet g x.d.toNat r.1) d2.toNat q.1) (r.2 ||| q.2)) s
    else
      withRegs f g [x.d, x.a, d2] s
        (let rs := (lanesOf (active f v x.neg x.p)).map (fun l =>
           let a := readV v x.a l
           (l, part x.imm.toNat (readV v x.d l) a, part (x.imm.toNat + 1) (readV v d2 l) a))
         let fl := rs.foldl (fun fl e => fl ||| e.2.1.2 ||| e.2.2.2) 0
         let g := writeLanes g (vReg v x.d) (rs.map (fun e => (e.1, e.2.1.1)))
         done f (raiseFlags (writeLanes g (vReg v d2) (rs.map (fun e => (e.1, e.2.2.1)))) fl) s)

/-! ### Special-function instructions (R105, R106) -/

/-- exp2: a code within the bound of R106. -/
def execExp2 (x : XArgs) (s : State) : Result := ext1 x (fun cb => sfuOpOn cb .exp2 x.ty x.sat) s
/-- log2: a code within the bound of R106. -/
def execLog2 (x : XArgs) (s : State) : Result := ext1 x (fun cb => sfuOpOn cb .log2 x.ty x.sat) s
/-- rcp: correctly rounded (R105). -/
def execRcp (x : XArgs) (s : State) : Result := ext1 x (fun cb => exactSfu cb frcpVal x.ty x.rnd x.sat) s
/-- rsqrt: a code within the bound of R106. -/
def execRsqrt (x : XArgs) (s : State) : Result := ext1 x (fun cb => sfuOpOn cb .rsqrt x.ty x.sat) s
/-- sqrt: correctly rounded (R105). -/
def execSqrt (x : XArgs) (s : State) : Result := ext1 x (fun cb => exactSfu cb fsqrtVal x.ty x.rnd x.sat) s
/-- sin: a code within the bound of R106. -/
def execSin (x : XArgs) (s : State) : Result := ext1 x (fun cb => sfuOpOn cb .sin x.ty x.sat) s
/-- cos: a code within the bound of R106. -/
def execCos (x : XArgs) (s : State) : Result := ext1 x (fun cb => sfuOpOn cb .cos x.ty x.sat) s
/-- tanh: a code within the bound of R106. -/
def execTanh (x : XArgs) (s : State) : Result := ext1 x (fun cb => sfuOpOn cb .tanh x.ty x.sat) s

/-! ### Codebook instructions (R107-R109) -/

/-- cbld.bf16 sA, mask: quarter q from register A + q where the mask says so (R107). -/
def execCbld (x : XArgs) (s : State) : Result :=
  issuer s fun f g =>
    let v := seen f g
    let qs := (List.range 4).filter (fun q => x.imm.getLsbD q)
    let cb := qs.foldl (fun cb q => (List.range 4).foldl (fun cb i =>
      mapSet 0 cb (4 * q + i) (BitVec.ofNat 16 (elemW 16 (sGet v (x.a.toNat + q)) i))) cb) g.codebook
    done f { g with codebook := cb } s
/-- cbrd.bf16 d, q: entries 4q to 4q + 3 (R108). -/
def execCbrd (x : XArgs) (s : State) : Result :=
  regOp { selX false false x with useA := false } (fun v _ _ =>
    let q := (x.imm.extractLsb' 0 2).toNat
    (packElems .bf16 ((List.range 4).map (fun i => (cbList v).getD (4 * q + i) 0)), 0)) s
/-- cbq: values snapped to the codebook (R109). -/
def execCbq (x : XArgs) (s : State) : Result := ext1 x (fun cb => cbqOp cb x.ty x.rnd x.sat) s

end Sys2Proof.Machine
end

