-- ==== Sys2Proof/Machine/Mailbox.lean ====
section
/-! DEFINITION. The host's side (27 R350-R362, R371-R373): bring-up, owner entries, features, the registers of the functions,
root posts and the boot of a partition, messages and replies, cooling. -/

namespace Sys2Proof.Machine

/-! ### Presence -/

/-- BAR writes count once the package is ready (R371, R372). -/
def barOpen (s : State) : Bool := s.out.ready && !s.out.recovery
/-- The virtual function of a partition is there (R353). -/
def vfThere (s : State) (p : Nat) : Bool := barOpen s && decide (p < s.out.numVfs)

/-! ### Bring-up (R371, R372) -/

/-- PERST_DEASSERT: everything at reset but host memory, and the sequence tags, which never repeat in the package's life
(R346); the boot ROM then verifies the firmware. -/
def execPerstDeassert (s : State) : Result :=
  .next { State.reset with
    agenda := s.agenda, picks := s.picks, fresh := s.fresh, mem := { tags := s.mem.tags }
    out := { mem := s.out.mem, powered := true, recovery := !Config.firmwareOk } }

/-- TRAINING_DONE: READY. -/
def execTrainingDone (s : State) : Result :=
  if s.out.powered && !s.out.ready && !s.out.recovery then .next { s with out := { s.out with ready := true } }
  else .fault .notEnabled

/-! ### Owner entries (R350) -/

/-- The entries of a kind of unit. -/
def ownerMap (o : Outside) (u : UnitKind) : SMap (BitVec 8) :=
  match u with
  | .core => o.coreOwner
  | .slice => o.sliceOwner
  | .slot => o.slotOwner
  | .bin => o.binOwner
def putOwner (o : Outside) (u : UnitKind) (i : Nat) (v : BitVec 8) : Outside :=
  match u with
  | .core => { o with coreOwner := mapSet 0 o.coreOwner i v }
  | .slice => { o with sliceOwner := mapSet 0 o.sliceOwner i v }
  | .slot => { o with slotOwner := mapSet 0 o.slotOwner i v }
  | .bin => { o with binOwner := mapSet 0 o.binOwner i v }
def unitCount : UnitKind → Nat
  | .core => 336
  | .slice => 192
  | .slot => 256
  | .bin => 4608

/-- A slice is in a domain of its partition. -/
def sliceUsed (s : State) (i : Nat) : Bool :=
  s.parts.any (fun e => sliceOwned s e.1 i && e.2.masks.any (fun m => m.1 / 16 == i / 48 && m.2.getLsbD (i % 48)))

/-- A unit is idle. -/
def unitIdle (s : State) (u : UnitKind) (i : Nat) : Bool :=
  match u with
  | .core => ((coreTeams s i).filter (fun t => !t.gone)).isEmpty
  | .slice => !sliceUsed s i
  | .slot =>
    let k := mapGet {} s.out.slots i
    k.key.isNone && !k.emptying
  | .bin => !(binAt s i).alloc

/-- What a unit holds does not go to the next partition (R351; log entry 4): a core's L1, constant cache, translations and SRAM
are emptied; the slices of a die write the dirty bytes of their proxy copies home and drop the copies. -/
def clearUnit (s : State) (u : UnitKind) (i : Nat) : State :=
  match u with
  | .core =>
    let s := clearFills (updCore (drainL1 s [i]) i (fun x => { x with l1 := [], cc := [], tlb := [] })) i (fun _ => true)
    { s with sram := {
        bytes := mapKeep s.sram.bytes (fun a _ => decide (a / 2 ^ 20 ≠ i))
        tags := s.sram.tags.filter (fun q => decide (q / 32768 ≠ i))
        poison := s.sram.poison.filter (fun q => decide (q / 32768 ≠ i)) } }
  | .slice =>
    let ls := (s.mem.proxies.filter (fun e => sliceDie (e.1 / 2 ^ 45) == i / 48)).map (·.1 % 2 ^ 45)
    ls.foldl (fun s l => dropProxy (cleanProxy s (i / 48) l) (i / 48) l) s
  | .slot | .bin => s

/-- A write of an owner entry: an idle unit changes hands; a loaded key slot whose VALID is cleared is emptied first, or as the
emptying under way ends; any other write is ignored. -/
def writeOwner (s : State) (u : UnitKind) (i : Nat) (v : BitVec 8) : State :=
  let v := v &&& 0x8F
  let old := mapGet 0 (ownerMap s.out u) i
  if v = old then s
  else if unitIdle s u i then
    let s := clearUnit s u i
    let s' := { s with out := putOwner s.out u i v }
    measuredChange (measuredChange s' (ownerPart (ownerMap s.out u) i)) (ownerPart (ownerMap s'.out u) i)
  else if u = .slot ∧ v.getLsbD 7 = false ∧ (mapGet {} s.out.slots i).key.isSome = true then
    let k := mapGet {} s.out.slots i
    let k := { k with emptying := true, owner := some v }
    measuredChange { s with out := { s.out with slots := mapSet {} s.out.slots i k } } (ownerPart s.out.slotOwner i)
  else s

/-- OWNER_ENTRY_WRITE: a write before READY is ignored (R372). -/
def execOwnerEntryWrite (unit : UnitKind) (idx : Nat) (v : BitVec 8) (s : State) : Result :=
  .next (if barOpen s && decide (idx < unitCount unit) then writeOwner s unit idx v else s)

/-- The virtual functions above NumVFs are absent, and so are their partitions (R353). -/
def setVfs (s : State) (n : Nat) : State :=
  let s := { s with out := { s.out with numVfs := n } }
  (List.range 16).foldl (fun s p => updPart s p (fun x => { x with absent := decide (n ≤ p) })) s

/-- NUMVFS_WRITE (R353): a configuration request, which is answered once the package is ready (R372). -/
def execNumvfsWrite (n : Nat) (s : State) : Result :=
  .next (if !barOpen s || decide (16 < n) then s else setVfs s n)

/-! ### Features (R355) -/

/-- The features that FEATn offers. -/
def featOffer (n : Nat) : Word := if n = 0 then 0x3FF else 0

/-- A write of FEATACCn: the offered bits, while the partition is not started. -/
def writeFeatacc (s : State) (p n : Nat) (v : Word) : State :=
  if vfThere s p && decide (n < 4) && !(partAt s p).started then
    let w := v &&& featOffer n
    let t := updPart s p (fun x => { x with feat := mapSet 0 x.feat n w })
    if w = mapGet 0 (partAt s p).feat n then t else measuredChange t (some p)
  else s

/-- FEATACC_WRITE. -/
def execFeataccWrite (part n : Nat) (v : Word) (s : State) : Result := .next (writeFeatacc s part n v)

/-! ### Root posts (R357) -/

/-- A doorbell: ignored with ERR while a post is being checked. -/
def ringDoorbell (s : State) (p : Nat) (v : Word) : State :=
  if !vfThere s p || !v.getLsbD 0 then s
  else
    updPart s p (fun x =>
      if x.busy then { x with mbxErr := true }
      else
        let k := fieldW x.mbxctx 0 8
        { x with busy := true, postFrom := some (k, x.mbxdesc.toNat, (ctxAt s (256 * p + k)).en || (k == 0 && x.started)) })

/-- MBXDB_POST. -/
def execMbxdbPost (part : Nat) (v : Word) (s : State) : Result := .next (ringDoorbell s part v)

/-! ### Boot (R360, R361) -/

/-- The lowest of some unit numbers that a test accepts. -/
def lowestWhere (n : Nat) (f : Nat → Bool) : Option Nat := (List.range n).find? f

/-- The boot mapping's tables and leaves, in the last 2 MiB of the bin at base. -/
def bootTables (m : Mem) (base : Nat) : Mem :=
  let r := base + 0xFE00000
  let entry := fun (m : Mem) (slot e : Nat) => homeWrite m slot (leBytes 8 e)
  let m := homeWrite m r (List.replicate 0x4000 0)
  let m := entry (entry (entry m r (r + 0x1001)) (r + 0x1000) (r + 0x2001)) (r + 0x2000) (r + 0x3001)
  let m := (List.range 127).foldl (fun m i => entry m (r + 0x3000 + 8 * i) (base + i * 2 ^ 21 + 7)) m
  let frames := (List.range (127 * 32)).map (fun i => base / 65536 + i)
  let blocks := (List.range 127).map (fun i => blockKey 1 (base / 65536 + 32 * i))
  let m := frames.foldl (fun m f => { m with counts := mapSet 0 m.counts f (mapGet 0 m.counts f + 1) }) m
  let m := bumpFrames m (countLarge m [] blocks) frames blocks
  -- no later table and no page goes to any frame of the region
  { m with tables := (List.range 32).foldl (fun l i => insertNat l (r / 65536 + i)) m.tables }

/-- The boot steps: the lowest bin, its die's domain 0, the image, the mapping; none where the partition cannot be booted. -/
def bootPart (s : State) (p : Nat) : Option State :=
  let x := partAt s p
  let len := fieldW x.bootlen 0 28
  match lowestWhere 4608 (binOwned s p) with
  | none => none
  | some b =>
    let d := b / 1152
    let slices := (List.range 48).filter (fun i => sliceOwned s p (48 * d + i))
    if (lowestWhere 336 (coreOwned s p)).isNone || slices.isEmpty || decide (len = 0) || decide (254 * 2 ^ 20 < len) then none
    else
      let mask : BitVec 48 := slices.foldl (fun m i => m ||| BitVec.ofNat 48 (2 ^ i)) 0
      let base := b * 2 ^ 28
      let s := updPart s p (fun x => { x with masks := mapSet 0 x.masks (16 * d) mask })
      let s := clearBin s b
      let s := updBin s b (fun y =>
        { y with dom := 0, sdom := 0, alloc := true, state := 0, wake := none, clear := false, falling := false, awaited := false
                 last := s.clk.ns })
      let image := mapGetList 0 s.out.mem (fieldW x.bootsrc 16 48 * 65536) len
      let m := bootTables (homeWrite s.mem base image) base
      let root : Word := BitVec.ofNat 64 (base + 0xFE00000 + 1)
      some (updCtx { s with mem := m } (256 * p) (fun c => { c with ptbase := root }))

/-- The result of a check: the code, and where the node is made, its description. -/
def postCode (s : State) (p k va : Nat) (en : Bool) : Except (List Nat) (Nat × Option (Desc × Header)) :=
  let ctx := 256 * p + k
  let gate := (if en then [] else [0xF0]) ++ (if (liveNodes s ctx).isEmpty then [] else [0xF1]) ++
    (if (partAt s p).halted then [0xF2] else [])
  let res := fun (c : Option Nat) (n : Option (Desc × Header)) =>
    match leastBy id (c.toList ++ gate) with
    | some e => (e, none)
    | none => (0, n)
  match loadNode s ctx (postChk s ctx) va with
  | .asleep bs => .error bs
  | .page c _ _ => .ok (res (some c) none)
  | .bad c _ => .ok (res (some c) none)
  | .ok d h => .ok (res none (some (d, h)))

/-- MSI-X vector v of a function fires. -/
def fireMsix (s : State) (fn v : Nat) : State := { s with out := { s.out with msix := (fn, v) :: s.out.msix } }

/-- The check ends: CODE, BUSY 0, MSI-X vector 1. -/
def endPost (s : State) (p code : Nat) : State :=
  fireMsix (updPart s p (fun x => { x with busy := false, postFrom := none, code := BitVec.ofNat 8 code })) (p + 1) 1

/-- A partition starts with an accepted post to context 0 (R357): its measured state changes. -/
def startPart (s : State) (p : Nat) : State :=
  if (partAt s p).started then s else measuredChange (updPart s p (fun x => { x with started := true })) (some p)

/-- A post in a state, for a context that accepts it or not; s0 is the state to which a failed post returns. -/
def finishPost (s0 s : State) (p k va : Nat) (en : Bool) : Result :=
  match postCode s p k va en with
  | .error bs => whenAwake s0 bs (.fault .notEnabled)
  | .ok (c, none) => .next (endPost s0 p c)
  | .ok (c, some (d, h)) => .next (endPost (createNode (startPart s p) (256 * p + k) d h) p c)

/-- MAILBOX_POST_RESULT. -/
def execMailboxPostResult (part : Nat) (s : State) : Result :=
  let x := partAt s part
  match x.busy && !x.absent, x.postFrom with
  | true, some (k, va, en) =>
    if x.started then finishPost s s part k va en
    else if k ≠ 0 then .next (endPost s part 0xF0)
    else
      match bootPart s part with
      | none => .next (endPost s part 0xF3)
      | some t => finishPost s t part 0 va true
  | _, _ => .fault .notEnabled

/-! ### Messages (R362) -/

def msgLog (x : Partition) : Nat := fieldW x.mbxring 0 6
/-- The ring takes a message now. -/
def ringReady (x : Partition) : Bool :=
  decide (4 ≤ msgLog x ∧ msgLog x ≤ 7) && (x.mbxTail - x.mbxHead).toNat != 2 ^ msgLog x

/-- A message's 32 bytes. -/
def msgBytes (m : Msg) : List Byte :=
  leBytes 1 m.kind ++ leBytes 1 m.ctx ++ leBytes 2 m.tag ++ leBytes 4 0 ++ leBytes 8 m.va ++ leBytes 8 m.d0.toNat ++
    leBytes 8 m.d1.toNat

/-- MAILBOX_MESSAGE: the oldest message that waits goes into the host's ring at TAIL. -/
def execMailboxMessage (part : Nat) (s : State) : Result :=
  let x := partAt s part
  match x.msgs with
  | [] => .fault .notEnabled
  | m :: rest =>
    if !ringReady x || x.absent then .fault .notEnabled
    else
      let a := fieldW x.mbxring 12 52 * 4096 + 32 * (x.mbxTail.toNat % 2 ^ msgLog x)
      let s := { s with out := { s.out with mem := mapSetList 0 s.out.mem a (msgBytes m) } }
      .next (fireMsix (updPart s part (fun x => { x with msgs := rest, mbxTail := x.mbxTail + 1 })) (part + 1) 0)

/-- MBXREPLY (R362): a page request is granted or refused, a page return acknowledged; a reply to no open message is
ignored. A refusal sends cause 0x47 again, tied to no group. -/
def writeReply (s : State) (p : Nat) (v : Word) : State :=
  let tag := fieldW v 0 16
  match (partAt s p).asked.find? (fun m => m.tag == tag) with
  | none => s
  | some m =>
    let k := 256 * p + m.ctx
    let closed := updPart s p (fun x => { x with asked := x.asked.filter (fun y => y.tag != tag) })
    if m.kind = 3 then closed
    else
      match fieldW v 16 2 with
      | 0 => updPart closed p (fun x => { x with
          granted := x.granted.filter (fun y => !(y.1 == k && y.2.1 == m.va)) ++ [(k, m.va, fieldW v 18 46 * 65536)] })
      | 1 => postNoGroup closed k 0x47 m.va
      | _ => s

/-- MBXREPLY_WRITE. -/
def execMbxreplyWrite (part : Nat) (v : Word) (s : State) : Result :=
  .next (if vfThere s part then writeReply s part v else s)

/-- MBXPTR_WRITE: HEAD. -/
def writeMbxptr (s : State) (p : Nat) (v : Word) : State := updPart s p (fun x => { x with mbxHead := v.setWidth 32 })
def execMbxptrWrite (part : Nat) (v : Word) (s : State) : Result :=
  .next (if vfThere s part then writeMbxptr s part v else s)

/-! ### BAR0 (R354-R356, R360) -/

/-- A write of a register of a virtual function's BAR0. -/
def writeVf (s : State) (p off : Nat) (v : Word) : State :=
  let part := fun (f : Partition → Partition) => updPart s p f
  match off with
  | 0x60 | 0x68 | 0x70 | 0x78 => writeFeatacc s p ((off - 0x60) / 8) v
  | 0x100 => part (fun x => { x with mbxctx := keepBits 0xFF v })
  | 0x108 => part (fun x => { x with mbxdesc := keepBits 0x00FFFFFFFFFFFF80 v })
  | 0x110 => ringDoorbell s p v
  | 0x118 => part (fun x => { x with mbxErr := x.mbxErr && !v.getLsbD 1 })
  | 0x120 => if (partAt s p).started then s else part (fun x => { x with bootsrc := keepBits 0xFFFFFFFFFFFF0000 v })
  | 0x128 => if (partAt s p).started then s else part (fun x => { x with bootlen := keepBits 0x0FFFFFFF v })
  | 0x200 => part (fun x => { x with mbxring := keepBits 0xFFFFFFFFFFFFF03F v })
  | 0x208 => writeMbxptr s p v
  | 0x210 => writeReply s p v
  | _ => s

/-- A write of a register of the physical function's BAR0: THDEV while no partition is started, an owner entry by its low
byte; other offsets are ignored. -/
def writePf (s : State) (off : Nat) (v : Word) : State :=
  if off = 0x100 then
    if s.parts.any (fun e => e.2.started) then s else { s with out := { s.out with thdev := v.setWidth 16 } }
  else if 0x10000 ≤ off ∧ off < 0x10000 + 336 then writeOwner s .core (off - 0x10000) (v.setWidth 8)
  else if 0x10200 ≤ off ∧ off < 0x10200 + 192 then writeOwner s .slice (off - 0x10200) (v.setWidth 8)
  else if 0x10400 ≤ off ∧ off < 0x10400 + 256 then writeOwner s .slot (off - 0x10400) (v.setWidth 8)
  else if 0x11000 ≤ off ∧ off < 0x11000 + 4608 then writeOwner s .bin (off - 0x11000) (v.setWidth 8)
  else s

/-- A write of BAR0 of a function; before READY, and to an absent function, it is ignored. -/
def writeBar (s : State) (fn off : Nat) (v : Word) : State :=
  if fn = 0 then (if barOpen s then writePf s off v else s)
  else if vfThere s (fn - 1) then writeVf s (fn - 1) off v else s

/-- REGISTER_WRITE: of a control register by a supervisor, or of BAR0 by the host. A number that no map defines is no
write. -/
def execRegisterWrite (target : RegTarget) (v : Word) (s : State) : Result :=
  match target with
  | .csr p n =>
    match csrWrite s p 0 n v with
    | .done t => .next t
    | _ => .fault .notEnabled
  | .bar fn off => .next (writeBar s fn off v)

/-- What the host reads of BAR0 (R354-R356, R360). -/
def readVf (s : State) (p off : Nat) : Word :=
  let x := partAt s p
  match off with
  | 0x60 | 0x68 | 0x70 | 0x78 => mapGet 0 x.feat ((off - 0x60) / 8)
  | 0x100 => x.mbxctx
  | 0x108 => x.mbxdesc
  | 0x118 => packW [(x.code.toNat, 8), (bit01 x.mbxErr, 1), (bit01 x.busy, 0)]
  | 0x120 => x.bootsrc
  | 0x128 => x.bootlen
  | 0x200 => x.mbxring
  | 0x208 => packW [(x.mbxTail.toNat, 32), (x.mbxHead.toNat, 0)]
  | _ => 0
def readPf (s : State) (off : Nat) : Word :=
  let o := s.out
  if off = 0 then packW [(s.clk.temps.foldl max 0 % 256, 8), (bit01 o.recovery, 1), (bit01 o.ready, 0)]
  else if off = 0x40 then featOffer 0
  else if off = 0x100 then o.thdev.zeroExtend 64
  else if 0x10000 ≤ off ∧ off < 0x10000 + 336 then (mapGet 0 o.coreOwner (off - 0x10000)).zeroExtend 64
  else if 0x10200 ≤ off ∧ off < 0x10200 + 192 then (mapGet 0 o.sliceOwner (off - 0x10200)).zeroExtend 64
  else if 0x10400 ≤ off ∧ off < 0x10400 + 256 then (mapGet 0 o.slotOwner (off - 0x10400)).zeroExtend 64
  else if 0x11000 ≤ off ∧ off < 0x11000 + 4608 then (mapGet 0 o.binOwner (off - 0x11000)).zeroExtend 64
  else 0
def readBar (s : State) (fn off : Nat) : Word :=
  if fn = 0 then (if s.out.recovery && off != 0 then 0 else readPf s off)
  else if vfThere s (fn - 1) then readVf s (fn - 1) off else 0

/-! ### Cooling (R373) -/

/-- The arithmetic clock after a throttle step. -/
def nextMhz (c : Clk) : Nat :=
  if c.temps.any (fun t => decide (105 ≤ t)) then max 1000 (c.mhz - 100)
  else if c.temps.all (fun t => decide (t < 100)) then min 2500 (c.mhz + 100)
  else c.mhz

/-- A throttle step is due: 1 ms after the last one, and it changes the clock. -/
def throttleDue (c : Clk) : Bool := decide (c.lastStep + 1000000 ≤ c.ns) && nextMhz c != c.mhz

/-- THROTTLE_STEP. -/
def execThrottleStep (s : State) : Result :=
  if throttleDue s.clk then .next { s with clk := { s.clk with mhz := nextMhz s.clk, lastStep := s.clk.ns } }
  else .fault .notEnabled

/-- THERMAL_POWER_DOWN. -/
def execThermalPowerDown (s : State) : Result :=
  if s.clk.temps.any (fun t => decide (115 ≤ t)) && !s.out.down then .next { s with out := { s.out with down := true } }
  else .fault .notEnabled

end Sys2Proof.Machine
end

