-- ==== Sys2Proof/Machine/Transfer.lean ====
section
/-! DEFINITION. The bytes of engine operations (19 R262, R264, R267-R270, R272, R274): where each operation writes, what
each byte is made from, the arrival of its parts (R251, R254), and its completion. -/

namespace Sys2Proof.Machine

/-! ### Geometry of the Press (R271, R272) -/

def mmM : Nat → Nat
  | 1 => 128
  | 2 => 256
  | _ => 64
def mmN : Nat → Nat
  | 0 => 256
  | 1 => 128
  | _ => 64
def mmProducts (shape : Nat) : Nat := if shape = 3 then 4 else 1
/-- Rows of C as a memory tile (R273). -/
def mmRows (shape : Nat) : Nat := if shape = 3 then 256 else mmM shape
/-- The element type of A and of B by class (R64), and the block size (R50). -/
def clsA : Nat → Ty
  | 0 => .bf16
  | 1 | 2 => .e4m3
  | 3 | 4 => .e5m2
  | _ => .e2m1
def clsB : Nat → Ty
  | 0 => .bf16
  | 1 | 3 => .e4m3
  | 2 | 4 => .e5m2
  | _ => .e2m1
def clsKb : Nat → Nat
  | 0 | 5 => 32
  | _ => 64
/-- Bytes of the elements and of the whole tile of r rows (or columns) of K elements (R272). -/
def tileElems (cls r k : Nat) : Nat := r * k * tyWidth (clsA cls) / 8
def tileBytes (cls r k : Nat) : Nat :=
  tileElems cls r k + (if cls = 5 then r * (k / 32) else if cls = 6 then r * (k / 64) + 2 * r else 0)

/-! ### Where an operation writes -/

/-- A run in a team's space at a scratchpad address of the issuing team. -/
def segAt (s : State) (tuid a n : Nat) (role row : Nat) : List Seg :=
  match sramRef s tuid a n with
  | some r => [{ glob := false, team := r.team, lo := txAddr r, len := n, role, row }]
  | none => []
def segGlob (va n role row : Nat) : Seg := { glob := true, team := 0, lo := va, len := n, role, row }

/-- The teams of a rank mask in the cluster of a team (R261). -/
def maskTeams (s : State) (tuid : Nat) (mask : BitVec 12) : List Nat :=
  ((List.range 12).filter (fun i => mask.getLsbD i)).filterMap (fun i =>
    if i = (teamAt s tuid).rank then some tuid else clusterTeam s (teamAt s tuid) i)

/-- The bytes that an operation writes. -/
def kindSegs (s : State) (tuid : Nat) (kd : OpKind) : List Seg :=
  match kd with
  | .g2s _ dst len => segAt s tuid dst len 0 0
  | .s2g _ dst len => [segGlob dst len 0 0]
  | .s2w _ _ _ _ _ => []
  | .s2s _ dst len => segAt s tuid dst len 0 0
  | .mc _ dst len mask =>
    (maskTeams s tuid mask).map (fun t => { glob := false, team := t, lo := dst % 2 ^ 21, len })
  | .net _ _ len => [{ glob := false, team := 0, lo := 0, len }]
  | .tr _ dst r => segAt s tuid dst (r.rows * r.cols * (tyWidth r.ety / 8)) 0 0
  | .q4r _ dst _ r =>
    ((List.range r.rows).map (fun i =>
      [segGlob (dst + i * r.rstride) (r.cols / 2) 0 i, segGlob (dst + r.suboff + i * r.substride) (r.cols / 64) 1 i])).flatten
  | .dq _ dst ty r => segAt s tuid dst (r.rows * r.cols * (tyWidth ty / 8)) 0 0
  | .zbc _ dst len => [segGlob dst len 0 0]
  | .zbx _ dst len => segAt s tuid dst len 0 0
  | .mm _ _ _ _ _ _ c => segAt s tuid (2 ^ 20 + c) 65536 0 0
  | .mmLd _ _ _ _ _ c => segAt s tuid (2 ^ 20 + c) 65536 0 0
  | .mmSt shape ty _ _ glob tile stride _ =>
    ((List.range (mmRows shape)).map (fun i =>
      let n := mmN shape * (tyWidth ty / 8)
      if glob then [segGlob (tile + i * stride) n 0 i]
      else segAt s tuid (tile + i * stride) n 0 i)).flatten

/-! ### What a byte is made from -/

/-- Byte i of a scratchpad operand of the issuing team. -/
def srcLoc (s : State) (tuid a i : Nat) : Loc :=
  match sramRef s tuid a 1 with
  | some r => refLoc r i
  | none => ownLoc tuid (a + i)
def srcLocs (s : State) (tuid a i n : Nat) : List Loc := (List.range n).map (fun j => srcLoc s tuid a (i + j))
def globLocs (a n : Nat) : List Loc := (List.range n).map (fun j => .glob (a + j))

/-- The bytes that byte off of a run is made from. -/
def kindReads (s : State) (tuid : Nat) (kd : OpKind) (role row off : Nat) : List Loc :=
  match kd with
  | .g2s src _ _ | .mc src _ _ _ | .zbx src _ _ => [.glob (src + off)]
  | .s2g src _ _ | .s2s src _ _ | .zbc src _ _ | .net src _ _ | .s2w src _ _ _ _ => [srcLoc s tuid src off]
  | .tr src _ r =>
    let e := tyWidth r.ety / 8
    [.glob (src + off / e % r.rows * r.rstride + off / e / r.rows * e + off % e)]
  | .q4r src dst ty r =>
    let e := tyWidth ty / 8
    let blk := if role = 1 then off else off / 32
    srcLocs s tuid src ((row * r.cols + 64 * blk) * e) (64 * e) ++ globLocs (dst + r.rsoff + 2 * row) 2
  | .dq src _ ty r =>
    let i := off / (tyWidth ty / 8)
    let y := i / r.cols
    let x := i % r.cols
    [.glob (src + y * r.rstride + x / 2), .glob (src + r.suboff + y * r.substride + x / 64)] ++
      globLocs (src + r.rsoff + 2 * y) 2
  | .mm _ _ _ _ _ _ _ | .mmLd _ _ _ _ _ _ | .mmSt _ _ _ _ _ _ _ _ => []

/-- Little-endian number of some of the bytes read. -/
def numOf (bs : List PByte) : Nat := leNat (plain bs)
/-- A list cut into pieces of n. -/
def piecesBy (n : Nat) : Nat → List PByte → List (List PByte)
  | 0, _ => []
  | m + 1, l => l.take n :: piecesBy n m (l.drop n)

/-- The byte off of a run, from the bytes it is made from, with the exceptions of the transform (R267-R270, R274). -/
def kindByte (o : EngOp) (role row off : Nat) (bs : List PByte) : PByte × Flags :=
  let bad := anyBad bs
  match o.kind with
  | .q4r _ _ ty r =>
    let e := tyWidth ty / 8
    let xs := (piecesBy e 64 bs).map (fun x => decodeF (tyFmt ty) (numOf x))
    let q := quantQ4R xs (decodeF fmtBf16 (numOf (bs.drop (64 * e))))
    let b := if role = 1 then q.1 else
      let j := 2 * (off % 32)
      q.2.1.getD j 0 + 16 * q.2.1.getD (j + 1) 0
    let _ := r
    ((BitVec.ofNat 8 b, bad), q.2.2)
  | .dq _ _ ty r =>
    let e := tyWidth ty / 8
    let x := off / e % r.cols
    let q := numOf (bs.take 1) / 16 ^ (x % 2) % 16
    let v := encodeF (tyFmt ty) .rn false (q4rVal q (numOf ((bs.drop 1).take 1)) (numOf (bs.drop 2)))
    ((BitVec.ofNat 8 (v.1 / 256 ^ (off % e)), bad), v.2)
  | .mm shape _ _ _ _ _ _ =>
    let c := (o.acc.getD (off / 4) 0).toNat
    ((BitVec.ofNat 8 (c / 256 ^ (off % 4)), o.bad.contains (if shape = 3 then off / 16384 else 0)), 0)
  | .mmLd _ _ _ _ _ _ =>
    let c := (o.acc.getD (off / 4) 0).toNat
    ((BitVec.ofNat 8 (c / 256 ^ (off % 4)), o.bad.contains (off / 4)), 0)
  | .mmSt shape ty rnd sat _ _ _ _ =>
    let e := tyWidth ty / 8
    let i := row * mmN shape + off / e
    let mode := if rnd = .dflt then .rn else rnd
    let c := (encodeF (tyFmt ty) mode sat (decodeF fmtF32 (o.acc.getD i 0).toNat)).1
    ((BitVec.ofNat 8 (c / 256 ^ (off % e)), o.bad.contains i), 0)
  | _ => (bs.headD (0, false), 0)

/-! ### The arrival of a part (R251, R254, R264, R270) -/

/-- The bytes of a part: address, role, row, offset in the run. -/
def partBytes (s : State) (o : EngOp) (p : Part) : List (Nat × Nat × Nat × Nat) :=
  ((kindSegs s o.team o.kind).map (fun g =>
    if g.team = p.team then
      let lo := max g.lo p.lo
      let hi := min (g.lo + g.len) p.hi
      (List.range (hi - lo)).map (fun i => (lo + i, g.role, g.row, lo + i - g.lo))
    else [])).flatten

/-- The use of the global bytes that an operation writes and reads. -/
def kindUse (kd : OpKind) (write : Bool) : Use :=
  { write, engine := true, zbOk := match kd with
    | .zbc _ _ _ => true
    | .zbx _ _ _ => true
    | _ => false }

/-- A computed byte of a part: its address, the byte, none where a page it needs fails the checks, the exceptions. -/
structure Made where
  addr : Nat
  byte : Option PByte
  flags : Flags
  deriving DecidableEq, Repr

/-- The source bytes that a part of a cp.mc or cp.net reads join those that its other parts have read: each is read once (R262), and
those of a cp.net are handed to the port with their part (R254). -/
def withReads (s : State) (o : EngOp) (p : Part) : EngOp :=
  let once := match o.kind with
    | .mc _ _ _ _ => true
    | .net _ _ _ => true
    | _ => false
  if !once then o
  else
    let get := fun (i : Nat) =>
      ((kindReads s o.team o.kind 0 0 i).head?).bind (readLoc s o.ctx (coreDie o.core) (kindUse o.kind false))
    let read := (partBytes s o p).foldl (fun m b =>
      if (mapFind m b.2.2.2).isSome then m else mapPut m b.2.2.2 (get b.2.2.2)) o.read
    { o with read }

/-- Compute the bytes of a part. A byte of a global destination also needs its page (R251). -/
def makeBytes (s : State) (o : EngOp) (p : Part) : List Made :=
  let die := coreDie o.core
  (partBytes s o p).map (fun b =>
    let vals := match mapFind o.read b.2.2.2 with
      | some v => [v]
      | none => (kindReads s o.team o.kind b.2.1 b.2.2.1 b.2.2.2).map (readLoc s o.ctx die (kindUse o.kind false))
    let dest := if p.team = 0 then (match o.kind with
        | .net _ _ _ => true
        | _ => (match pieceCheck s o.ctx die (kindUse o.kind true) b.1 with
          | .ok _ => true
          | .error _ => false))
      else true
    if vals.all Option.isSome && dest && !o.lost.contains (b.2.2.2 / 4) then
      let q := kindByte o b.2.1 b.2.2.1 b.2.2.2 (vals.filterMap id)
      { addr := b.1, byte := some q.1, flags := q.2 }
    else { addr := b.1, byte := none, flags := 0 })

/-- The places that a part reads. -/
def partReads (s : State) (o : EngOp) (p : Part) : List Loc :=
  (((partBytes s o p).filter (fun b => (mapFind o.read b.2.2.2).isNone)).map (fun b => kindReads s o.team o.kind b.2.1 b.2.2.1 b.2.2.2)).flatten.dedup
/-- The places that a part reads and writes in global memory. -/
def partLocs (s : State) (o : EngOp) (p : Part) : List Loc :=
  let dest := p.team == 0 && (match o.kind with
    | .net _ _ _ => false
    | _ => true)
  (partReads s o p ++ (if dest then (partBytes s o p).map (fun b => Loc.glob b.1) else [])).dedup

/-- A line of cpx.zbc: all zero sets the zero bit and leaves the cellar's bytes; any other line is written (R270). -/
def zbcLine (s : State) (k : Nat) (va : Nat) (bs : List PByte) : State :=
  match walk s k va with
  | none => s
  | some t =>
    let line := lineOf (transPa t va)
    let m := s.mem
    if (plain bs).all (· == 0) && !anyBad bs then
      let m := cleanLine (bumpTag (dropDirty m line) line) line
      { s with mem := { m with zbit := insertNat m.zbit line } }
    else writeFrame { s with mem := clearZbit m line } (ctxPart k) (transPa t va) bs

/-- A part that must wait: the queue of a cp.net sends nothing. -/
def partHeld (s : State) (o : EngOp) : Bool :=
  match o.kind with
  | .net _ q _ => !queueOpen s (ctxPart o.ctx) q
  | _ => false

/-- Write the bytes of a part at their destination. -/
def placeBytes (s : State) (o : EngOp) (p : Part) (bs : List (Nat × PByte)) : State :=
  match o.kind with
  | .net _ q len =>
    -- the message leaves with its last part, unless a poisoned unit keeps it (R302)
    let all := (List.range len).filterMap (fun i => (mapFind o.read i).join)
    if 1 < o.parts.length || anyBad all || !o.bad.isEmpty then s
    else ueLeave s (ctxPart o.ctx) q 0 0 (ueCut 0 all)
  | .zbc _ _ _ => (runsOfBytes bs).foldl (fun s r =>
      (List.range (r.2.length / 128)).foldl (fun s i => zbcLine s o.ctx (r.1 + 128 * i) ((r.2.drop (128 * i)).take 128)) s) s
  | _ =>
    if p.team = 0 then (runsOfBytes bs).foldl (fun s r => writePiece s o.ctx r.1 r.2) s
    else writeSram s p.team bs

/-- The units that a part writes in part with bytes that are not poisoned, and the bytes of each: lines at an even key, granules at
an odd one. -/
def partUnits (s : State) (o : EngOp) (p : Part) (bs : List (Nat × PByte)) : List (Nat × BitVec 128) :=
  let good := (bs.filter (fun b => !b.2.2)).filterMap (fun b =>
    if p.team = 0 then (match o.kind with
      | .net _ _ _ => none
      | _ => (walk s o.ctx b.1).map (fun t =>
        let pa := transPa t b.1
        (2 * lineOf pa, byteMask (pa % 128) 1)))
    else (sramGranule s (teamAt s p.team) (bitsOf b.1 20 1 == 1) (b.1 % 2 ^ 20)).map (fun q => (2 * q + 1, byteMask (b.1 % 32) 1)))
  ((good.map (·.1)).dedup).map (fun u => (u, (good.filter (fun e => e.1 == u)).foldl (fun m e => m ||| e.2) 0))
/-- Every byte of a unit. -/
def unitFull (u : Nat) : BitVec 128 := if u % 2 = 0 then byteMask 0 128 else byteMask 0 32
/-- The bytes of units that an operation has written, a part with them. -/
def coverWith (s : State) (o : EngOp) (p : Part) (bs : List (Nat × PByte)) : SMap (BitVec 128) :=
  (partUnits s o p bs).foldl (fun m e => mapSet 0 m e.1 (mapGet 0 m e.1 ||| e.2)) o.cover
/-- A unit whose every byte an operation has written by now is clean (R303). -/
def clearCovered (s : State) (o : EngOp) (p : Part) (bs : List (Nat × PByte)) : State :=
  let m := coverWith s o p bs
  (partUnits s o p bs).foldl (fun s e =>
    if mapGet 0 m e.1 ≠ unitFull e.1 then s
    else if e.1 % 2 = 0 then { s with mem := cleanLine s.mem (e.1 / 2) }
    else setPoison s false (some (e.1 / 2))) s

/-- The pages of a part's global destination, by their addresses. -/
def partPages (s : State) (o : EngOp) (p : Part) : List Nat :=
  if p.team = 0 then ((partBytes s o p).map (fun b => b.1 / 65536)).dedup.map (· * 65536) else []

/-- ENGINE_PART_ARRIVAL: a part's bytes are written and the part arrives at its word (R254). Bytes that were not moved
count as arrived, with ERR and cause 0x79 (R251); for a poisoned cp.net message ERR and POI (R302). -/
def execEnginePartArrival (id part : Nat) (s : State) : Result :=
  match opAt s id with
  | none => .fault .notEnabled
  | some o =>
    match o.parts[part]? with
    | none => .fault .notEnabled
    | some p =>
      if !o.done || partHeld s o || switchHolds s o.ctx o.id (fun _ => (partLocs s o p).map (locLines s o.ctx)) then
        .fault .notEnabled
      else
        whenAwake s (((partLocs s o p).filterMap (locAsleep s o.ctx)).dedup) <|
          withFrames s o.ctx (partPages s o p) <|
            let s0 := readLocs s o.ctx (partReads s o p)
            let o := withReads s o p
            let made := makeBytes s o p
            let bs := made.filterMap (fun m => m.byte.map (fun b => (m.addr, b)))
            let lost := made.find? (fun m => m.byte.isNone)
            let hitLive := p.team ≠ 0 && reachesLive s p.team (bs.map (·.1))
            let netBad := (match o.kind with
              | .net _ _ _ => true
              | _ => false) && anyBad (bs.map (·.2))
            let err := lost.isSome || hitLive || netBad
            let poi := anyBad (bs.map (·.2))
            let xf := made.foldl (fun x m => x ||| m.flags) 0
            let flags := xf.toNat + (if poi then 64 else 0) + (if err then 128 else 0)
            let s := placeBytes s0 o p bs
            let s := clearCovered s o p bs
            let s := putOp s { o with
              parts := o.parts.eraseIdx part, bad := if netBad then [0] else o.bad, cover := coverWith s o p bs }
            let s := arrivePart s o p.team p.len p.chunk flags
            let s := if err then failOp s o (match lost with
              | some m => m.addr % 2 ^ 56
              | none => if hitLive then p.lo else 0) else s
            -- the last part completes the operation: its locks are gone before any lane goes on (R248, R278)
            .next (if o.parts.length = 1 then
                { s with agenda := .event (.engineOperationComplete id) :: s.agenda } else s)

/-- ENGINE_OPERATION_COMPLETE: every part has arrived; locks, slot and INFL are released (R248). -/
def execEngineOperationComplete (id : Nat) (s : State) : Result :=
  match opAt s id with
  | none => .fault .notEnabled
  | some o => if o.done && o.parts.isEmpty then .next (endOp s o) else .fault .notEnabled

end Sys2Proof.Machine
end

