-- ==== Sys2Proof/Machine/Racking.lean ====
section
/-! DEFINITION. The Racking engine's instructions as a run issues them: copies (19 R261-R264), layout records (R265) and
transforms (R266-R270), each as the plan that the shared issue of an engine operation carries out (R248). -/

namespace Sys2Proof.Machine

/-! ### Shared by the copies -/

/-- The three uniform operands of an engine instruction: d, a and the control word. -/
def engArgs (x : EArgs) (f : Focus) (g : Group) : Nat × Nat × Nat :=
  let v := seen f g
  ((sGet v x.d.toNat).toNat, (sGet v x.a.toNat).toNat, (sGet v x.b.toNat).toNat)

/-- The word and LEN of a control word, with cause 0x78 where a zero field is not zero (R249); the other checks are made of
its fields all the same, as a lower code may apply (R282). -/
def wordLen (c : Nat) : Option Nat × Nat × List (Nat × Nat) :=
  ((controlWord c).1, (controlWord c).2, failIf (controlBad c) 0x78 0)

/-- LEN of a copy: from 16 to 2^24 - 16, a multiple of 16 (R261). -/
def copyLenBad (n : Nat) : Bool := decide (n < 16 ∨ n % 16 ≠ 0)

/-- Bytes of a team's operand as a range at its scratchpad address. -/
def segRef (r : Except (Nat × Nat) SramRef) (n : Nat) : List Seg :=
  match r with
  | .ok r => [{ glob := false, team := r.team, lo := txAddr r, len := n }]
  | .error _ => []

/-- The plan of a copy from the checks of its operands; conditions of R261 that fail are cause 0x78. -/
def copyPlan (s : State) (tx : Option Nat) (txTeams : List Nat) (bad : Bool) (fails : List (Nat × Nat)) (kind : OpKind)
    (locks : List Lock) (segs : List Seg) (vas : List (Nat × Nat)) : EngPlan :=
  { fails := failIf bad 0x78 0 ++ fails ++ (txTeams.map (fun t => engWord s t tx)).flatten
    kind, tx, txTeams, locks, segs, vas }

/-! ### The copies (R261-R264) -/

/-- cp.g2s: global memory to the team's own space. -/
def planG2s (x : EArgs) (s : State) (f : Focus) (g : Group) : EngPlan :=
  let k := groupCtx s g
  let (d, a, c) := engArgs x f g
  let (tx, n, cf) := wordLen c
  let dst := engSram s g.team d n true
  copyPlan s tx [g.team] (copyLenBad n || decide (a % 16 ≠ 0 ∨ d % 16 ≠ 0))
    (cf ++ engGlobal s (gidCore f.gid) k {} a n ++ exFails dst ++ engLive s dst n)
    (.g2s a d n) (lockGlob k a n false :: lockOf dst n true) (segRef dst n) [(a, n)]
def execCpG2s (x : EArgs) (s : State) : Result := engineOp false (planG2s x) s

/-- cp.s2g: the team's own space to global memory, or into a window (R263). -/
def planS2g (x : EArgs) (s : State) (f : Focus) (g : Group) : EngPlan :=
  let k := groupCtx s g
  let (d, a, c) := engArgs x f g
  let (tx, n, cf) := wordLen c
  let src := engSram s g.team a n true
  let bad := copyLenBad n || decide (a % 16 ≠ 0 ∨ d % 16 ≠ 0)
  if x.param.getLsbD 0 then
    let w := winNum d
    let e := winAt s k w
    let winBad := decide (w = 0) || !e.valid || decide (e.len.toNat < winOff d + n)
    copyPlan s tx [g.team] bad (cf ++ exFails src ++ failIf winBad 0x4C w)
      (.s2w a w (winOff d) (winCtr d) n) (lockOf src n false) [] []
  else
    copyPlan s tx [g.team] bad (cf ++ exFails src ++ engGlobal s (gidCore f.gid) k { write := true } d n)
      (.s2g a d n) (lockOf src n false ++ [lockGlob k d n true]) [segGlob d n 0 0] [(d, n)]
def execCpS2g (x : EArgs) (s : State) : Result := engineOp false (planS2g x) s

/-- cp.s2s: the team's own space to a team of the cluster, which holds the word. -/
def planS2s (x : EArgs) (s : State) (f : Focus) (g : Group) : EngPlan :=
  let (d, a, c) := engArgs x f g
  let (tx, n, cf) := wordLen c
  let src := engSram s g.team a n true
  let dst := engSram s g.team d n false
  let teams := match dst with
    | .ok r => [r.team]
    | .error _ => []
  copyPlan s tx teams (copyLenBad n || decide (a % 16 ≠ 0 ∨ d % 16 ≠ 0 ∨ bitsOf d 25 1 = 0))
    (cf ++ exFails src ++ exFails dst ++ engLive s dst n)
    (.s2s a d n) (lockOf src n false ++ lockOf dst n true) (segRef dst n) []
def execCpS2s (x : EArgs) (s : State) : Result := engineOp false (planS2s x) s

/-- cp.mc: global memory to the same offset in each team of a mask. -/
def planMc (x : EArgs) (s : State) (f : Focus) (g : Group) : EngPlan :=
  let k := groupCtx s g
  let (d, a, c) := engArgs x f g
  let (tx, n, cf) := wordLen c
  let h := (nodeAt s (teamAt s g.team).node).hdr
  let mask := x.param
  let maskBad := mask == 0 || decide (2 ^ (h.cw * h.ch) ≤ mask.toNat)
  let own := engSram s g.team d n true
  let teams := maskTeams s g.team mask
  let off := d % 2 ^ 20
  let ob := bitsOf d 20 1 == 1
  let dsts : List (Except (Nat × Nat) SramRef) := teams.map (fun t =>
    if off + n ≤ teamBytes (teamAt s t) ob then .ok { team := t, ob, off } else .error (0x49, d % 2 ^ 56))
  let locks := (dsts.map (fun r => lockOf r n true)).flatten
  copyPlan s tx teams (copyLenBad n || maskBad || decide (a % 16 ≠ 0 ∨ d % 16 ≠ 0))
    (cf ++ engGlobal s (gidCore f.gid) k {} a n ++ exFails own ++ (dsts.map exFails).flatten ++
      (dsts.map (fun r => engLive s r n)).flatten)
    (.mc a d n mask)
    (lockGlob k a n false :: locks.take 1 ++ (locks.drop 1).map (fun l => { l with cont := true }))
    ((dsts.map (fun r => segRef r n)).flatten) [(a, n)]
def execCpMc (x : EArgs) (s : State) : Result := engineOp false (planMc x) s

/-- cp.net: the team's own space to a send queue of the partition (R264, R367). -/
def planNet (x : EArgs) (s : State) (f : Focus) (g : Group) : EngPlan :=
  let p := ctxPart (groupCtx s g)
  let (q, a, c) := engArgs x f g
  let (tx, n, cf) := wordLen c
  let src := engSram s g.team a n true
  let off := !(mapGet {} (partAt s p).queues q).ctl.getLsbD 0
  copyPlan s tx [g.team] (copyLenBad n || decide (a % 16 ≠ 0 ∨ 64 ≤ q) || off) (cf ++ exFails src)
    (.net a q n) (lockOf src n false) [{ glob := true, team := 0, lo := 0, len := n }] []
def execCpNet (x : EArgs) (s : State) : Result := engineOp false (planNet x) s

/-! ### Layout records (R265) -/

/-- The address of a record of a context. -/
def recordVa (s : State) (k h : Nat) : Nat := bitsOf (ctxAt s k).lrbase.toNat 18 38 * 2 ^ 18 + 64 * h

/-- The 64 bytes of a record, as an engine reads them at issue; none where a page or a line of it is not readable. -/
def recordBytes (s : State) (k die h : Nat) : Option (List Byte) :=
  let bs := (List.range 64).map (fun i => readLoc s k die { engine := true } (.glob (recordVa s k h + i)))
  if bs.all (fun b => match b with
      | some q => !q.2
      | none => false) then some (bs.filterMap (fun b => b.map (·.1))) else none

/-- The fields of a record; none where its type, its kind, a count or a field that must be zero is not as R265 says. -/
def recordOf (bs : List Byte) : Option (Nat × Layout) :=
  let f := fun (lo n : Nat) => leNat ((bs.drop lo).take n)
  match tyOf (BitVec.ofNat 5 (f 0 1)) with
  | none => none
  | some ty =>
    let r : Layout := { ety := ty, rows := f 8 4, cols := f 12 4, rstride := f 16 8, suboff := f 24 8, substride := f 32 8
                        rsoff := f 40 8 }
    if 32 ≤ f 0 1 ∨ 1 < f 1 1 ∨ f 2 6 ≠ 0 ∨ f 48 16 ≠ 0 ∨ r.rows < 1 ∨ 4096 < r.rows ∨ r.cols < 1 ∨ 4096 < r.cols then none
    else if f 1 1 = 0 ∧ (r.suboff ≠ 0 ∨ r.substride ≠ 0 ∨ r.rsoff ≠ 0) then none
    else some (f 1 1, r)

/-- The conditions of cpx.tr and of the Q4R transforms (R266). -/
def trOk (kd : Nat) (r : Layout) : Bool :=
  let w := tyWidth r.ety
  decide (kd = 0 ∧ (w = 8 ∨ w = 16 ∨ w = 32 ∨ w = 64) ∧ r.cols * (w / 8) ≤ r.rstride ∧ r.rstride % (w / 8) = 0)
def q4rOk (kd : Nat) (r : Layout) : Bool :=
  decide (kd = 1 ∧ r.ety = .e2m1 ∧ r.cols % 64 = 0 ∧ r.cols / 2 ≤ r.rstride ∧ r.cols / 64 ≤ r.substride)

/-- The record that an instruction's handle names, as it reads it at issue: the checks of the read, then cause 0x7A for
handle 0, a disabled table, a record that breaks the conditions, and one that cannot be read (R265, R266). -/
def readRecord (s : State) (core k h : Nat) (ok : Nat → Layout → Bool) : Option Layout × List (Nat × Nat) :=
  if h = 0 ∨ (ctxAt s k).lrbase.getLsbD 0 = false then (none, [(0x7A, 0)])
  else
    let rd := engGlobal s core k {} (recordVa s k h) 64
    if !rd.isEmpty then (none, rd)
    else
      match (recordBytes s k (coreDie core) h).bind recordOf with
      | some (kd, r) => if ok kd r then (some r, []) else (none, [(0x7A, 0)])
      | none => (none, [(0x7A, 0)])

/-- The bins that the read of a record needs awake. -/
def recordAsleep (s : State) (k h : Nat) : List Nat :=
  if h = 0 ∨ (ctxAt s k).lrbase.getLsbD 0 = false then []
  else (pieceAsleep s k (recordVa s k h)).toList

/-- The type that an E-word's param names (R266, R273). -/
def paramTy (x : EArgs) : Ty := (tyOf (x.param.extractLsb' 0 5)).getD .f32

/-- The parts of a strided range: rows of n bytes from a base. -/
def rowsOf (base stride n rows : Nat) : List (Nat × Nat) := (List.range rows).map (fun i => (base + i * stride, n))
/-- The range from the first row to the end of the last (R278). -/
def spanOf (base stride n rows : Nat) : Nat × Nat := (base, (rows - 1) * stride + n)
/-- The checks of global ranges, page by page from the lowest byte of each to the highest (R250, R278). -/
def rangesFails (s : State) (core k : Nat) (u : Use) (l : List (Nat × Nat)) : List (Nat × Nat) :=
  (l.map (fun r => engGlobal s core k u r.1 r.2)).flatten

/-! ### The transforms (R266-R270) -/

/-- The instruction's word and the conditions that its record form shares: LEN zero, the addresses aligned. Where no record gives
the ranges, least has the checks of the byte at each address, as a lower code may apply (R282). -/
def recPlan (x : EArgs) (s : State) (f : Focus) (g : Group) (ok : Nat → Layout → Bool)
    (k : Nat → Nat → Layout → Option Nat → List (Nat × Nat) → EngPlan) (align : Nat → Nat → Bool)
    (least : Nat → Nat → List (Nat × Nat)) : EngPlan :=
  let (d, a, c) := engArgs x f g
  let (tx, n, cf) := wordLen c
  let kc := groupCtx s g
  let rec' := readRecord s (gidCore f.gid) kc x.handle.toNat ok
  let fails := cf ++ failIf (n != 0 || align d a) 0x78 0 ++ rec'.2 ++ engWord s g.team tx
  let asleep := recordAsleep s kc x.handle.toNat
  match rec'.1 with
  | none => { fails := fails ++ least d a, kind := .net 0 0 0, asleep }
  | some r => { k d a r tx fails with asleep }

/-- The checks of one byte: read at a in global memory, written at d in the team's own space. -/
def leastIn (s : State) (f : Focus) (g : Group) (d a : Nat) : List (Nat × Nat) :=
  let dst := engSram s g.team d 1 true
  engGlobal s (gidCore f.gid) (groupCtx s g) {} a 1 ++ exFails dst ++ engLive s dst 1
/-- The checks of one byte: read at a in the team's own space, written at d in global memory. -/
def leastOut (s : State) (f : Focus) (g : Group) (d a : Nat) : List (Nat × Nat) :=
  engGlobal s (gidCore f.gid) (groupCtx s g) { write := true } d 1 ++ exFails (engSram s g.team a 1 true)

/-- cpx.tr: a transpose into the team's own space. -/
def planTr (x : EArgs) (s : State) (f : Focus) (g : Group) : EngPlan :=
  recPlan x s f g trOk (fun d a r tx fails =>
    let k := groupCtx s g
    let e := tyWidth r.ety / 8
    let n := r.rows * r.cols * e
    let dst := engSram s g.team d n true
    let rows := rowsOf a r.rstride (r.cols * e) r.rows
    let sp := spanOf a r.rstride (r.cols * e) r.rows
    { fails := fails ++ rangesFails s (gidCore f.gid) k {} [sp] ++ exFails dst ++ engLive s dst n
      kind := .tr a d r, tx, txTeams := [g.team]
      locks := lockGlob k sp.1 sp.2 false :: lockOf dst n true
      segs := segRef dst n, vas := rows }) (fun d _ => d % 16 != 0) (leastIn s f g)
def execCpxTr (x : EArgs) (s : State) : Result := engineOp false (planTr x) s

/-- The three arrays of a Q4R tensor: elements, sub-scales, row scales (R266). -/
def q4rParts (base : Nat) (r : Layout) : List (Nat × Nat × Nat) :=
  [(base, r.rstride, r.cols / 2), (base + r.suboff, r.substride, r.cols / 64), (base + r.rsoff, 2, 2)]
def q4rRows (base : Nat) (r : Layout) : List (List (Nat × Nat)) :=
  (q4rParts base r).map (fun p => rowsOf p.1 p.2.1 p.2.2 r.rows)
def q4rSpans (base : Nat) (r : Layout) : List (Nat × Nat) :=
  (q4rParts base r).map (fun p => spanOf p.1 p.2.1 p.2.2 r.rows)

/-- cpx.q4r: rows of the team's own space quantised into a Q4R tensor whose row scales are read. -/
def planQ4r (x : EArgs) (s : State) (f : Focus) (g : Group) : EngPlan :=
  recPlan x s f g q4rOk (fun d a r tx fails =>
    let k := groupCtx s g
    let core := gidCore f.gid
    let ty := paramTy x
    let n := r.rows * r.cols * (tyWidth ty / 8)
    let src := engSram s g.team a n true
    let rows := q4rRows d r
    let spans := q4rSpans d r
    { fails := fails ++ exFails src ++ rangesFails s core k { write := true } (spans.take 2) ++
        rangesFails s core k {} (spans.drop 2)
      kind := .q4r a d ty r, tx, txTeams := [g.team]
      locks := (spans.take 2).map (fun p => lockGlob k p.1 p.2 true) ++
        (spans.drop 2).map (fun p => lockGlob k p.1 p.2 false) ++ lockOf src n false
      segs := kindSegs s g.team (.q4r a d ty r), vas := rows.flatten }) (fun d _ => d % 16 != 0) (leastOut s f g)
def execCpxQ4r (x : EArgs) (s : State) : Result := engineOp false (planQ4r x) s

/-- cpx.dq: a Q4R tensor dequantised into the team's own space. -/
def planDq (x : EArgs) (s : State) (f : Focus) (g : Group) : EngPlan :=
  recPlan x s f g q4rOk (fun d a r tx fails =>
    let k := groupCtx s g
    let ty := paramTy x
    let n := r.rows * r.cols * (tyWidth ty / 8)
    let dst := engSram s g.team d n true
    let rows := (q4rRows a r).flatten
    { fails := fails ++ rangesFails s (gidCore f.gid) k {} (q4rSpans a r) ++ exFails dst ++ engLive s dst n
      kind := .dq a d ty r, tx, txTeams := [g.team]
      locks := (q4rSpans a r).map (fun p => lockGlob k p.1 p.2 false) ++ lockOf dst n true
      segs := segRef dst n, vas := rows }) (fun _ a => a % 16 != 0) (leastIn s f g)
def execCpxDq (x : EArgs) (s : State) : Result := engineOp false (planDq x) s

/-- The pages of a range are all ZB pages, where they have a translation. -/
def allZb (s : State) (core k va n : Nat) : Bool :=
  (piecesOf va n).all (fun pc => match translate s core k pc.1 with
    | some t => t.attr.zb
    | none => true)

/-- The conditions that cpx.zbc and cpx.zbx share: LEN and the global side in whole lines of ZB pages. A LEN of 0 is a multiple of
128: such an operation moves nothing and completes (R266). -/
def zbBad (s : State) (core k va n : Nat) : Bool :=
  n % 128 != 0 || va % 128 != 0 || !allZb s core k va n

/-- cpx.zbc: the team's own space into ZB pages. -/
def planZbc (x : EArgs) (s : State) (f : Focus) (g : Group) : EngPlan :=
  let k := groupCtx s g
  let core := gidCore f.gid
  let (d, a, c) := engArgs x f g
  let (tx, n, cf) := wordLen c
  let src := engSram s g.team a n true
  copyPlan s tx [g.team] (zbBad s core k d n)
    (cf ++ exFails src ++ engGlobal s core k { write := true, zbOk := true } d n)
    (.zbc a d n) (lockOf src n false ++ [lockGlob k d n true]) [segGlob d n 0 0] [(d, n)]
def execCpxZbc (x : EArgs) (s : State) : Result := engineOp false (planZbc x) s

/-- cpx.zbx: ZB pages into the team's own space. -/
def planZbx (x : EArgs) (s : State) (f : Focus) (g : Group) : EngPlan :=
  let k := groupCtx s g
  let core := gidCore f.gid
  let (d, a, c) := engArgs x f g
  let (tx, n, cf) := wordLen c
  let dst := engSram s g.team d n true
  copyPlan s tx [g.team] (zbBad s core k a n)
    (cf ++ engGlobal s core k { zbOk := true } a n ++ exFails dst ++ engLive s dst n)
    (.zbx a d n) (lockGlob k a n false :: lockOf dst n true) (segRef dst n) [(a, n)]
def execCpxZbx (x : EArgs) (s : State) : Result := engineOp false (planZbx x) s

end Sys2Proof.Machine
end

