-- ==== Sys2Proof/Machine/Press.lean ====
section
/-! DEFINITION. The Press (19 R271-R277): mm, mm.ld and mm.st as a run issues them, and the execution of a queue entry, one
K-block at a time (03 R50-R52). -/

namespace Sys2Proof.Machine

/-! ### Issue (R273) -/

/-- C of an operation: its operand-buffer offset from the control word, and its place (R273). -/
def cRef (s : State) (tuid off : Nat) : Except (Nat × Nat) SramRef := engSram s tuid (2 ^ 20 + off) 65536 true
/-- The limits of C's offset. -/
def cBad (off : Nat) : Bool := decide (off % 128 ≠ 0 ∨ 2 ^ 20 ≤ off)

/-- Two operands of the SRAM share a byte. -/
def refsMeet (r : Except (Nat × Nat) SramRef) (n : Nat) (q : Except (Nat × Nat) SramRef) (m : Nat) : Bool :=
  match r, q with
  | .ok r, .ok q => r.team == q.team && r.ob == q.ob && overlaps r.off n q.off m
  | _, _ => false

/-- C's range is checked where its field holds an offset, that is, where bits 23:20 are zero (R273). -/
def cFails (c : Nat) (r : Except (Nat × Nat) SramRef) : List (Nat × Nat) := if 2 ^ 20 ≤ c then [] else exFails r

/-- Bytes of A and of B over all the products of an arrangement (R272). -/
def aBytes (shape cls k : Nat) : Nat := mmProducts shape * tileBytes cls (mmM shape) k
def bBytes (shape cls k : Nat) : Nat := mmProducts shape * tileBytes cls (mmN shape) k

/-- K of an mm (R273). -/
def mmK (x : EArgs) : Nat := ((x.param.extractLsb' 0 7).toNat + 1) * clsKb x.cls.toNat

/-- mm: a product of tiles into C. -/
def planMm (x : EArgs) (s : State) (f : Focus) (g : Group) : EngPlan :=
  let v := seen f g
  let shape := x.shape.toNat
  let cls := x.cls.toNat
  let k := mmK x
  let (tx, c, cf) := wordLen (sGet v x.d.toNat).toNat
  let a := (sGet v x.a.toNat).toNat
  let b := (sGet v x.b.toNat).toNat
  let na := aBytes shape cls k
  let nb := bBytes shape cls k
  let ar := engSram s g.team a na false
  let br := engSram s g.team b nb false
  let cr := cRef s g.team c
  let bad := cBad c || decide (a % 128 ≠ 0 ∨ b % 128 ≠ 0) || refsMeet ar na cr 65536 || refsMeet br nb cr 65536
  { fails := cf ++ failIf bad 0x78 0 ++ exFails ar ++ exFails br ++ cFails c cr ++ engLive s cr 65536 ++ engWord s g.team tx
    kind := .mm shape cls k (x.param.getLsbD 7) a b c, tx, txTeams := [g.team]
    locks := lockOf ar na false ++ lockOf br nb false ++ lockOf cr 65536 true
    segs := segRef cr 65536 }
def execMm (x : EArgs) (s : State) : Result := engineOp true (planMm x) s

/-- The memory tile of mm.ld and mm.st: whether it is global, its address, its row stride, bytes of a row. -/
structure MemTile where
  glob : Bool
  addr : Nat
  stride : Nat
  row : Nat
  rows : Nat
  bad : Bool
  deriving DecidableEq, Repr

def memTile (x : EArgs) (v : Group) : MemTile :=
  let e := tyWidth (paramTy x) / 8
  let row := mmN x.shape.toNat * e
  let st := (sGet v x.b.toNat).toNat
  { glob := x.param.getLsbD 11, addr := (sGet v x.a.toNat).toNat, stride := st, row, rows := mmRows x.shape.toNat
    bad := decide (2 ^ 24 ≤ st ∨ st < row ∨ st % e ≠ 0) }

/-- Bytes from the first to the last of a tile. -/
def MemTile.span (t : MemTile) : Nat := (t.rows - 1) * t.stride + t.row
def MemTile.ref (t : MemTile) (s : State) (tuid : Nat) : Except (Nat × Nat) SramRef := engSram s tuid t.addr t.span false
/-- A row of the tile covers a byte of a live word (R252): the bytes between the rows are not written. -/
def MemTile.live (t : MemTile) (s : State) (r : Except (Nat × Nat) SramRef) : List (Nat × Nat) :=
  match r with
  | .ok q => failIf ((List.range (if t.bad then 1 else t.rows)).any (fun i =>
      sramLive s (teamAt s q.team) q.ob (q.off + i * t.stride) t.row)) 0x73 (txAddr q)
  | .error _ => []
/-- The checks of a memory tile that is read or written (R250, R252); where its stride is not valid, of its first row, as a lower
code may apply (R282). -/
def MemTile.fails (t : MemTile) (s : State) (core k tuid : Nat) (write : Bool) : List (Nat × Nat) :=
  let n := if t.bad then t.row else t.span
  let r := engSram s tuid t.addr n false
  if t.glob then engGlobal s core k { write } t.addr n
  else exFails r ++ (if write then t.live s r else [])
def MemTile.locks (t : MemTile) (s : State) (k tuid : Nat) (write : Bool) : List Lock :=
  if t.glob then [lockGlob k t.addr t.span write] else lockOf (t.ref s tuid) t.span write
def MemTile.vas (t : MemTile) : List (Nat × Nat) := if t.glob then rowsOf t.addr t.stride t.row t.rows else []

/-- mm.ld: a memory tile into C. -/
def planMmLd (x : EArgs) (s : State) (f : Focus) (g : Group) : EngPlan :=
  let v := seen f g
  let k := groupCtx s g
  let shape := x.shape.toNat
  let (tx, c, cf) := wordLen (sGet v x.d.toNat).toNat
  let t := memTile x v
  let cr := cRef s g.team c
  let bad := cBad c || t.bad || (!t.glob && refsMeet (t.ref s g.team) t.span cr 65536)
  { fails := cf ++ failIf bad 0x78 0 ++ t.fails s (gidCore f.gid) k g.team false ++ cFails c cr ++ engLive s cr 65536 ++
      engWord s g.team tx
    kind := .mmLd shape (paramTy x) t.glob t.addr t.stride c, tx, txTeams := [g.team]
    locks := t.locks s k g.team false ++ lockOf cr 65536 true, segs := segRef cr 65536, vas := t.vas }
def execMmLd (x : EArgs) (s : State) : Result := engineOp true (planMmLd x) s

/-- mm.st: C into a memory tile. -/
def planMmSt (x : EArgs) (s : State) (f : Focus) (g : Group) : EngPlan :=
  let v := seen f g
  let k := groupCtx s g
  let shape := x.shape.toNat
  let (tx, c, cf) := wordLen (sGet v x.d.toNat).toNat
  let t := memTile x v
  let cr := cRef s g.team c
  let bad := cBad c || t.bad || (!t.glob && refsMeet (t.ref s g.team) t.span cr 65536)
  let rnd := (Dec.rndOf (x.param.extractLsb' 5 3)).getD .dflt
  let kind : OpKind := .mmSt shape (paramTy x) rnd (x.param.getLsbD 8) t.glob t.addr t.stride c
  { fails := cf ++ failIf bad 0x78 0 ++ t.fails s (gidCore f.gid) k g.team true ++ cFails c cr ++ engWord s g.team tx
    kind, tx, txTeams := [g.team]
    locks := lockOf cr 65536 false ++ t.locks s k g.team true
    segs := if t.bad then [] else kindSegs s g.team kind, vas := t.vas }
def execMmSt (x : EArgs) (s : State) : Result := engineOp true (planMmSt x) s

/-! ### Order in the queue (R276) -/

/-- An entry waits for an earlier one: for what that writes, until it has completed; before writing what that reads, until
it has read it. -/
def entryWaits (s : State) (e o : EngOp) : Bool :=
  let ls := (coreAt s o.core).locks
  e.press && e.core == o.core && decide (e.id < o.id) &&
    (ls.filter (fun l => l.op == o.id)).any (fun l =>
      (ls.filter (fun m => m.op == e.id)).any (fun m =>
        m.space == l.space && m.owner == l.owner && decide (m.lo < l.hi ∧ l.lo < m.hi) &&
          (m.dest || (l.dest && !e.done))))

/-! ### K-blocks (R50, R51, R272, R274) -/

/-- A tile as it lies in the SRAM: its bytes from its address, poison with them. -/
def tileBytesAt (s : State) (r : Except (Nat × Nat) SramRef) (off n : Nat) : List PByte :=
  match r with
  | .ok r => (List.range n).map (fun i =>
      let tm := teamAt s r.team
      (sramGet s (sramByte s tm r.ob (r.off + off + i)), sramPoisoned s tm r.ob (r.off + off + i) 1))
  | .error _ => []

/-- The codes of n elements packed in bytes (R28). -/
def tileCodes (ty : Ty) (n : Nat) (bs : List Byte) : List Nat :=
  let w := tyWidth ty
  if w = 4 then (List.range n).map (fun i => (bs.getD (i / 2) 0).toNat / 16 ^ (i % 2) % 16)
  else (List.range n).map (fun i => leNat ((bs.drop (i * (w / 8))).take (w / 8)))

/-- Row (or column) i of a tile of r rows in block j: its scale and its values. -/
def tileBlock (cls : Nat) (ty : Ty) (r k j : Nat) (bs : List Byte) (i : Nat) : Val × List Val :=
  let kb := clsKb cls
  let w := tyWidth ty
  let els := (tileCodes ty kb ((bs.drop ((i * k + j * kb) * w / 8)).take (kb * w / 8))).map (decodeTy [] ty)
  let base := tileElems cls r k
  let at1 := fun (n : Nat) => (bs.getD n 0).toNat
  let scale : Val :=
    if cls = 5 then decodeE8m0 (at1 (base + i * (k / 32) + j))
    else if cls = 6 then
      let row := base + r * (k / 64) + 2 * i
      scaleMul (decodeF fmtE5m3 (at1 (base + i * (k / 64) + j))) (decodeF fmtBf16 (at1 row + 256 * at1 (row + 1)))
    else .fin false 1 1
  (scale, els)

/-- One K-block of one product: the products' C after it. -/
def addBlock1 (m n : Nat) (ra rb : List (Val × List Val)) (c : List (BitVec 32)) : List (BitVec 32) :=
  (List.range (m * n)).map (fun t =>
    let x := ra.getD (t / n) (.zero false, [])
    let y := rb.getD (t % n) (.zero false, [])
    BitVec.ofNat 32 (accAdd (c.getD t 0).toNat (blockValue x.1 y.1 (x.2.zip y.2))))

/-- C as an operation finds it in the operand buffer. -/
def startC (s : State) (o : EngOp) (c : Nat) : List PByte := tileBytesAt s (cRef s o.team c) 0 65536
def wordsOf4 (bs : List PByte) : List (BitVec 32) :=
  (List.range (bs.length / 4)).map (fun i => BitVec.ofNat 32 (numOf ((bs.drop (4 * i)).take 4)))

/-- One K-block of an mm: the accumulators and the poisoned products. -/
def mmBlock (s : State) (o : EngOp) (shape cls k : Nat) (zc : Bool) (a b c : Nat) : EngOp :=
  let m := mmM shape
  let n := mmN shape
  let sizeA := tileBytes cls m k
  let sizeB := tileBytes cls n k
  let start := startC s o c
  let (acc, bad) :=
    if o.block = 0 then
      if zc then (List.replicate 16384 0, [])
      else (wordsOf4 start, (List.range (mmProducts shape)).filter (fun p =>
        anyBad ((start.drop (4 * m * n * p)).take (4 * m * n))))
    else (o.acc, o.bad)
  let step := fun (p : Nat) =>
    let ta := tileBytesAt s (engSram s o.team a (aBytes shape cls k) false) (p * sizeA) sizeA
    let tb := tileBytesAt s (engSram s o.team b (bBytes shape cls k) false) (p * sizeB) sizeB
    let ra := (List.range m).map (tileBlock cls (clsA cls) m k o.block (plain ta))
    let rb := (List.range n).map (tileBlock cls (clsB cls) n k o.block (plain tb))
    (addBlock1 m n ra rb ((acc.drop (m * n * p)).take (m * n)), anyBad ta || anyBad tb)
  let rs := (List.range (mmProducts shape)).map step
  let newBad := (List.range rs.length).filter (fun p => bad.contains p || (rs.getD p ([], false)).2)
  { o with acc := (rs.map (·.1)).flatten, bad := newBad, block := o.block + 1, done := decide (k / clsKb cls ≤ o.block + 1) }

/-- The place of byte j of element i of a memory tile. -/
def tileLoc (s : State) (tuid n e : Nat) (glob : Bool) (tile stride i j : Nat) : Loc :=
  let a := tile + i / n * stride + i % n * e + j
  if glob then .glob a else srcLoc s tuid a 0

/-- What mm.ld reads, element by element (R274). -/
def mmLoad (s : State) (o : EngOp) (shape : Nat) (ty : Ty) (glob : Bool) (tile stride : Nat) : EngOp :=
  let n := mmN shape
  let e := tyWidth ty / 8
  let els := (List.range (mmRows shape * n)).map (fun i =>
    (List.range e).map (fun j => readLoc s o.ctx (coreDie o.core) { engine := true } (tileLoc s o.team n e glob tile stride i j)))
  let pick := fun (p : List (Option PByte) → Bool) => (List.range els.length).filter (fun i => p (els.getD i []))
  { o with
    acc := els.map (fun bs => BitVec.ofNat 32 (cvtToF32 (tyFmt ty) (numOf (bs.filterMap id))))
    bad := pick (fun bs => anyBad (bs.filterMap id))
    lost := pick (fun bs => bs.any Option.isNone)
    done := true }

/-- The global places of a memory tile, one for each of its lines. -/
def tileLocs (o : EngOp) : List Loc :=
  match o.kind with
  | .mmLd shape ty true tile stride _ =>
    let n := mmN shape * (tyWidth ty / 8)
    ((List.range (mmRows shape)).map (fun i =>
      (List.range ((n + 127) / 128 + 1)).map (fun j => Loc.glob (tile + i * stride + min (128 * j) (n - 1))))).flatten.dedup
  | _ => []

/-- PRESS_ENTRY_EXECUTE: an entry that may go on does its next K-block, or reads its tile; after the last its parts arrive
(R271, R274, R276). -/
def execPressEntryExecute (id : Nat) (s : State) : Result :=
  match opAt s id with
  | none => .fault .notEnabled
  | some o =>
    if !o.press || o.done || s.ops.any (fun e => entryWaits s e o) ||
      switchHolds s o.ctx o.id (fun _ => (tileLocs o).map (locLines s o.ctx)) then .fault .notEnabled
    else
      let locs := tileLocs o
      whenAwake s ((locs.filterMap (locAsleep s o.ctx)).dedup) <|
        match o.kind with
        | .mm shape cls k zc a b c => .next (putOp s (mmBlock s o shape cls k zc a b c))
        | .mmLd shape ty glob tile stride _ =>
          .next (putOp (readLocs s o.ctx locs) (mmLoad s o shape ty glob tile stride))
        | .mmSt shape _ _ _ _ _ _ c =>
          let c0 := startC s o c
          let acc := wordsOf4 c0
          let bad := (List.range acc.length).filter (fun i => anyBad ((c0.drop (4 * i)).take 4))
          let _ := shape
          .next (putOp s { o with acc, bad, done := true })
        | _ => .fault .notEnabled

end Sys2Proof.Machine
end

