-- ==== Sys2Proof/Machine/Security.lean ====
section
/-! DEFINITION. The SPDM responder of each function (27 R368-R370): versions, capabilities, algorithms, certificates,
measurements, sessions, and the loading of keys. The manual gives what is agreed and measured; the bytes of the other
answers are free, and whether a requester's proof checks is the request's (log entry 20). -/

namespace Sys2Proof.Machine

/-- A function whose DOE answers: the PF once configuration requests are answered, which a package without firmware never
becomes ready for, a VF while it is there (R353, R368, R371, R372). -/
def fnThere (s : State) (fn : Nat) : Bool :=
  s.out.powered && (if fn = 0 then s.out.ready || s.out.recovery else barOpen s && decide (fn ≤ s.out.numVfs))

def spdmAt (s : State) (fn : Nat) : Spdm := mapGet {} s.out.spdm fn
def putSpdm (s : State) (fn : Nat) (x : Spdm) : State :=
  { s with out := { s.out with spdm := mapSet {} s.out.spdm fn x } }

/-- An answer of a function: a response code and its bytes; the request counts. -/
def answerWith (x : Spdm) (code : Nat) (bytes : List Byte) : Spdm :=
  { x with count := x.count + 1, answers := (code, bytes) :: x.answers }
/-- An answer whose bytes the manual does not give. -/
def answerFree (x : Spdm) (code : Nat) : Spdm := answerWith x code (Config.spdmBytes code x.count)
/-- ERROR with an error code. -/
def answerError (x : Spdm) (err : Nat) : Spdm := answerWith x 0x7F [BitVec.ofNat 8 err]

def errUnexpected : Nat := 0x04
def errUnsupported : Nat := 0x07
def errSession : Nat := 0x0B

/-- A request of a function: its responder's next state. -/
def request (fn : Nat) (s : State) (k : Spdm → Spdm) : Result :=
  if fnThere s fn then .next (putSpdm s fn (k (spdmAt s fn))) else .fault .notEnabled

/-- A request answered from a phase on. -/
def fromPhase (n : Nat) (x : Spdm) (k : Spdm → Spdm) : Spdm := if n ≤ x.phase then k x else answerError x errUnexpected

/-- GET_VERSION starts the negotiation anew. -/
def execGetVersion (fn _arg : Nat) (s : State) : Result :=
  request fn s fun x => answerFree { x with phase := 1, sessions := [] } 0x04
/-- GET_CAPABILITIES. -/
def execGetCapabilities (fn _arg : Nat) (s : State) : Result :=
  request fn s fun x => fromPhase 1 x fun x => answerFree { x with phase := max 2 x.phase } 0x61
/-- NEGOTIATE_ALGORITHMS: anything but ML-DSA-87 over SHA3-512, ML-KEM-1024 and AES-256-GCM is UnsupportedRequest. -/
def execNegotiateAlgorithms (fn : Nat) (sel : AlgSel) (s : State) : Result :=
  request fn s fun x => fromPhase 2 x fun x =>
    if sel.mlDsa87 && sel.sha3 && sel.mlKem1024 && sel.aesGcm then answerFree { x with phase := 3 } 0x63
    else answerError x errUnsupported
/-- GET_DIGESTS, GET_CERTIFICATE of slot 0, CHALLENGE. -/
def execGetDigests (fn _arg : Nat) (s : State) : Result := request fn s fun x => fromPhase 3 x fun x => answerFree x 0x01
def execGetCertificate (fn arg : Nat) (s : State) : Result :=
  request fn s fun x => fromPhase 3 x fun x => if arg = 0 then answerFree x 0x02 else answerError x errUnsupported
def execChallenge (fn _arg : Nat) (s : State) : Result := request fn s fun x => fromPhase 3 x fun x => answerFree x 0x03

/-! ### Measurements (R369) -/

/-- The bytes of a digest. -/
def digestBytes (bs : List Byte) : List Byte := leBytes 64 (Config.digest bs).toNat

/-- The entries of a kind that name a partition, as bytes. -/
def ownedBytes (m : SMap (BitVec 8)) (p : Nat) : List Byte :=
  (m.filter (fun e => ownerPart m e.1 == some p)).foldr (fun e l => leBytes 2 e.1 ++ e.2 :: l) []

/-- What is measured at an index for a function's partition; the physical function has none (R353). A key slot counts as loaded
until its emptying begins: the KEYDROP makes the change (DEDUCED, log entry 20). -/
def measured (s : State) (fn i : Nat) : List Byte :=
  let o := s.out
  let p := fn - 1
  match i with
  | 1 => Config.spdmBytes 0x60 0
  | 2 =>
    if fn = 0 then [] else
    ownedBytes o.coreOwner p ++ ownedBytes o.sliceOwner p ++ ownedBytes o.slotOwner p ++ ownedBytes o.binOwner p ++
      ((List.range 4).map (fun n => leBytes 8 (mapGet 0 (partAt s p).feat n).toNat)).flatten ++
      leBytes 1 (bit01 (partAt s p).started)
  | _ =>
    if fn = 0 then [] else
    ((o.slots.filter (fun e => e.2.key.isSome && !e.2.emptying && slotOwned s p e.1)).map (fun e => leBytes 1 e.1)).flatten

/-- A measurement: the digest of what is measured, at index 4 of the 32-bit security version (R369). -/
def measurement (s : State) (fn i : Nat) : List Byte :=
  digestBytes (if i = 4 then leBytes 4 Config.securityVersion.toNat else measured s fn i)

/-- GET_MEASUREMENTS of one index, or of all with 0xFF. -/
def execGetMeasurements (fn arg : Nat) (s : State) : Result :=
  request fn s fun x => fromPhase 3 x fun x =>
    if arg = 0xFF then answerWith x 0x60 (([1, 2, 3, 4].map (measurement s fn)).flatten)
    else if 1 ≤ arg ∧ arg ≤ 4 then answerWith x 0x60 (measurement s fn arg)
    else answerError x errUnsupported

/-! ### Sessions (R368, R369) -/

/-- KEY_EXCHANGE opens a session that FINISH establishes, where the requester's exchange data is good (log entry 20). -/
def execKeyExchange (fn : Nat) (ask : KeyAsk) (s : State) : Result :=
  request fn s fun x => fromPhase 3 x fun x =>
    if ask.good then
      answerFree { x with
        sessions := x.sessions ++ [{ id := x.nextSession, all := ask.all, up := false }]
        nextSession := x.nextSession + 1 } 0x64
    else answerError x errUnexpected

/-- A request inside a session; an ended or unknown one is SessionRequired. -/
def inSession (x : Spdm) (id : Nat) (up : Bool) (k : Spdm → Session → Spdm) : Spdm :=
  match x.sessions.find? (fun y => y.id == id && y.up == up) with
  | some y => k x y
  | none => answerError x errSession

/-- FINISH, whose proof is good or not (log entry 20). -/
def execFinish (fn : Nat) (ask : FinishAsk) (s : State) : Result :=
  request fn s fun x => inSession x ask.session false fun x y =>
    if ask.good then
      answerFree { x with sessions := x.sessions.map (fun z => if z.id = y.id then { z with up := true } else z) } 0x65
    else answerError x errUnexpected
/-- HEARTBEAT, KEY_UPDATE. -/
def execHeartbeat (fn arg : Nat) (s : State) : Result := request fn s fun x => inSession x arg true fun x _ => answerFree x 0x68
def execKeyUpdate (fn arg : Nat) (s : State) : Result := request fn s fun x => inSession x arg true fun x _ => answerFree x 0x69
/-- END_SESSION. -/
def execEndSession (fn arg : Nat) (s : State) : Result :=
  request fn s fun x => inSession x arg true fun x y =>
    answerFree { x with sessions := x.sessions.filter (fun z => z.id != y.id) } 0x6C

/-! ### Keys (R370) -/

/-- The session of a request that may act on a slot: established, on the virtual function whose partition owns the slot. -/
def keySession (s : State) (fn session slot : Nat) : Option Session :=
  if fn = 0 || !slotOwned s (fn - 1) slot then none
  else (spdmAt s fn).sessions.find? (fun y => y.id == session && y.up)

/-- A key change: the slot, the end of the other sessions, the answer. -/
def keyChange (s : State) (fn session slot : Nat) (k : KeySlot) : State :=
  let s := { s with out := { s.out with slots := mapSet {} s.out.slots slot k } }
  let s := endSessions s fn (some session)
  putSpdm s fn (answerFree (spdmAt s fn) 0x7E)

/-- ERROR, with nothing else changed: SessionRequired outside a session and for one that has ended, else UnsupportedRequest. -/
def keyError (s : State) (fn session : Nat) : State :=
  let x := spdmAt s fn
  putSpdm s fn (answerError x (if x.sessions.any (fun y => y.id == session && y.up) then errUnsupported else errSession))

/-- KEYLOAD. -/
def execKeyload (fn session slot : Nat) (key : BitVec 512) (s : State) : Result :=
  if !fnThere s fn then .fault .notEnabled
  else
    let k := mapGet {} s.out.slots slot
    .next (match keySession s fn session slot with
      | some y =>
        if y.all && k.key.isNone && !k.emptying then keyChange s fn session slot { k with key := some key }
        else keyError s fn session
      | none => keyError s fn session)

/-- KEYDROP: the slot is emptied as R341 gives. -/
def execKeydrop (fn session slot : Nat) (s : State) : Result :=
  if !fnThere s fn then .fault .notEnabled
  else
    let k := mapGet {} s.out.slots slot
    .next (match keySession s fn session slot with
      | some _ => if k.key.isSome && !k.emptying then keyChange s fn session slot { k with emptying := true } else keyError s fn session
      | none => keyError s fn session)

end Sys2Proof.Machine
end

