-- ==== Sys2Proof/Machine/Short.lean ====
section
/-! DEFINITION. The short majors 0x01-0x1D (05 R59, R60; 07 R93, R99): arithmetic, logic, shifts, unary operations and
immediates. Each form names its register files; what is computed is in Flags.lean. -/

namespace Sys2Proof.Machine

/-- A short arithmetic instruction on integers: wrapping (R59). -/
def shortInt (form : Form) (x : R3) (op : Ty → Word → Word → Res) (s : State) : Result :=
  regOp (selR3 form x) (fun _ _ o => op x.ty o.a o.b) s
/-- A short arithmetic instruction on floating-point elements (R59, R99); no short type reads the codebook. -/
def shortFlt (form : Form) (x : R3) (op : List Nat → Ty → Word → Word → Res) (s : State) : Result :=
  regOp (selR3 form x) (fun v _ o => op (cbList v) x.ty o.a o.b) s
/-- A short logic instruction, over all 64 bits (R93). -/
def shortLogic (form : Form) (x : R3L) (op : Word → Word → Word) (s : State) : Result :=
  regOp (selR3L form x) (fun _ _ o => (op o.a o.b, 0)) s
/-- A short shift (R95). -/
def shortShift (form : Form) (x : R3W) (op : Nat → Nat → Nat → Nat) (s : State) : Result :=
  regOp (selR3W form x) (fun _ _ o => shiftOp (shiftTy x) op o.a o.b) s
/-- A short unary instruction (R93). -/
def shortUnary (form : Form) (x : R2) (op : Ty → Word → Res) (s : State) : Result :=
  regOp (selR2 form x) (fun _ _ o => op x.ty (srcR2 form o)) s

/-! ### Arithmetic (majors 0x01-0x0F) -/

/-- add.T d, a, b: x + y modulo 2^w (R93, R94). -/
def execAddVVV (x : R3) (s : State) : Result := shortInt .v x (fun t => addOp t false) s
/-- The same, form VVS (R56). -/
def execAddVVS (x : R3) (s : State) : Result := shortInt .m x (fun t => addOp t false) s
/-- The same, form SSS (R56). -/
def execAddSSS (x : R3) (s : State) : Result := shortInt .s x (fun t => addOp t false) s
/-- fadd.T with .rn (R99, R100). -/
def execFaddVVV (x : R3) (s : State) : Result := shortFlt .v x (fun cb t => faddOp cb t .rn false) s
/-- The same, form VVS (R56). -/
def execFaddVVS (x : R3) (s : State) : Result := shortFlt .m x (fun cb t => faddOp cb t .rn false) s
/-- The same, form SSS (R56). -/
def execFaddSSS (x : R3) (s : State) : Result := shortFlt .s x (fun cb t => faddOp cb t .rn false) s
/-- sub.T: x - y modulo 2^w (R93, R94). -/
def execSubVVV (x : R3) (s : State) : Result := shortInt .v x (fun t => subOp t false) s
/-- The same, form VVS (R56). -/
def execSubVVS (x : R3) (s : State) : Result := shortInt .m x (fun t => subOp t false) s
/-- The same, form SSS (R56). -/
def execSubSSS (x : R3) (s : State) : Result := shortInt .s x (fun t => subOp t false) s
/-- fsub.T with .rn (R99, R100). -/
def execFsubVVV (x : R3) (s : State) : Result := shortFlt .v x (fun cb t => fsubOp cb t .rn false) s
/-- The same, form VVS (R56). -/
def execFsubVVS (x : R3) (s : State) : Result := shortFlt .m x (fun cb t => fsubOp cb t .rn false) s
/-- The same, form SSS (R56). -/
def execFsubSSS (x : R3) (s : State) : Result := shortFlt .s x (fun cb t => fsubOp cb t .rn false) s
/-- mul.T: x times y modulo 2^w (R93, R94). -/
def execMulVVV (x : R3) (s : State) : Result := shortInt .v x (fun t => mulOp t false) s
/-- The same, form VVS (R56). -/
def execMulVVS (x : R3) (s : State) : Result := shortInt .m x (fun t => mulOp t false) s
/-- The same, form SSS (R56). -/
def execMulSSS (x : R3) (s : State) : Result := shortInt .s x (fun t => mulOp t false) s
/-- fmul.T with .rn (R99, R100). -/
def execFmulVVV (x : R3) (s : State) : Result := shortFlt .v x (fun cb t => fmulOp cb t .rn false) s
/-- The same, form VVS (R56). -/
def execFmulVVS (x : R3) (s : State) : Result := shortFlt .m x (fun cb t => fmulOp cb t .rn false) s
/-- The same, form SSS (R56). -/
def execFmulSSS (x : R3) (s : State) : Result := shortFlt .s x (fun cb t => fmulOp cb t .rn false) s
/-- min.T: the lesser (R93). -/
def execMinVVV (x : R3) (s : State) : Result := shortInt .v x minOp s
/-- The same, form VVS (R56). -/
def execMinVVS (x : R3) (s : State) : Result := shortInt .m x minOp s
/-- The same, form SSS (R56). -/
def execMinSSS (x : R3) (s : State) : Result := shortInt .s x minOp s
/-- fmin.T (R43, R100). -/
def execFminVVV (x : R3) (s : State) : Result := shortFlt .v x (fun cb t => fminOp cb t false) s
/-- The same, form VVS (R56). -/
def execFminVVS (x : R3) (s : State) : Result := shortFlt .m x (fun cb t => fminOp cb t false) s
/-- The same, form SSS (R56). -/
def execFminSSS (x : R3) (s : State) : Result := shortFlt .s x (fun cb t => fminOp cb t false) s
/-- max.T: the greater (R93). -/
def execMaxVVV (x : R3) (s : State) : Result := shortInt .v x maxOp s
/-- The same, form VVS (R56). -/
def execMaxVVS (x : R3) (s : State) : Result := shortInt .m x maxOp s
/-- The same, form SSS (R56). -/
def execMaxSSS (x : R3) (s : State) : Result := shortInt .s x maxOp s
/-- fmax.T (R43, R100). -/
def execFmaxVVV (x : R3) (s : State) : Result := shortFlt .v x (fun cb t => fminOp cb t true) s
/-- The same, form VVS (R56). -/
def execFmaxVVS (x : R3) (s : State) : Result := shortFlt .m x (fun cb t => fminOp cb t true) s
/-- The same, form SSS (R56). -/
def execFmaxSSS (x : R3) (s : State) : Result := shortFlt .s x (fun cb t => fminOp cb t true) s

/-! ### Logic (majors 0x10-0x12) -/

/-- and over all 64 bits (R93). -/
def execAndVVV (x : R3L) (s : State) : Result := shortLogic .v x (· &&& ·) s
/-- The same, form VVS (R56). -/
def execAndVVS (x : R3L) (s : State) : Result := shortLogic .m x (· &&& ·) s
/-- The same, form SSS (R56). -/
def execAndSSS (x : R3L) (s : State) : Result := shortLogic .s x (· &&& ·) s
/-- or over all 64 bits (R93). -/
def execOrVVV (x : R3L) (s : State) : Result := shortLogic .v x (· ||| ·) s
/-- The same, form VVS (R56). -/
def execOrVVS (x : R3L) (s : State) : Result := shortLogic .m x (· ||| ·) s
/-- The same, form SSS (R56). -/
def execOrSSS (x : R3L) (s : State) : Result := shortLogic .s x (· ||| ·) s
/-- xor over all 64 bits (R93). -/
def execXorVVV (x : R3L) (s : State) : Result := shortLogic .v x (· ^^^ ·) s
/-- The same, form VVS (R56). -/
def execXorVVS (x : R3L) (s : State) : Result := shortLogic .m x (· ^^^ ·) s
/-- The same, form SSS (R56). -/
def execXorSSS (x : R3L) (s : State) : Result := shortLogic .s x (· ^^^ ·) s

/-! ### Shifts (majors 0x13-0x15) -/

/-- shl (R95). -/
def execShlVVV (x : R3W) (s : State) : Result := shortShift .v x shlBits s
/-- The same, form VVS (R56). -/
def execShlVVS (x : R3W) (s : State) : Result := shortShift .m x shlBits s
/-- The same, form SSS (R56). -/
def execShlSSS (x : R3W) (s : State) : Result := shortShift .s x shlBits s
/-- shr (R95). -/
def execShrVVV (x : R3W) (s : State) : Result := shortShift .v x shrBits s
/-- The same, form VVS (R56). -/
def execShrVVS (x : R3W) (s : State) : Result := shortShift .m x shrBits s
/-- The same, form SSS (R56). -/
def execShrSSS (x : R3W) (s : State) : Result := shortShift .s x shrBits s
/-- sar (R95). -/
def execSarVVV (x : R3W) (s : State) : Result := shortShift .v x sarBits s
/-- The same, form VVS (R56). -/
def execSarVVS (x : R3W) (s : State) : Result := shortShift .m x sarBits s
/-- The same, form SSS (R56). -/
def execSarSSS (x : R3W) (s : State) : Result := shortShift .s x sarBits s
/-- rot (R95). -/
def execRotVVV (x : R3W) (s : State) : Result := shortShift .v x rotBits s
/-- The same, form VVS (R56). -/
def execRotVVS (x : R3W) (s : State) : Result := shortShift .m x rotBits s
/-- The same, form SSS (R56). -/
def execRotSSS (x : R3W) (s : State) : Result := shortShift .s x rotBits s

/-! ### Unary operations (majors 0x16-0x18) -/

/-- abs of a short type: for a floating-point type the sign bit is cleared (R93). -/
def shortAbs (t : Ty) : Word → Res := if tyIsInt t then absOp t false else fabsOp t
/-- neg of a short type: for a floating-point type the sign bit is inverted (R93). -/
def shortNeg (t : Ty) : Word → Res := if tyIsInt t then negOp t false else fnegOp t

/-- abs.T d, a (R93). -/
def execAbsVV (x : R2) (s : State) : Result := shortUnary .v x shortAbs s
/-- The same, form VS (R56). -/
def execAbsVS (x : R2) (s : State) : Result := shortUnary .m x shortAbs s
/-- The same, form SS (R56). -/
def execAbsSS (x : R2) (s : State) : Result := shortUnary .s x shortAbs s
/-- neg.T d, a (R93). -/
def execNegVV (x : R2) (s : State) : Result := shortUnary .v x shortNeg s
/-- The same, form VS (R56). -/
def execNegVS (x : R2) (s : State) : Result := shortUnary .m x shortNeg s
/-- The same, form SS (R56). -/
def execNegSS (x : R2) (s : State) : Result := shortUnary .s x shortNeg s
/-- not: all 64 bits complemented (R93). -/
def execNotVV (x : R2) (s : State) : Result := shortUnary .v x (fun _ a => (~~~a, 0)) s
/-- The same, form VS (R56). -/
def execNotVS (x : R2) (s : State) : Result := shortUnary .m x (fun _ a => (~~~a, 0)) s
/-- The same, form SS (R56). -/
def execNotSS (x : R2) (s : State) : Result := shortUnary .s x (fun _ a => (~~~a, 0)) s
/-- popc (R95). -/
def execPopcVV (x : R2) (s : State) : Result := shortUnary .v x (fun t => bitUn t popcBits) s
/-- The same, form VS (R56). -/
def execPopcVS (x : R2) (s : State) : Result := shortUnary .m x (fun t => bitUn t popcBits) s
/-- The same, form SS (R56). -/
def execPopcSS (x : R2) (s : State) : Result := shortUnary .s x (fun t => bitUn t popcBits) s
/-- clz (R95). -/
def execClzVV (x : R2) (s : State) : Result := shortUnary .v x (fun t => bitUn t clzBits) s
/-- The same, form VS (R56). -/
def execClzVS (x : R2) (s : State) : Result := shortUnary .m x (fun t => bitUn t clzBits) s
/-- The same, form SS (R56). -/
def execClzSS (x : R2) (s : State) : Result := shortUnary .s x (fun t => bitUn t clzBits) s
/-- brev (R95). -/
def execBrevVV (x : R2) (s : State) : Result := shortUnary .v x (fun t => bitUn t brevBits) s
/-- The same, form VS (R56). -/
def execBrevVS (x : R2) (s : State) : Result := shortUnary .m x (fun t => bitUn t brevBits) s
/-- The same, form SS (R56). -/
def execBrevSS (x : R2) (s : State) : Result := shortUnary .s x (fun t => bitUn t brevBits) s
/-- mov: a copy of all 64 bits (R93). -/
def execMovVV (x : R2) (s : State) : Result := shortUnary .v x (fun _ a => (a, 0)) s
/-- The same, form VS (R56). -/
def execMovVS (x : R2) (s : State) : Result := shortUnary .m x (fun _ a => (a, 0)) s
/-- The same, form SS (R56). -/
def execMovSS (x : R2) (s : State) : Result := shortUnary .s x (fun _ a => (a, 0)) s

/-! ### Immediates (majors 0x19-0x1D) -/

/-- A movi selection: no source register. -/
def selMovi (form : Form) (d : BitVec 7) : Sel := { form, d, useA := false, useB := false }
/-- movi.T vD, imm, FI form (R60). -/
def execMoviVecImm (x : MoviImm) (s : State) : Result :=
  regOp (selMovi .v x.d) (fun _ _ _ => (moviImmWord x.ty x.imm, 0)) s
/-- movi.T sD, imm, FI form (R60). -/
def execMoviUniImm (x : MoviImm) (s : State) : Result :=
  regOp (selMovi .s x.d) (fun _ _ _ => (moviImmWord x.ty x.imm, 0)) s
/-- movi.T vD, imm, FW form (R60). -/
def execMoviVecIword (x : MoviWord) (s : State) : Result :=
  regOp (selMovi .v x.d) (fun _ _ _ => (moviWord x.ty x.imm, 0)) s
/-- movi.T sD, imm, FW form (R60). -/
def execMoviUniIword (x : MoviWord) (s : State) : Result :=
  regOp (selMovi .s x.d) (fun _ _ _ => (moviWord x.ty x.imm, 0)) s
/-- add.i64 sD, sA, imm (R60). -/
def execAddImm (x : AddImm) (s : State) : Result :=
  regOp { form := .s, d := x.d, a := x.a, useB := false } (fun _ _ o => (o.a + x.imm.signExtend 64, 0)) s

end Sys2Proof.Machine
end

