-- ==== Sys2Proof/Machine/Supervisor.lean ====
section
/-! DEFINITION. The instructions of major 0x38 but gsave and grest (21 R292-R294), and the writes of control registers as
events: a supervisor of the partition writes the register with the selects as they stand. -/

namespace Sys2Proof.Machine

/-- tret: the return from the handler; outside it cause 0x08 (R292). -/
def execTret (_x : R3L) (s : State) : Result :=
  issuer s fun f g =>
    if !hmode (seen f g) then trap f 0x08 0 s
    else .next (unfocus (putGroup s f.gid (leaveHandler (countWindow f.lanes g))))

/-- scall sA: supervisor cause 0x13 with EPC at next(PC) (R293). -/
def execScall (x : R3L) (s : State) : Result :=
  issuer s fun f g => trapNext f 0x13 (fieldW (sGet (seen f g) x.a.toNat) 0 56) true s

/-- csrr sD, n (R294): an unmapped number is cause 0x01, another context than the supervisor's 0x08. -/
def execCsrr (x : SrRead) (s : State) : Result :=
  issuer s fun f g =>
    let k := groupCtx s g
    match csrRead s (ctxPart k) x.n.toNat with
    | none => trap f 0x01 0 s
    | some v => if ctxNum k ≠ 0 then trap f 0x08 0 s else done f (sSet g x.d.toNat v) s

/-- csrw n, sA (R294). -/
def execCsrw (x : SrWrite) (s : State) : Result :=
  issuer s fun f g =>
    let k := groupCtx s g
    if (csrRead s (ctxPart k) x.n.toNat).isNone then trap f 0x01 0 s
    else if ctxNum k ≠ 0 then trap f 0x08 0 s
    else
      match csrWrite s (ctxPart k) (coreDie (gidCore f.gid)) x.n.toNat (sGet (seen f g) x.a.toNat) with
      | .absent => trap f 0x01 0 s
      | .refused c i => trap f c i s
      | .later why => waits f why s
      | .asleep b => waits f .operand (wakeBin s b)
      | .done t => doneIn f t

/-! ### Writes as events -/

/-- A supervisor's write of a control register; one that would trap or wait is not possible, and one that finds a bin asleep wakes
it first. -/
def csrEvent (p n : Nat) (v : Word) (s : State) : Result :=
  match csrWrite s p 0 n v with
  | .done t => .next t
  | .asleep b => whenAwake s [b] (.fault .notEnabled)
  | _ => .fault .notEnabled

/-- A value with one bit given. -/
def withBit (v : Word) (i : Nat) (b : Bool) : Word :=
  if b then v ||| BitVec.ofNat 64 (2 ^ i) else v &&& ~~~(BitVec.ofNat 64 (2 ^ i))

def execBankroleWrite (part : Nat) (v : Word) (s : State) : Result := csrEvent part 0x6B v s
def execBankpinWrite (part : Nat) (v : Word) (s : State) : Result := csrEvent part 0x6C v s
/-- The row's write has VALID 1 (R209). -/
def execWtctlRegister (part : Nat) (v : Word) (s : State) : Result := csrEvent part 0x53 (withBit v 0 true) s
/-- The row's write has VALID 0. -/
def execWtctlDeregister (part : Nat) (v : Word) (s : State) : Result := csrEvent part 0x53 (withBit v 0 false) s
def execFpbaseWrite (part : Nat) (v : Word) (s : State) : Result := csrEvent part 0x58 v s
def execFpaddWrite (part : Nat) (v : Word) (s : State) : Result := csrEvent part 0x5A v s
def execPtbaseWrite (part : Nat) (v : Word) (s : State) : Result := csrEvent part 0x67 v s
/-- PTECMD with GO 1 and OP install, remove, read (R236). -/
def execPteInstall (part : Nat) (_v : Word) (s : State) : Result := csrEvent part 0x56 1 s
def execPteRemove (part : Nat) (_v : Word) (s : State) : Result := csrEvent part 0x56 3 s
def execPteRead (part : Nat) (_v : Word) (s : State) : Result := csrEvent part 0x56 5 s
/-- GCTL with the row's OP and the locator of the value (R298). -/
def gctlValue (op : Nat) (v : Word) : Word := packW [(op, 56), (fieldW v 0 15, 0)]
def execGctlResume (part : Nat) (v : Word) (s : State) : Result := csrEvent part 0x63 (gctlValue 1 v) s
def execGctlReflect (part : Nat) (v : Word) (s : State) : Result := csrEvent part 0x63 (gctlValue 2 v) s
def execGctlKill (part : Nat) (v : Word) (s : State) : Result := csrEvent part 0x63 (gctlValue 3 v) s
def execCtxctlWrite (part : Nat) (v : Word) (s : State) : Result := csrEvent part 0x66 v s
def execSlhashWrite (part : Nat) (v : Word) (s : State) : Result := csrEvent part 0x71 v s
/-- SLCTL with GO 1 (R334). -/
def execSlctlGo (part : Nat) (_v : Word) (s : State) : Result := csrEvent part 0x72 1 s
def execSlwbWrite (part : Nat) (v : Word) (s : State) : Result := csrEvent part 0x76 v s
/-- BINMAP with ALLOC 0, with ALLOC 1, with any value (R344, R346). -/
def execBinmapAllocClear (part : Nat) (v : Word) (s : State) : Result := csrEvent part 0x74 (withBit v 2 false) s
def execBinmapAllocSet (part : Nat) (v : Word) (s : State) : Result := csrEvent part 0x74 (withBit v 2 true) s
def execBinmapDomWrite (part : Nat) (v : Word) (s : State) : Result := csrEvent part 0x74 v s
/-- FWCTL with VALID 1, with VALID 0 (R339). -/
def execFwctlValidSet (part : Nat) (v : Word) (s : State) : Result := csrEvent part 0x7C (withBit v 0 true) s
def execFwctlValidClear (part : Nat) (v : Word) (s : State) : Result := csrEvent part 0x7C (withBit v 0 false) s

end Sys2Proof.Machine
end

