-- ==== Sys2Proof/Machine/Dispatch.lean ====
section
/-! DEFINITION. Dispatch: one arm for each row of the opcode table, each a direct call of its meaning. -/

namespace Sys2Proof.Machine

/-- What an instruction or event does to a state. -/
def exec (i : Instr) (s : State) : Host.Outcome State Fault Refusal :=
  match i with
  | .addVVV x => Sys2Proof.Machine.execAddVVV x s
  | .addVVS x => Sys2Proof.Machine.execAddVVS x s
  | .addSSS x => Sys2Proof.Machine.execAddSSS x s
  | .faddVVV x => Sys2Proof.Machine.execFaddVVV x s
  | .faddVVS x => Sys2Proof.Machine.execFaddVVS x s
  | .faddSSS x => Sys2Proof.Machine.execFaddSSS x s
  | .subVVV x => Sys2Proof.Machine.execSubVVV x s
  | .subVVS x => Sys2Proof.Machine.execSubVVS x s
  | .subSSS x => Sys2Proof.Machine.execSubSSS x s
  | .fsubVVV x => Sys2Proof.Machine.execFsubVVV x s
  | .fsubVVS x => Sys2Proof.Machine.execFsubVVS x s
  | .fsubSSS x => Sys2Proof.Machine.execFsubSSS x s
  | .mulVVV x => Sys2Proof.Machine.execMulVVV x s
  | .mulVVS x => Sys2Proof.Machine.execMulVVS x s
  | .mulSSS x => Sys2Proof.Machine.execMulSSS x s
  | .fmulVVV x => Sys2Proof.Machine.execFmulVVV x s
  | .fmulVVS x => Sys2Proof.Machine.execFmulVVS x s
  | .fmulSSS x => Sys2Proof.Machine.execFmulSSS x s
  | .minVVV x => Sys2Proof.Machine.execMinVVV x s
  | .minVVS x => Sys2Proof.Machine.execMinVVS x s
  | .minSSS x => Sys2Proof.Machine.execMinSSS x s
  | .fminVVV x => Sys2Proof.Machine.execFminVVV x s
  | .fminVVS x => Sys2Proof.Machine.execFminVVS x s
  | .fminSSS x => Sys2Proof.Machine.execFminSSS x s
  | .maxVVV x => Sys2Proof.Machine.execMaxVVV x s
  | .maxVVS x => Sys2Proof.Machine.execMaxVVS x s
  | .maxSSS x => Sys2Proof.Machine.execMaxSSS x s
  | .fmaxVVV x => Sys2Proof.Machine.execFmaxVVV x s
  | .fmaxVVS x => Sys2Proof.Machine.execFmaxVVS x s
  | .fmaxSSS x => Sys2Proof.Machine.execFmaxSSS x s
  | .andVVV x => Sys2Proof.Machine.execAndVVV x s
  | .andVVS x => Sys2Proof.Machine.execAndVVS x s
  | .andSSS x => Sys2Proof.Machine.execAndSSS x s
  | .orVVV x => Sys2Proof.Machine.execOrVVV x s
  | .orVVS x => Sys2Proof.Machine.execOrVVS x s
  | .orSSS x => Sys2Proof.Machine.execOrSSS x s
  | .xorVVV x => Sys2Proof.Machine.execXorVVV x s
  | .xorVVS x => Sys2Proof.Machine.execXorVVS x s
  | .xorSSS x => Sys2Proof.Machine.execXorSSS x s
  | .shlVVV x => Sys2Proof.Machine.execShlVVV x s
  | .shlVVS x => Sys2Proof.Machine.execShlVVS x s
  | .shlSSS x => Sys2Proof.Machine.execShlSSS x s
  | .shrVVV x => Sys2Proof.Machine.execShrVVV x s
  | .shrVVS x => Sys2Proof.Machine.execShrVVS x s
  | .shrSSS x => Sys2Proof.Machine.execShrSSS x s
  | .sarVVV x => Sys2Proof.Machine.execSarVVV x s
  | .sarVVS x => Sys2Proof.Machine.execSarVVS x s
  | .sarSSS x => Sys2Proof.Machine.execSarSSS x s
  | .rotVVV x => Sys2Proof.Machine.execRotVVV x s
  | .rotVVS x => Sys2Proof.Machine.execRotVVS x s
  | .rotSSS x => Sys2Proof.Machine.execRotSSS x s
  | .absVV x => Sys2Proof.Machine.execAbsVV x s
  | .absVS x => Sys2Proof.Machine.execAbsVS x s
  | .absSS x => Sys2Proof.Machine.execAbsSS x s
  | .negVV x => Sys2Proof.Machine.execNegVV x s
  | .negVS x => Sys2Proof.Machine.execNegVS x s
  | .negSS x => Sys2Proof.Machine.execNegSS x s
  | .notVV x => Sys2Proof.Machine.execNotVV x s
  | .notVS x => Sys2Proof.Machine.execNotVS x s
  | .notSS x => Sys2Proof.Machine.execNotSS x s
  | .popcVV x => Sys2Proof.Machine.execPopcVV x s
  | .popcVS x => Sys2Proof.Machine.execPopcVS x s
  | .popcSS x => Sys2Proof.Machine.execPopcSS x s
  | .clzVV x => Sys2Proof.Machine.execClzVV x s
  | .clzVS x => Sys2Proof.Machine.execClzVS x s
  | .clzSS x => Sys2Proof.Machine.execClzSS x s
  | .brevVV x => Sys2Proof.Machine.execBrevVV x s
  | .brevVS x => Sys2Proof.Machine.execBrevVS x s
  | .brevSS x => Sys2Proof.Machine.execBrevSS x s
  | .movVV x => Sys2Proof.Machine.execMovVV x s
  | .movVS x => Sys2Proof.Machine.execMovVS x s
  | .movSS x => Sys2Proof.Machine.execMovSS x s
  | .moviVecImm x => Sys2Proof.Machine.execMoviVecImm x s
  | .moviUniImm x => Sys2Proof.Machine.execMoviUniImm x s
  | .moviVecIword x => Sys2Proof.Machine.execMoviVecIword x s
  | .moviUniIword x => Sys2Proof.Machine.execMoviUniIword x s
  | .addImm x => Sys2Proof.Machine.execAddImm x s
  | .addX x => Sys2Proof.Machine.execAddX x s
  | .subX x => Sys2Proof.Machine.execSubX x s
  | .mulX x => Sys2Proof.Machine.execMulX x s
  | .mulhi x => Sys2Proof.Machine.execMulhi x s
  | .mad x => Sys2Proof.Machine.execMad x s
  | .minX x => Sys2Proof.Machine.execMinX x s
  | .maxX x => Sys2Proof.Machine.execMaxX x s
  | .absX x => Sys2Proof.Machine.execAbsX x s
  | .negX x => Sys2Proof.Machine.execNegX x s
  | .andX x => Sys2Proof.Machine.execAndX x s
  | .orX x => Sys2Proof.Machine.execOrX x s
  | .xorX x => Sys2Proof.Machine.execXorX x s
  | .notX x => Sys2Proof.Machine.execNotX x s
  | .shlX x => Sys2Proof.Machine.execShlX x s
  | .shrX x => Sys2Proof.Machine.execShrX x s
  | .sarX x => Sys2Proof.Machine.execSarX x s
  | .rotX x => Sys2Proof.Machine.execRotX x s
  | .popcX x => Sys2Proof.Machine.execPopcX x s
  | .clzX x => Sys2Proof.Machine.execClzX x s
  | .brevX x => Sys2Proof.Machine.execBrevX x s
  | .bfx x => Sys2Proof.Machine.execBfx x s
  | .bfi x => Sys2Proof.Machine.execBfi x s
  | .sel x => Sys2Proof.Machine.execSel x s
  | .cmp x => Sys2Proof.Machine.execCmp x s
  | .movX x => Sys2Proof.Machine.execMovX x s
  | .dot4 x => Sys2Proof.Machine.execDot4 x s
  | .sad x => Sys2Proof.Machine.execSad x s
  | .faddX x => Sys2Proof.Machine.execFaddX x s
  | .fsubX x => Sys2Proof.Machine.execFsubX x s
  | .fmulX x => Sys2Proof.Machine.execFmulX x s
  | .ffma x => Sys2Proof.Machine.execFfma x s
  | .fminX x => Sys2Proof.Machine.execFminX x s
  | .fmaxX x => Sys2Proof.Machine.execFmaxX x s
  | .fcmp x => Sys2Proof.Machine.execFcmp x s
  | .frnd x => Sys2Proof.Machine.execFrnd x s
  | .cvt x => Sys2Proof.Machine.execCvt x s
  | .pack x => Sys2Proof.Machine.execPack x s
  | .unpack x => Sys2Proof.Machine.execUnpack x s
  | .exp2 x => Sys2Proof.Machine.execExp2 x s
  | .log2 x => Sys2Proof.Machine.execLog2 x s
  | .rcp x => Sys2Proof.Machine.execRcp x s
  | .rsqrt x => Sys2Proof.Machine.execRsqrt x s
  | .sqrt x => Sys2Proof.Machine.execSqrt x s
  | .sin x => Sys2Proof.Machine.execSin x s
  | .cos x => Sys2Proof.Machine.execCos x s
  | .tanh x => Sys2Proof.Machine.execTanh x s
  | .cbld x => Sys2Proof.Machine.execCbld x s
  | .cbrd x => Sys2Proof.Machine.execCbrd x s
  | .cbq x => Sys2Proof.Machine.execCbq x s
  | .shfl x => Sys2Proof.Machine.execShfl x s
  | .bcast x => Sys2Proof.Machine.execBcast x s
  | .ballot x => Sys2Proof.Machine.execBallot x s
  | .vote x => Sys2Proof.Machine.execVote x s
  | .gscan x => Sys2Proof.Machine.execGscan x s
  | .gred x => Sys2Proof.Machine.execGred x s
  | .matchEq x => Sys2Proof.Machine.execMatchEq x s
  | .rdsrVector x => Sys2Proof.Machine.execRdsrVector x s
  | .rdsrUniform x => Sys2Proof.Machine.execRdsrUniform x s
  | .wrsr x => Sys2Proof.Machine.execWrsr x s
  | .bwphaseWrite part v => Sys2Proof.Machine.execBwphaseWrite part v s
  | .ld x => Sys2Proof.Machine.execLd x s
  | .st x => Sys2Proof.Machine.execSt x s
  | .lds x => Sys2Proof.Machine.execLds x s
  | .sts x => Sys2Proof.Machine.execSts x s
  | .ldc x => Sys2Proof.Machine.execLdc x s
  | .atom x => Sys2Proof.Machine.execAtom x s
  | .atoms x => Sys2Proof.Machine.execAtoms x s
  | .pref x => Sys2Proof.Machine.execPref x s
  | .fence x => Sys2Proof.Machine.execFence x s
  | .fenceEng x => Sys2Proof.Machine.execFenceEng x s
  | .wbr x => Sys2Proof.Machine.execWbr x s
  | .invr x => Sys2Proof.Machine.execInvr x s
  | .put x => Sys2Proof.Machine.execPut x s
  | .get x => Sys2Proof.Machine.execGet x s
  | .ctrw x => Sys2Proof.Machine.execCtrw x s
  | .mapCat x => Sys2Proof.Machine.execMapCat x s
  | .mapSplit x => Sys2Proof.Machine.execMapSplit x s
  | .mapPerm x => Sys2Proof.Machine.execMapPerm x s
  | .mapXchg x => Sys2Proof.Machine.execMapXchg x s
  | .mapAlias x => Sys2Proof.Machine.execMapAlias x s
  | .mapDrop x => Sys2Proof.Machine.execMapDrop x s
  | .mapQuery x => Sys2Proof.Machine.execMapQuery x s
  | .cpG2s x => Sys2Proof.Machine.execCpG2s x s
  | .cpS2g x => Sys2Proof.Machine.execCpS2g x s
  | .cpS2s x => Sys2Proof.Machine.execCpS2s x s
  | .cpMc x => Sys2Proof.Machine.execCpMc x s
  | .cpNet x => Sys2Proof.Machine.execCpNet x s
  | .cpxTr x => Sys2Proof.Machine.execCpxTr x s
  | .cpxQ4r x => Sys2Proof.Machine.execCpxQ4r x s
  | .cpxDq x => Sys2Proof.Machine.execCpxDq x s
  | .cpxZbc x => Sys2Proof.Machine.execCpxZbc x s
  | .cpxZbx x => Sys2Proof.Machine.execCpxZbx x s
  | .mm x => Sys2Proof.Machine.execMm x s
  | .mmLd x => Sys2Proof.Machine.execMmLd x s
  | .mmSt x => Sys2Proof.Machine.execMmSt x s
  | .txInit x => Sys2Proof.Machine.execTxInit x s
  | .txAim x => Sys2Proof.Machine.execTxAim x s
  | .txArrive x => Sys2Proof.Machine.execTxArrive x s
  | .txWait x => Sys2Proof.Machine.execTxWait x s
  | .txTest x => Sys2Proof.Machine.execTxTest x s
  | .txDrop x => Sys2Proof.Machine.execTxDrop x s
  | .taskSpawn x => Sys2Proof.Machine.execTaskSpawn x s
  | .tileSet x => Sys2Proof.Machine.execTileSet x s
  | .tileGet x => Sys2Proof.Machine.execTileGet x s
  | .ridgeArrive x => Sys2Proof.Machine.execRidgeArrive x s
  | .ridgeWait x => Sys2Proof.Machine.execRidgeWait x s
  | .ridgeJoin x => Sys2Proof.Machine.execRidgeJoin x s
  | .ridgeLeave x => Sys2Proof.Machine.execRidgeLeave x s
  | .leadStep x => Sys2Proof.Machine.execLeadStep x s
  | .tasteNext x => Sys2Proof.Machine.execTasteNext x s
  | .tasteAdd x => Sys2Proof.Machine.execTasteAdd x s
  | .tasteStat x => Sys2Proof.Machine.execTasteStat x s
  | .bra x => Sys2Proof.Machine.execBra x s
  | .brp x => Sys2Proof.Machine.execBrp x s
  | .call x => Sys2Proof.Machine.execCall x s
  | .jmpi x => Sys2Proof.Machine.execJmpi x s
  | .ret x => Sys2Proof.Machine.execRet x s
  | .exit x => Sys2Proof.Machine.execExit x s
  | .yield x => Sys2Proof.Machine.execYield x s
  | .nop x => Sys2Proof.Machine.execNop x s
  | .gsync x => Sys2Proof.Machine.execGsync x s
  | .wait x => Sys2Proof.Machine.execWait x s
  | .waitClk x => Sys2Proof.Machine.execWaitClk x s
  | .rep x => Sys2Proof.Machine.execRep x s
  | .win x => Sys2Proof.Machine.execWin x s
  | .trap x => Sys2Proof.Machine.execTrap x s
  | .brk x => Sys2Proof.Machine.execBrk x s
  | .tret x => Sys2Proof.Machine.execTret x s
  | .csrr x => Sys2Proof.Machine.execCsrr x s
  | .csrw x => Sys2Proof.Machine.execCsrw x s
  | .gsave x => Sys2Proof.Machine.execGsave x s
  | .grest x => Sys2Proof.Machine.execGrest x s
  | .scall x => Sys2Proof.Machine.execScall x s
  | .runPromoted gid lanes => Sys2Proof.Machine.execRunPromoted gid lanes s
  | .waitClkDeadline gid lanes => Sys2Proof.Machine.execWaitClkDeadline gid lanes s
  | .groupLeave gid => Sys2Proof.Machine.execGroupLeave gid s
  | .latchedCauseDelivery gid => Sys2Proof.Machine.execLatchedCauseDelivery gid s
  | .requestAtHomeSlice id => Sys2Proof.Machine.execRequestAtHomeSlice id s
  | .requestRetranslation id => Sys2Proof.Machine.execRequestRetranslation id s
  | .tableWalk core ctx va => Sys2Proof.Machine.execTableWalk core ctx va s
  | .loadResponse id => Sys2Proof.Machine.execLoadResponse id s
  | .atomicResponse id => Sys2Proof.Machine.execAtomicResponse id s
  | .storeAcknowledgement id => Sys2Proof.Machine.execStoreAcknowledgement id s
  | .l1Eviction core line => Sys2Proof.Machine.execL1Eviction core line s
  | .proxySliceEviction die line => Sys2Proof.Machine.execProxySliceEviction die line s
  | .putArrival id => Sys2Proof.Machine.execPutArrival id s
  | .putAcknowledged id => Sys2Proof.Machine.execPutAcknowledged id s
  | .getComplete id => Sys2Proof.Machine.execGetComplete id s
  | .pressEntryExecute id => Sys2Proof.Machine.execPressEntryExecute id s
  | .enginePartArrival id part => Sys2Proof.Machine.execEnginePartArrival id part s
  | .engineOperationComplete id => Sys2Proof.Machine.execEngineOperationComplete id s
  | .editCommit id => Sys2Proof.Machine.execEditCommit id s
  | .editComplete id => Sys2Proof.Machine.execEditComplete id s
  | .zeroPageCommit id => Sys2Proof.Machine.execZeroPageCommit id s
  | .frameRelease frame => Sys2Proof.Machine.execFrameRelease frame s
  | .teamPlacement node => Sys2Proof.Machine.execTeamPlacement node s
  | .placementWaitExpiry ctx => Sys2Proof.Machine.execPlacementWaitExpiry ctx s
  | .preemption node => Sys2Proof.Machine.execPreemption node s
  | .teamSave team => Sys2Proof.Machine.execTeamSave team s
  | .forcedSave team => Sys2Proof.Machine.execForcedSave team s
  | .nodeComplete node => Sys2Proof.Machine.execNodeComplete node s
  | .nodeFailInput node => Sys2Proof.Machine.execNodeFailInput node s
  | .gridBudgetExpired node => Sys2Proof.Machine.execGridBudgetExpired node s
  | .watchdogKill node => Sys2Proof.Machine.execWatchdogKill node s
  | .killComplete ctx => Sys2Proof.Machine.execKillComplete ctx s
  | .uncorrectableError place retryOk => Sys2Proof.Machine.execUncorrectableError place retryOk s
  | .linkError part die port => Sys2Proof.Machine.execLinkError part die port s
  | .switchPoint part => Sys2Proof.Machine.execSwitchPoint part s
  | .slwbDone part => Sys2Proof.Machine.execSlwbDone part s
  | .viewLineFill part win line => Sys2Proof.Machine.execViewLineFill part win line s
  | .keySlotEmptied slot => Sys2Proof.Machine.execKeySlotEmptied slot s
  | .binToStandby bin => Sys2Proof.Machine.execBinToStandby bin s
  | .binToRetention bin => Sys2Proof.Machine.execBinToRetention bin s
  | .binWakeDone bin => Sys2Proof.Machine.execBinWakeDone bin s
  | .binPowerDown bin => Sys2Proof.Machine.execBinPowerDown bin s
  | .bwphaseArrival part => Sys2Proof.Machine.execBwphaseArrival part s
  | .bankroleWrite part v => Sys2Proof.Machine.execBankroleWrite part v s
  | .bankpinWrite part v => Sys2Proof.Machine.execBankpinWrite part v s
  | .wtctlRegister part v => Sys2Proof.Machine.execWtctlRegister part v s
  | .wtctlDeregister part v => Sys2Proof.Machine.execWtctlDeregister part v s
  | .fpbaseWrite part v => Sys2Proof.Machine.execFpbaseWrite part v s
  | .fpaddWrite part v => Sys2Proof.Machine.execFpaddWrite part v s
  | .ptbaseWrite part v => Sys2Proof.Machine.execPtbaseWrite part v s
  | .pteInstall part v => Sys2Proof.Machine.execPteInstall part v s
  | .pteRemove part v => Sys2Proof.Machine.execPteRemove part v s
  | .pteRead part v => Sys2Proof.Machine.execPteRead part v s
  | .gctlResume part v => Sys2Proof.Machine.execGctlResume part v s
  | .gctlReflect part v => Sys2Proof.Machine.execGctlReflect part v s
  | .gctlKill part v => Sys2Proof.Machine.execGctlKill part v s
  | .ctxctlWrite part v => Sys2Proof.Machine.execCtxctlWrite part v s
  | .slhashWrite part v => Sys2Proof.Machine.execSlhashWrite part v s
  | .slctlGo part v => Sys2Proof.Machine.execSlctlGo part v s
  | .slwbWrite part v => Sys2Proof.Machine.execSlwbWrite part v s
  | .binmapAllocClear part v => Sys2Proof.Machine.execBinmapAllocClear part v s
  | .binmapAllocSet part v => Sys2Proof.Machine.execBinmapAllocSet part v s
  | .binmapDomWrite part v => Sys2Proof.Machine.execBinmapDomWrite part v s
  | .fwctlValidSet part v => Sys2Proof.Machine.execFwctlValidSet part v s
  | .fwctlValidClear part v => Sys2Proof.Machine.execFwctlValidClear part v s
  | .registerWrite target v => Sys2Proof.Machine.execRegisterWrite target v s
  | .perstDeassert => Sys2Proof.Machine.execPerstDeassert s
  | .trainingDone => Sys2Proof.Machine.execTrainingDone s
  | .ownerEntryWrite unit idx v => Sys2Proof.Machine.execOwnerEntryWrite unit idx v s
  | .numvfsWrite n => Sys2Proof.Machine.execNumvfsWrite n s
  | .feataccWrite part n v => Sys2Proof.Machine.execFeataccWrite part n v s
  | .mbxdbPost part v => Sys2Proof.Machine.execMbxdbPost part v s
  | .mailboxPostResult part => Sys2Proof.Machine.execMailboxPostResult part s
  | .mailboxMessage part => Sys2Proof.Machine.execMailboxMessage part s
  | .mbxreplyWrite part v => Sys2Proof.Machine.execMbxreplyWrite part v s
  | .getVersion fn arg => Sys2Proof.Machine.execGetVersion fn arg s
  | .getCapabilities fn arg => Sys2Proof.Machine.execGetCapabilities fn arg s
  | .negotiateAlgorithms fn sel => Sys2Proof.Machine.execNegotiateAlgorithms fn sel s
  | .getDigests fn arg => Sys2Proof.Machine.execGetDigests fn arg s
  | .getCertificate fn arg => Sys2Proof.Machine.execGetCertificate fn arg s
  | .challenge fn arg => Sys2Proof.Machine.execChallenge fn arg s
  | .getMeasurements fn arg => Sys2Proof.Machine.execGetMeasurements fn arg s
  | .keyExchange fn ask => Sys2Proof.Machine.execKeyExchange fn ask s
  | .finish fn ask => Sys2Proof.Machine.execFinish fn ask s
  | .heartbeat fn arg => Sys2Proof.Machine.execHeartbeat fn arg s
  | .keyUpdate fn arg => Sys2Proof.Machine.execKeyUpdate fn arg s
  | .endSession fn arg => Sys2Proof.Machine.execEndSession fn arg s
  | .keyload fn session slot key => Sys2Proof.Machine.execKeyload fn session slot key s
  | .keydrop fn session slot => Sys2Proof.Machine.execKeydrop fn session slot s
  | .putDataFlit port f => Sys2Proof.Machine.execPutDataFlit port f s
  | .counterRiseFlit port f => Sys2Proof.Machine.execCounterRiseFlit port f s
  | .acknowledgementFlit port f => Sys2Proof.Machine.execAcknowledgementFlit port f s
  | .creditFlit port f => Sys2Proof.Machine.execCreditFlit port f s
  | .retryRequestFlit port f => Sys2Proof.Machine.execRetryRequestFlit port f s
  | .idleFlit port f => Sys2Proof.Machine.execIdleFlit port f s
  | .portDown port => Sys2Proof.Machine.execPortDown port s
  | .laneLoss port => Sys2Proof.Machine.execLaneLoss port s
  | .throttleStep => Sys2Proof.Machine.execThrottleStep s
  | .thermalPowerDown => Sys2Proof.Machine.execThermalPowerDown s
  | .mbxptrWrite part v => Sys2Proof.Machine.execMbxptrWrite part v s
  | .ultraEthernetPacket p => Sys2Proof.Machine.execUltraEthernetPacket p s
  | .theushPortRetrain port => Sys2Proof.Machine.execTheushPortRetrain port s
  | .correctedError part => Sys2Proof.Machine.execCorrectedError part s

end Sys2Proof.Machine
end

