-- ==== Sys2Proof/Machine/Issue.lean ====
section
/-! DEFINITION. Issue: what one port does for one run (breakpoints 09 R143, lookahead windows 05 R76-R77, deferred
faults 21 R291, safe points 21 R299, repeats 05 R73), and one selection clock of a group with its two
ports (01 R15, 09 R122). -/

namespace Sys2Proof.Machine

/-- What a port did: the outcome, and whether it issued anything. -/
structure PortRes where
  out : Result
  issued : Bool

/-- Nothing was issued and the state is as it was. -/
def idlePort (s : State) : PortRes := { out := .next s, issued := false }
def didIssue (s : State) : PortRes := { out := .next s, issued := true }

/-- The breakpoint of a context that matches an address, with its number (R142, R143): it is enabled and its ITQ
and ITER ask for this issue; iter is none outside a repeat. Of several that match the lowest number is reported (DEDUCED, log
entry 10). -/
def bkptHit (s : State) (k : Nat) (pc : Pc) (iter : Option Nat) : Option Nat :=
  let c := ctxAt s k
  (List.range 4).find? (fun j =>
    let a := mapGet 0 c.bkpta j
    let e := mapGet 0 c.bkptc j
    e.getLsbD 0 && decide (a.extractLsb' 2 54 = pc.extractLsb' 2 54) &&
      (match iter with
        | none => !e.getLsbD 1
        | some i => if e.getLsbD 1 then decide ((e.extractLsb' 8 6).toNat = i) else decide (i = 0)))

/-- A cause below 0x05 that an instruction's meaning finds, which is reported before a misuse (R68): a write of EPC outside the
handler (R119), and a list of map.perm past s127 (R242). -/
def lowerCause (v : Group) (i : Instr) : Bool :=
  match i with
  | .wrsr x => x.n.toNat == 0x19 && !hmode v
  | .mapPerm x => permPast x v
  | _ => false

/-- The uniform registers that an instruction reads beyond those its fields name: the list of map.perm (R242). -/
def listRegs (v : Group) (i : Instr) : List Nat :=
  match i with
  | .mapPerm x => (List.range ((min (sNat v x.d 0) 64 + 3) / 4)).map (x.b.toNat + ·)
  | _ => []

/-- Debug-mode lookahead misuse: a register of a window is used before its waiting point, whether its access has met a fault or
not (R76). The trap is taken once the windows have closed, and after a fault of theirs (R77, R291): until then the run waits
with .misuse. -/
def windowMisuse (s : State) (k : Nat) (g v : Group) (lanes : LaneMask) (i : Instr) : Bool :=
  (ctxAt s k).dbgctl && !lowerCause v i &&
    (let u := regUse i
     (g.pends.filter (fun p => meets p.lanes lanes && !p.held)).any (fun p =>
       match p.dest with
       | .vec j => (u.vr ++ u.vw).any (fun n => decide (vReg v n = j))
       | .uni j => (u.sr ++ u.sw).any (fun n => decide (n.toNat = j)) || (listRegs v i).contains j))

/-- The oldest pending result of a run whose fault is to be taken before the run's next instruction: one of whose
window nothing has issued, an atomic, or, at a waiting or closing point, any (R291). -/
def dueFault (g : Group) (lanes : LaneMask) (closing : Bool) : Option Pend :=
  leastBy (·.id) (g.pends.filter (fun p =>
    meets p.lanes lanes && p.fault.isSome && !p.held && (!p.issued || p.left == 0 || closing)))

/-- Take a fault of an earlier FL instruction (R291). -/
def takeFault (f : Focus) (p : Pend) (s : State) : State :=
  let g := groupAt s f.gid
  match p.fault with
  | none => s
  | some (c, x) =>
    let s := putGroup s f.gid { g with pends := g.pends.filter (fun q => q.id != p.id) }
    let take := fun (s : State) (lanes : LaneMask) (epc : Word) =>
      if supCause c then stopGroup s f.gid lanes (causeWord c x) epc false else takeTrap s f.gid lanes c x epc
    if p.issued then take s f.lanes (epcWord f.pc (some ((f.pc.toNat - p.pc.toNat) / 4)))
    else if p.atom then take s f.lanes (epcWord f.pc (some p.words))
    else
      -- precise: the counters go back to the instruction, which issues again after a stop (R283, R298)
      let s := updGroup s f.gid (fun g => pcSet g (p.lanes &&& ~~~g.exited) p.pc)
      let s := match p.iter with
        | some i => updGroup s f.gid (fun g =>
            { g with rep := { lanes := p.lanes, active := true, next := BitVec.ofNat 6 i } })
        | none => s
      take s p.lanes (epcWord p.pc none)

/-- The result of an issue as a port's: a run that waits for its open windows to close is blocked and has not been served
(R77, R121). -/
def portOut (f : Focus) (t : State) : PortRes :=
  let gt := groupAt t f.gid
  if gt.blocks.any (fun b => whySoft b.why && meets b.lanes f.lanes) then
    -- a wait that does not block: the port issues nothing in this clock
    { out := .next (putGroup t f.gid { gt with blocks := gt.blocks.filter (fun b => !whySoft b.why) }), issued := false }
  else
    { out := .next t,
      issued := !gt.blocks.any (fun b => (b.why == .closing || b.why == .misuse) && meets b.lanes f.lanes) }

/-- What precedes an instruction that has been fetched: open windows at a closing point, where the run is blocked (R121), faults
due (not where the first port's instruction of the clock has trapped, R288), waiting points, breakpoints, a safe point under
pre-emption, and debug mode; then the instruction. A closing point that is a window's waiting point too blocks the run, and the
clock in which a run reaches its closing point does not serve it (DEDUCED, log entry 18). -/
def portRun (s : State) (f : Focus) (v : Group) (fi : FetchedInstr) (iter : Option Nat) (ipc : Pc) (safe : Bool) :
    PortRes :=
  let g := groupAt s f.gid
  let k := groupCtx s g
  let s' := { s with focus := some f }
  let pas := fetchPas s (gidCore f.gid) k ([f.pc.toNat, ipc.toNat] ++ (match fi with
    | .instr _ w => if hasSecond w then [(pcPlus ipc 1).toNat] else []
    | _ => []))
  -- what has issued has been fetched
  let fetched := fun (r : PortRes) => match r.issued, r.out with
    | true, .next t => didIssue (pas.foldl (visitHome (ctxPart k)) t)
    | _, _ => r
  let closing := match fi with
    | .instr _ w => closes w
    | _ => false
  let misuse := match fi with
    | .instr i _ => windowMisuse s k g v f.lanes i
    | _ => false
  if closing && !(pendsOf g f.lanes).isEmpty then { out := .next (waitOn f .closing s'), issued := false }
  else
    match dueFault g f.lanes (closing || misuse) with
    | some p =>
      if (pendsOf g f.lanes).isEmpty && !f.quiet then didIssue (takeFault f p s) else idlePort s
    | none =>
      if (pendsOf g f.lanes).any (fun p => p.left == 0) then idlePort s
      else
        match (if meets f.lanes (~~~g.skipBp) then bkptHit s k ipc iter else none) with
        | some j => portOut f (trapAt f 0x12 j f.pc s')
        | none =>
          match fi with
          | .asleep b => { out := .next (wakeBin s b), issued := false }
          | .cause c x u => fetched (portOut f (if u then superTrapAt f c x f.pc s' else trapAt f c x f.pc s'))
          | .instr i w =>
            if safe && Dec.fS w then
              { out := .next (updGroup s f.gid (fun g => { g with safeStop := g.safeStop ||| f.lanes })), issued := false }
            else if misuse then portOut f (if f.quiet then unfocus s' else waitOn f .misuse s')
            else
              match exec i s' with
              | .next t => fetched (portOut f t)
              | r => { out := r, issued := true }

/-- A word issues by itself, outside a repeat. -/
def portPlain (s : State) (f : Focus) (v : Group) (safe : Bool) : PortRes :=
  let fi := fetchInstr s f.gid (groupCtx s (groupAt s f.gid)) f.pc 0 0 0 0
  let f := match fi with
    | .instr _ w => { f with npc := pcPlus f.pc (wordsOf w) }
    | _ => f
  portRun s f v fi none f.pc safe

/-- One port serves one run. In a repeat the run's counters stay at the rep and the instruction after it issues with
stepped registers; the checks of the rep are made for each iteration, so that they hold for what then stands there (R73). A
run whose counter has been moved off its rep issues as any other. -/
def portIssue (s : State) (gid : Nat) (r : Run) (view : Option Group) (quiet : Bool) : PortRes :=
  let g := groupAt s gid
  let v := view.getD g
  let k := groupCtx s g
  let safe := (teamAt s g.team).preemptAt.isSome && !hmode g
  let f : Focus := { gid, lanes := r.lanes, pc := r.pc, npc := r.pc, view, quiet }
  if r.rep then
    match fetchWord s (gidCore gid) k r.pc.toNat with
    | .word w =>
      match decodeFor s (ctxPart k) w 0 with
      | .ok (.rep x) =>
        let ipc := pcPlus r.pc (wordsOf w)
        let n := g.rep.next.toNat
        let fi := if repBad s (gidCore gid) k x ipc then .cause 0x04 0 false
          else fetchInstr s gid k ipc n (repStep x.sd) (repStep x.sa) (repStep x.sb)
        let after := match fi with
          | .instr _ iw => pcPlus ipc (wordsOf iw)
          | _ => ipc
        let f := { f with iter := some { idx := n, count := x.cnt.toNat + 1, after } }
        -- a counter past the count leaves nothing to repeat (R73)
        match decide (x.cnt.toNat < n) && !repBad s (gidCore gid) k x ipc, fetchWord s (gidCore gid) k ipc.toNat with
        | true, .word iw => didIssue (updGroup s gid (fun g => pcSet { g with rep := {} } r.lanes (pcPlus ipc (wordsOf iw))))
        | _, _ => portRun s f v fi (some n) ipc safe
      | _ => portPlain s f v safe
    | .cause c x u => portRun s f v (.cause c x u) none r.pc safe
    | .asleep b => portRun s f v (.asleep b) none r.pc safe
  else portPlain s f v safe

/-- A blocked run that is to trap, once its windows have closed and the handler is free or its own: a tx.wait that its word has
trapped (R254, R256), a use of an open window's register in debug mode (R76, R77). -/
def blockTrapDue (g : Group) : Option (Block × Nat × Nat) :=
  g.blocks.findSome? (fun b =>
    if !(pendsOf g b.lanes).isEmpty || (hmode g && !meets b.lanes g.hlanes) then none
    else match b.why with
      | .txTrap c i => some (b, c, i)
      | .misuse =>
        if g.pends.any (fun p => meets p.lanes b.lanes && p.fault.isSome && !p.held) then none else some (b, 0x05, 0)
      | _ => none)
def takeBlockTrap (s : State) (gid : Nat) (g : Group) : State :=
  match blockTrapDue g with
  | some (b, c, i) => takeTrap s gid b.lanes c i (epcWord b.pc none)
  | none => s

/-- A group that no longer issues: its partition is stopped or absent (R296, R353), or its team is to be saved by force, 20 µs after the
request (R300). -/
def groupHalted (s : State) (g : Group) : Bool :=
  partStill s (ctxPart (groupCtx s g)) ||
    (match (teamAt s g.team).preemptAt with
      | some t => decide (t + 20000 ≤ s.clk.ns)
      | none => false)

/-- The group as a clock finds it: waits that have ended are over, and their runs issue again (R120), but for a gsave whose
stores have been accepted, which is done (R295). -/
def wakeRuns (s : State) (gid : Nat) (g : Group) : Group :=
  let ended := g.blocks.filter (fun b => !blockHolds s gid g b && b.why == .stored)
  ended.foldl (fun g b =>
      { pcSet (countWindow b.lanes g) b.lanes b.npc with skipBp := g.skipBp &&& ~~~b.lanes })
    { g with blocks := g.blocks.filter (blockHolds s gid g) }

/-- What a port has done without issuing: a step of its own, in which the group is not selected. -/
def portMove (s : State) (p : PortRes) : Option Result :=
  if p.issued then none
  else
    match p.out with
    | .next t => if t = s then none else some p.out
    | r => some r

/-- One selection clock of a group, where it is ready (R15, R122): the first port issues now and the second port's
issue follows at once, with the group as it stood at the start of the clock. What a run does without being served (it is blocked
at a closing point, stops at a safe point, or wakes a bin) comes first, as a step that is no selection. -/
def clockOf (s : State) (gid : Nat) : Option Result :=
  match mapFind s.groups gid with
  | none => none
  | some g0 =>
    if g0.stopped.isSome || groupHalted s g0 then none
    else if (blockTrapDue g0).isSome then some (.next (takeBlockTrap s gid g0))
    else if latchDue g0 then
      match latchTaker s gid g0 with
      | some lanes =>
        if (pendsOf g0 lanes).isEmpty then
          some (.next { s with agenda := .event (.latchedCauseDelivery gid) :: s.agenda })
        else none
      | none => none
    else
      let g := { wakeRuns s gid g0 with
        yielded := false, raised := 0, bwSeen := (partAt s (ctxPart (groupCtx s g0))).bwphase }
      -- a clock in which nothing issues is no selection
      let keep := fun (r : Result) => match r with
        | .next t => .next (updGroup t gid (fun x => { x with yielded := g0.yielded }))
        | r => r
      let s := putGroup s gid g
      let runs := runsOf s gid g
      match runs with
      | [] => none
      | r1 :: rest =>
        match (promotedRun g runs).filter (fun r => r.lanes != g.promoted) with
        | some r =>
          some (.next { s with agenda := .event (.runPromoted gid r.lanes) :: .issue gid :: s.agenda })
        | none =>
          let r2 := match promotedRun g runs with
            | some r => some r
            | none => rest.head?
          let p1 := portIssue s gid r1 none false
          let p2 := r2.map (fun r => portIssue s gid r (some g) false)
          match portMove s p1, p2.bind (portMove s) with
          | some r, _ => some (keep r)
          | none, some r => some (keep r)
          | none, none =>
            if !(p1.issued || p2.any (·.issued)) then none
            else
              match p1.out with
              | .next t =>
                let served := r1 :: r2.toList
                let t := match mapFind t.groups gid with
                  | some g' => putGroup t gid { ageRuns g' runs served with lastSel := t.fresh, sel := t.fresh, promoted := 0 }
                  | none => t
                let t := { t with fresh := t.fresh + 1 }
                match r2 with
                | some r => some (.next { t with agenda := .port2 gid r.lanes g :: t.agenda })
                | none => some (.next t)
              | r => some r

/-- The second port's issue of a clock (R90, R288). Where the first port's tret has ended the handler, the instruction of another
run of the handler counts as not issued, as the tret has moved its lanes too (R292; DEDUCED, log entry 18). -/
def port2Of (s : State) (gid : Nat) (lanes : LaneMask) (view : Group) : Result :=
  match mapFind s.groups gid with
  | none => .next s
  | some g =>
    if g.uid != view.uid || (hmode view && !hmode g) then .next s
    else
      let quiet := (hmode g && !hmode view) || (g.stopped.isSome && view.stopped.isNone)
      let rep := view.rep.active && !hmode view && decide (lanes = view.rep.lanes)
      (portIssue s gid { lanes, pc := pcGet view (lowLane lanes), rep } (some view) quiet).out

end Sys2Proof.Machine
end

