-- ==== Sys2Proof/Machine/Time.lean ====
section
/-! DEFINITION. Time: real time advances by a nanosecond and CLOCK by the arithmetic clocks in it (07 R117, 27 R373);
the budget of each grid with a resident team runs (09 R146), and so does the time for which a node does not fit (23 R315). -/

namespace Sys2Proof.Machine

/-- Whether a team of a node is resident on a core. -/
def nodeResident (s : State) (n : Nat) : Bool := s.teams.any (fun e => e.2.node == n && !e.2.gone)

/-- One nanosecond passes. -/
def tickOf (s : State) : State :=
  let r := s.clk.rem + s.clk.mhz
  trackWaits { s with
    clk := { s.clk with
      ns := s.clk.ns + 1
      rem := r % 1000
      clock := s.clk.clock + BitVec.ofNat 64 (r / 1000) }
    nodes := mapAll s.nodes (fun n x => if nodeResident s n then { x with ran := x.ran + 1 } else x) }

end Sys2Proof.Machine
end

