-- ==== Sys2Proof/Machine/Enabled.lean ====
section
/-! DEFINITION. What the machine can do next by itself: the issue of the group that each quadrant selects, and the
events that are possible (95; log entry 2). What the host, a peer, a fault of the hardware or another supervisor does is no
choice of the machine and comes from the agenda. -/

namespace Sys2Proof.Machine

/-- A group that has yielded is held back while another ready group of its quadrant has not been selected since (R131). -/
def heldByYield (s : State) (ready : List Nat) (gid : Nat) : Bool :=
  let g := groupAt s gid
  g.yielded && ready.any (fun h => h != gid && decide ((groupAt s h).sel < g.sel))

/-- The group that a quadrant selects: of the ready groups that no yield holds back, the one selected furthest back, the
lowest slot first (R15, R131). -/
def quadrantPick (s : State) (core q : Nat) : Option Nat :=
  let ready := (mapKeys s.groups).filter (fun gid =>
    gidCore gid == core && gidSlot gid % 4 == q && (clockOf s gid).isSome)
  leastBy (fun gid => (groupAt s gid).lastSel) (ready.filter (fun gid => !heldByYield s ready gid))

/-- The groups that may issue next, one for each quadrant that has a ready group. -/
def readyGroups (s : State) : List Nat :=
  ((mapKeys s.groups).map (fun gid => (gidCore gid, gidSlot gid % 4))).dedup.filterMap
    (fun cq => quadrantPick s cq.1 cq.2)

/-- Events of groups, teams, nodes and contexts. -/
def workEvents (s : State) : List Instr :=
  ((s.groups.map (fun e => .groupLeave e.1 :: e.2.blocks.map (fun b => .waitClkDeadline e.1 b.lanes))).flatten) ++
  ((s.teams.map (fun e => [.teamSave e.1, .forcedSave e.1])).flatten) ++
  ((s.nodes.map (fun e => [.teamPlacement e.1, .preemption e.1, .nodeComplete e.1, .nodeFailInput e.1,
    .gridBudgetExpired e.1, .watchdogKill e.1])).flatten) ++
  ((s.ctxs.map (fun e => [.placementWaitExpiry e.1, .killComplete e.1])).flatten)

/-- Events of requests, caches, transfers, engine operations and edits. -/
def memoryEvents (s : State) : List Instr :=
  ((s.reqs.map (fun r => [.requestAtHomeSlice r.id, .requestRetranslation r.id, .storeAcknowledgement r.id])).flatten) ++
  ((s.groups.map (fun e => (e.2.pends.map (fun p => [.loadResponse p.id, .atomicResponse p.id])).flatten)).flatten) ++
  ((s.cores.map (fun e => e.2.l1.map (fun c => .l1Eviction e.1 c.line))).flatten) ++
  s.mem.proxies.map (fun e => .proxySliceEviction (sliceDie (e.1 / 2 ^ 45)) (e.1 % 2 ^ 45)) ++
  ((s.xfers.map (fun x => [.putArrival x.id, .putAcknowledged x.id, .getComplete x.id])).flatten) ++
  ((s.ops.map (fun o => [.pressEntryExecute o.id, .engineOperationComplete o.id] ++
    (List.range o.parts.length).map (fun i => .enginePartArrival o.id i))).flatten) ++
  ((s.edits.map (fun e => [.editCommit e.id, .editComplete e.id, .zeroPageCommit e.id])).flatten) ++
  s.mem.releasing.map (fun e => .frameRelease e.2) ++
  ((s.ctxs.map (fun e => e.2.pool.heldFrames.map .frameRelease)).flatten)

/-- Events of the memory system's control, of the mailboxes and of the package. -/
def packageEvents (s : State) : List PackEvent :=
  (s.reqs.filter (fun r => r.attr.fmt)).map (fun r => .viewLineFill (ctxPart r.ctx) (viewWin r.pa) (viewOff r.pa / 128)) ++
  ((s.parts.map (fun e => [.switchPoint e.1, .slwbDone e.1, .bwphaseArrival e.1, .mailboxPostResult e.1,
    .mailboxMessage e.1])).flatten) ++
  s.out.slots.map (fun e => .keySlotEmptied e.1) ++
  ((s.bins.map (fun e => [.binToStandby e.1, .binToRetention e.1, .binWakeDone e.1, .binPowerDown e.1])).flatten) ++
  s.out.ports.map (fun e => .portDown e.1) ++
  [.trainingDone, .throttleStep, .thermalPowerDown]

/-- What an event of the package does: the meaning of its row. -/
def runPack (e : PackEvent) (s : State) : Result :=
  match e with
  | .switchPoint p => execSwitchPoint p s
  | .slwbDone p => execSlwbDone p s
  | .viewLineFill p w l => execViewLineFill p w l s
  | .keySlotEmptied k => execKeySlotEmptied k s
  | .binToStandby b => execBinToStandby b s
  | .binToRetention b => execBinToRetention b s
  | .binWakeDone b => execBinWakeDone b s
  | .binPowerDown b => execBinPowerDown b s
  | .bwphaseArrival p => execBwphaseArrival p s
  | .mailboxPostResult p => execMailboxPostResult p s
  | .mailboxMessage p => execMailboxMessage p s
  | .portDown p => execPortDown p s
  | .trainingDone => execTrainingDone s
  | .throttleStep => execThrottleStep s
  | .thermalPowerDown => execThermalPowerDown s

/-- A result is a next state. -/
def isNext (r : Result) : Bool :=
  match r with
  | .next _ => true
  | _ => false

/-- The events that may happen next. -/
def readyEvents (s : State) : List Todo :=
  ((workEvents s ++ memoryEvents s).filter (fun i => isNext (exec i s))).map .event ++
    ((packageEvents s).filter (fun e => isNext (runPack e s))).map .pack

/-- Everything that may happen next. -/
def enabled (s : State) : List Todo := (readyGroups s).map .issue ++ readyEvents s ++ [.tick]

end Sys2Proof.Machine
end

