-- ==== Sys2Proof/Machine/Step.lean ====
section
/-! DEFINITION. One step of the machine: the head of the agenda, or, when it is empty, one of the things that may happen
next (log entry 2); and the placing of an instruction where the next step fetches it. -/

namespace Sys2Proof.Machine

/-- Do one thing. -/
def runTodo (t : Todo) (s : State) : Host.Outcome State Fault Refusal :=
  match t with
  | .issue gid => (clockOf s gid).getD (.next s)
  | .port2 gid lanes view => port2Of s gid lanes view
  | .event i => exec i s
  | .pack e => runPack e s
  | .tick => .next (tickOf s)

/-- One step. -/
def step (s : State) : Host.Outcome State Fault Refusal :=
  if s.out.down then .fault .poweredDown
  else
    match s.agenda with
    | t :: rest => runTodo t { s with agenda := rest }
    | [] =>
      let l := enabled s
      runTodo ((l[Config.pick s.picks % l.length]?).getD .tick) { s with picks := s.picks + 1 }

/-- The uid of the team and node that withFetchWord makes for a group that has none. -/
def fetchUid : Nat := 1

/-- An instruction stored where the next step fetches: group slot 0 of core 0, all lanes at counter 0, page 0 of its
context backed by frame 0, and that group's selection clock next (log entry 3). -/
def State.withFetchWord (s : State) (nbits w : Nat) : State :=
  let bytes := bytesOfWord (BitVec.ofNat 32 (w % 2 ^ nbits)) ++ bytesOfWord (BitVec.ofNat 32 (w % 2 ^ nbits / 2 ^ 32)) ++
    [0, 0, 0, 0, 0, 0, 0, 0]
  let g0 := (mapFind s.groups 0).getD { uid := fetchUid, team := fetchUid }
  let g := { g0 with
    pcs := [], exited := 0, rep := {}, latched := [], stopped := none, hlanes := 0, trapbase := g0.trapbase &&& ~~~2
    blocks := [], pends := [], barriers := [], skipBp := 0, safeStop := 0, promoted := 0 }
  let tm := (mapFind s.teams g.team).getD { uid := fetchUid, node := fetchUid, slots := [0] }
  let nd := (mapFind s.nodes tm.node).getD { uid := fetchUid, started := true }
  let k := nd.ctx
  let tr : Trans := { ctx := k, va := 0, size := 65536, pa := 0, attr := { w := true }, gen := frameGen s.mem 0 }
  let core := coreAt s 0
  let part := partAt s (ctxPart k)
  let bin := binAt s 0
  -- the fetch needs a home slice of its own partition's bin (R351)
  let masks := if (homeSliceWith part.masks bin.dom.toNat 0).isNone then mapSet 0 part.masks bin.dom.toNat 1 else part.masks
  let ctx := ctxAt s k
  { s with
    agenda := [.issue 0]
    focus := none
    groups := mapPut s.groups 0 g
    teams := mapPut s.teams g.team { tm with preemptAt := none }
    nodes := mapPut s.nodes tm.node nd
    ctxs := mapSet {} s.ctxs k { ctx with bkptc := [] }
    parts := mapSet {} s.parts (ctxPart k) { part with started := true, absent := false, feat := mapSet 0 part.feat 0 0x3FF, masks }
    cores := mapSet {} s.cores 0 { core with tlb := tr :: core.tlb }
    bins := mapSet {} s.bins 0 { bin with alloc := true, state := 0, wake := none }
    mem := cleanLine (homeWrite s.mem 0 bytes) 0
    out := { s.out with down := false, binOwner := mapSet 0 s.out.binOwner 0 (BitVec.ofNat 8 (128 + ctxPart k)) } }

end Sys2Proof.Machine
end

