-- ==== Sys2Proof/Safety.lean ====
section
/-! DEFINITION. What counts as a safe run, and the invariant that every step keeps. -/

namespace Sys2Proof

/-- A state from which k steps end in a state: no fault and no refusal is met. -/
def RunsFor (k : Nat) (s : Machine.State) : Prop := ∃ t, core.run k s = .next t

/-- A state that no number of steps stops. -/
def Safe (s : Machine.State) : Prop := ∀ k, RunsFor k s

/-- What every step keeps: memory and SRAM in their canonical forms (log entry 4), and the clock among its frequencies with
less than one whole clock uncounted (R373). -/
def Good (s : Machine.State) : Prop :=
  s.mem.wf = true ∧ s.sram.wf = true ∧ 1000 ≤ s.clk.mhz ∧ s.clk.mhz ≤ 2500 ∧ s.clk.rem < 1000

end Sys2Proof
end

