-- ==== Sys2Proof/Certificates/Slice0/Obligations.lean ====
section
/-! DEFINITION. What the provers are asked to prove of the model: from the encoding and the step, through what each
instruction and event does and leaves alone, to the invariant that every step keeps. Each statement's docstring names
the rules of spec/ it formalises, or the log entry it rests on. -/

open Sys2Proof Sys2Proof.Machine

namespace Sys2Proof.Claims

/-! ### Shapes shared by the statements about instructions -/

/-- A run of a group issues: it is the focus of the state, and g is its group. -/
def Issues (s : State) (f : Focus) (g : Group) : Prop :=
  s.focus = some f ∧ mapFind s.groups f.gid = some g

/-- The vector registers named lie in the allotment (R21). -/
def InAllot (v : Group) (ns : List (BitVec 7)) : Prop := ∀ n ∈ ns, v.winbase.toNat + n.toNat < v.allot

/-- A lane of the run whose guard passes (R88). -/
def IsActive (f : Focus) (v : Group) (neg : Bool) (p : BitVec 3) (l : Nat) : Prop :=
  f.lanes.getLsbD l = true ∧ pGet v p.toNat l ≠ neg

/-- The instruction has retired, nothing but its group has changed, and in the group nothing but the vector register d of
the lanes that satisfy act, which receive val, and STICKY, which gains their flags (and with it the flags raised in this
clock, log entry 9). -/
def VecDone (s : State) (f : Focus) (g : Group) (d : BitVec 7) (act : Nat → Prop) (val : Nat → Res) (t : State) :
    Prop :=
  ∃ g', t = unfocus (putGroup s f.gid g') ∧
    g' = { retire f g with vregs := g'.vregs, sticky := g'.sticky, raised := g'.raised } ∧
    (∀ l, l < 32 → act l → vGet g' (vReg (seen f g) d) l = (val l).1) ∧
    (∀ j l, l < 32 → (¬ act l ∨ j ≠ vReg (seen f g) d) → vGet g' j l = vGet g j l) ∧
    (∀ i, i < 6 → (g'.sticky.getLsbD i = true ↔
      (g.sticky.getLsbD i = true ∨ ∃ l, l < 32 ∧ act l ∧ (val l).2.getLsbD i = true)) ∧
      (g'.raised.getLsbD i = true ↔ (g.raised.getLsbD i = true ∨ ∃ l, l < 32 ∧ act l ∧ (val l).2.getLsbD i = true)))

/-- A control instruction has moved the lanes of its run to the counters that go gives, and changed nothing else: their
windows are one shorter, and their breakpoints are checked again. -/
def Moves (s : State) (f : Focus) (g : Group) (go : Nat → Pc) (t : State) : Prop :=
  ∃ g', t = unfocus (putGroup s f.gid g') ∧
    g' = { countWindow f.lanes g with pcs := g'.pcs, skipBp := g.skipBp &&& ~~~f.lanes } ∧
    ∀ l, l < 32 → pcGet g' l = if f.lanes.getLsbD l = true then go l else pcGet g l

/-- The same for a uniform destination: it receives one value. -/
def UniDone (s : State) (f : Focus) (g : Group) (d : BitVec 7) (r : Res) (t : State) : Prop :=
  ∃ g', t = unfocus (putGroup s f.gid g') ∧
    g' = { retire f g with sregs := g'.sregs, sticky := g.sticky ||| r.2, raised := g.raised ||| r.2 } ∧
    sGet g' d.toNat = r.1 ∧ (∀ n, n ≠ d.toNat → sGet g' n = sGet g n)

/-- A vector or uniform destination by the form; a uniform instruction executes once, with the run's lowest lane as the
lane of a single predicate (R89). -/
def RegDone (form : Form) (s : State) (f : Focus) (g : Group) (neg : Bool) (p : BitVec 3) (d : BitVec 7)
    (val : Nat → Res) (t : State) : Prop :=
  if form = .s then UniDone s f g d (val (lowLane f.lanes)) t
  else VecDone s f g d (IsActive f (seen f g) neg p) val t

/-- Operand a of a form (R56). -/
def opA (form : Form) (v : Group) (n : BitVec 7) (l : Nat) : Word :=
  if form = .s then sGet v n.toNat else vGet v (v.winbase.toNat + n.toNat) l
/-- Operand b of a form: uniform in VVS and SSS (R56). -/
def opB (form : Form) (v : Group) (n : BitVec 7) (l : Nat) : Word :=
  if form = .v then vGet v (v.winbase.toNat + n.toNat) l else sGet v n.toNat

/-- The vector registers that a form names are in the allotment: ns are of the file of d and a, bs of the file of b. -/
def Fits (form : Form) (v : Group) (ns bs : List (BitVec 7)) : Prop :=
  (form ≠ .s → InAllot v ns) ∧ (form = .v → InAllot v bs)

/-- The cause traps the run at its instruction (R288): with no open window of its lanes, the group is as taking the trap
leaves it, its breakpoints are checked again (R143), and the issue has ended. -/
def Traps (s : State) (f : Focus) (code info : Nat) (r : Result) : Prop :=
  r = .next (unfocus (takeTrap (clearSkip f s) f.gid f.lanes code info (epcWord f.pc none)))

/-- Nothing of the run holds a trap up (R77, R288). -/
def Clear (f : Focus) (g : Group) : Prop := f.quiet = false ∧ pendsOf g f.lanes = []

/-! ### Rows: constructors of one shape with what they compute -/

/-- The short integer instructions (R59, R93). -/
def shortIntRows : List (Form × (R3 → Instr) × (Ty → Word → Word → Res)) :=
  [(.v, .addVVV, fun t => addOp t false), (.m, .addVVS, fun t => addOp t false), (.s, .addSSS, fun t => addOp t false),
   (.v, .subVVV, fun t => subOp t false), (.m, .subVVS, fun t => subOp t false), (.s, .subSSS, fun t => subOp t false),
   (.v, .mulVVV, fun t => mulOp t false), (.m, .mulVVS, fun t => mulOp t false), (.s, .mulSSS, fun t => mulOp t false),
   (.v, .minVVV, minOp), (.m, .minVVS, minOp), (.s, .minSSS, minOp),
   (.v, .maxVVV, maxOp), (.m, .maxVVS, maxOp), (.s, .maxSSS, maxOp)]

/-- The short floating-point instructions (R99, R100): .rn, not saturated. -/
def shortFltRows : List (Form × (R3 → Instr) × (List Nat → Ty → Word → Word → Res)) :=
  [(.v, .faddVVV, fun cb t => faddOp cb t .rn false), (.m, .faddVVS, fun cb t => faddOp cb t .rn false),
   (.s, .faddSSS, fun cb t => faddOp cb t .rn false),
   (.v, .fsubVVV, fun cb t => fsubOp cb t .rn false), (.m, .fsubVVS, fun cb t => fsubOp cb t .rn false),
   (.s, .fsubSSS, fun cb t => fsubOp cb t .rn false),
   (.v, .fmulVVV, fun cb t => fmulOp cb t .rn false), (.m, .fmulVVS, fun cb t => fmulOp cb t .rn false),
   (.s, .fmulSSS, fun cb t => fmulOp cb t .rn false),
   (.v, .fminVVV, fun cb t => fminOp cb t false), (.m, .fminVVS, fun cb t => fminOp cb t false),
   (.s, .fminSSS, fun cb t => fminOp cb t false),
   (.v, .fmaxVVV, fun cb t => fminOp cb t true), (.m, .fmaxVVS, fun cb t => fminOp cb t true),
   (.s, .fmaxSSS, fun cb t => fminOp cb t true)]

/-- The short logic instructions (R93). -/
def shortLogicRows : List (Form × (R3L → Instr) × (Word → Word → Word)) :=
  [(.v, .andVVV, (· &&& ·)), (.m, .andVVS, (· &&& ·)), (.s, .andSSS, (· &&& ·)),
   (.v, .orVVV, (· ||| ·)), (.m, .orVVS, (· ||| ·)), (.s, .orSSS, (· ||| ·)),
   (.v, .xorVVV, (· ^^^ ·)), (.m, .xorVVS, (· ^^^ ·)), (.s, .xorSSS, (· ^^^ ·))]

/-- The short shifts (R95). -/
def shortShiftRows : List (Form × (R3W → Instr) × (Nat → Nat → Nat → Nat)) :=
  [(.v, .shlVVV, shlBits), (.m, .shlVVS, shlBits), (.s, .shlSSS, shlBits),
   (.v, .shrVVV, shrBits), (.m, .shrVVS, shrBits), (.s, .shrSSS, shrBits),
   (.v, .sarVVV, sarBits), (.m, .sarVVS, sarBits), (.s, .sarSSS, sarBits),
   (.v, .rotVVV, rotBits), (.m, .rotVVS, rotBits), (.s, .rotSSS, rotBits)]

/-- The short unary instructions (R93, R95). -/
def shortUnaryRows : List (Form × (R2 → Instr) × (Ty → Word → Res)) :=
  [(.v, .absVV, shortAbs), (.m, .absVS, shortAbs), (.s, .absSS, shortAbs),
   (.v, .negVV, shortNeg), (.m, .negVS, shortNeg), (.s, .negSS, shortNeg),
   (.v, .notVV, fun _ a => (~~~a, 0)), (.m, .notVS, fun _ a => (~~~a, 0)), (.s, .notSS, fun _ a => (~~~a, 0)),
   (.v, .popcVV, fun t => bitUn t popcBits), (.m, .popcVS, fun t => bitUn t popcBits),
   (.s, .popcSS, fun t => bitUn t popcBits),
   (.v, .clzVV, fun t => bitUn t clzBits), (.m, .clzVS, fun t => bitUn t clzBits),
   (.s, .clzSS, fun t => bitUn t clzBits),
   (.v, .brevVV, fun t => bitUn t brevBits), (.m, .brevVS, fun t => bitUn t brevBits),
   (.s, .brevSS, fun t => bitUn t brevBits),
   (.v, .movVV, fun _ a => (a, 0)), (.m, .movVS, fun _ a => (a, 0)), (.s, .movSS, fun _ a => (a, 0))]

/-- The extended instructions with two register sources and no use of the codebook (R93, R95). -/
def extRows : List ((XArgs → Instr) × (XArgs → List Nat → Word → Word → Res)) :=
  [(.addX, fun x _ => addOp x.ty x.sat), (.subX, fun x _ => subOp x.ty x.sat), (.mulX, fun x _ => mulOp x.ty x.sat),
   (.mulhi, fun x _ => mulhiOp x.ty), (.minX, fun x _ => minOp x.ty), (.maxX, fun x _ => maxOp x.ty),
   (.andX, fun _ _ a b => (a &&& b, 0)), (.orX, fun _ _ a b => (a ||| b, 0)), (.xorX, fun _ _ a b => (a ^^^ b, 0)),
   (.shlX, fun x _ => shiftOp x.ty shlBits), (.shrX, fun x _ => shiftOp x.ty shrBits),
   (.sarX, fun x _ => shiftOp x.ty sarBits), (.rotX, fun x _ => shiftOp x.ty rotBits),
   (.faddX, fun x cb => faddOp cb x.ty x.rnd x.sat), (.fsubX, fun x cb => fsubOp cb x.ty x.rnd x.sat),
   (.fmulX, fun x cb => fmulOp cb x.ty x.rnd x.sat), (.fminX, fun x cb => fminOp cb x.ty false),
   (.fmaxX, fun x cb => fminOp cb x.ty true)]

/-- The extended instructions with one register source (R93, R95, R101, R105, R106, R109). -/
def extUnaryRows : List ((XArgs → Instr) × (XArgs → List Nat → Word → Res)) :=
  [(.absX, fun x _ => absOp x.ty x.sat), (.negX, fun x _ => negOp x.ty x.sat), (.notX, fun _ _ a => (~~~a, 0)),
   (.popcX, fun x _ => bitUn x.ty popcBits), (.clzX, fun x _ => bitUn x.ty clzBits),
   (.brevX, fun x _ => bitUn x.ty brevBits), (.movX, fun _ _ a => (a, 0)),
   (.frnd, fun x cb => frndOp cb x.ty x.rnd), (.cbq, fun x cb => cbqOp cb x.ty x.rnd x.sat),
   (.exp2, fun x cb => sfuOpOn cb .exp2 x.ty x.sat), (.log2, fun x cb => sfuOpOn cb .log2 x.ty x.sat),
   (.rsqrt, fun x cb => sfuOpOn cb .rsqrt x.ty x.sat), (.sin, fun x cb => sfuOpOn cb .sin x.ty x.sat),
   (.cos, fun x cb => sfuOpOn cb .cos x.ty x.sat), (.tanh, fun x cb => sfuOpOn cb .tanh x.ty x.sat),
   (.rcp, fun x cb => exactSfu cb frcpVal x.ty x.rnd x.sat), (.sqrt, fun x cb => exactSfu cb fsqrtVal x.ty x.rnd x.sat)]

/-- The extended instructions that read a, b, c and the old d of a lane (R93, R96, R97, R100). -/
def extThreeRows : List ((XArgs → Instr) × (XArgs → List Nat → Opnds → Res)) :=
  [(.mad, fun x _ o => madOp x.ty x.sat o.a o.b o.c), (.bfx, fun x _ o => bfxOp x.ty o.a o.b o.c),
   (.bfi, fun x _ o => bfiOp x.ty o.d o.a o.b o.c),
   (.dot4, fun x _ o => sumOp x.ty x.sat (fun a b => a * b) o.a o.b o.c),
   (.sad, fun x _ o => sumOp x.ty x.sat (fun a b => ((a - b).natAbs : Int)) o.a o.b o.c),
   (.ffma, fun x cb o => ffmaOp cb x.ty x.rnd x.sat o.a o.b o.c)]

/-- The part of a conversion that cvt computes of an old d and a (R103). -/
def cvtOf (x : XArgs) (cb : List Nat) (h : Nat) (d a : Word) : Res :=
  cvtPart cb x.ty (srcTy x) (cvtMode x.ty x.rnd) x.sat h d a

/-- The condition of element k under a compare: cmp by integer order (R98), fcmp by R100. -/
def cmpRows : List ((XArgs → Instr) × (XArgs → List Nat → Word → Word → Nat → Bool × Flags)) :=
  [(.cmp, fun x _ a b k => (condI x.aux.toNat (elemI x.ty a k) (elemI x.ty b k), 0)),
   (.fcmp, fun x cb a b k => condF x.aux.toNat (elemV cb x.ty a k) (elemV cb x.ty b k))]

end Sys2Proof.Claims

open Sys2Proof.Claims

/-! ### Arithmetic, logic and conversions -/

/-- Each short integer instruction runs in each of its forms (R56, R59, R93): every active lane, or the uniform register,
receives the operation of its own operands, and nothing else changes but the run's counters and windows. -/
def Sys2Proof.Claims.ShortIntegerResults : Prop :=
  ∀ row ∈ shortIntRows, ∀ (x : R3) (s : State) (f : Focus) (g : Group), Issues s f g →
    Fits row.1 (seen f g) [x.d, x.a] [x.b] →
    ∃ t, exec (row.2.1 x) s = .next t ∧
      RegDone row.1 s f g false 0 x.d
        (fun l => row.2.2 x.ty (opA row.1 (seen f g) x.a l) (opB row.1 (seen f g) x.b l)) t

/-- Each short floating-point instruction runs in each of its forms (R56, R59, R99). -/
def Sys2Proof.Claims.ShortFloatResults : Prop :=
  ∀ row ∈ shortFltRows, ∀ (x : R3) (s : State) (f : Focus) (g : Group), Issues s f g →
    Fits row.1 (seen f g) [x.d, x.a] [x.b] →
    ∃ t, exec (row.2.1 x) s = .next t ∧
      RegDone row.1 s f g false 0 x.d
        (fun l => row.2.2 (cbList (seen f g)) x.ty (opA row.1 (seen f g) x.a l) (opB row.1 (seen f g) x.b l)) t

/-- The short arithmetic instructions, on integer and on floating-point types. -/
def Obligations.ShortArithmeticResults : Prop := ShortIntegerResults ∧ ShortFloatResults

/-- The short logic instructions work on all 64 bits, and the short shifts on the elements of their width
(R59, R93, R95). -/
def Sys2Proof.Claims.ShortLogicShiftResults : Prop :=
  (∀ row ∈ shortLogicRows, ∀ (x : R3L) (s : State) (f : Focus) (g : Group), Issues s f g →
    Fits row.1 (seen f g) [x.d, x.a] [x.b] →
    ∃ t, exec (row.2.1 x) s = .next t ∧
      RegDone row.1 s f g false 0 x.d
        (fun l => (row.2.2 (opA row.1 (seen f g) x.a l) (opB row.1 (seen f g) x.b l), 0)) t) ∧
  (∀ row ∈ shortShiftRows, ∀ (x : R3W) (s : State) (f : Focus) (g : Group), Issues s f g →
    Fits row.1 (seen f g) [x.d, x.a] [x.b] →
    ∃ t, exec (row.2.1 x) s = .next t ∧
      RegDone row.1 s f g false 0 x.d
        (fun l => shiftOp (shiftTy x) row.2.2 (opA row.1 (seen f g) x.a l) (opB row.1 (seen f g) x.b l)) t)

/-- The short unary instructions run in forms VV, VS and SS (R56, R59, R93). -/
def Sys2Proof.Claims.ShortUnaryResults : Prop :=
  ∀ row ∈ shortUnaryRows, ∀ (x : R2) (s : State) (f : Focus) (g : Group), Issues s f g →
    Fits row.1 (seen f g) [x.d] [x.a] →
    ∃ t, exec (row.2.1 x) s = .next t ∧
      RegDone row.1 s f g false 0 x.d (fun l => row.2.2 x.ty (opB row.1 (seen f g) x.a l)) t

/-- The short logic, shift and unary instructions. -/
def Obligations.ShortBitwiseResults : Prop := ShortLogicShiftResults ∧ ShortUnaryResults

/-- movi writes its immediate into every element of the run's lanes or of a uniform register, and the immediate add adds
the sign-extended immediate modulo 2^64 (R60). -/
def Obligations.ImmediateResults : Prop :=
  (∀ (x : MoviImm) (s : State) (f : Focus) (g : Group), Issues s f g →
    (InAllot (seen f g) [x.d] → ∃ t, exec (.moviVecImm x) s = .next t ∧
      RegDone .v s f g false 0 x.d (fun _ => (moviImmWord x.ty x.imm, 0)) t) ∧
    ∃ t, exec (.moviUniImm x) s = .next t ∧ RegDone .s s f g false 0 x.d (fun _ => (moviImmWord x.ty x.imm, 0)) t) ∧
  (∀ (x : MoviWord) (s : State) (f : Focus) (g : Group), Issues s f g →
    (InAllot (seen f g) [x.d] → ∃ t, exec (.moviVecIword x) s = .next t ∧
      RegDone .v s f g false 0 x.d (fun _ => (moviWord x.ty x.imm, 0)) t) ∧
    ∃ t, exec (.moviUniIword x) s = .next t ∧ RegDone .s s f g false 0 x.d (fun _ => (moviWord x.ty x.imm, 0)) t) ∧
  (∀ (x : AddImm) (s : State) (f : Focus) (g : Group), Issues s f g →
    ∃ t, exec (.addImm x) s = .next t ∧
      RegDone .s s f g false 0 x.d (fun _ => (sGet (seen f g) x.a.toNat + x.imm.signExtend 64, 0)) t)

/-- The extended instructions with one or two register sources run in the three majors under their guard
(R56, R61, R88, R93, R100, R105, R109). That a unary instruction in the mixed form has a vector source and an unused b is log entry
25, and the codes of the special functions within their bounds are log entry 15; both are the model's reading. -/
def Obligations.ExtendedResults : Prop :=
  (∀ row ∈ extRows, ∀ (x : XArgs) (s : State) (f : Focus) (g : Group), Issues s f g →
    Fits x.form (seen f g) [x.d, x.a] [x.b] →
    ∃ t, exec (row.1 x) s = .next t ∧
      RegDone x.form s f g x.neg x.p x.d
        (fun l => row.2 x (cbList (seen f g)) (opA x.form (seen f g) x.a l) (opB x.form (seen f g) x.b l)) t) ∧
  (∀ row ∈ extUnaryRows, ∀ (x : XArgs) (s : State) (f : Focus) (g : Group), Issues s f g →
    Fits x.form (seen f g) [x.d, x.a] [] →
    ∃ t, exec (row.1 x) s = .next t ∧
      RegDone x.form s f g x.neg x.p x.d
        (fun l => row.2 x (cbList (seen f g)) (opA x.form (seen f g) x.a l)) t)

/-- The extended instructions with three sources read c and the old d beside a and b (R93, R96, R97, R100), and sel takes a
whole register by a predicate (R98). -/
def Sys2Proof.Claims.ThreeSourceResults : Prop :=
  (∀ row ∈ extThreeRows, ∀ (x : XArgs) (s : State) (f : Focus) (g : Group), Issues s f g →
    Fits x.form (seen f g) [x.d, x.a, x.c] [x.b] →
    ∃ t, exec (row.1 x) s = .next t ∧
      RegDone x.form s f g x.neg x.p x.d
        (fun l => row.2 x (cbList (seen f g))
          { d := opA x.form (seen f g) x.d l, a := opA x.form (seen f g) x.a l,
            b := opB x.form (seen f g) x.b l, c := opA x.form (seen f g) x.c l }) t) ∧
  (∀ (x : XArgs) (s : State) (f : Focus) (g : Group), Issues s f g →
    Fits x.form (seen f g) [x.d, x.a] [x.b] →
    ∃ t, exec (.sel x) s = .next t ∧
      RegDone x.form s f g x.neg x.p x.d
        (fun l => (if pGet (seen f g) (x.c.toNat % 8) l = true then opA x.form (seen f g) x.a l
          else opB x.form (seen f g) x.b l, 0)) t)

/-- cvt replaces one part of the old d, pack two parts from a and b, and unpack writes d and d + 1, each from a part of a
(R102-R104). That cvt in the mixed form has a vector source and an unused b is the model's reading, log entry 25. -/
def Sys2Proof.Claims.ConversionResults : Prop :=
  ∀ (x : XArgs) (s : State) (f : Focus) (g : Group), Issues s f g →
    (Fits x.form (seen f g) [x.d, x.a] [] →
      ∃ t, exec (.cvt x) s = .next t ∧
        RegDone x.form s f g x.neg x.p x.d
          (fun l => cvtOf x (cbList (seen f g)) x.imm.toNat (opA x.form (seen f g) x.d l)
            (opA x.form (seen f g) x.a l)) t) ∧
    (Fits x.form (seen f g) [x.d, x.a] [x.b] →
      ∃ t, exec (.pack x) s = .next t ∧
        RegDone x.form s f g x.neg x.p x.d
          (fun l =>
            let r := cvtOf x (cbList (seen f g)) x.imm.toNat (opA x.form (seen f g) x.d l)
              (opA x.form (seen f g) x.a l)
            let q := cvtOf x (cbList (seen f g)) (x.imm.toNat + 1) r.1 (opB x.form (seen f g) x.b l)
            (q.1, r.2 ||| q.2)) t) ∧
    (x.d.toNat < 127 → Fits x.form (seen f g) [x.d, x.a, x.d + 1] [] →
      ∃ g', exec (.unpack x) s = .next (unfocus (putGroup s f.gid g')) ∧
        g' = { retire f g with vregs := g'.vregs, sregs := g'.sregs, sticky := g'.sticky, raised := g'.raised } ∧
        (x.form = .s →
          sGet g' x.d.toNat = (cvtOf x (cbList (seen f g)) x.imm.toNat (sGet (seen f g) x.d.toNat)
            (sGet (seen f g) x.a.toNat)).1 ∧
          sGet g' (x.d.toNat + 1) = (cvtOf x (cbList (seen f g)) (x.imm.toNat + 1)
            (sGet (seen f g) (x.d.toNat + 1)) (sGet (seen f g) x.a.toNat)).1 ∧
          (∀ n, n ≠ x.d.toNat → n ≠ x.d.toNat + 1 → sGet g' n = sGet g n) ∧ g'.vregs = g.vregs ∧
          (let fl := (cvtOf x (cbList (seen f g)) x.imm.toNat (sGet (seen f g) x.d.toNat) (sGet (seen f g) x.a.toNat)).2 |||
            (cvtOf x (cbList (seen f g)) (x.imm.toNat + 1) (sGet (seen f g) (x.d.toNat + 1)) (sGet (seen f g) x.a.toNat)).2
           g'.sticky = g.sticky ||| fl ∧ g'.raised = g.raised ||| fl)) ∧
        (x.form ≠ .s →
          (∀ l, l < 32 → IsActive f (seen f g) x.neg x.p l →
            vGet g' (vReg (seen f g) x.d) l =
              (cvtOf x (cbList (seen f g)) x.imm.toNat (readV (seen f g) x.d l) (readV (seen f g) x.a l)).1 ∧
            vGet g' (vReg (seen f g) (x.d + 1)) l =
              (cvtOf x (cbList (seen f g)) (x.imm.toNat + 1) (readV (seen f g) (x.d + 1) l)
                (readV (seen f g) x.a l)).1) ∧
          (∀ i, i < 6 →
            let hit := ∃ l, l < 32 ∧ IsActive f (seen f g) x.neg x.p l ∧
              ((cvtOf x (cbList (seen f g)) x.imm.toNat (readV (seen f g) x.d l) (readV (seen f g) x.a l)).2 |||
                (cvtOf x (cbList (seen f g)) (x.imm.toNat + 1) (readV (seen f g) (x.d + 1) l)
                  (readV (seen f g) x.a l)).2).getLsbD i = true
            (g'.sticky.getLsbD i = true ↔ (g.sticky.getLsbD i = true ∨ hit)) ∧
            (g'.raised.getLsbD i = true ↔ (g.raised.getLsbD i = true ∨ hit))) ∧
          (∀ j l, l < 32 → ((¬ IsActive f (seen f g) x.neg x.p l) ∨
              (j ≠ vReg (seen f g) x.d ∧ j ≠ vReg (seen f g) (x.d + 1))) → vGet g' j l = vGet g j l) ∧
          g'.sregs = g.sregs))

/-- The extended instructions with three sources, and the conversions (the mixed form of cvt and unpack by log entry 25). -/
def Obligations.ThreeSourceAndConversionResults : Prop := ThreeSourceResults ∧ ConversionResults

/-- A compare with PD 0 writes all ones or zero to each element by its condition. With PD 1 it writes one predicate of the
active lanes, or in the uniform form of every lane of the run (R98, R100). -/
def Obligations.CompareResults : Prop :=
  ∀ row ∈ cmpRows, ∀ (x : XArgs) (s : State) (f : Focus) (g : Group), Issues s f g →
    (x.imm.getLsbD 4 = false → Fits x.form (seen f g) [x.d, x.a] [x.b] →
      ∃ t, exec (row.1 x) s = .next t ∧
        RegDone x.form s f g x.neg x.p x.d
          (fun l => eachElem x.ty (fun k =>
            let r := row.2 x (cbList (seen f g)) (opA x.form (seen f g) x.a l) (opB x.form (seen f g) x.b l) k
            (if r.1 = true then 2 ^ tyWidth x.ty - 1 else 0, r.2))) t) ∧
    (x.imm.getLsbD 4 = true → Fits x.form (seen f g) [x.a] [x.b] →
      ∃ g', exec (row.1 x) s = .next (unfocus (putGroup s f.gid g')) ∧
        g' = { retire f g with preds := g'.preds, sticky := g'.sticky, raised := g'.raised } ∧
        (∀ i, i < 6 → (g'.sticky.getLsbD i = true ↔ (g.sticky.getLsbD i = true ∨
          ∃ l, l < 32 ∧ (if x.form = .s then l = lowLane f.lanes else IsActive f (seen f g) x.neg x.p l) ∧
            (row.2 x (cbList (seen f g)) (opA x.form (seen f g) x.a l) (opB x.form (seen f g) x.b l)
              (x.imm.toNat % 16)).2.getLsbD i = true))) ∧
        ∀ n l, n < 8 → l < 32 → pGet g' n l =
          (if n ≠ 0 ∧ n = x.d.toNat % 8 ∧ f.lanes.getLsbD l = true ∧
              (x.form = .s ∨ pGet (seen f g) x.p.toNat l ≠ x.neg) then
            (row.2 x (cbList (seen f g)) (opA x.form (seen f g) x.a l) (opB x.form (seen f g) x.b l)
              (x.imm.toNat % 16)).1
          else pGet g n l))

/-- Of the vector registers that an instruction names, in the order of its fields d, a, b, c, the first outside the allotment:
its lane-register. -/
def Sys2Proof.Claims.firstOutside (v : Group) (ns : List (BitVec 7)) : Option Nat :=
  (ns.map (fun n => v.winbase.toNat + n.toNat)).find? (fun j => decide (v.allot ≤ j))

/-- The vector registers of fields d, a and b by the form (R56). -/
def Sys2Proof.Claims.named (form : Form) (d a b : BitVec 7) : List (BitVec 7) :=
  if form = .s then [] else if form = .v then [d, a, b] else [d, a]

/-- The memory instructions with vector registers, and whether d and b name one (R150). -/
def Sys2Proof.Claims.memRows (x : MArgs) : List (Instr × Bool × Bool) :=
  [(.ld x, true, false), (.ldc x, true, false), (.lds x, true, false), (.st x, false, true), (.sts x, false, true),
   (.atom x, true, true), (.atoms x, true, true), (.pref x, false, false)]

/-- A vector register outside the allotment, whichever field names it, traps with cause 0x06 before anything is read or written
(R21, R68). INFO is the lane-register of the first such field in the order d, a, b, c, which is the model's choice (log
entry 10). -/
def Obligations.OutsideAllotmentTraps : Prop :=
  ∀ (s : State) (f : Focus) (g : Group) (j : Nat), Issues s f g → Clear f g →
    let out := fun (ns : List (BitVec 7)) => firstOutside (seen f g) ns = some j
    let hit := fun (i : Instr) => Traps s f 0x06 j (exec i s)
    (∀ row ∈ shortIntRows, ∀ x : R3, out (named row.1 x.d x.a x.b) → hit (row.2.1 x)) ∧
    (∀ row ∈ shortFltRows, ∀ x : R3, out (named row.1 x.d x.a x.b) → hit (row.2.1 x)) ∧
    (∀ row ∈ shortLogicRows, ∀ x : R3L, out (named row.1 x.d x.a x.b) → hit (row.2.1 x)) ∧
    (∀ row ∈ shortShiftRows, ∀ x : R3W, out (named row.1 x.d x.a x.b) → hit (row.2.1 x)) ∧
    (∀ row ∈ shortUnaryRows, ∀ x : R2,
      out (if row.1 = .s then [] else if row.1 = .v then [x.d, x.a] else [x.d]) → hit (row.2.1 x)) ∧
    (∀ x : MoviImm, out [x.d] → hit (.moviVecImm x)) ∧ (∀ x : MoviWord, out [x.d] → hit (.moviVecIword x)) ∧
    (∀ row ∈ extRows, ∀ x : XArgs, out (named x.form x.d x.a x.b) → hit (row.1 x)) ∧
    (∀ row ∈ extUnaryRows, ∀ x : XArgs, out (if x.form = .s then [] else [x.d, x.a]) → hit (row.1 x)) ∧
    (∀ row ∈ extThreeRows, ∀ x : XArgs,
      out (named x.form x.d x.a x.b ++ if x.form = .s then [] else [x.c]) → hit (row.1 x)) ∧
    (∀ x : SrRead, out [x.d] → hit (.rdsrVector x)) ∧ (∀ x : CallArgs, x.u = false → out [x.d] → hit (.call x)) ∧
    (∀ x : R3L, out [x.a] → hit (.gsync x) ∧ (x.b.getLsbD 0 = false → hit (.jmpi x) ∧ hit (.ret x))) ∧
    (∀ x : MArgs, ∀ row ∈ memRows x,
      out (if x.form = .s then []
        else (if row.2.1 then [x.d] else []) ++ (if x.form = .v then [x.a] else []) ++ (if row.2.2 then [x.b] else [])) →
      hit row.1)

/-- Wrapping addition, subtraction and multiplication: each element of the result is the exact result modulo 2^w, with no
carry between elements (R28, R94). -/
def Sys2Proof.Claims.IntegerElementsWrap : Prop :=
  ∀ (t : Ty) (a b : Word) (k : Nat), tyIsInt t = true → k < tyCount t →
    elemN t (addOp t false a b).1 k = (elemN t a k + elemN t b k) % 2 ^ tyWidth t ∧
    elemN t (subOp t false a b).1 k = (elemN t a k + 2 ^ tyWidth t - elemN t b k) % 2 ^ tyWidth t ∧
    elemN t (mulOp t false a b).1 k = elemN t a k * elemN t b k % 2 ^ tyWidth t ∧
    (addOp t false a b).2 = 0 ∧ (subOp t false a b).2 = 0 ∧ (mulOp t false a b).2 = 0

/-- Shifts work on each element's own width by the low 8 bits of b's element: a count of w or more gives 0, sar fills with
the top bit, rot goes by the count modulo w; popc, clz and brev work on the element's own bits (R95). -/
def Obligations.ShiftElements : Prop :=
  ∀ (t : Ty) (a b : Word) (k i : Nat), tyIsInt t = true → k < tyCount t → i < tyWidth t →
    let n := elemN t b k % 256
    (elemN t (shiftOp t shlBits a b).1 k).testBit i = (decide (n ≤ i) && (elemN t a k).testBit (i - n)) ∧
    (elemN t (shiftOp t shrBits a b).1 k).testBit i = (decide (i + n < tyWidth t) && (elemN t a k).testBit (i + n)) ∧
    (elemN t (shiftOp t sarBits a b).1 k).testBit i =
      (elemN t a k).testBit (if i + n < tyWidth t then i + n else tyWidth t - 1) ∧
    (elemN t (shiftOp t rotBits a b).1 k).testBit ((i + n) % tyWidth t) = (elemN t a k).testBit i ∧
    elemN t (bitUn t popcBits a).1 k = ((Finset.range (tyWidth t)).filter (fun j => (elemN t a k).testBit j)).card ∧
    (elemN t a k = 0 → elemN t (bitUn t clzBits a).1 k = tyWidth t) ∧
    (elemN t a k ≠ 0 → elemN t (bitUn t clzBits a).1 k < tyWidth t ∧
      2 ^ (tyWidth t - 1 - elemN t (bitUn t clzBits a).1 k) ≤ elemN t a k ∧
      elemN t a k < 2 ^ (tyWidth t - elemN t (bitUn t clzBits a).1 k)) ∧
    (elemN t (bitUn t brevBits a).1 k).testBit i = (elemN t a k).testBit (tyWidth t - 1 - i)

/-- Saturating add, sub and mul of signed and unsigned elements clamp the exact result to the type's range, and min and max
pick the lesser and the greater value (R93, R94). -/
def Sys2Proof.Claims.SaturationAndOrder : Prop :=
  ∀ (t : Ty) (a b : Word) (k : Nat), tyIsInt t = true → k < tyCount t →
    let w := tyWidth t
    let lo : Int := if tySigned t then -(2 ^ (w - 1)) else 0
    let hi : Int := if tySigned t then 2 ^ (w - 1) - 1 else 2 ^ w - 1
    elemI t (addOp t true a b).1 k = max lo (min hi (elemI t a k + elemI t b k)) ∧
    elemI t (subOp t true a b).1 k = max lo (min hi (elemI t a k - elemI t b k)) ∧
    elemI t (mulOp t true a b).1 k = max lo (min hi (elemI t a k * elemI t b k)) ∧
    elemI t (minOp t a b).1 k = min (elemI t a k) (elemI t b k) ∧
    elemI t (maxOp t a b).1 k = max (elemI t a k) (elemI t b k)

/-! ### Elements of numbers -/

/-- The rational value of a finite value; of a NaN or an infinity it says nothing. -/
def Sys2Proof.Claims.valQ : Val → ℚ
  | .fin neg num den => (if neg then -1 else 1) * (num : ℚ) / den
  | _ => 0
/-- A zero or another finite value. -/
def Sys2Proof.Claims.IsFinite (v : Val) : Prop := valIsNan v = false ∧ valIsInf v = false
/-- RoundInt of a rational (R37). -/
def Sys2Proof.Claims.roundQ (mode : Rnd) (y : ℚ) : ℤ :=
  match mode with
  | .rz => if 0 ≤ y then ⌊y⌋ else ⌈y⌉
  | .rp => ⌈y⌉
  | .rm => ⌊y⌋
  | .rna => if 0 ≤ y then ⌊y + 1 / 2⌋ else ⌈y - 1 / 2⌉
  | _ => if y - ⌊y⌋ = 1 / 2 then (if ⌊y⌋ % 2 = 0 then ⌊y⌋ else ⌊y⌋ + 1) else ⌊y + 1 / 2⌋
/-- Round of a rational that is not zero, to the precision of a format (R37). -/
def Sys2Proof.Claims.roundTo (f : Fmt) (mode : Rnd) (x : ℚ) : ℚ :=
  let q : ℚ := 2 ^ (max (Int.log 2 |x|) (1 - f.bias) - (f.m : ℤ))
  roundQ mode (x / q) * q
/-- The formats of the floating-point types (R30). -/
def Sys2Proof.Claims.fltFmts : List Fmt :=
  [fmtF64, fmtF32, fmtF16, fmtBf16, fmtE4m3, fmtE5m2, fmtE3m2, fmtE2m3, fmtE2m1]

/-- Encode of a finite value that is not zero: within the range it is the code of the rounded value with the sign of the value,
beyond it the end of the range or an infinity, and the flags are those of R37 and R39 (R30, R31, R36-R39, R46). -/
def Sys2Proof.Claims.EncodeRounds : Prop :=
  ∀ f ∈ fltFmts, ∀ (mode : Rnd) (sat neg : Bool) (num den : Nat), 0 < num → 0 < den →
    let x := valQ (.fin neg num den)
    let y := roundTo f mode x
    let r := encodeF f mode sat (.fin neg num den)
    let big := valQ (decodeF f f.max)
    let sign := if neg then 2 ^ (f.eb + f.m) else 0
    let out : Bool := match mode with
      | .rz => false
      | .rp => !neg
      | .rm => neg
      | _ => true
    (|y| ≤ big → r.1 < 2 ^ (1 + f.eb + f.m) ∧ valQ (decodeF f r.1) = y ∧ valNeg (decodeF f r.1) = neg ∧
      IsFinite (decodeF f r.1) ∧
      r.2 = (if y = x then 0 else if |x| < 2 ^ (1 - f.bias) then flNX ||| flUF else flNX)) ∧
    (big < |y| → sat = true → r.1 = f.max + sign ∧ r.2 = flNX ||| flSAT) ∧
    (big < |y| → sat = false → r.2 = flOF ||| flNX ∧
      r.1 = (if out = true ∧ f.inf = true then (2 ^ f.eb - 1) * 2 ^ f.m else if out = true ∧ f = fmtE4m3 then 0x7F else f.max) + sign)

/-- A code is Encode of an exact rational; of zero it is a zero of the given sign (R39, R41, R42). -/
def Sys2Proof.Claims.Exactly (f : Fmt) (mode : Rnd) (sat : Bool) (q : ℚ) (zeroNeg : Bool) (c : Nat) : Prop :=
  (q = 0 → c = if zeroNeg then 2 ^ (f.eb + f.m) else 0) ∧
  (q ≠ 0 → ∃ neg num den, 0 < num ∧ 0 < den ∧ valQ (.fin neg num den) = q ∧ c = (encodeF f mode sat (.fin neg num den)).1)

/-- fadd, fsub, fmul and ffma of elements of a floating-point type: the exact result of finite operands, encoded once; a zero sum
or difference is +0 but under .rm, and but for the sum of two -0; the first NaN operand otherwise; a default NaN and NV where
infinities meet their opposites or a zero (R41-R43, R100). -/
def Sys2Proof.Claims.FloatElements : Prop :=
  ∀ (cb : List Nat) (t : Ty) (rnd : Rnd) (sat : Bool) (a b c : Word) (k : Nat), tyIsFloat t = true → k < tyCount t →
    let f := tyFmt t
    let m := if rnd = .dflt then .rn else rnd
    let x := decodeF f (elemN t a k)
    let y := decodeF f (elemN t b k)
    let z := decodeF f (elemN t c k)
    let rm := decide (m = .rm)
    let sum := faddOp cb t rnd sat a b
    let dif := fsubOp cb t rnd sat a b
    let prod := fmulOp cb t rnd sat a b
    let fma := ffmaOp cb t rnd sat a b c
    (IsFinite x → IsFinite y →
      Exactly f m sat (valQ x + valQ y) (decide (x = .zero true ∧ y = .zero true) || rm) (elemN t sum.1 k) ∧
      Exactly f m sat (valQ x - valQ y) rm (elemN t dif.1 k) ∧
      Exactly f m sat (valQ x * valQ y) (valNeg x != valNeg y) (elemN t prod.1 k) ∧
      (IsFinite z → Exactly f m sat (valQ x * valQ y + valQ z)
        (decide (valQ x * valQ y = 0 ∧ valNeg x ≠ valNeg y ∧ z = .zero true) || rm) (elemN t fma.1 k))) ∧
    (valIsNan x = true → elemN t sum.1 k = elemN t a k ∧ elemN t dif.1 k = elemN t a k ∧ elemN t prod.1 k = elemN t a k ∧
      elemN t fma.1 k = elemN t a k) ∧
    (valIsNan x = false → valIsNan y = true → elemN t sum.1 k = elemN t b k ∧ elemN t dif.1 k = elemN t b k ∧
      elemN t prod.1 k = elemN t b k ∧ elemN t fma.1 k = elemN t b k) ∧
    (valIsNan x = false → valIsNan y = false → valIsNan z = true → elemN t fma.1 k = elemN t c k) ∧
    (valIsSnan x = true ∨ valIsSnan y = true → sum.2.getLsbD 0 = true ∧ dif.2.getLsbD 0 = true ∧ prod.2.getLsbD 0 = true ∧
      fma.2.getLsbD 0 = true) ∧
    (∀ n, x = .inf n → (y = .inf (!n) → elemN t sum.1 k = defaultNan f ∧ sum.2.getLsbD 0 = true) ∧
      (y = .inf n → elemN t dif.1 k = defaultNan f ∧ dif.2.getLsbD 0 = true) ∧
      (∀ w, y = .zero w → elemN t prod.1 k = defaultNan f ∧ prod.2.getLsbD 0 = true ∧ fma.2.getLsbD 0 = true) ∧
      (IsFinite y → sat = false → elemN t sum.1 k = elemN t a k ∧ elemN t dif.1 k = elemN t a k))

/-- The place of a code of a number in the order of its format, -0 below +0. -/
def Sys2Proof.Claims.codeOrder (f : Fmt) (c : Nat) : ℤ :=
  if c / 2 ^ (f.eb + f.m) % 2 = 1 then -((c % 2 ^ (f.eb + f.m) : Nat) : ℤ) - 1 else c % 2 ^ (f.eb + f.m)
/-- The same with -0 equal to +0. -/
def Sys2Proof.Claims.numOrder (f : Fmt) (c : Nat) : ℤ :=
  if c / 2 ^ (f.eb + f.m) % 2 = 1 then -((c % 2 ^ (f.eb + f.m) : Nat) : ℤ) else c % 2 ^ (f.eb + f.m)

/-- fmin and fmax of elements give one operand's code unchanged: the other's where one is a NaN, a's where both are; and fcmp's
conditions compare the decoded values, only ne and un holding of a NaN (R43, R61, R100). -/
def Sys2Proof.Claims.FloatOrder : Prop :=
  ∀ (cb : List Nat) (t : Ty) (a b : Word) (k : Nat), tyIsFloat t = true → k < tyCount t →
    let f := tyFmt t
    let x := decodeF f (elemN t a k)
    let y := decodeF f (elemN t b k)
    let lo := elemN t (fminOp cb t false a b).1 k
    let hi := elemN t (fminOp cb t true a b).1 k
    let holds := fun (code : Nat) => (condF code (elemV cb t a k) (elemV cb t b k)).1
    let u := numOrder f (elemN t a k)
    let v := numOrder f (elemN t b k)
    (valIsNan x = false → valIsNan y = false →
      (lo = elemN t a k ∨ lo = elemN t b k) ∧ (hi = elemN t a k ∨ hi = elemN t b k) ∧
      codeOrder f lo = min (codeOrder f (elemN t a k)) (codeOrder f (elemN t b k)) ∧
      codeOrder f hi = max (codeOrder f (elemN t a k)) (codeOrder f (elemN t b k)) ∧
      holds 0 = decide (u = v) ∧ holds 1 = decide (u ≠ v) ∧ holds 2 = decide (u < v) ∧ holds 3 = decide (u ≤ v) ∧
      holds 4 = decide (v < u) ∧ holds 5 = decide (v ≤ u) ∧ holds 6 = false ∧ holds 7 = true) ∧
    (valIsNan y = true → lo = elemN t a k ∧ hi = elemN t a k) ∧
    (valIsNan x = true → valIsNan y = false → lo = elemN t b k ∧ hi = elemN t b k) ∧
    (valIsNan x = true ∨ valIsNan y = true → ∀ code < 8, holds code = decide (code = 1 ∨ code = 6)) ∧
    ∀ code, (condF code (elemV cb t a k) (elemV cb t b k)).2 = (if valIsSnan x = true ∨ valIsSnan y = true then flNV else 0)

/-- frnd of an element of a floating-point type: the integer that the mode gives, encoded in the type, with the sign of the
element where it is zero; NaNs, infinities and zeros are returned as they are (R101). -/
def Sys2Proof.Claims.RoundToInteger : Prop :=
  ∀ (cb : List Nat) (t : Ty) (rnd : Rnd) (a : Word) (k : Nat), tyIsFloat t = true → k < tyCount t →
    let f := tyFmt t
    let m := if rnd = .dflt then .rn else rnd
    let x := decodeF f (elemN t a k)
    (∀ neg num den, x = .fin neg num den → Exactly f m false (roundQ m (valQ x)) neg (elemN t (frndOp cb t rnd a).1 k)) ∧
    ((∀ neg num den, x ≠ .fin neg num den) → elemN t (frndOp cb t rnd a).1 k = elemN t a k)

/-- The distance of the codebook search between an f32 value and an entry, 2^128 standing for an infinite one (R49). -/
def Sys2Proof.Claims.cbGap (v e : Val) : ℚ :=
  if valEq e v = true then 0
  else if valIsInf e = true ∨ valIsInf v = true then 2 ^ 128
  else min (roundTo fmtF32 .rn |valQ v - valQ e|) (2 ^ 128)
/-- CbNearest: the lowest index of the nearest entries that are no NaN; of a NaN the lowest index of a NaN entry; without a
candidate index 0 and NV (R49). -/
def Sys2Proof.Claims.CodebookNearest : Prop :=
  ∀ (cb : List Nat) (code : Nat), cb.length = 16 →
    let v := decodeF fmtF32 code
    let e := fun (i : Nat) => decodeF fmtBf16 (cb.getD i 0)
    let r := cbNearest cb v
    (valIsNan v = false → (∃ i < 16, valIsNan (e i) = false) →
      r.1 < 16 ∧ r.2 = 0 ∧ valIsNan (e r.1) = false ∧
      ∀ j < 16, valIsNan (e j) = false → cbGap v (e r.1) ≤ cbGap v (e j) ∧ (cbGap v (e r.1) = cbGap v (e j) → r.1 ≤ j)) ∧
    (valIsNan v = true → (∃ i < 16, valIsNan (e i) = true) →
      r.1 < 16 ∧ r.2 = 0 ∧ valIsNan (e r.1) = true ∧ ∀ j < r.1, valIsNan (e j) = false) ∧
    ((∀ i < 16, valIsNan (e i) ≠ valIsNan v) → r = (0, flNV))

/-- Conversions of one element, by the kinds of the two types (R40, R44, R102). -/
def Sys2Proof.Claims.ElementsConvert : Prop :=
  ∀ (cb : List Nat) (t u : Ty) (rnd : Rnd) (sat : Bool) (code : Nat), code < 2 ^ tyWidth u →
    let r := convCode cb t u rnd sat code
    let i := intVal (tySigned u) (tyWidth u) code
    let x := decodeF (tyFmt u) code
    let lo : ℤ := if tySigned t then -(2 ^ (tyWidth t - 1)) else 0
    let hi : ℤ := if tySigned t then 2 ^ (tyWidth t - 1) - 1 else 2 ^ tyWidth t - 1
    (tyIsInt u = true → tyIsInt t = true →
      (r.1 : ℤ) = (if sat then max lo (min hi i) else i) % 2 ^ tyWidth t ∧
      r.2 = (if sat = true ∧ (i < lo ∨ hi < i) then flSAT else 0)) ∧
    (tyIsInt u = true → tyIsFloat t = true → Exactly (tyFmt t) rnd sat i false r.1) ∧
    (tyIsFloat u = true → tyIsInt t = true →
      (IsFinite x →
        let n := roundQ (if rnd = .dflt then .rz else rnd) (valQ x)
        (r.1 : ℤ) = max lo (min hi n) % 2 ^ tyWidth t ∧
        r.2 = (if n < lo ∨ hi < n then flNV else if (n : ℚ) = valQ x then 0 else flNX)) ∧
      (∀ n, x = .inf n → (r.1 : ℤ) = (if n then lo else hi) % 2 ^ tyWidth t ∧ r.2 = flNV) ∧
      (valIsNan x = true → r = (0, flNV))) ∧
    (tyIsFloat u = true → tyIsFloat t = true →
      (IsFinite x → Exactly (tyFmt t) rnd sat (valQ x) (valNeg x) r.1) ∧
      (∀ n, x = .inf n → sat = false → (tyFmt t).inf = true →
        r = ((2 ^ (tyFmt t).eb - 1) * 2 ^ (tyFmt t).m + (if n then 2 ^ ((tyFmt t).eb + (tyFmt t).m) else 0), 0)) ∧
      (valIsNan x = true → (tyFmt t).nan ≠ .none → valIsNan (decodeF (tyFmt t) r.1) = true ∧ r.2 = 0 ∧
        valNeg (decodeF (tyFmt t) r.1) = valNeg x) ∧
      (valIsNan x = true → (tyFmt t).nan = .none →
        r = ((tyFmt t).max + (if valNeg x then 2 ^ ((tyFmt t).eb + (tyFmt t).m) else 0), flNV)))

/-- cvt converts one part of a register: narrowing, the elements of a go to part h of d; widening, part h of a goes to the
elements of d from 0 on; every other element of d stays (R102, R103). -/
def Sys2Proof.Claims.PartsConvert : Prop :=
  ∀ (cb : List Nat) (t u : Ty) (rnd : Rnd) (sat : Bool) (h : Nat) (old a : Word) (k : Nat), k < tyCount t →
    let m := min (tyCount t) (tyCount u)
    let top := min (h * m + m) (max (tyCount t) (tyCount u))
    let conv := fun (j : Nat) => (convCode cb t u rnd sat (elemN u a j)).1 % 2 ^ tyWidth t
    h * m < max (tyCount t) (tyCount u) →
    elemN t (cvtPart cb t u rnd sat h old a).1 k =
      if tyCount u < tyCount t then (if h * m ≤ k ∧ k < top then conv (k - h * m) else elemN t old k)
      else (if h * m + k < top then conv (h * m + k) else elemN t old k)

/-- A code of a format up to 16 bits comes back from f32 unchanged and without a flag (R45). -/
def Sys2Proof.Claims.CodesComeBack : Prop :=
  ∀ f ∈ [fmtF16, fmtBf16, fmtE4m3, fmtE5m2, fmtE3m2, fmtE2m3, fmtE2m1], ∀ code < 2 ^ (1 + f.eb + f.m),
    encodeF f .rn false (decodeF fmtF32 (encodeF fmtF32 .rn false (decodeF f code)).1) = (code, 0)

/-- rcp and sqrt of an element are exact and rounded once; a zero's reciprocal is an infinity with DZ, and the root of a negative
number the default NaN with NV (R105, R106). The root in .rz is the greatest code whose square is not above the element, in .rn
the nearest. -/
def Sys2Proof.Claims.RootsAndReciprocals : Prop :=
  ∀ (cb : List Nat) (rnd : Rnd) (sat : Bool) (a : Word) (k : Nat), ∀ t ∈ [Ty.f32, Ty.f16, Ty.bf16], k < tyCount t →
    let f := tyFmt t
    let m := if rnd = .dflt then .rn else rnd
    let x := decodeF f (elemN t a k)
    let r := exactSfu cb frcpVal t rnd sat a
    let q := exactSfu cb fsqrtVal t rnd sat a
    let root := elemN t q.1 k
    let w := fun (c : Nat) => valQ (decodeF f c)
    (∀ neg num den, x = .fin neg num den → Exactly f m sat (1 / valQ x) neg (elemN t r.1 k)) ∧
    (∀ n, x = .zero n → r.2.getLsbD 1 = true ∧ elemN t r.1 k = (encodeF f m sat (.inf n)).1 ∧ root = elemN t a k) ∧
    (∀ n, x = .inf n → elemN t r.1 k = if n then 2 ^ (f.eb + f.m) else 0) ∧
    (∀ num den, x = .fin false num den →
      (m = .rz → w root ^ 2 ≤ valQ x ∧ valQ x < w (root + 1) ^ 2) ∧
      (m = .rn → ((w (root - 1) + w root) / 2) ^ 2 ≤ valQ x ∧ valQ x ≤ ((w root + w (root + 1)) / 2) ^ 2)) ∧
    (∀ num den, x = .fin true num den → root = defaultNan f ∧ q.2.getLsbD 0 = true)

/-- The special values and exact cases of the other six special functions in f32, and the code of every other finite operand: the
free value where it lies within the bound of R106, else a code that does (R105, R106; the true result is the model's fixed-point
one, log entry 15). -/
def Sys2Proof.Claims.SpecialFunctionElements : Prop :=
  ∀ (cb : List Nat) (code : Nat), code < 2 ^ 32 →
    let x := decodeF fmtF32 code
    let one := 0x3F800000
    let nan := 0x7FC00000
    let r := fun (fn : SfuFn) => sfuElem cb fn .f32 false code
    (x = .zero false ∨ x = .zero true → r .exp2 = (one, 0) ∧ r .log2 = (0xFF800000, flDZ) ∧
      r .rsqrt = (if valNeg x then 0xFF800000 else 0x7F800000, flDZ) ∧ r .sin = (code, 0) ∧ r .cos = (one, 0) ∧ r .tanh = (code, 0)) ∧
    (x = .inf false → r .exp2 = (0x7F800000, 0) ∧ r .log2 = (0x7F800000, 0) ∧ r .rsqrt = (0, 0) ∧ r .sin = (nan, flNV) ∧
      r .cos = (nan, flNV) ∧ r .tanh = (one, 0)) ∧
    (x = .inf true → r .exp2 = (0, 0) ∧ r .log2 = (nan, flNV) ∧ r .rsqrt = (nan, flNV) ∧ r .sin = (nan, flNV) ∧
      r .cos = (nan, flNV) ∧ r .tanh = (0xBF800000, 0)) ∧
    (valIsNan x = true → ∀ fn, r fn = (code, if valIsSnan x then flNV else 0)) ∧
    (∀ num den, x = .fin true num den → r .log2 = (nan, flNV) ∧ r .rsqrt = (nan, flNV)) ∧
    (IsFinite x →
      (128 ≤ valQ x → r .exp2 = (0x7F800000, flOF ||| flNX)) ∧
      (∀ i : ℤ, valQ x = i → -149 ≤ i → i ≤ 127 → valQ (decodeF fmtF32 (r .exp2).1) = 2 ^ i ∧ (r .exp2).2 = 0) ∧
      (∀ i : ℤ, valQ x = 2 ^ i → valQ (decodeF fmtF32 (r .log2).1) = i ∧ (r .log2).2 = 0) ∧
      (∀ i : ℤ, valQ x = 4 ^ i → valQ (decodeF fmtF32 (r .rsqrt).1) = 2 ^ (-i) ∧ (r .rsqrt).2 = 0) ∧
      (901 / 100 ≤ |valQ x| → r .tanh = (if valNeg x then 0xBF800000 else one, flNX))) ∧
    (∀ fn neg num den, x = .fin neg num den → sfuSpecial fn x = none → sfuExact fn neg num den = none →
      let free := (Config.sfuCode (sfuOp fn) (BitVec.ofNat 32 code)).toNat
      (sfuWithin32 fn neg num den free = true → (r fn).1 = free) ∧
      (sfuWithin32 fn neg num den free = false → (r fn).1 = roundNE fmtF32 (ofFrac false (sfuTrue fn neg num den).1 (sfuTrue fn neg num den).2)) ∧
      (fn ∈ [.exp2, .log2, .rsqrt, .tanh] → sfuWithin32 fn neg num den (r fn).1 = true) ∧ (r fn).2.getLsbD 4 = true)

/-- mad, bfx, bfi, dot4 and sad of integer elements: mad and the sums wrap or saturate the exact result; bfx takes a field and
extends it, bfi replaces one (R93, R94, R96, R97). -/
def Sys2Proof.Claims.FieldsAndSums : Prop :=
  ∀ (t : Ty) (o a b c : Word) (k : Nat), tyIsInt t = true →
    let w := tyWidth t
    let fit := fun (signed sat : Bool) (w : Nat) (i : ℤ) =>
      (if sat then max (if signed then -(2 ^ (w - 1)) else 0) (min (if signed then 2 ^ (w - 1) - 1 else 2 ^ w - 1) i) else i) % 2 ^ w
    (k < tyCount t →
      (∀ sat, (elemN t (madOp t sat a b c).1 k : ℤ) = fit (tySigned t) sat w (elemI t a k * elemI t b k + elemI t c k)) ∧
      (let pos := elemN t b k
       let len := min (elemN t c k) (w - pos)
       ∀ i < w,
        (elemN t (bfxOp t a b c).1 k).testBit i =
          (if len = 0 then false else if i < len then (elemN t a k).testBit (pos + i)
            else tySigned t && (elemN t a k).testBit (pos + len - 1)) ∧
        (elemN t (bfiOp t o a b c).1 k).testBit i =
          (if pos ≤ i ∧ i < pos + len then (elemN t a k).testBit (i - pos) else (elemN t o k).testBit i))) ∧
    (k < 2 → ∀ sat,
      let s := if tySigned t then Ty.i32 else .n32
      let n := 32 / w
      let z := elemI s c k
      (w = 8 → (elemN s (sumOp t sat (fun x y => x * y) a b c).1 k : ℤ) =
        fit (tySigned t) sat 32 (z + (Finset.range n).sum (fun j => elemI t a (n * k + j) * elemI t b (n * k + j)))) ∧
      (w = 8 ∨ w = 16 → (elemN s (sumOp t sat (fun x y => ((x - y).natAbs : ℤ)) a b c).1 k : ℤ) =
        fit (tySigned t) sat 32 (z + (Finset.range n).sum (fun j => |elemI t a (n * k + j) - elemI t b (n * k + j)|))))

/-- Arithmetic of elements. Of integers: wrapping, saturating, by order, fields and sums (R93, R94, R96, R97). Of floating-point
numbers: the encoding of a value, the exact operations, order and rounding to an integer, the codebook's search, conversions and the
special functions, whose codes within their bounds are log entry 15, and the flags log entry 9 (R37-R49, R100-R106). -/
def Obligations.ElementArithmetic : Prop :=
  IntegerElementsWrap ∧ SaturationAndOrder ∧ FieldsAndSums ∧ EncodeRounds ∧ FloatElements ∧ FloatOrder ∧ RoundToInteger ∧
    CodebookNearest ∧ ElementsConvert ∧ PartsConvert ∧ CodesComeBack ∧ RootsAndReciprocals ∧ SpecialFunctionElements

/-! ### Control flow -/

/-- A transfer's target: the PC plus four times the signed word count (R65, R126). -/
def Sys2Proof.Claims.target (pc : Pc) (imm : BitVec 32) : Pc := BitVec.ofInt 56 ((pc.toNat : Int) + 4 * imm.toInt)

/-- bra moves every lane of the run, brp the lanes whose predicate differs from NEG, call writes the link of next(PC) and
moves; nop and yield go on, and yield marks its group for its quadrant's next selections (R126, R127, R131, R132). -/
def Sys2Proof.Claims.BranchesMove : Prop :=
  ∀ (s : State) (f : Focus) (g : Group), Issues s f g →
    (∀ x : BraArgs, ∃ t, exec (.bra x) s = .next t ∧ Moves s f g (fun _ => target f.pc x.imm) t) ∧
    (∀ x : BrpArgs, ∃ t, exec (.brp x) s = .next t ∧
      Moves s f g (fun l => if pGet (seen f g) x.p.toNat l ≠ x.neg then target f.pc x.imm else f.npc) t) ∧
    (∀ x : CallArgs, x.u = true → ∃ t, exec (.call x) s = .next t ∧
      Moves s f (sSet g x.d.toNat (f.npc.zeroExtend 64)) (fun _ => target f.pc x.imm) t) ∧
    (∀ x : CallArgs, x.u = false → InAllot (seen f g) [x.d] → ∃ t, exec (.call x) s = .next t ∧
      ∃ g1, (∀ j l, l < 32 → vGet g1 j l =
          if j = vReg (seen f g) x.d ∧ f.lanes.getLsbD l = true then f.npc.zeroExtend 64 else vGet g j l) ∧
        g1 = { g with vregs := g1.vregs } ∧ Moves s f g1 (fun _ => target f.pc x.imm) t) ∧
    (∀ x : R3L, (∃ t, exec (.nop x) s = .next t ∧ Moves s f g (fun _ => f.npc) t) ∧
      ∃ t, exec (.yield x) s = .next t ∧ Moves s f { g with yielded := true } (fun _ => f.npc) t)

/-- jmpi and ret move each lane to the address in its register. If a target of any lane has a bit of 1:0 set, cause 0x07 is
taken and no lane moves (R124, R128). -/
def Sys2Proof.Claims.RegisterJumps : Prop :=
  ∀ (x : R3L) (s : State) (f : Focus) (g : Group), Issues s f g →
    (x.b.getLsbD 0 = false → InAllot (seen f g) [x.a]) →
    let dest := fun l => if x.b.getLsbD 0 = true then sGet (seen f g) x.a.toNat else readV (seen f g) x.a l
    ∀ i ∈ [Instr.jmpi x, Instr.ret x],
      ((∀ l, l < 32 → f.lanes.getLsbD l = true → (dest l).toNat % 4 = 0) →
        ∃ t, exec i s = .next t ∧ Moves s f g (fun l => (dest l).setWidth 56) t) ∧
      (Clear f g → (∃ l, l < 32 ∧ f.lanes.getLsbD l = true ∧ (dest l).toNat % 4 ≠ 0) → Traps s f 0x07 0 (exec i s))

/-- The control transfers, by immediate and by register. -/
def Obligations.BranchesAndJumpsMove : Prop := BranchesMove ∧ RegisterJumps

/-- wait goes on when the run has no open window, wait.clk when CLOCK has reached its operand; otherwise the run blocks
with its counters where they are (R138). -/
def Sys2Proof.Claims.WaitsEndOrBlock : Prop :=
  ∀ (x : R3L) (s : State) (f : Focus) (g : Group), Issues s f g →
    (pendsOf g f.lanes = [] → ∃ t, exec (.wait x) s = .next t ∧ Moves s f g (fun _ => f.npc) t) ∧
    (pendsOf g f.lanes ≠ [] → exec (.wait x) s =
      .next (unfocus (putGroup s f.gid { g with
        blocks := { lanes := f.lanes, pc := f.pc, npc := f.npc, why := .results } :: g.blocks }))) ∧
    ((sGet (seen f g) x.a.toNat).toNat ≤ s.clk.clock.toNat →
      ∃ t, exec (.waitClk x) s = .next t ∧ Moves s f g (fun _ => f.npc) t) ∧
    (s.clk.clock.toNat < (sGet (seen f g) x.a.toNat).toNat → exec (.waitClk x) s =
      .next (unfocus (putGroup s f.gid { g with
        blocks := { lanes := f.lanes, pc := f.pc, npc := f.npc, why := .clk (sGet (seen f g) x.a.toNat) } ::
          g.blocks })))

/-- A gsync with no earlier access to wait for (R136), whose mask the run's lanes and the exited lanes fill, lets the run go
on; one whose mask has other lanes blocks the run with its lanes arrived (R135). -/
def Sys2Proof.Claims.GsyncArrives : Prop :=
  ∀ (x : R3L) (s : State) (f : Focus) (g : Group) (m : LaneMask), Issues s f g → InAllot (seen f g) [x.a] →
    f.lanes ≠ 0 → f.lanes &&& ~~~m = 0 → openAcq s g f.lanes = false → releaseWaits s f.gid g f.lanes .grp = false →
    (∀ l, l < 32 → f.lanes.getLsbD l = true → (readV (seen f g) x.a l).setWidth 32 = m) →
    g.barriers = [] → g.blocks = [] →
    (m &&& ~~~(f.lanes ||| g.exited) = 0 → ∃ t, exec (.gsync x) s = .next t ∧ Moves s f g (fun _ => f.npc) t) ∧
    (m &&& ~~~(f.lanes ||| g.exited) ≠ 0 → exec (.gsync x) s =
      .next (unfocus (putGroup s f.gid { g with
        barriers := [{ mask := m, arrived := f.lanes }]
        blocks := [{ lanes := f.lanes, pc := f.pc, npc := f.npc, why := .gsync m }] })))

/-- gsync checks before any lane arrives: lanes whose masks differ are cause 0x70 with the lowest lane's mask as INFO, and a
mask that leaves out a lane of the run is cause 0x71 (R135). -/
def Sys2Proof.Claims.GsyncMisuse : Prop :=
  ∀ (x : R3L) (s : State) (f : Focus) (g : Group), Issues s f g → Clear f g → InAllot (seen f g) [x.a] →
    let mask := fun l => ((readV (seen f g) x.a l).setWidth 32 : LaneMask)
    ((∃ l, l < 32 ∧ f.lanes.getLsbD l = true ∧ mask l ≠ mask (lowLane f.lanes)) →
      Traps s f 0x70 (mask (lowLane f.lanes)).toNat (exec (.gsync x) s)) ∧
    ((∀ l, l < 32 → f.lanes.getLsbD l = true → mask l = mask (lowLane f.lanes)) →
      f.lanes &&& ~~~(mask (lowLane f.lanes)) ≠ 0 →
      Traps s f 0x71 (mask (lowLane f.lanes)).toNat (exec (.gsync x) s))

/-- gsync, where it arrives and where it traps. -/
def Obligations.GsyncArrivesOrTraps : Prop := GsyncArrives ∧ GsyncMisuse

/-- The run is blocked at its instruction: its counters stay, and nothing else changes (R121). -/
def Sys2Proof.Claims.Blocks (s : State) (f : Focus) (g : Group) (why : Why) (r : Result) : Prop :=
  r = .next (unfocus (putGroup s f.gid { g with blocks := { lanes := f.lanes, pc := f.pc, npc := f.npc, why } :: g.blocks }))

/-- win sets WINBASE and goes on; a base at or past the allotment is cause 0x06; inside a repeat of the group it waits for the
repeat's end (R133). -/
def Sys2Proof.Claims.WinSetsWindow : Prop :=
  ∀ (x : ImmArgs) (s : State) (f : Focus) (g : Group), Issues s f g →
    (g.rep.active = false →
      (x.imm.toNat < g.allot → ∃ t, exec (.win x) s = .next t ∧
        Moves s f { g with winbase := x.imm.setWidth 9 } (fun _ => f.npc) t) ∧
      (g.allot ≤ x.imm.toNat → Clear f g → Traps s f 0x06 x.imm.toNat (exec (.win x) s))) ∧
    (g.rep.active = true → Blocks s f g .repEnd (exec (.win x) s))

/-- The words of the instruction after a rep: one, or two where the first calls for a second (R55). -/
def Sys2Proof.Claims.NextWords (s : State) (f : Focus) (g : Group) (w v : IWord) : Prop :=
  fetchWord s (gidCore f.gid) (groupCtx s g) f.npc.toNat = .word w ∧
    (hasSecond w = false → v = 0) ∧
    (hasSecond w = true → fetchWord s (gidCore f.gid) (groupCtx s g) (f.npc + 4).toNat = .word v)

/-- rep outside the handler sets REPCTR for its run when a repeatable instruction follows and its steps stay among the
registers; an instruction that cannot be repeated, a step on a field that is no register and a register past 127 are cause 0x04;
while another run repeats it waits; in the handler it is cause 0x93 with inner code 0x04 (R73, R75, R283). -/
def Sys2Proof.Claims.RepStarts : Prop :=
  ∀ (x : RepArgs) (s : State) (f : Focus) (g : Group) (w v : IWord) (i : Instr), Issues s f g →
    (hmode g = false → NextWords s f g w v →
      (repeatable w v = true → decodeFor s (ctxPart (groupCtx s g)) w v = .ok i → repMisuse x w i = false →
        (g.rep.active = false → exec (.rep x) s = .next (unfocus (putGroup s f.gid { g with
          rep := { lanes := f.lanes, active := true, next := 0 }, skipBp := g.skipBp &&& ~~~f.lanes }))) ∧
        (g.rep.active = true → g.rep.lanes ≠ f.lanes → Blocks s f g .repEnd (exec (.rep x) s))) ∧
      (Clear f g →
        (repeatable w v = false ∨ (decodeFor s (ctxPart (groupCtx s g)) w v = .ok i ∧
          ((x.sd ≠ 0 ∧ (stepFields i).1 = false) ∨ (x.sa ≠ 0 ∧ (stepFields i).2.1 = false) ∨
            (x.sb ≠ 0 ∧ (stepFields i).2.2 = false) ∨
            127 < w.toNat / 2 ^ 18 % 128 + x.cnt.toNat * repStep x.sd ∨
            127 < w.toNat / 2 ^ 11 % 128 + x.cnt.toNat * repStep x.sa ∨
            127 < w.toNat / 2 ^ 4 % 128 + x.cnt.toNat * repStep x.sb))) →
        Traps s f 0x04 0 (exec (.rep x) s))) ∧
    (hmode g = true → Clear f g → exec (.rep x) s =
      .next (unfocus (stopGroup (clearSkip f s) f.gid f.lanes (causeWord 0x93 0x04) (epcWord f.pc none) true)))

/-- win and rep. -/
def Obligations.WindowBaseAndRepeats : Prop := WinSetsWindow ∧ RepStarts

/-- What every instruction does to its group when it retires: outside a repeat the run's lanes go to the next address; in a
repeat the counters stay and the next iteration is due, until after the last the lanes go past the repeated instruction
(R73); each open window of the lanes is one instruction shorter (R76). -/
def Obligations.RetireAdvances : Prop :=
  ∀ (f : Focus) (g : Group),
    (f.iter = none → (retire f g).rep = g.rep ∧
      ∀ l, l < 32 → pcGet (retire f g) l = if f.lanes.getLsbD l = true then f.npc else pcGet g l) ∧
    (∀ it, f.iter = some it → it.idx + 1 < it.count →
      (retire f g).pcs = g.pcs ∧ (retire f g).rep = { g.rep with next := BitVec.ofNat 6 (it.idx + 1) }) ∧
    (∀ it, f.iter = some it → it.count ≤ it.idx + 1 → (retire f g).rep = {} ∧
      ∀ l, l < 32 → pcGet (retire f g) l = if f.lanes.getLsbD l = true then it.after else pcGet g l) ∧
    (∀ p ∈ g.pends, p.lanes &&& f.lanes ≠ 0 → p.held = false →
      { p with left := p.left - 1, issued := true } ∈ (retire f g).pends) ∧
    (retire f g).vregs = g.vregs ∧ (retire f g).sregs = g.sregs ∧ (retire f g).preds = g.preds ∧
    (retire f g).cause = g.cause ∧ (retire f g).epc = g.epc ∧ (retire f g).trapbase = g.trapbase ∧
    (retire f g).sticky = g.sticky ∧ (retire f g).stale = g.stale ∧ (retire f g).exited = g.exited

/-- REPCTR after some lanes have exited: it names unexited lanes alone (R144). -/
def Sys2Proof.Claims.repAfterExit (r : RepCtr) (lanes : LaneMask) : RepCtr :=
  if r.lanes &&& ~~~lanes = 0 then {} else { r with lanes := r.lanes &&& ~~~lanes }

/-- exit marks the run's lanes as exited and moves no counter; when the handler's lanes have all exited HMODE falls and the
deferred faults are held no longer (R129, R288); when the group's last lane exits nothing of it issues any more, and no byte at
home changes (dirty MANUAL bytes move to the proxy slices where its exit completes a grid barrier, R204, R319). An exited
lane is in no run, and a run's lanes stand at its counter (R120). -/
def Sys2Proof.Claims.ExitLeaves : Prop :=
  (∀ (x : R3L) (s : State) (f : Focus) (g : Group), Issues s f g → g.barriers = [] →
    let out := f.lanes ||| g.exited
    let g1 := { countWindow f.lanes g with
      exited := g.exited ||| f.lanes, skipBp := g.skipBp &&& ~~~f.lanes, rep := repAfterExit g.rep f.lanes }
    (out ≠ 0xFFFFFFFF → (hmode g = false ∨ g.hlanes &&& ~~~out ≠ 0) →
      exec (.exit x) s = .next (unfocus (putGroup s f.gid g1))) ∧
    (out ≠ 0xFFFFFFFF → hmode g = true → g.hlanes &&& ~~~out = 0 →
      ∃ g', exec (.exit x) s = .next (unfocus (putGroup s f.gid g')) ∧
        g' = { g1 with trapbase := g'.trapbase, hlanes := 0, pends := g'.pends } ∧ hmode g' = false ∧
        handlerOn g' = handlerOn g ∧ (∀ p ∈ g'.pends, p.held = false) ∧
        g'.pends.map (·.id) = g.pends.map (·.id)) ∧
    (out = 0xFFFFFFFF → ∃ t g', exec (.exit x) s = .next t ∧ mapFind t.groups f.gid = some g' ∧
      g'.exited = 0xFFFFFFFF ∧ runsOf t f.gid g' = [] ∧ t.mem = { s.mem with proxies := t.mem.proxies } ∧ t.sram = s.sram)) ∧
  (∀ (s : State) (gid : Nat) (g : Group), ∀ r ∈ runsOf s gid g, ∀ l, l < 32 → r.lanes.getLsbD l = true →
    g.exited.getLsbD l = false ∧ (r.rep = false → pcGet g l = r.pc))

/-- wait, wait.clk and exit. -/
def Obligations.WaitsAndExits : Prop := WaitsEndOrBlock ∧ ExitLeaves

/-! ### Taking a trap and returning from it -/

/-- A group cause taken outside the handler with TRAPBASE.EN set: CAUSE holds INFO and the code, EPC the address given,
HMODE is set, the run's lanes go to TRAPBASE's address, and no other lane's counter, no register and no other part of the
machine changes (R285, R286, R288). -/
def Obligations.TrapEntersHandler : Prop :=
  ∀ (s : State) (gid : Nat) (g : Group) (lanes : LaneMask) (code info : Nat) (pc : Pc),
    mapFind s.groups gid = some g → hmode g = false → handlerOn g = true → code < 256 → info < 2 ^ 56 →
    ∃ g', takeTrap s gid lanes code info (epcWord pc none) = putGroup s gid g' ∧
      g'.cause.toNat = info * 256 + code ∧ g'.epc.toNat = pc.toNat / 4 * 4 ∧
      hmode g' = true ∧ handlerOn g' = true ∧ g'.hlanes = lanes ∧
      (∀ l, l < 32 → lanes.getLsbD l = true → (pcGet g' l).toNat = g.trapbase.toNat / 4 % 2 ^ 54 * 4) ∧
      (∀ l, l < 32 → lanes.getLsbD l = false → pcGet g' l = pcGet g l) ∧
      (∀ b ∈ g'.blocks, b.lanes &&& lanes = 0) ∧
      g' = { g with cause := g'.cause, epc := g'.epc, trapbase := g'.trapbase, hlanes := g'.hlanes, pcs := g'.pcs,
                    blocks := g'.blocks, barriers := g'.barriers, pends := g'.pends }

/-- The 32 bytes of an event record (R296). -/
def Sys2Proof.Claims.eventRecord (k core slot kind : Nat) (cause epc clock : Word) : List Byte :=
  leBytes 8 cause.toNat ++ leBytes 8 epc.toNat ++ leBytes 2 (k % 256) ++ leBytes 2 core ++ leBytes 1 slot ++ leBytes 1 kind ++
    leBytes 2 0 ++ leBytes 8 clock.toNat

/-- The ring of a partition's supervisor has received a record: where its place passes the checks, the bytes stand there and
TAIL has risen; where there is no place, OVF is set and no byte changes (R296, R297). -/
def Sys2Proof.Claims.Recorded (s t : State) (p : Nat) (bs : List Byte) : Prop :=
  (partAt s p).sevWait = [] →
    (∀ pa, eventPlace s p = .home pa → homeRead t.mem pa 32 = bs ∧ (partAt t p).sevTail = (partAt s p).sevTail + 1 ∧
      ∀ a, a < pa ∨ pa + 32 ≤ a → homeByte t.mem a = homeByte s.mem a) ∧
    (eventPlace s p = .lost → (partAt t p).sevOvf = true ∧ (partAt t p).sevTail = (partAt s p).sevTail ∧
      ∀ a, homeByte t.mem a = homeByte s.mem a)

/-- A cause that goes to the supervisor of a group's context: an event record, or from the supervisor's own context the
partition stops and the host is sent a KIND 1 message (R296, R362). -/
def Sys2Proof.Claims.Told (s t : State) (gid k : Nat) (cause epc : Word) : Prop :=
  (k % 256 ≠ 0 → Recorded s t (k / 256) (eventRecord k (gid / 64) (gid % 64) 0 cause epc s.clk.clock)) ∧
  (k % 256 = 0 → (partAt t (k / 256)).halted = true ∧
    ∃ m, (partAt t (k / 256)).msgs = (partAt s (k / 256)).msgs ++ [m] ∧ m.kind = 1 ∧ m.d0 = cause ∧ m.d1 = epc)

/-- A group cause raised in the handler is cause 0x93 to the supervisor with the inner code in INFO, and the group keeps
CAUSE, EPC, TRAPBASE and its counters; with TRAPBASE.EN 0 the group stops with its own cause. In both the supervisor is told
(R283, R296). -/
def Obligations.TrapWithoutHandlerStops : Prop :=
  ∀ (s : State) (gid : Nat) (g : Group) (lanes : LaneMask) (code info : Nat) (epc : Word),
    mapFind s.groups gid = some g →
    let t := takeTrap s gid lanes code info epc
    (hmode g = true →
      (∃ g', mapFind t.groups gid = some g' ∧
        g'.stopped = some { cont := true, lanes } ∧ g'.cause = g.cause ∧ g'.epc = g.epc ∧
        g'.trapbase = g.trapbase ∧ ∀ l, l < 32 → lanes.getLsbD l = true → pcGet g' l = pcGet g l) ∧
      Told s t gid (groupCtx s g) (causeWord 0x93 code) epc) ∧
    (hmode g = false → handlerOn g = false →
      (∃ g', mapFind t.groups gid = some g' ∧
        g'.stopped = some { cont := false, lanes } ∧ g'.cause = causeWord code info ∧ g'.epc = epc ∧
        g'.trapbase = g.trapbase ∧ ∀ l, l < 32 → (lanes &&& ~~~g.exited).getLsbD l = true →
          (pcGet g' l).toNat = epc.toNat / 4 % 2 ^ 54 * 4) ∧
      Told s t gid (groupCtx s g) (causeWord code info) epc)

/-- brk traps with cause 0x11 at the brk, trap with cause 0x10 at the next address, both with the immediate in INFO; the
handler is entered (R139, R140). -/
def Obligations.TrapAndBrkTrap : Prop :=
  ∀ (x : ImmArgs) (s : State) (f : Focus) (g : Group), Issues s f g → Clear f g → hmode g = false →
    Traps s f 0x11 x.imm.toNat (exec (.brk x) s) ∧
    exec (.trap x) s = .next (unfocus (takeTrap (clearSkip f (putGroup s f.gid (pcSet g f.lanes f.npc))) f.gid f.lanes 0x10
      (x.imm.toNat % 256) (epcWord f.npc none)))

/-- tret where HMODE was 0 at the start of the clock is cause 0x08 (R288). Else the handler's unexited lanes go to EPC.PC, HMODE, DEFER and BACK clear,
REPCTR stays, and the first issue of each run is not checked against the breakpoints (R292). -/
def Obligations.TretReturns : Prop :=
  ∀ (x : R3L) (s : State) (f : Focus) (g : Group), Issues s f g →
    (hmode (seen f g) = false → Clear f g → Traps s f 0x08 0 (exec (.tret x) s)) ∧
    (hmode (seen f g) = true → ∃ g', exec (.tret x) s = .next (unfocus (putGroup s f.gid g')) ∧
      hmode g' = false ∧ handlerOn g' = handlerOn g ∧ g'.hlanes = 0 ∧ g'.rep = g.rep ∧
      (∀ i, i < 64 → g'.epc.getLsbD i = (decide (i < 56) && g.epc.getLsbD i)) ∧
      (∀ l, l < 32 → pcGet g' l =
        if (g.hlanes &&& ~~~g.exited).getLsbD l = true then BitVec.ofNat 56 (g.epc.toNat / 4 * 4) else pcGet g l) ∧
      (∀ p ∈ g'.pends, p.held = false) ∧ g'.skipBp = ~~~g.exited ∧
      g'.vregs = g.vregs ∧ g'.sregs = g.sregs ∧ g'.preds = g.preds ∧ g'.cause = g.cause ∧ g'.sticky = g.sticky)

/-- scall stops the group for the supervisor with cause 0x13, INFO bits 55:0 of sA, EPC and counters at next(PC) (R293). That in
the handler CAUSE and EPC are kept, and the record alone tells the supervisor, is the model's reading, log entry 37. -/
def Obligations.ScallStops : Prop :=
  ∀ (x : R3L) (s : State) (f : Focus) (g : Group), Issues s f g → Clear f g → f.lanes &&& g.exited = 0 →
    ∃ t g', exec (.scall x) s = .next t ∧ mapFind t.groups f.gid = some g' ∧
      g'.stopped = some { cont := hmode g, lanes := f.lanes } ∧
      (hmode g = false → g'.cause.toNat = (sGet (seen f g) x.a.toNat).toNat % 2 ^ 56 * 256 + 0x13 ∧
        g'.epc.toNat = f.npc.toNat / 4 * 4) ∧
      (hmode g = true → g'.cause = g.cause ∧ g'.epc = g.epc) ∧
      (∀ l, l < 32 → f.lanes.getLsbD l = true → (pcGet g' l).toNat = f.npc.toNat / 4 * 4) ∧
      g'.vregs = g.vregs ∧ g'.preds = g.preds

/-- csrr and csrw trap with cause 0x01 on a number that names no register and with cause 0x08 outside the supervisor
context (R294). -/
def Sys2Proof.Claims.ControlRegistersPrivileged : Prop :=
  ∀ (s : State) (f : Focus) (g : Group), Issues s f g → Clear f g →
    (∀ x : SrRead, csrRead s (ctxPart (groupCtx s g)) x.n.toNat = none → Traps s f 0x01 0 (exec (.csrr x) s)) ∧
    (∀ x : SrWrite, csrRead s (ctxPart (groupCtx s g)) x.n.toNat = none → Traps s f 0x01 0 (exec (.csrw x) s)) ∧
    (groupCtx s g % 256 ≠ 0 →
      (∀ x : SrRead, csrRead s (ctxPart (groupCtx s g)) x.n.toNat ≠ none → Traps s f 0x08 0 (exec (.csrr x) s)) ∧
      (∀ x : SrWrite, csrRead s (ctxPart (groupCtx s g)) x.n.toNat ≠ none → Traps s f 0x08 0 (exec (.csrw x) s)))


/-! ### Special registers and control registers -/

/-- rdsr gives each lane, or the uniform register, the value of the special register, by the table of R117 (R118); the second
port's as it stood at the start of the clock (R90). -/
def Sys2Proof.Claims.RdsrReads : Prop :=
  ∀ (x : SrRead) (s : State) (f : Focus) (g : Group), Issues s f g →
    let v := seen f g
    (InAllot v [x.d] → ∃ t, exec (.rdsrVector x) s = .next t ∧
      VecDone s f g x.d (fun l => f.lanes.getLsbD l = true) (fun l => (specialReg s f v x.n.toNat l, 0)) t) ∧
    (∃ t, exec (.rdsrUniform x) s = .next t ∧ UniDone s f g x.d (specialReg s f v x.n.toNat 0, 0) t) ∧
    (∀ l, specialReg s f v 0x00 l = BitVec.ofNat 64 l ∧ specialReg s f v 0x01 l = BitVec.ofNat 64 v.groupId ∧
      specialReg s f v 0x04 l = BitVec.ofNat 64 (f.gid / 64) ∧ (specialReg s f v 0x05 l).toNat = v.winbase.toNat ∧
      (specialReg s f v 0x06 l).toNat = v.rep.lanes.toNat * 2 ^ 32 + (if v.rep.active then 64 else 0) + v.rep.next.toNat ∧
      (specialReg s f v 0x07 l).toNat = v.sticky.toNat ∧ (specialReg s f v 0x08 l).toNat = v.stale.toNat ∧
      (specialReg s f v 0x09 l).toNat = f.lanes.toNat ∧ (specialReg s f v 0x0A l).toNat = v.exited.toNat ∧
      specialReg s f v 0x02 l = BitVec.ofNat 64 (teamAt s v.team).teamId ∧
      specialReg s f v 0x03 l = BitVec.ofNat 64 (teamAt s v.team).cluster ∧
      specialReg s f v 0x0C l = BitVec.ofNat 64 (nodeAt s (teamAt s v.team).node).hdr.groups ∧
      specialReg s f v 0x10 l = (coreAt s (f.gid / 64)).bankrole ∧
      specialReg s f v 0x20 l = (if f.view.isSome then v.bwSeen else (partAt s (ctxPart (groupCtx s v))).bwphase) ∧
      specialReg s f v 0x0B l = s.clk.clock ∧ specialReg s f v 0x18 l = v.cause ∧
      specialReg s f v 0x19 l = v.epc ∧ specialReg s f v 0x1A l = v.trapbase)

/-- wrsr replaces STICKY, STALE, the RW fields of EPC where HMODE was 1 at the start of the clock and of TRAPBASE, and sends
BWPHASE; EPC elsewhere and every other number is cause 0x01; a flag that the other port's instruction raised in the same clock stays
(R89, R119, R286, R287, R348), and so does a STALE bit that it set anew, which is the model's choice, log entry 9. -/
def Sys2Proof.Claims.WrsrWrites : Prop :=
  ∀ (x : SrWrite) (s : State) (f : Focus) (g : Group), Issues s f g →
    let w := sGet (seen f g) x.a.toNat
    (x.n.toNat = 0x07 → exec (.wrsr x) s =
      .next (unfocus (putGroup s f.gid { retire f g with sticky := w.setWidth 6 ||| g.raised }))) ∧
    (x.n.toNat = 0x08 → exec (.wrsr x) s =
      .next (unfocus (putGroup s f.gid
        { retire f g with stale := w.setWidth 32 ||| (g.stale &&& ~~~(seen f g).stale) }))) ∧
    (x.n.toNat = 0x19 → hmode (seen f g) = true → ∃ e, exec (.wrsr x) s =
      .next (unfocus (putGroup s f.gid { retire f g with epc := e })) ∧
      ∀ i, i < 64 → e.getLsbD i = (decide (i ≠ 62 ∧ 2 ≤ i) && w.getLsbD i)) ∧
    (x.n.toNat = 0x1A → ∃ b, exec (.wrsr x) s =
      .next (unfocus (putGroup s f.gid { retire f g with trapbase := b })) ∧
      ∀ i, i < 64 → b.getLsbD i = if i = 1 then g.trapbase.getLsbD 1 else (decide (i < 56) && w.getLsbD i)) ∧
    (x.n.toNat = 0x20 → ∃ t, exec (.wrsr x) s = .next t ∧ t.groups = mapPut s.groups f.gid (retire f g) ∧
      (partAt t (ctxPart (groupCtx s g))).bwphase.toNat = w.toNat % 64 ∧ t.mem = s.mem ∧ t.ctxs = s.ctxs) ∧
    (Clear f g → (x.n.toNat = 0x19 ∧ hmode (seen f g) = false ∨ x.n.toNat ∉ [0x07, 0x08, 0x19, 0x1A, 0x20]) →
      Traps s f 0x01 0 (exec (.wrsr x) s))

/-- rdsr and wrsr. -/
def Obligations.SpecialRegisterAccesses : Prop := RdsrReads ∧ WrsrWrites

/-- A BWPHASE write leaves for the controllers: a read gives its low six bits, the value at the controllers stays until it
arrives, and nothing outside the partition's register changes (R348); without feature 7 nothing is sent (R355). -/
def Sys2Proof.Claims.BwphaseWriteSends : Prop :=
  ∀ (p : Nat) (v : Word) (s : State), (feature s p 7 = false → exec (.bwphaseWrite p v) s = .next s) ∧
    (feature s p 7 = true → ∃ t, exec (.bwphaseWrite p v) s = .next t ∧
    (partAt t p).bwphase = v &&& 0x3F ∧ (partAt t p).bwNow = (partAt s p).bwNow ∧
    (partAt t p).bwSent = (partAt s p).bwSent ++ [(s.clk.ns, v &&& 0x3F)] ∧
    (∀ q, q ≠ p → partAt t q = partAt s q) ∧ t.groups = s.groups ∧ t.mem = s.mem ∧ t.bins = s.bins ∧ t.ctxs = s.ctxs)

/-- In the supervisor context csrr gives the register's value, and csrw has the register's effect and retires (R294). -/
def Sys2Proof.Claims.ControlRegistersInSupervisor : Prop :=
  ∀ (s : State) (f : Focus) (g : Group), Issues s f g → groupCtx s g % 256 = 0 →
    (∀ (x : SrRead) (v : Word), csrRead s (ctxPart (groupCtx s g)) x.n.toNat = some v →
      ∃ t, exec (.csrr x) s = .next t ∧ UniDone s f g x.d (v, 0) t) ∧
    (∀ (x : SrWrite) (u : State), csrRead s (ctxPart (groupCtx s g)) x.n.toNat ≠ none →
      csrWrite s (ctxPart (groupCtx s g)) (f.gid / 64 / 84) x.n.toNat (sGet (seen f g) x.a.toNat) = .done u →
      exec (.csrw x) s = .next (unfocus (updGroup u f.gid (retire f))))

/-- csrr and csrw, in the supervisor context and outside it. -/
def Obligations.ControlRegisterAccesses : Prop := ControlRegistersPrivileged ∧ ControlRegistersInSupervisor

/-! ### Loads, stores and atomics -/

/-- No edit of the group's is still to commit (R228). -/
def Sys2Proof.Claims.NoEdits (s : State) (g : Group) : Prop := ∀ e ∈ s.edits, e.uid = g.uid → e.committed = true
/-- No L1 holds dirty bytes of a MANUAL page (R204). -/
def Sys2Proof.Claims.NoDirty (s : State) : Prop := ∀ c, ∀ y ∈ (coreAt s c).l1, y.mask = 0
/-- The instruction has nothing to wait for (R184, R187, R228). -/
def Sys2Proof.Claims.Ready (x : MArgs) (s : State) (f : Focus) (g : Group) : Prop :=
  openAcq s g f.lanes = false ∧ NoEdits s g ∧
    (ordRel x.ord = true → releaseWaits s f.gid g f.lanes x.sc = false ∧ NoDirty s)
/-- The tables of the pages of some ranges lie in bins that are awake, where no translation cache serves them (R345). -/
def Sys2Proof.Claims.TablesAwake (s : State) (f : Focus) (g : Group) (l : List (Nat × Nat)) : Prop :=
  walksAsleep s (gidCore f.gid) (groupCtx s g) l = none
/-- The ranges of accesses of n bytes. -/
def Sys2Proof.Claims.spans (accs : List Acc) (n : Nat) : List (Nat × Nat) := accs.map (fun a => (a.addr, n))
/-- The vector registers that a memory instruction names are in the allotment: dest and data by its form (R150). -/
def Sys2Proof.Claims.MemFits (x : MArgs) (v : Group) (dest data : Bool) : Prop :=
  x.form ≠ .s → (dest = true → InAllot v [x.d]) ∧ (data = true → InAllot v [x.b]) ∧ (x.form = .v → InAllot v [x.a])
/-- A result has been left pending: the group has retired its instruction and holds one more window (R76). -/
def Sys2Proof.Claims.Pending (x : MArgs) (s : State) (f : Focus) (g : Group) (p : Pend) (t : State) : Prop :=
  t.groups = mapPut s.groups f.gid { retire f g with pends := (retire f g).pends ++ [p] } ∧ t.focus = none ∧
    p.lanes = f.lanes ∧ p.active = f.lanes ∧ p.left = x.look.toNat ∧ p.ty = x.ty ∧ p.pc = f.pc ∧
    p.dest = (if x.form = .s then .uni x.d.toNat else .vec (vReg (seen f g) x.d))

/-- ld and ldc whose accesses pass their checks issue: their result is pending with the lookahead of the word, each access
has its request, and no byte of memory changes (R76, R151, R155, R157). -/
def Sys2Proof.Claims.LoadsIssue : Prop :=
  ∀ (x : MArgs) (s : State) (f : Focus) (g : Group), Issues s f g → Ready { x with ord := .rlx } s f g →
    MemFits x (seen f g) true false → TablesAwake s f g (spans (accsOf x (seen f g) f.lanes f.lanes) (accSize x.ty)) →
    (∀ a ∈ accsOf x (seen f g) f.lanes f.lanes, ∃ tr,
      globalCheck s (gidCore f.gid) (groupCtx s g) {} (accSize x.ty) a.addr (accSize x.ty) = .ok tr) →
    ∀ i ∈ [Instr.ld x, Instr.ldc x], ∃ t p, exec i s = .next t ∧ Pending x s f g p t ∧ p.atom = false ∧
      p.fault = none ∧ p.acq = (if ordAcq x.ord = true then some x.sc else none) ∧ t.mem = s.mem ∧ t.sram = s.sram ∧
      ∀ a ∈ accsOf x (seen f g) f.lanes f.lanes, ∃ r ∈ t.reqs, r.pend = p.id ∧ r.va = a.addr ∧
        r.size = accSize x.ty ∧ isLoad r = true ∧ a.lanes &&& ~~~r.lanes = 0

/-- st whose accesses pass their checks, on pages with a frame, issues a request for each address with the bytes of its
highest-numbered active lane; no register and no byte at home changes at issue (R151, R156, R178). -/
def Sys2Proof.Claims.StoresIssue : Prop :=
  ∀ (x : MArgs) (s : State) (f : Focus) (g : Group), Issues s f g → Ready x s f g →
    MemFits x (seen f g) false true →
    TablesAwake s f g (spans (accsOf x (seen f g) f.lanes (guardLanes x f (seen f g))) (accSize x.ty)) →
    (∀ a ∈ accsOf x (seen f g) f.lanes (guardLanes x f (seen f g)), ∃ tr,
      globalCheck s (gidCore f.gid) (groupCtx s g) { write := true } (accSize x.ty) a.addr (accSize x.ty) = .ok tr ∧
      tr.attr.zero = false) →
    ∃ t, exec (.st x) s = .next t ∧ t.groups = mapPut s.groups f.gid (retire f g) ∧ t.focus = none ∧
      t.mem = s.mem ∧ t.sram = s.sram ∧ (∀ r ∈ s.reqs, r ∈ t.reqs) ∧
      (∀ a ∈ accsOf x (seen f g) f.lanes (guardLanes x f (seen f g)),
        (∀ b ∈ accsOf x (seen f g) f.lanes (guardLanes x f (seen f g)), b.addr = a.addr → b.lane ≤ a.lane) →
        ∃ r ∈ t.reqs, r.va = a.addr ∧ r.size = accSize x.ty ∧ r.stage = .queued ∧
          r.kind = .store (leBytes (accSize x.ty) (readReg (x.form != .s) (seen f g) x.b a.lane).toNat)) ∧
      (∀ r ∈ t.reqs, r ∈ s.reqs ∨ ∃ a ∈ accsOf x (seen f g) f.lanes (guardLanes x f (seen f g)), r.va = a.addr)

/-- atom issues one request for each lane with its operands, and its results are pending (R159, R160). -/
def Sys2Proof.Claims.AtomIssues : Prop :=
  ∀ (x : MArgs) (s : State) (f : Focus) (g : Group), Issues s f g → Ready x s f g →
    MemFits x (seen f g) true true → TablesAwake s f g (spans (accsOf x (seen f g) f.lanes f.lanes) (accSize x.ty)) →
    (∀ a ∈ accsOf x (seen f g) f.lanes f.lanes, ∃ tr,
      globalCheck s (gidCore f.gid) (groupCtx s g) { atom := true } (accSize x.ty) a.addr (accSize x.ty) = .ok tr ∧
      tr.attr.zero = false) →
    ∃ t p, exec (.atom x) s = .next t ∧ Pending x s f g p t ∧ p.atom = true ∧ t.mem = s.mem ∧ t.sram = s.sram ∧
      ∀ a ∈ accsOf x (seen f g) f.lanes f.lanes, ∃ r ∈ t.reqs, r.pend = p.id ∧ r.va = a.addr ∧ r.lanes = a.lanes ∧
        r.kind = .atom x.aop.toNat x.ty (readReg (x.form != .s) (seen f g) x.b a.lane)
          (readReg (x.form != .s) (seen f g) x.d a.lane) a.lane

/-- The edits of ZERO pages that an instruction leaves: one for each page, with a frame from HEAD of the pool reserved (R222). -/
def Sys2Proof.Claims.ZeroReserved (s t : State) (k : Nat) (pages : List Nat) : Prop :=
  t.edits.length = s.edits.length + pages.length ∧ (∀ e ∈ s.edits, e ∈ t.edits) ∧
    (ctxAt t k).pool.head = (ctxAt s k).pool.head + BitVec.ofNat 32 pages.length ∧
    ∀ q ∈ pages, ∃ e ∈ t.edits, e.ctx = k ∧ e.op = .zeroPage (q * 65536) ∧ e.ranges = [(q * 65536, 65536)] ∧
      e.frames.length = 1 ∧ e.committed = false

/-- st and atom on ZERO pages: with too few frames in the pool the group stops with cause 0x54 and INFO 0, and nothing is accessed; else each
page has a frame reserved and its edit under way, and the accesses have their requests, which wait for it (R222). -/
def Sys2Proof.Claims.ZeroPagesIssue : Prop :=
  ∀ (x : MArgs) (s : State) (f : Focus) (g : Group) (tr : Acc → Trans), Issues s f g → Ready x s f g → Clear f g →
    let k := groupCtx s g
    let n := accSize x.ty
    let lanes := guardLanes x f (seen f g)
    let st := accsOf x (seen f g) f.lanes lanes
    let at' := accsOf x (seen f g) f.lanes f.lanes
    let checks := fun (u : Use) (accs : List Acc) => TablesAwake s f g (spans accs n) ∧
      ∀ a ∈ accs, globalCheck s (gidCore f.gid) k u n a.addr n = .ok (tr a)
    let pages := fun (accs : List Acc) => zeroPages s k (accs.map (fun a => (a, tr a)))
    let stops := fun (i : Instr) => exec i s =
      .next (unfocus (stopGroup (clearSkip f s) f.gid f.lanes (causeWord 0x54 0) (epcWord f.pc none) false))
    (MemFits x (seen f g) false true → checks { write := true } st →
      (framesFree s k < (pages st).length → stops (.st x)) ∧
      ((pages st).length ≤ framesFree s k → poolAsleep s k = none → ∃ t, exec (.st x) s = .next t ∧
        t.groups = mapPut s.groups f.gid (retire f g) ∧ t.mem = s.mem ∧ ZeroReserved s t k (pages st) ∧
        ∀ a ∈ st, ∃ r ∈ t.reqs, r.va = a.addr ∧ r.size = n ∧ r.stage = .queued ∧ isStore r = true)) ∧
    (MemFits x (seen f g) true true → checks { atom := true } at' →
      (framesFree s k < (pages at').length → stops (.atom x)) ∧
      ((pages at').length ≤ framesFree s k → poolAsleep s k = none → ∃ t p, exec (.atom x) s = .next t ∧
        Pending x s f g p t ∧ t.mem = s.mem ∧ ZeroReserved s t k (pages at') ∧
        ∀ a ∈ at', ∃ r ∈ t.reqs, r.pend = p.id ∧ r.va = a.addr ∧ r.lanes = a.lanes ∧ isAtom r = true))

/-- Loads, stores and atomics of global memory, at issue, those on ZERO pages among them. -/
def Obligations.GlobalAccessesIssue : Prop := LoadsIssue ∧ StoresIssue ∧ AtomIssues ∧ ZeroPagesIssue

/-- lds reads the banks of the scratchpad at once and leaves the extended values pending (R152, R153, R189). -/
def Sys2Proof.Claims.LdsReads : Prop :=
  ∀ (x : MArgs) (s : State) (f : Focus) (g : Group), Issues s f g → Ready { x with ord := .rlx } s f g →
    MemFits x (seen f g) true false →
    (∀ a ∈ accsOf x (seen f g) f.lanes f.lanes, ∃ r, sramCheck s (gidCore f.gid) g.team false a.addr (accSize x.ty) = .ok r ∧
      sramPoisoned s (teamAt s r.team) r.ob r.off (accSize x.ty) = false) →
    ∃ t p, exec (.lds x) s = .next t ∧ Pending x s f g p t ∧ p.sram = true ∧ p.atom = false ∧ p.fault = none ∧
      t.mem = s.mem ∧ t.sram = s.sram ∧ t.reqs = s.reqs ∧
      ∀ a ∈ accsOf x (seen f g) f.lanes f.lanes, ∀ r, sramCheck s (gidCore f.gid) g.team false a.addr (accSize x.ty) = .ok r →
        (a.lane, extendTo x.ty (leNat (sramRead s (teamAt s r.team) r.ob r.off (accSize x.ty)))) ∈ p.vals

/-- sts writes the bytes of its active lanes in ascending order: each stored byte is that of the highest lane that stores it, and
every byte of the SRAM outside the stored bytes reads as before (R153, R156). -/
def Sys2Proof.Claims.StsStores : Prop :=
  ∀ (x : MArgs) (s : State) (f : Focus) (g : Group), Issues s f g → Ready x s f g →
    MemFits x (seen f g) false true →
    let accs := accsOf x (seen f g) f.lanes (guardLanes x f (seen f g))
    let n := accSize x.ty
    (∀ a ∈ accs, ∃ r, sramCheck s (gidCore f.gid) g.team true a.addr n = .ok r) →
    n ∈ [1, 2, 4, 8] →
    ∃ t, exec (.sts x) s = .next t ∧ t.groups = mapPut s.groups f.gid (retire f g) ∧ t.focus = none ∧
      t.mem = s.mem ∧ t.reqs = s.reqs ∧ t.sram.tags = s.sram.tags ∧
      (∀ key, (∀ a ∈ accs, ∀ r, sramCheck s (gidCore f.gid) g.team true a.addr n = .ok r →
          ∀ i, i < n → sramByte s (teamAt s r.team) r.ob (r.off + i) ≠ some key) →
        mapGet 0 t.sram.bytes key = mapGet 0 s.sram.bytes key) ∧
      (let writes := fun (j i key : Nat) => ∃ a r, accs[j]? = some a ∧
         sramCheck s (gidCore f.gid) g.team true a.addr n = .ok r ∧ i < n ∧ sramByte s (teamAt s r.team) r.ob (r.off + i) = some key
       ∀ j i key a, accs[j]? = some a → writes j i key → (∀ j' i', j < j' → ¬ writes j' i' key) →
         some (mapGet 0 t.sram.bytes key) = (leBytes n (readReg (x.form != .s) (seen f g) x.b a.lane).toNat)[i]?)

/-- atoms works lane by lane in ascending order, each lane on what the lanes before it have left: a lane's result is the old
value, the new one is stored in its place, and every other byte of the SRAM stays (R153, R159). m j is the SRAM that the first j
lanes leave. -/
def Sys2Proof.Claims.AtomsUpdates : Prop :=
  ∀ (x : MArgs) (s : State) (f : Focus) (g : Group), Issues s f g → Ready x s f g → MemFits x (seen f g) true true →
    let n := accSize x.ty
    let accs := accsOf x (seen f g) f.lanes f.lanes
    let check := fun (a : Acc) => sramCheck s (gidCore f.gid) g.team true a.addr n
    let word := fun (i : BitVec 7) (l : Nat) => (readReg (x.form != .s) (seen f g) i l).toNat
    (∀ a ∈ accs, ∃ r, check a = .ok r ∧ sramPoisoned s (teamAt s r.team) r.ob r.off n = false) → n ∈ [1, 2, 4, 8] →
    ∃ t p, exec (.atoms x) s = .next t ∧ Pending x s f g p t ∧ p.atom = true ∧ p.sram = true ∧ p.fault = none ∧
      p.vals.length = accs.length ∧ t.mem = s.mem ∧ t.reqs = s.reqs ∧
      ∃ m : Nat → Sram, m 0 = s.sram ∧ m accs.length = t.sram ∧ ∀ j a r, accs[j]? = some a → check a = .ok r →
        let key := fun (i : Nat) => sramByte s (teamAt s r.team) r.ob (r.off + i)
        let old := leNat (sramRead { s with sram := m j } (teamAt s r.team) r.ob r.off n)
        p.vals[j]? = some (a.lane, extendTo x.ty old) ∧
        (∀ i b, i < n → key i = some b → some (mapGet 0 (m (j + 1)).bytes b) =
          (leBytes n (atomNew x.aop.toNat x.ty old (word x.b a.lane) (word x.d a.lane)))[i]?) ∧
        (∀ b, (∀ i, i < n → key i ≠ some b) → mapGet 0 (m (j + 1)).bytes b = mapGet 0 (m j).bytes b)

/-- Loads, stores and atomics of the local SRAM. -/
def Obligations.ScratchpadAccesses : Prop := LdsReads ∧ StsStores ∧ AtomsUpdates

/-- The accesses of global memory: the arguments by which they wait, the lanes that access, what they do, and whether d and b
name vector registers. -/
structure Sys2Proof.Claims.AccessRow where
  i : Instr
  ready : MArgs
  lanes : LaneMask
  u : Use
  dest : Bool
  data : Bool

/-- ld, ldc, st and atom. -/
def Sys2Proof.Claims.accessRows (x : MArgs) (f : Focus) (v : Group) : List AccessRow :=
  [⟨.ld x, { x with ord := .rlx }, f.lanes, {}, true, false⟩, ⟨.ldc x, { x with ord := .rlx }, f.lanes, {}, true, false⟩,
   ⟨.st x, x, guardLanes x f v, { write := true }, false, true⟩, ⟨.atom x, x, f.lanes, { atom := true }, true, true⟩]

/-- An access to global memory with a lane whose address is no multiple of its size, every aligned lane passing its checks, traps
with cause 0x42 and the lowest such lane's address in INFO; nothing is accessed (R170, R171). -/
def Obligations.MisalignedTraps : Prop :=
  ∀ (x : MArgs) (s : State) (f : Focus) (g : Group), Issues s f g → Clear f g → 0 < accSize x.ty →
    ∀ row ∈ accessRows x f (seen f g), Ready row.ready s f g → MemFits x (seen f g) row.dest row.data →
      let accs := accsOf x (seen f g) f.lanes row.lanes
      let n := accSize x.ty
      TablesAwake s f g (spans accs n) → (∀ a ∈ accs, a.addr < 2 ^ 56) →
      (∀ a ∈ accs, a.addr % n = 0 → ∃ tr, globalCheck s (gidCore f.gid) (groupCtx s g) row.u n a.addr n = .ok tr) →
      ∀ a ∈ accs, a.addr % n ≠ 0 → (∀ b ∈ accs, b.lane < a.lane → b.addr % n = 0) →
        Traps s f 0x42 a.addr (exec row.i s)

/-! ### Prefetch, fences, ranges, transfers and counters -/

/-- pref and the fences retire without touching a register: pref when its addresses are canonical, fence when what it orders has
been performed, fence.eng when every earlier store and atomic has been accepted (R161-R163). No byte at home changes but what
fence.eng writes back from the L1s and the proxy slices, which leaves no dirty byte in the group's L1s: that is the model's
reading, log entry 27. -/
def Sys2Proof.Claims.PrefetchAndFencesRetire : Prop :=
  ∀ (x : MArgs) (s : State) (f : Focus) (g : Group), Issues s f g → Ready x s f g →
    (MemFits x (seen f g) false false → (∀ l, l < 32 → (addrOf x (seen f g) l).toNat < 2 ^ 56) →
      ∃ t, exec (.pref x) s = .next t ∧ t.groups = mapPut s.groups f.gid (retire f g) ∧ t.mem = s.mem ∧
        t.sram = s.sram ∧ ∀ r ∈ t.reqs, r ∈ s.reqs ∨ isPref r = true) ∧
    ((ordAcq x.ord = true → loadsOpen s g f.lanes = false) →
      ∃ t, exec (.fence x) s = .next t ∧ t.groups = mapPut s.groups f.gid (retire f g) ∧ t.mem = s.mem ∧
        t.sram = s.sram) ∧
    ((∀ r ∈ s.reqs, r.stage = .accepted) →
      (NoDirty s → (∀ e ∈ s.mem.proxies, e.2.mask = 0) → exec (.fenceEng x) s = .next (unfocus (putGroup s f.gid (retire f g)))) ∧
      (let s' := drainL1 s (l1Cores s f.gid)
       let p := ctxPart (groupCtx s g)
       (∀ l ∈ dirtyManual s' p (f.gid / 64 / 84), atHome s' p (128 * l) ≠ .asleep) →
        ∃ t, exec (.fenceEng x) s = .next t ∧ mapFind t.groups f.gid = some (retire f g) ∧
          ∀ c ∈ l1Cores s f.gid, ∀ y ∈ (coreAt t c).l1, y.mask = 0))

/-- wbr and invr of a range that passes its checks retire and leave one write-back request for each line of another die's
MANUAL pages that may be held; no byte changes until those reach the line's slices (R164, R165, R374). That there is one request for
each such line, and that an invr with .acq invalidates the L1s at once as an acquire at its scope does, is the model's reading, log
entry 27. -/
def Sys2Proof.Claims.RangeOpsRetire : Prop :=
  ∀ (x : MArgs) (s : State) (f : Focus) (g : Group), Issues s f g → Ready x s f g →
    let start := (sGet (seen f g) x.a.toNat).toNat
    let n := (sGet (seen f g) x.b.toNat).toNat
    let lo := start / 128 * 128
    let m := (start + n + 127) / 128 * 128 - lo
    (n ≠ 0 → rangeCause s (gidCore f.gid) (groupCtx s g) start n lo m = none ∧ TablesAwake s f g [(lo, m)]) →
    ∀ c ∈ [(Instr.wbr x, false, none), (Instr.invr x, true, if ordAcq x.ord = true then some x.sc else none)],
      let after := Option.elim c.2.2 s (acquireAt s f.gid)
      ∃ t, exec c.1 s = .next t ∧ t.groups = mapPut s.groups f.gid (retire f g) ∧
        t.mem = s.mem ∧ t.sram = s.sram ∧ (c.2.2 = none → ∀ r ∈ s.reqs, r ∈ t.reqs) ∧
        (∀ r ∈ s.reqs, ∃ q ∈ t.reqs, q = { r with fill := q.fill }) ∧
        (∀ r ∈ t.reqs, (∃ q ∈ s.reqs, r = { q with fill := r.fill }) ∨
          (r.kind = .wb c.2.1 c.2.2 ∧ r.stage = .queued ∧ r.lanes = f.lanes ∧ lo ≤ r.va ∧ r.va < lo + m)) ∧
        (n ≠ 0 → ∀ l ∈ manualLines after f g (groupCtx s g) lo m, ∃ r ∈ t.reqs, r.kind = .wb c.2.1 c.2.2 ∧ r.va = l.1) ∧
        (n ≠ 0 → c.2.2 = some .die → ∀ core ∈ l1Cores s f.gid, ∀ y ∈ (coreAt t core).l1, y.mask ≠ 0)

/-- Prefetches, fences and range operations. -/
def Obligations.FencesPrefetchesAndRanges : Prop := PrefetchAndFencesRetire ∧ RangeOpsRetire

/-- put and get whose checks pass leave a transfer of the named window, local range and counter, with what a .rel waits
for, and retire; no byte moves at issue (R166-R168, R210, R212). -/
def Sys2Proof.Claims.PutGetIssue : Prop :=
  ∀ (x : MArgs) (s : State) (f : Focus) (g : Group), Issues s f g → openAcq s g f.lanes = false → NoEdits s g →
    let wa := fun (get : Bool) => (sGet (seen f g) (if get = true then x.a else x.d).toNat).toNat
    let loc := fun (get : Bool) => (sGet (seen f g) (if get = true then x.d else x.a).toNat).toNat
    let n := (sGet (seen f g) x.b.toNat).toNat
    ∀ c ∈ [(Instr.put x, false), (Instr.get x, true)],
      xferCause s (gidCore f.gid) (groupCtx s g) (wa c.2) (loc c.2) n c.2 = none → TablesAwake s f g [(loc c.2, n)] →
      ∃ t y, exec c.1 s = .next t ∧ t.groups = mapPut s.groups f.gid (retire f g) ∧ t.mem = s.mem ∧ t.sram = s.sram ∧
        t.xfers = s.xfers ++ [y] ∧ y.get = c.2 ∧ y.win = wa c.2 / 2 ^ 52 % 4096 ∧ y.off = wa c.2 % 2 ^ 48 ∧
        y.ctr = wa c.2 / 2 ^ 48 % 16 ∧ y.loc = loc c.2 ∧ y.len = n ∧ y.stage = 0 ∧ y.uid = g.uid ∧
        (ordRel x.ord = true → ∀ r ∈ reqsOf s g.uid f.lanes, r.id ∈ y.waits) ∧
        y.rel = if ordRel x.ord = true then
          some (xferScope (winAt s (groupCtx s g) (wa c.2 / 2 ^ 52 % 4096)) (f.gid / 64 / 84) x.sc) else none

/-- ctrw writes the counter's value once it is at least the threshold and blocks the run before that; a name that is no
counter of the die is cause 0x4C (R166, R169). -/
def Sys2Proof.Claims.CtrwWaits : Prop :=
  ∀ (x : MArgs) (s : State) (f : Focus) (g : Group), Issues s f g → openAcq s g f.lanes = false →
    let name := sGet (seen f g) x.a.toNat
    let thr := sGet (seen f g) x.b.toNat
    let die := f.gid / 64 / 84
    let c := ctrValue s (groupCtx s g) die name
    (badName s (groupCtx s g) die name.toNat = false → thr.toNat ≤ c.toNat →
      ∃ t g', exec (.ctrw x) s = .next t ∧ t.groups = mapPut s.groups f.gid g' ∧ g' = { retire f g with sregs := g'.sregs } ∧
        sGet g' x.d.toNat = c ∧ (∀ n, n ≠ x.d.toNat → sGet g' n = sGet g n) ∧ t.mem = s.mem ∧ t.sram = s.sram) ∧
    (badName s (groupCtx s g) die name.toNat = false → c.toNat < thr.toNat → exec (.ctrw x) s =
      .next (unfocus (putGroup s f.gid { g with blocks := Block.mk f.lanes f.pc f.npc (.ctrw die name thr x.d (ordAcq x.ord)) :: g.blocks }))) ∧
    (badName s (groupCtx s g) die name.toNat = true → Clear f g →
      Traps s f 0x4C (name.toNat % 4096) (exec (.ctrw x) s))

/-- put, get and ctrw. -/
def Obligations.TransfersIssueAndCountersWait : Prop := PutGetIssue ∧ CtrwWaits

/-! ### Requests and responses -/

/-- A request stands at its home, and nothing keeps it from being performed (R177, R178, R221, R334, R345). -/
def Sys2Proof.Claims.AtItsHome (s : State) (r : Req) : Prop :=
  reqAt s r.id = some r ∧ r.stage = .queued ∧ reqBlocked s r = false ∧ reqRefused s r = false ∧ r.attr.zero = false ∧
    r.attr.fmt = false ∧ heldBySwitch s r (r.pa / 128) = false ∧ atHome s (ctxPart r.ctx) r.pa = .ok ∧
    remoteManual r.core r.attr r.pa = false

/-- A store accepted at its home writes exactly its bytes, of lanes that store to the same bytes through several mappings the
highest lane's; an atomic returns the old bytes and writes the new value; a load gets the line, with what earlier stores of its core
that still wait lay over it, and changes no byte; a load of a page without a frame gets zeros under those stores (R155, R156, R160,
R179, R180, R222). That a load of a SHADOW page always gets the copy kept of it, one copy for all dies, and otherwise the line as it
stands, is the model's choice, log entry 41 (R201). -/
def Sys2Proof.Claims.HomePerformsRequests : Prop :=
  ∀ (s : State) (r : Req), AtItsHome s r → s.mem.poison.contains (r.pa / 128) = false →
    (∀ top bs, isStore r = true → top ∈ r :: twins s r → (∀ q ∈ r :: twins s r, q.id ≤ top.id ∧ (q.id = top.id → q = top)) →
      top.kind = .store bs → ∃ t, exec (.requestAtHomeSlice r.id) s = .next t ∧
      (∀ i, i < bs.length → some (homeByte t.mem (r.pa + i)) = bs[i]?) ∧
      (∀ a, a < r.pa ∨ r.pa + bs.length ≤ a → homeByte t.mem a = homeByte s.mem a) ∧
      t.groups = s.groups ∧ t.sram = s.sram ∧
      ∀ q ∈ t.reqs, (q.id = r.id ∨ ∃ p ∈ twins s r, q.id = p.id) → q.stage = .accepted) ∧
    (∀ op ty b c l, r.kind = .atom op ty b c l → ∃ t, exec (.requestAtHomeSlice r.id) s = .next t ∧
      (∃ q ∈ t.reqs, q.id = r.id ∧ q.stage = .accepted ∧ q.data = homeRead s.mem r.pa r.size) ∧
      (∀ i, i < r.size → some (homeByte t.mem (r.pa + i)) =
        (leBytes r.size (atomNew op ty (leNat (homeRead s.mem r.pa r.size)) b.toNat c.toNat))[i]?) ∧
      (∀ a, a < r.pa ∨ r.pa + r.size ≤ a → homeByte t.mem a = homeByte s.mem a) ∧ t.groups = s.groups) ∧
    (r.kind = .load → ∃ t, exec (.requestAtHomeSlice r.id) s = .next t ∧
      t.mem = s.mem ∧ t.groups = s.groups ∧ t.sram = s.sram ∧
      ∃ q ∈ t.reqs, q.id = r.id ∧ q.stage = .accepted ∧
        (r.attr.shadow = false → q.poison = false ∧
          q.data = overlayQueue s r (homeRead s.mem (128 * (r.pa / 128)) 128) ∧
          ((∀ p ∈ s.reqs, p.id < r.id → isStore p = false) → q.data = homeRead s.mem (128 * (r.pa / 128)) 128)) ∧
        (r.attr.shadow = true → mapFind s.mem.shadows (r.pa / 128) = none → q.poison = false ∧
          q.data = homeRead s.mem (128 * (r.pa / 128)) 128) ∧
        (∀ c, r.attr.shadow = true → mapFind s.mem.shadows (r.pa / 128) = some c → q.data = c.data ∧ q.poison = c.poison))

/-- A load of a ZERO page is answered with zeros under what the stores before it at its core point have left in the write queue, and
changes nothing else (R179, R222). -/
def Sys2Proof.Claims.ZeroPageLoads : Prop :=
  ∀ (s : State) (r : Req), reqAt s r.id = some r → r.stage = .queued → reqBlocked s r = false → reqRefused s r = false →
    r.attr.zero = true → r.kind = .load → ∃ t, exec (.requestAtHomeSlice r.id) s = .next t ∧
      t.mem = s.mem ∧ t.groups = s.groups ∧ t.sram = s.sram ∧
      ∃ q ∈ t.reqs, q.id = r.id ∧ q.stage = .accepted ∧ q.poison = false ∧
        q.data = overlayQueue s r (List.replicate 128 0) ∧
        ((∀ p ∈ s.reqs, p.id < r.id → isStore p = false) → q.data = List.replicate 128 0)

/-- A refused request is translated again: with a mapping it goes out to the new frame and generation, and a load that
finds none answers with cause 0x40; a table walk enters its translation in the core's cache (R172, R220, R233). -/
def Sys2Proof.Claims.RetranslationAndWalks : Prop :=
  (∀ (s : State) (r : Req), reqAt s r.id = some r → r.stage = .refused →
    (∀ tr, recheck s r = .ok tr → tr.attr.zero = false → (isPref r = true → tr.attr.manual = false) → ∃ t, exec (.requestRetranslation r.id) s = .next t ∧
      (∃ q ∈ t.reqs, q.id = r.id ∧ q.stage = .queued ∧ q.pa = tr.pa + (r.va - tr.va) ∧ q.gen = tr.gen ∧
        q.kind = r.kind) ∧ t.mem = s.mem ∧ t.groups = s.groups) ∧
    (r.kind = .load → recheck s r = .error 0x40 → ∃ t, exec (.requestRetranslation r.id) s = .next t ∧
      (∃ q ∈ t.reqs, q.id = r.id ∧ q.stage = .accepted ∧ q.poison = true ∧ q.tag = 0x40) ∧ t.mem = s.mem ∧
      t.groups = s.groups)) ∧
  (∀ (s : State) (core ctx va : Nat) (tr : Trans), walk s ctx va = some tr → core < 336 → va < 2 ^ 56 →
    tableAsleep s ctx va = none →
    ∃ t, exec (.tableWalk core ctx va) s = .next t ∧ t.mem = s.mem ∧ t.groups = s.groups ∧
      (coreAt s core).tlb ⊆ (coreAt t core).tlb ∧ (coreAt t core).tlb.any (fun u => transCovers u tr.ctx tr.va) = true)

/-- The result of a load or atomic whose requests are answered reaches its lanes, or its uniform register, extended; if any
answer is poisoned no register is written, and the fault is kept: 0xB1 with the line's address, or the cause of a failed
retranslation with the lane's address, the lowest code where it is no supervisor's (R152, R155, R160, R171, R172, R173). -/
def Obligations.ResponsesWriteRegisters : Prop :=
  ∀ (s : State) (id gid : Nat) (p : Pend) (g : Group), pendAt s id = some (gid, p) →
    mapFind s.groups gid = some g → p ∈ g.pends → p.fault = none → p.sram = false →
    (∀ r ∈ pendReqs s id, r.stage = .accepted) →
    (pendReqs s id).Pairwise (fun a b => a.lanes &&& b.lanes = 0) →
    let value := fun (r : Req) => extendTo p.ty (leNat (if p.atom = true then r.data
      else (r.data.drop (r.va % 128)).take r.size))
    ∃ t g', exec (if p.atom = true then .atomicResponse id else .loadResponse id) s = .next t ∧
      mapFind t.groups gid = some g' ∧ t.mem = s.mem ∧ t.sram = s.sram ∧ pendReqs t id = [] ∧
      g'.pcs = g.pcs ∧ g'.preds = g.preds ∧ g'.sticky = g.sticky ∧
      ((∀ r ∈ pendReqs s id, r.poison = false) →
        (∀ q ∈ g'.pends, q.id ≠ id) ∧
        (∀ j, p.dest = .vec j → g'.sregs = g.sregs ∧
          (∀ r ∈ pendReqs s id, ∀ l, l < 32 → r.lanes.getLsbD l = true → (p.atom = true ∨ p.active.getLsbD l = true) →
            vGet g' j l = value r) ∧
          (∀ i l, l < 32 → (i ≠ j ∨ ∀ r ∈ pendReqs s id, r.lanes.getLsbD l = false) → vGet g' i l = vGet g i l)) ∧
        (∀ n r l, p.dest = .uni n → pendReqs s id = [r] → l < 32 → r.lanes.getLsbD l = true →
          (p.atom = true ∨ p.active.getLsbD l = true) →
          sGet g' n = value r ∧ (∀ m, m ≠ n → sGet g' m = sGet g m) ∧ g'.vregs = g.vregs)) ∧
      ((∃ r ∈ pendReqs s id, r.poison = true) → g'.vregs = g.vregs ∧ g'.sregs = g.sregs ∧
        ∃ q ∈ g'.pends, q.id = id ∧ ∃ r ∈ pendReqs s id, r.poison = true ∧
          q.fault = some (r.tag, if r.tag = 0xB1 then r.va / 128 * 128 else r.va % 2 ^ 56) ∧
          (∀ r' ∈ pendReqs s id, r'.poison = true → r'.tag ≠ 0x47 → r'.tag ≠ 0x4A →
            r.tag ≠ 0x47 ∧ r.tag ≠ 0x4A ∧ r.tag ≤ r'.tag))

/-- An accepted store's acknowledgement ends its request; an evicted L1 line is gone with its dirty bytes in the die's proxy
slice; an evicted clean proxy line is dropped, and of a dirty one exactly the masked bytes are written at home
(R180, R188, R204, R205). -/
def Sys2Proof.Claims.AcknowledgementsAndEvictions : Prop :=
  (∀ (s : State) (r : Req), reqAt s r.id = some r → r.stage = .accepted → isStore r = true →
    ∃ t, exec (.storeAcknowledgement r.id) s = .next t ∧ (∀ q ∈ t.reqs, q.id ≠ r.id) ∧
      (∀ q ∈ s.reqs, q.id ≠ r.id → ∃ b, { q with fill := b } ∈ t.reqs) ∧ t.mem = s.mem ∧ t.groups = s.groups) ∧
  (∀ (s : State) (core line : Nat) (c : Copy), copyAt (coreAt s core).l1 line = some c →
    (∀ y, proxyAt s (core / 84) line = some y → y.line = line) →
    ∃ t, exec (.l1Eviction core line) s = .next t ∧ copyAt (coreAt t core).l1 line = none ∧
      (c.mask ≠ 0 → ∃ y, proxyAt t (core / 84) line = some y ∧ c.mask &&& ~~~y.mask = 0 ∧
        ∀ i, i < 128 → c.mask.getLsbD i = true → y.data.getD i 0 = c.data.getD i 0) ∧
      t.mem.dirty = s.mem.dirty ∧ t.mem.cellar = s.mem.cellar ∧ t.groups = s.groups) ∧
  (∀ (s : State) (die line p : Nat) (c : Copy), proxyAt s die line = some c →
    (c.mask = 0 → ∃ t, exec (.proxySliceEviction die line) s = .next t ∧ proxyAt t die line = none ∧
      t.mem.dirty = s.mem.dirty ∧ t.mem.cellar = s.mem.cellar) ∧
    (c.mask ≠ 0 → ownerPart s.out.binOwner (binOf (128 * line)) = some p → atHome s p (128 * line) = .ok →
      ∃ t, exec (.proxySliceEviction die line) s = .next t ∧ proxyAt t die line = none ∧ t.groups = s.groups ∧
        (∀ i, i < 128 → homeByte t.mem (128 * line + i) =
          if c.mask.getLsbD i = true then c.data.getD i 0 else homeByte s.mem (128 * line + i)) ∧
        (∀ a, a / 128 ≠ line → homeByte t.mem a = homeByte s.mem a)))

/-- What happens to requests after issue, and to cached lines. -/
def Obligations.RequestsProceed : Prop :=
  HomePerformsRequests ∧ ZeroPageLoads ∧ RetranslationAndWalks ∧ AcknowledgementsAndEvictions

/-! ### Renaming -/

/-- The renaming instructions with the operands that each takes from uniform registers (R237, R240-R245). -/
def Sys2Proof.Claims.mapRows (x : MArgs) (v : Group) : List (Instr × Plan) :=
  let r := fun (n : BitVec 7) (i : Nat) => (sGet v (n.toNat + i)).toNat
  [(.mapCat x, planCat (r x.d 0) (r x.d 1) (r x.a 0) (r x.a 1)),
   (.mapSplit x, planSplit (r x.d 0) (r x.a 0) (r x.a 1) (r x.b 0)),
   (.mapXchg x, planXchg (r x.d 0) (r x.a 0) (r x.b 0)),
   (.mapAlias x, planAlias (r x.d 0) (r x.a 0) (r x.b 0) (x.aop == 1)),
   (.mapDrop x, planDrop (r x.a 0) (r x.b 0)),
   (.mapPerm x, planPerm (r x.d 0) (r x.a 0)
     ((List.range (min (r x.d 0) 64)).map (fun i => elemW 16 (sGet v (x.b.toNat + i / 4)) (i % 4))))]

/-- A renaming instruction that passes its checks is accepted: one uncommitted edit of its scope and operation, with the
frames it needs taken from the pool, and the run goes on; no mapping and no byte changes yet (R223, R239). -/
def Sys2Proof.Claims.RenamingAccepted : Prop :=
  ∀ (x : MArgs) (s : State) (f : Focus) (g : Group), Issues s f g → openAcq s g f.lanes = false →
    ∀ row ∈ mapRows x (seen f g), (row.1 = .mapPerm x → x.b.toNat + ((sGet (seen f g) x.d.toNat).toNat + 3) / 4 ≤ 128) →
      (∀ a ∈ row.2.addrs, a < 2 ^ 56) → row.2.bad = false → row.2.seam = false →
      rangesBusy s (groupCtx s g) ((row.2.mapped ++ row.2.empty).map (fun a => (a, 65536))) (fun _ => true) = false →
      TablesAwake s f g (row.2.pages.map (fun a => (a, 65536))) → mapCause s (gidCore f.gid) (groupCtx s g) row.2 = none →
      (framesNeeded s (groupCtx s g) row.2 = 0 ∨
        ((ctxAt s (groupCtx s g)).pool.heldFrames = [] ∧ poolAsleep s (groupCtx s g) = none)) →
      framesNeeded s (groupCtx s g) row.2 ≤ framesFree s (groupCtx s g) →
      ∃ t e, exec row.1 s = .next t ∧ t.groups = mapPut s.groups f.gid (retire f g) ∧ t.mem = s.mem ∧
        t.sram = s.sram ∧ t.edits = s.edits ++ [e] ∧ e.op = row.2.op ∧ e.scope = x.sc ∧ e.committed = false ∧
        e.upTo = 0 ∧ e.uid = g.uid ∧ e.frames.length = framesNeeded s (groupCtx s g) row.2 ∧
        (ctxAt t (groupCtx s g)).pool.head =
          (ctxAt s (groupCtx s g)).pool.head + BitVec.ofNat 32 (framesNeeded s (groupCtx s g) row.2)

/-- Operands that R238 shuts out are cause 0x51, offsets in the page that do not meet cause 0x50, and a first page that is
not mapped cause 0x40; with too few frames in the pool the group stops with cause 0x54; the mapping is not changed (R232, R239).
That INFO is the first address operand of 0x50 and 0x51 and the page's address of 0x40 is the model's reading, log entry 10. -/
def Sys2Proof.Claims.RenamingRefused : Prop :=
  ∀ (x : MArgs) (s : State) (f : Focus) (g : Group), Issues s f g → Clear f g → openAcq s g f.lanes = false →
    ∀ row ∈ mapRows x (seen f g), (∀ a ∈ row.2.addrs, a < 2 ^ 56) →
      (row.1 = .mapPerm x → x.b.toNat + ((sGet (seen f g) x.d.toNat).toNat + 3) / 4 ≤ 128) →
      (row.2.bad = true → Traps s f 0x51 (row.2.addrs.headD 0) (exec row.1 s)) ∧
      (row.2.bad = false → row.2.seam = true → Traps s f 0x50 (row.2.addrs.headD 0) (exec row.1 s)) ∧
      (row.2.bad = false → row.2.seam = false → s.edits = [] → TablesAwake s f g (row.2.pages.map (fun a => (a, 65536))) →
        (framesNeeded s (groupCtx s g) row.2 = 0 ∨ poolAsleep s (groupCtx s g) = none) →
        (∀ a rest, row.2.mapped = a :: rest → pageEntry s (groupCtx s g) a = none → walkDead s (groupCtx s g) a = none →
          Traps s f 0x40 a (exec row.1 s)) ∧
        (mapCause s (gidCore f.gid) (groupCtx s g) row.2 = none →
          ((ctxAt s (groupCtx s g)).pool.en = false ∨ (ctxAt s (groupCtx s g)).pool.heldFrames = []) →
          framesFree s (groupCtx s g) < framesNeeded s (groupCtx s g) row.2 → exec row.1 s =
            .next (unfocus (stopGroup (clearSkip f s) f.gid f.lanes (causeWord 0x54 0) (epcWord f.pc none) false))))

/-- The renaming instructions, where they are accepted and where they trap. -/
def Obligations.RenamingAcceptedOrRefused : Prop := RenamingAccepted ∧ RenamingRefused

/-- map.query gives a register the mapping of a page once the lanes' edits have committed: 0 where there is none; else bit
11, the generation in bits 63:48, W in bit 10 and ZERO in bit 3 (R246). -/
def Obligations.MapQueryReads : Prop :=
  ∀ (x : MArgs) (s : State) (f : Focus) (g : Group), Issues s f g → NoEdits s g →
    let va := (sGet (seen f g) x.a.toNat).toNat
    va < 2 ^ 56 → TablesAwake s f g [(va, 1)] → walkDead s (groupCtx s g) va = none →
      ∃ s' t w, exec (.mapQuery x) s = .next t ∧ s' = { s with bins := s'.bins } ∧ UniDone s' f g x.d (w, 0) t ∧
      (walk s (groupCtx s g) va = none → w = 0) ∧
      (∀ tr, walk s (groupCtx s g) va = some tr → w.getLsbD 11 = true ∧ (w >>> 48).toNat = tr.gen.toNat ∧
        w.getLsbD 10 = tr.attr.w ∧ w.getLsbD 3 = tr.attr.zero ∧ w.getLsbD 9 = tr.attr.shadow ∧
        w.getLsbD 8 = tr.attr.manual)

/-- The entries above the leaf table on the way of a walk (R233): their addresses. -/
def Sys2Proof.Claims.entriesAbove (m : Mem) (va : Nat) : Nat → Nat → List Nat
  | 0, _ => []
  | level + 1, table =>
    let slot := pteSlot (level + 1) table va
    slot :: entriesAbove m va level (pteAddr (leNat (homeRead m slot 8)))

/-- The leaf entry of a page in its table of 64 KiB leaves, in a bin that the partition reaches (R351). -/
def Sys2Proof.Claims.LeafSlot (s : State) (k va slot : Nat) : Prop :=
  ∃ f b, walkCtx s k va = some (f, b) ∧ f.level = 0 ∧ f.slot = slot ∧ tableMine s k slot = true

/-- Some pages have leaf tables, with an entry for each that is no other's and lies on no other's way. -/
def Sys2Proof.Claims.PagesApart (s : State) (k : Nat) (pages : List Nat) : Prop :=
  ∀ a ∈ pages, ∃ slot, LeafSlot s k a slot ∧
    ∀ c ∈ pages, slot ∉ entriesAbove s.mem c 4 (bitsOf (ctxAt s k).ptbase.toNat 11 41 * 2048) ∧
      (c ≠ a → ¬ LeafSlot s k c slot)

/-- What page va maps after a renaming, from what the pages mapped before (R240-R245, R236): map.cat and map.split move pages
and leave their old places unmapped, map.perm and map.xchg exchange them, map.alias maps them a second time, with W only in the
form .rw, and map.drop leaves ZERO pages with their W. -/
def Sys2Proof.Claims.renamed (op : EditOp) (old : Nat → Option (Nat × Nat)) (va : Nat) : Option (Nat × Nat) :=
  match op with
  | .cat x la y lb =>
    if x + la ≤ va ∧ va < x + la + lb then old (va - (x + la) + y) else if y ≤ va ∧ va < y + lb then none else old va
  | .split x l o z =>
    if z ≤ va ∧ va < z + (l - o) then old (va - z + (x + o)) else if x + o ≤ va ∧ va < x + l then none else old va
  | .perm base list =>
    if base ≤ va ∧ va < base + 65536 * list.length then old (base + 65536 * list.getD ((va - base) / 65536) 0) else old va
  | .xchg a b n =>
    if a ≤ va ∧ va < a + n then old (va - a + b) else if b ≤ va ∧ va < b + n then old (va - b + a) else old va
  | .renameAlias d a n rw =>
    if d ≤ va ∧ va < d + n then
      (old (va - d + a)).map (fun e => (0, if rw then e.2 else e.2 - (if (pteAttr e.2).w then 4 else 0)))
    else old va
  | .drop a n =>
    if a ≤ va ∧ va < a + n then (old va).map (fun e => (0, 3 + (if (pteAttr e.2).w then 4 else 0) + 2 ^ 57)) else old va
  | .install a _ leaf => if va = a then some (0, leaf.toNat) else old va
  | .remove a _ => if va = a then none else old va
  | .zeroPage _ => old va

/-- The pages (64 KiB) that a renaming reads or changes, where its operands are multiples of a page. -/
def Sys2Proof.Claims.opPages (op : EditOp) : List Nat :=
  let run := fun (a n : Nat) => (List.range ((n + 65535) / 65536)).map (fun i => a + 65536 * i)
  match op with
  | .cat x la y lb => run (x + la) lb ++ run y lb
  | .split x l o z => run (x + o) (l - o) ++ run z (l - o)
  | .perm base list => run base (65536 * list.length) ++ list.map (fun i => base + 65536 * i)
  | .xchg a b n => run a n ++ run b n
  | .renameAlias d a n _ => run d n ++ run a n
  | .drop a n => run a n
  | .install a _ _ => [a]
  | .remove a _ => [a]
  | .zeroPage a => [a]

/-- The operands are whole pages of 64 KiB, and as the checks at acceptance have them: sources mapped, destinations not, the
ranges of an exchange apart, an installed leaf valid (R234, R238-R245). -/
def Sys2Proof.Claims.WholePages (s : State) (k : Nat) (op : EditOp) : Prop :=
  let aligned := fun (l : List Nat) => ∀ v ∈ l, v % 65536 = 0
  let mapped := fun (a n : Nat) => ∀ i, 65536 * i < n → pageEntry s k (a + 65536 * i) ≠ none
  let empty := fun (a n : Nat) => ∀ i, 65536 * i < n → pageEntry s k (a + 65536 * i) = none
  match op with
  | .cat x la y lb => aligned [x + la, y] ∧ mapped y lb ∧ empty (x + la) lb
  | .split x l o z => aligned [x + o, z] ∧ mapped (x + o) (l - o) ∧ empty z (l - o)
  | .perm base list => aligned [base] ∧ mapped base (65536 * list.length) ∧ ∀ i ∈ list, i < list.length
  | .xchg a b n => aligned [a, b, n] ∧ mapped a n ∧ mapped b n ∧ (a + n ≤ b ∨ b + n ≤ a)
  | .renameAlias d a n _ => aligned [d, a, n] ∧ mapped a n ∧ empty d n
  | .drop a n => aligned [a, n] ∧ mapped a n
  | .install a size leaf => aligned [a] ∧ size = 65536 ∧ pteV leaf.toNat = true ∧ pteLeaf leaf.toNat = true ∧
      leafOk (feature s (ctxPart k) 5) (feature s (ctxPart k) 9) 0 leaf.toNat = true ∧ (pteAttr leaf.toNat).host = false
  | .remove a size => aligned [a] ∧ size = 65536
  | .zeroPage _ => False

/-- An edit that may commit does. One of whole pages that needs no frame then gives every page that it names, and every other
page whose entries lie apart, the mapping that its operation gives it, all at once (R223-R226, R236, R240-R245). -/
def Sys2Proof.Claims.EditsCommit : Prop :=
  ∀ (s : State) (id : Nat) (e : Edit), editAt s id = some e →
    isZeroEdit e = false → mayCommit s e = true → editAsleep s e = [] →
    ∃ t, exec (.editCommit id) s = .next t ∧ (∃ q ∈ t.edits, q.id = id ∧ q.committed = true ∧ q.op = e.op ∧ q.upTo = 1) ∧
      (∀ u ∈ (coreAt t e.core).tlb, u.ctx = e.ctx → ∀ r ∈ e.ranges, overlaps u.va u.size r.1 r.2 = false) ∧
      ∀ pages, WholePages s e.ctx e.op → e.frames = [] → (∀ a ∈ opPages e.op, a ∈ pages) → PagesApart s e.ctx pages →
        (∀ a ∈ pages, a % 65536 = 0) →
        ∀ a ∈ pages, pageEntry t e.ctx a = renamed e.op (pageEntry s e.ctx) a

/-- A first-written ZERO page's edit commits, and gives the page its frame, filled with zeros (R222, R226); a committed edit
completes at last everywhere, where no core holds a translation of its pages; pages that it makes the host's go back one by one, each
with its bytes and a message, and then it ends (R216, R223, R228-R230, R362). That it completes at one scope after the other is the
model's reading, log entry 28. -/
def Sys2Proof.Claims.EditsComplete : Prop :=
  ∀ (s : State) (id : Nat) (e : Edit), editAt s id = some e →
    (∀ va, e.op = .zeroPage va → e.committed = false →
      rangesBusy s e.ctx e.ranges (fun y => decide (y.id < e.id)) = false →
      zeroNeed s e.ctx [va / 65536] ≤ e.frames.length + framesFree s e.ctx → tableAsleep s e.ctx va = none →
      zeroWaits s e.ctx va (e.frames.headD 0) = false →
      ∃ t, exec (.zeroPageCommit id) s = .next t ∧
        (∃ q ∈ t.edits, q.id = id ∧ q.committed = true) ∧
        (∀ fr w, (partAt s (ctxPart e.ctx)).sevWait = [] → e.frames = [fr] → fr % 65536 = 0 → fr < 2 ^ 52 → va % 65536 = 0 →
          pageEntry s e.ctx va = some (0, w) → (pteAttr w).zero = true → PagesApart s e.ctx [va] →
          (∀ slot, LeafSlot s e.ctx va slot → slot / 65536 ≠ fr / 65536) →
          (∀ q ∈ entriesAbove s.mem va 4 (bitsOf (ctxAt s e.ctx).ptbase.toNat 11 41 * 2048), q / 65536 ≠ fr / 65536) →
          pageEntry t e.ctx va = some (0, w - 2 ^ 57 + fr) ∧
          ∀ i, i < 65536 → homeByte t.mem (fr + i) = 0)) ∧
    (e.committed = true → e.upTo < 3 → ∃ t, exec (.editComplete id) s = .next t ∧
      (∃ q ∈ t.edits, q.id = id ∧ q.upTo = e.upTo + 1) ∧ t.mem = s.mem ∧ t.groups = s.groups ∧
      ∀ c ∈ scopeCores s e (e.upTo + 1), ∀ u ∈ (coreAt t c).tlb, u.ctx = e.ctx →
        ∀ r ∈ e.ranges, overlaps u.va u.size r.1 r.2 = false) ∧
    (e.committed = true → 3 ≤ e.upTo → returnWaits s e = false → ∃ t, exec (.editComplete id) s = .next t ∧
      t.groups = s.groups ∧
      (e.back = [] → (∀ q ∈ t.edits, q.id ≠ id) ∧ t.mem = s.mem ∧
        (e.pte = true → (ctxAt t e.ctx).pteBusy = false ∧ (ctxAt t e.ctx).pteErr = false)) ∧
      (∀ x rest, e.back = x :: rest → (∃ q ∈ t.edits, q.id = id ∧ q.back = rest) ∧
        (∀ i, i < 65536 → mapGet 0 t.out.mem (x.2.1 + i) = homeByte s.mem (x.2.2 + i)) ∧
        ∃ m, (partAt t (ctxPart e.ctx)).msgs = (partAt s (ctxPart e.ctx)).msgs ++ [m] ∧ m.kind = 3 ∧ m.va = x.1) ∧
      ∀ c, ∀ u ∈ (coreAt t c).tlb, u.ctx = e.ctx → ∀ r ∈ e.ranges, overlaps u.va u.size r.1 r.2 = false)

/-- A frame whose mapping count is 0 leaves the caches without write-back and is appended to its context's pool; one that is
mapped again is not released (R231, R232). -/
def Sys2Proof.Claims.FramesReturnToPool : Prop :=
  ∀ (s : State) (frame k fr : Nat), s.mem.releasing.find? (fun e => e.2 == frame) = some (k, fr) →
    (∀ e ∈ s.edits, e.back = []) →
    (mapGet 0 s.mem.counts frame ≠ 0 → ∃ t, exec (.frameRelease frame) s = .next t ∧
      (∀ e ∈ t.mem.releasing, e.2 ≠ frame) ∧ t.mem.dirty = s.mem.dirty ∧ t.ctxs = s.ctxs ∧ t.groups = s.groups) ∧
    (mapGet 0 s.mem.counts frame = 0 → ringRefuses (ctxAt s k).pool = false →
      atHome s (ctxPart k) (poolSlot (ctxAt s k).pool (ctxAt s k).pool.tail) = .ok →
      ∃ t, exec (.frameRelease frame) s = .next t ∧ (∀ e ∈ t.mem.releasing, e.2 ≠ frame) ∧ t.groups = s.groups ∧
        (ctxAt t k).pool.tail = (ctxAt s k).pool.tail + 1 ∧
        homeRead t.mem (poolSlot (ctxAt s k).pool (ctxAt s k).pool.tail) 8 = leBytes 8 (frame * 65536) ∧
        (∀ a, a / 65536 ≠ frame → a < poolSlot (ctxAt s k).pool (ctxAt s k).pool.tail ∨
          poolSlot (ctxAt s k).pool (ctxAt s k).pool.tail + 8 ≤ a → homeByte t.mem a = homeByte s.mem a))

/-- Edits after acceptance, and frames that nothing maps. -/
def Obligations.EditsAndFramesProceed : Prop := EditsCommit ∧ EditsComplete ∧ FramesReturnToPool

/-! ### Puts, gets and engines -/

/-- Byte va of a transfer's local range lies at pa and can be moved: its page passes the checks (R170), and its home serves it. -/
def Sys2Proof.Claims.LocalByte (s : State) (x : Xfer) (va pa : Nat) : Prop :=
  ∃ tr, pieceCheck s x.ctx (coreDie x.core) { write := x.get } va = .ok tr ∧ tr.attr.zero = false ∧ tr.attr.fmt = false ∧
    transPa tr va = pa ∧ remoteManual x.core tr.attr pa = false ∧ atHome s (ctxPart x.ctx) pa = .ok

/-- The same of byte va of its window (R209). -/
def Sys2Proof.Claims.WindowByte (s : State) (x : Xfer) (va pa : Nat) : Prop :=
  winCheck s x.ctx (!x.get) va = none ∧ ∃ tr, walk s x.ctx va = some tr ∧ tr.attr.zero = false ∧ tr.attr.fmt = false ∧
    transPa tr va = pa ∧ atHome s (ctxPart x.ctx) pa = .ok

/-- Every byte of a transfer can be moved, and those that it writes are apart from one another, from those that it reads, and from
the tables on the way of either. -/
def Sys2Proof.Claims.BytesApart (s : State) (x : Xfer) : Prop :=
  let base := winVa (winAt s x.ctx x.win) x.off
  let tables := fun (va : Nat) => entriesAbove s.mem va 4 (bitsOf (ctxAt s x.ctx).ptbase.toNat 11 41 * 2048)
  ∃ loc rem : Nat → Nat, ∀ i, i < x.len →
    LocalByte s x (x.loc + i) (loc i) ∧ WindowByte s x (base + i) (rem i) ∧
    ∀ j, j < x.len →
      let to_ := if x.get = true then loc j else rem j
      rem i ≠ loc j ∧ (i ≠ j → (if x.get = true then loc i else rem i) ≠ to_) ∧
      ∀ va ∈ [x.loc + i, base + i], (∀ q ∈ tables va, to_ < q ∨ q + 8 ≤ to_) ∧
        ∀ q, LeafSlot s x.ctx va q → to_ < q ∨ q + 8 ≤ to_

/-- A transfer within the package has moved its bytes, and changed no other at home. -/
def Sys2Proof.Claims.BytesMoved (s : State) (x : Xfer) (t : State) : Prop :=
  let base := winVa (winAt s x.ctx x.win) x.off
  let dest := fun (i pa : Nat) => if x.get = true then LocalByte s x (x.loc + i) pa else WindowByte s x (base + i) pa
  (∀ i p q, i < x.len → LocalByte s x (x.loc + i) p → WindowByte s x (base + i) q →
    if x.get = true then homeByte t.mem p = homeByte s.mem q else homeByte t.mem q = homeByte s.mem p) ∧
  (∀ a, (∀ i, i < x.len → ¬ dest i a) → homeByte t.mem a = homeByte s.mem a)

/-- A put within the package writes its bytes at the window and raises the window's arrival counter by its length when it arrives,
and its own die's counter when it is acknowledged; a get writes the window's bytes locally and raises the counter
(R166-R168, R212). A copy into a window ends with its acknowledgement, and where a failed page kept bytes from moving its issuing
group receives cause 0x79 (R251, R263). -/
def Obligations.TransfersRaiseCounters : Prop :=
  ∀ (s : State) (id : Nat) (x : Xfer), xferAt s id = some x →
    (∀ i o, x.get = false → x.stage = 1 → x.op = some i → opAt s i = some o →
      ∃ t, exec (.putAcknowledged id) s = .next t ∧ (∀ y ∈ t.xfers, y.id ≠ id) ∧ opAt t i = none ∧ t.mem = s.mem ∧
        mapGet 0 (ctxAt t x.ctx).ctrs (16 * (x.core / 84) + x.ctr) =
          mapGet 0 (ctxAt s x.ctx).ctrs (16 * (x.core / 84) + x.ctr) + BitVec.ofNat 64 x.len ∧
        (o.lost ≠ [] → ∀ g, mapFind s.groups o.gid = some g → g.uid = o.uid →
          ∃ g', mapFind t.groups o.gid = some g' ∧ ∃ c ∈ g'.latched, c.code = 0x79 ∧ c.sup = false)) ∧
    (x.op = none →
    (x.get = false → x.stage = 0 → xferReady s x = true → xferSwitched s x = false → xferAsleep s x = [] →
      winKind (winAt s x.ctx x.win) = 0 → (∀ va ∈ remoteVas s x, needsFrame s x.ctx va = false) → mapFind (ctxAt s x.ctx).wins x.win ≠ none →
      ∃ t, exec (.putArrival id) s = .next t ∧
        (winAt t x.ctx x.win).arrivals = (winAt s x.ctx x.win).arrivals + BitVec.ofNat 64 x.len ∧
        (∃ y ∈ t.xfers, y.id = id ∧ y.stage = 1) ∧ (BytesApart s x → BytesMoved s x t)) ∧
    (x.get = false → x.stage = 1 → ∃ t, exec (.putAcknowledged id) s = .next t ∧ (∀ y ∈ t.xfers, y.id ≠ id) ∧
      t.mem = s.mem ∧ mapGet 0 (ctxAt t x.ctx).ctrs (16 * (x.core / 84) + x.ctr) =
        mapGet 0 (ctxAt s x.ctx).ctrs (16 * (x.core / 84) + x.ctr) + BitVec.ofNat 64 x.len) ∧
    (x.get = true → x.stage = 0 → xferReady s x = true → xferSwitched s x = false → xferAsleep s x = [] →
      (∀ va ∈ localVas x, needsFrame s x.ctx va = false) → (getPieces (xferStart s x) x).2 = false → x.ctx % 256 ≠ 0 →
      ∃ t, exec (.getComplete id) s = .next t ∧ (∀ y ∈ t.xfers, y.id ≠ id) ∧
        mapGet 0 (ctxAt t x.ctx).ctrs (16 * (x.core / 84) + x.ctr) =
          mapGet 0 (ctxAt s x.ctx).ctrs (16 * (x.core / 84) + x.ctr) + BitVec.ofNat 64 x.len ∧
        (winKind (winAt s x.ctx x.win) = 0 → BytesApart s x → BytesMoved s x t)))

/-- The engine instructions with what each asks for (R261, R266, R273). -/
def Sys2Proof.Claims.engineRows (x : EArgs) : List (Instr × Bool × (State → Focus → Group → EngPlan)) :=
  [(.cpG2s x, false, planG2s x), (.cpS2g x, false, planS2g x), (.cpS2s x, false, planS2s x), (.cpMc x, false, planMc x),
   (.cpNet x, false, planNet x), (.cpxTr x, false, planTr x), (.cpxQ4r x, false, planQ4r x), (.cpxDq x, false, planDq x),
   (.cpxZbc x, false, planZbc x), (.cpxZbx x, false, planZbx x), (.mm x, true, planMm x), (.mmLd x, true, planMmLd x),
   (.mmSt x, true, planMmSt x)]

/-- An engine instruction whose checks pass and that finds room registers its operation with its range locks and goes on; it
writes no register and no byte of memory at issue (R248, R278). -/
def Sys2Proof.Claims.EngineOpsRegister : Prop :=
  ∀ (x : EArgs) (s : State) (f : Focus) (g : Group), Issues s f g → openAcq s g f.lanes = false → NoEdits s g →
    ∀ row ∈ engineRows x,
      let p := row.2.2 s f g
      TablesAwake s f g p.vas → p.fails = [] → p.asleep = [] →
      engineRoom s (gidCore f.gid) row.2.1 (p.locks.filter (fun l => !l.cont)).length
        (match p.tx with | some a => p.txTeams.map (fun t => (t, a)) | none => []) = true →
      ∃ t o, exec row.1 s = .next t ∧ t.groups = mapPut s.groups f.gid (retire f g) ∧ t.mem = s.mem ∧
        t.ops = s.ops ++ [o] ∧ o.kind = p.kind ∧ o.press = row.2.1 ∧ o.uid = g.uid ∧ o.tx = p.tx ∧
        (coreAt t (gidCore f.gid)).locks =
          (coreAt s (gidCore f.gid)).locks ++ p.locks.map (fun l => { l with op := o.id })

/-- An engine instruction that fails a check reports the lowest code of those that apply: the supervisor's 0x47 and 0x4A stop the
group at the instruction, any other traps; it registers nothing and changes no byte (R170, R249, R250, R282). -/
def Sys2Proof.Claims.EngineChecksTrap : Prop :=
  ∀ (x : EArgs) (s : State) (f : Focus) (g : Group), Issues s f g → Clear f g → openAcq s g f.lanes = false →
    NoEdits s g → ∀ row ∈ engineRows x,
      let p := row.2.2 s f g
      TablesAwake s f g p.vas → p.asleep = [] → (∀ i, (0x40, i) ∈ p.fails → walkDead s (groupCtx s g) i = none) →
      ∀ c i, (c, i) ∈ p.fails → (∀ e ∈ p.fails, c ≤ e.1) → ∃ j, (c, j) ∈ p.fails ∧
        if c = 0x47 ∨ c = 0x4A then exec row.1 s =
          .next (unfocus (stopGroup (clearSkip f s) f.gid f.lanes (causeWord c j) (epcWord f.pc none) false))
        else Traps s f c j (exec row.1 s)

/-- The engine instructions, where they register an operation and where they trap. -/
def Obligations.EngineOpsRegisterOrTrap : Prop := EngineOpsRegister ∧ EngineChecksTrap

/-- A Press entry that nothing holds up (R276, R334). -/
def Sys2Proof.Claims.EntryReady (s : State) (o : EngOp) : Prop :=
  opAt s o.id = some o ∧ o.press = true ∧ o.done = false ∧ s.ops.any (fun e => entryWaits s e o) = false ∧
    switchHolds s o.ctx o.id (fun _ => (tileLocs o).map (locLines s o.ctx)) = false

/-- A block of an mm: every element of every product receives AccAdd of its C so far, which begins as +0 with ZC and as the
operand buffer's word without, and of BlockValue of the block of row i of A and of column n of B; a product that reads a
poisoned byte is poisoned; the entry is done after the last block (R50-R52, R272, R274). -/
def Sys2Proof.Claims.PressAccumulates : Prop :=
  ∀ (s : State) (o : EngOp) (shape cls k : Nat) (zc : Bool) (a b c : Nat), EntryReady s o →
    o.kind = .mm shape cls k zc a b c →
    let m := mmM shape
    let n := mmN shape
    let tile := fun (at_ all size p : Nat) => tileBytesAt s (engSram s o.team at_ all false) (p * size) size
    let ta := tile a (aBytes shape cls k) (tileBytes cls m k)
    let tb := tile b (bBytes shape cls k) (tileBytes cls n k)
    let c0 := tileBytesAt s (cRef s o.team c) 0 65536
    ∃ t q, exec (.pressEntryExecute o.id) s = .next t ∧ t.mem = s.mem ∧ t.sram = s.sram ∧ t.groups = s.groups ∧
      q ∈ t.ops ∧ q.id = o.id ∧ q.kind = o.kind ∧ q.parts = o.parts ∧ q.block = o.block + 1 ∧
      (q.done = true ↔ k / clsKb cls ≤ o.block + 1) ∧
      (∀ p i j, p < mmProducts shape → i < m → j < n →
        let e := m * n * p + i * n + j
        let old := if o.block ≠ 0 then o.acc.getD e 0 else if zc = true then 0 else
          if e < c0.length / 4 then BitVec.ofNat 32 (numOf ((c0.drop (4 * e)).take 4)) else 0
        let x := tileBlock cls (clsA cls) m k o.block (plain (ta p)) i
        let y := tileBlock cls (clsB cls) n k o.block (plain (tb p)) j
        q.acc[e]? = some (BitVec.ofNat 32 (accAdd old.toNat (blockValue x.1 y.1 (x.2.zip y.2))))) ∧
      (∀ p, p < mmProducts shape → (p ∈ q.bad ↔ anyBad (ta p) = true ∨ anyBad (tb p) = true ∨
        (o.block ≠ 0 ∧ p ∈ o.bad) ∨ (o.block = 0 ∧ zc = false ∧ anyBad ((c0.drop (4 * m * n * p)).take (4 * m * n)) = true)))

/-- The special values of the accumulation, the exact sum otherwise, and the Q4R scale whose NaN is never lost (R50, R51). -/
def Sys2Proof.Claims.BlockArithmetic : Prop :=
  (∀ (sa sb : Val) (ab : List (Val × Val)),
    let infs := fun (neg : Bool) => ab.any (fun p => prodVal sa p.1 sb p.2 == .inf neg)
    ((∃ p ∈ ab, valIsNan sa = true ∨ valIsNan sb = true ∨ valIsNan p.1 = true ∨ valIsNan p.2 = true) →
      blockValue sa sb ab = 0x7FC00000) ∧
    ((∃ p ∈ ab, ∃ x ∈ [sa, p.1, sb, p.2], ∃ y ∈ [sa, p.1, sb, p.2], valIsInf x = true ∧ ∃ n, y = .zero n) →
      blockValue sa sb ab = 0x7FC00000) ∧
    (infs true = true → infs false = true → blockValue sa sb ab = 0x7FC00000) ∧
    ((∀ p ∈ ab, prodNan sa p.1 sb p.2 = false) → infs false = true → infs true = false →
      blockValue sa sb ab = 0x7F800000) ∧
    ((∀ p ∈ ab, prodNan sa p.1 sb p.2 = false) → infs true = true → infs false = false →
      blockValue sa sb ab = 0xFF800000) ∧
    ((∀ p ∈ ab, prodNan sa p.1 sb p.2 = false) → infs true = false → infs false = false →
      let sum := sumFrac (ab.map (fun p => prodVal sa p.1 sb p.2))
      (sum.1 ≠ 0 → blockValue sa sb ab = roundNE fmtF32 (.fin (decide (sum.1 < 0)) sum.1.natAbs sum.2)) ∧
      (sum.1 = 0 → (∀ p ∈ ab, prodVal sa p.1 sb p.2 = .zero true) → blockValue sa sb ab = 0x80000000) ∧
      (sum.1 = 0 → (∃ p ∈ ab, prodVal sa p.1 sb p.2 ≠ .zero true) → blockValue sa sb ab = 0))) ∧
  (∀ c v : Nat, (valIsNan (decodeF fmtF32 c) = true → accAdd c v = c) ∧
    (valIsNan (decodeF fmtF32 c) = false → valIsNan (decodeF fmtF32 v) = true → accAdd c v = v) ∧
    (∀ n, decodeF fmtF32 c = .inf n → decodeF fmtF32 v = .inf (!n) → accAdd c v = 0x7FC00000)) ∧
  (∀ x y : Val, valIsNan x = true ∨ valIsNan y = true → valIsNan (scaleMul x y) = true)

/-- mm.ld takes every element of its memory tile as an f32 code, with the elements that are poisoned or whose page is lost; mm.st
takes C as it lies in the operand buffer (R272-R274). -/
def Sys2Proof.Claims.PressTiles : Prop :=
  ∀ (s : State) (o : EngOp), EntryReady s o → (tileLocs o).filterMap (locAsleep s o.ctx) = [] →
    (∀ shape ty glob tile stride c, o.kind = .mmLd shape ty glob tile stride c →
      let n := mmN shape
      let e := tyWidth ty / 8
      let el := fun (i : Nat) => (List.range e).map (fun j =>
        readLoc s o.ctx (coreDie o.core) { engine := true }
          (let a := tile + i / n * stride + i % n * e + j
           if glob = true then .glob a else srcLoc s o.team a 0))
      ∃ t q, exec (.pressEntryExecute o.id) s = .next t ∧ t.sram = s.sram ∧ q ∈ t.ops ∧ q.id = o.id ∧ q.done = true ∧
        q.kind = o.kind ∧ q.parts = o.parts ∧
        ∀ i, i < mmRows shape * n →
          (∀ bs, el i = bs.map some → q.acc[i]? = some (BitVec.ofNat 32 (cvtToF32 (tyFmt ty) (numOf bs))) ∧ i ∉ q.lost ∧
            (i ∈ q.bad ↔ anyBad bs = true)) ∧
          (none ∈ el i → i ∈ q.lost)) ∧
    (∀ shape ty rnd sat glob tile stride c, o.kind = .mmSt shape ty rnd sat glob tile stride c →
      let c0 := tileBytesAt s (cRef s o.team c) 0 65536
      ∃ t q, exec (.pressEntryExecute o.id) s = .next t ∧ t.mem = s.mem ∧ t.sram = s.sram ∧ t.groups = s.groups ∧
        q ∈ t.ops ∧ q.id = o.id ∧ q.done = true ∧ q.kind = o.kind ∧ q.parts = o.parts ∧
        ∀ i, i < c0.length / 4 → q.acc[i]? = some (BitVec.ofNat 32 (numOf ((c0.drop (4 * i)).take 4))) ∧
          (i ∈ q.bad ↔ anyBad ((c0.drop (4 * i)).take 4) = true))

/-- What each operation's bytes are: a copy's byte is the source's at the same offset; element (i, j) of a transpose stands at
row j, column i, code for code; a quantised block is QuantQ4R of its 64 elements under the row's scale; a dequantised element is
rounded to nearest; an mm or mm.ld stores its words, and mm.st its words encoded in T (R262, R267-R269, R272, R274). -/
def Sys2Proof.Claims.BytesMade : Prop :=
  ∀ (s : State) (o : EngOp),
    (∀ src dst len off b mask,
      (∀ kd ∈ [OpKind.g2s src dst len, .mc src dst len mask, .zbx src dst len], kindReads s o.team kd 0 0 off = [.glob (src + off)]) ∧
      (∀ kd ∈ [OpKind.s2g src dst len, .s2s src dst len, .zbc src dst len],
        kindReads s o.team kd 0 0 off = [srcLoc s o.team src off]) ∧
      (o.kind ∈ [OpKind.g2s src dst len, .mc src dst len mask, .zbx src dst len, .s2g src dst len, .s2s src dst len,
        .zbc src dst len] → (kindByte o 0 0 off [b]).1 = b)) ∧
    (∀ src dst r i j c b, o.kind = .tr src dst r → i < r.rows → j < r.cols → c < tyWidth r.ety / 8 →
      let off := (j * r.rows + i) * (tyWidth r.ety / 8) + c
      kindReads s o.team o.kind 0 0 off = [.glob (src + i * r.rstride + j * (tyWidth r.ety / 8) + c)] ∧
        (kindByte o 0 0 off [b]).1 = b) ∧
    (∀ src dst ty r row blk, o.kind = .q4r src dst ty r →
      let e := tyWidth ty / 8
      let locs := srcLocs s o.team src ((row * r.cols + 64 * blk) * e) (64 * e) ++ globLocs (dst + r.rsoff + 2 * row) 2
      kindReads s o.team o.kind 1 row blk = locs ∧
      (∀ i, i < 32 → kindReads s o.team o.kind 0 row (32 * blk + i) = locs) ∧
      ∀ bs : List PByte, bs.length = 64 * e + 2 →
        let xs := (List.range 64).map (fun j => decodeF (tyFmt ty) (numOf ((bs.drop (e * j)).take e)))
        let q := quantQ4R xs (decodeF fmtBf16 (numOf (bs.drop (64 * e))))
        (kindByte o 1 row blk bs).1 = (BitVec.ofNat 8 q.1, anyBad bs) ∧
        ∀ i, i < 32 → (kindByte o 0 row (32 * blk + i) bs).1 =
          (BitVec.ofNat 8 (q.2.1.getD (2 * i) 0 + 16 * q.2.1.getD (2 * i + 1) 0), anyBad bs)) ∧
    (∀ src dst ty r y x c q sub r0 r1, o.kind = .dq src dst ty r → x < r.cols → c < tyWidth ty / 8 →
      let off := (y * r.cols + x) * (tyWidth ty / 8) + c
      kindReads s o.team o.kind 0 0 off = [.glob (src + y * r.rstride + x / 2), .glob (src + r.suboff + y * r.substride + x / 64),
        .glob (src + r.rsoff + 2 * y), .glob (src + r.rsoff + 2 * y + 1)] ∧
      (kindByte o 0 0 off [q, sub, r0, r1]).1 = (BitVec.ofNat 8 ((encodeF (tyFmt ty) .rn false
        (q4rVal (q.1.toNat / 16 ^ (x % 2) % 16) sub.1.toNat (r0.1.toNat + 256 * r1.1.toNat))).1 / 256 ^ c),
        q.2 || sub.2 || r0.2 || r1.2)) ∧
    (∀ i c, c < 4 →
      (∀ shape cls k zc a b d, o.kind = .mm shape cls k zc a b d → (kindByte o 0 0 (4 * i + c) []).1.1 =
        BitVec.ofNat 8 ((o.acc.getD i 0).toNat / 256 ^ c)) ∧
      (∀ shape ty glob tile st d, o.kind = .mmLd shape ty glob tile st d → (kindByte o 0 0 (4 * i + c) []).1 =
        (BitVec.ofNat 8 ((o.acc.getD i 0).toNat / 256 ^ c), o.bad.contains i))) ∧
    (∀ shape ty rnd sat glob tile st d row j c, o.kind = .mmSt shape ty rnd sat glob tile st d → c < tyWidth ty / 8 →
      let e := row * mmN shape + j
      (kindByte o 0 row (j * (tyWidth ty / 8) + c) []).1 = (BitVec.ofNat 8 ((encodeF (tyFmt ty) (if rnd = .dflt then .rn else rnd)
        sat (decodeF fmtF32 (o.acc.getD e 0).toNat)).1 / 256 ^ c), o.bad.contains e))

/-- A part of an operation that may arrive: its bins are awake, its pages have their frames, its queue sends and no cellar switch
moves its lines (R222, R251, R334). -/
def Sys2Proof.Claims.PartReady (s : State) (o : EngOp) (part : Nat) (p : Part) : Prop :=
  opAt s o.id = some o ∧ o.parts[part]? = some p ∧ o.done = true ∧ partHeld s o = false ∧
    switchHolds s o.ctx o.id (fun _ => (partLocs s o p).map (locLines s o.ctx)) = false ∧
    (partLocs s o p).filterMap (locAsleep s o.ctx) = [] ∧ ∀ va ∈ partPages s o p, needsFrame s o.ctx va = false

/-- The bytes that byte e of a part is made from: what an earlier part of a cp.mc or a cp.net has read at its offset (R254, R262),
else what its places hold now. -/
def Sys2Proof.Claims.ReadNow (s : State) (o : EngOp) (e : Nat × Nat × Nat × Nat) : List (Option PByte) :=
  match mapFind o.read e.2.2.2 with
  | some v => [v]
  | none => (kindReads s o.team o.kind e.2.1 e.2.2.1 e.2.2.2).map (readLoc s o.ctx (coreDie o.core) (kindUse o.kind false))

/-- Byte e of a part (address, role, row, offset) can be moved, and is b. -/
def Sys2Proof.Claims.Moved (s : State) (o : EngOp) (e : Nat × Nat × Nat × Nat) (b : Byte) : Prop :=
  o.lost.contains (e.2.2.2 / 4) = false ∧
    ∃ bs, b = (kindByte o e.2.1 e.2.2.1 e.2.2.2 bs).1.1 ∧ ReadNow s o e = bs.map some

/-- The frame byte that the global destination address va of an operation names, where its page passes the checks. -/
def Sys2Proof.Claims.FrameByte (s : State) (o : EngOp) (va pa : Nat) : Prop :=
  ∃ tr, pieceCheck s o.ctx (coreDie o.core) (kindUse o.kind true) va = .ok tr ∧ tr.attr.zero = false ∧ transPa tr va = pa ∧
    atHome s (ctxPart o.ctx) pa = .ok

/-- A part arrives: it leaves the operation's list, its bytes are written at their places and its count reaches the word; bytes
that could not be moved set ERR and give the issuing group cause 0x79; in the scratchpad nothing else is written, and home memory
keeps every byte that is no part of a global destination. A part of a cp.mc or a cp.net keeps what it has read, and a message
of cp.net leaves whole with its last part, each byte as its own part read it (R251, R254, R262, R264, R270). -/
def Sys2Proof.Claims.PartsArrive : Prop :=
  ∀ (s : State) (o : EngOp) (part : Nat) (p : Part), PartReady s o part p →
    let key := fun (a : Nat) => sramByte s (teamAt s p.team) (bitsOf a 20 1 == 1) (a % 2 ^ 20)
    let wordOf := fun (r : SramRef) => ∃ a, o.tx = some a ∧
      txRef s (if o.txTeams.contains p.team = true then p.team else o.txTeams.headD 0) false a = some r
    let net := ∃ a q n, o.kind = .net a q n
    ∃ t, exec (.enginePartArrival o.id part) s = .next t ∧
      (∃ q ∈ t.ops, q.id = o.id ∧ q.parts = o.parts.eraseIdx part ∧ q.kind = o.kind ∧
        (net ∨ (∃ a b n m, o.kind = .mc a b n m) → ∀ e ∈ partBytes s o p, ∀ v, ReadNow s o e = [v] →
          mapFind q.read e.2.2.2 = some v)) ∧
      (∀ r, wordOf r → txLive s r = true → (txRead s r).state = 1 → (txRead s r).arrived + p.len < (txRead s r).target →
        (txRead t r).arrived = (txRead s r).arrived + p.len ∧ (txRead t r).state = 1 ∧ (txRead t r).gen = (txRead s r).gen) ∧
      (∀ g, mapFind s.groups o.gid = some g → g.uid = o.uid → (∃ e ∈ partBytes s o p, ∀ b, ¬ Moved s o e b) →
        (∃ g', mapFind t.groups o.gid = some g' ∧ ∃ c ∈ g'.latched, c.code = 0x79 ∧ c.sup = false) ∧
        ∀ r, wordOf r → txLive s r = true → (txRead t r).flags.testBit 7 = true) ∧
      (p.team ≠ 0 → ∀ a, (∀ r, wordOf r → ∀ i, i < 32 → sramByte s (teamAt s r.team) r.ob (r.off + i) ≠ some a) →
        (∀ e b, e ∈ partBytes s o p → key e.1 = some a → (∀ d ∈ partBytes s o p, key d.1 = some a → d = e) →
          sramLive s (teamAt s p.team) (bitsOf e.1 20 1 == 1) (e.1 % 2 ^ 20) 1 = false → Moved s o e b →
          sramGet t (some a) = b) ∧
        ((∀ e ∈ partBytes s o p, key e.1 ≠ some a) → sramGet t (some a) = sramGet s (some a))) ∧
      ((∃ g, mapFind s.groups o.gid = some g ∧ g.uid = o.uid) → (∀ l ∈ partReads s o p, locFabric s o.ctx l = none) →
        (p.team ≠ 0 → ∀ a, homeByte t.mem a = homeByte s.mem a) ∧
        (p.team = 0 → ¬ net → (∀ x y z, o.kind = .zbc x y z → y % 128 = 0 ∧ z % 128 = 0 ∧ p.lo % 128 = 0 ∧ p.hi % 128 = 0 ∧ o.lost = []) →
          (∀ e ∈ partBytes s o p, ∃ pa, FrameByte s o e.1 pa ∧ ∀ d ∈ partBytes s o p,
            (d ≠ e → ¬ FrameByte s o d.1 pa) ∧ (∀ q ∈ entriesAbove s.mem d.1 4 (bitsOf (ctxAt s o.ctx).ptbase.toNat 11 41 * 2048),
              pa < q ∨ q + 8 ≤ pa) ∧ ∀ q, LeafSlot s o.ctx d.1 q → pa < q ∨ q + 8 ≤ pa) →
          (∀ e ∈ partBytes s o p, ∀ b pa, Moved s o e b → FrameByte s o e.1 pa → homeByte t.mem pa = b) ∧
          ∀ a, (∀ e ∈ partBytes s o p, ¬ FrameByte s o e.1 a) → homeByte t.mem a = homeByte s.mem a)) ∧
      (∀ src q len, o.kind = .net src q len → o.parts.length = 1 → o.bad = [] →
        let is := fun (i : Nat) (b : Byte) => mapFind o.read i = some (some (b, false)) ∨ (mapFind o.read i = none ∧
          (∃ e ∈ partBytes s o p, e.2.2.2 = i) ∧ readLoc s o.ctx (coreDie o.core) {} (srcLoc s o.team src i) = some (b, false))
        (∀ i, i < len → ∃ b, is i b) →
        ∃ m, t.out.ue = s.out.ue ++ [m] ∧ m.part = ctxPart o.ctx ∧ m.queue = q ∧
          ∀ i b, i < len → is i b →
            ∃ k ∈ m.packets, k.off ≤ i ∧ k.data[i - k.off]? = some b)

/-- An operation with no part left gives its locks and its slot back (R248). -/
def Sys2Proof.Claims.OperationsComplete : Prop :=
  ∀ (s : State) (id : Nat) (o : EngOp), opAt s id = some o → o.done = true → o.parts = [] →
    ∃ t, exec (.engineOperationComplete id) s = .next t ∧ (∀ q ∈ t.ops, q.id ≠ id) ∧
      (∀ l ∈ (coreAt t o.core).locks, l.op ≠ id) ∧ t.mem = s.mem ∧ t.groups = s.groups

/-- Press entries, the parts of operations with their bytes, and completion. -/
def Obligations.EngineOpsProceed : Prop :=
  PressAccumulates ∧ BlockArithmetic ∧ PressTiles ∧ BytesMade ∧ PartsArrive ∧ OperationsComplete

/-! ### Transaction words -/

/-- tx.init arms a word that was not live and tags its granule; tx.aim arms a complete word again; tx.arrive that stays below
the target adds its count, and at the target the word completes, its GEN rises and its waiters go on (R254, R256-R258). -/
def Sys2Proof.Claims.TxWordsArmAndArrive : Prop :=
  ∀ (x : R3L) (s : State) (f : Focus) (g : Group) (r : SramRef), Issues s f g → openAcq s g f.lanes = false →
    NoEdits s g →
    let a := (sGet (seen f g) x.a.toNat).toNat
    let b := (sGet (seen f g) x.b.toNat).toNat
    let w := txRead s r
    (txRef s g.team false a = some r → txLocked s f r = false → b % 2 ^ 24 ≠ 0 → b / 2 ^ 24 % 256 = 0 → b < 2 ^ 53 →
      txLive s r = false →
      exec (.txInit x) s = .next (retired f g (setPoison (setLive (txWrite s r
        { target := b % 2 ^ 24, arrived := 0, gen := 0, state := 1, flags := 0, infl := 0, base := b / 2 ^ 32 % 2 ^ 21,
          chunk := 0 }) true (txGranule s r)) false (txGranule s r)))) ∧
    (txRef s g.team false a = some r → txLive s r = true → w.state = 2 → b ≠ 0 → b < 2 ^ 24 →
      exec (.txAim x) s = .next (retired f g (txWrite s r
        { w with target := b, arrived := 0, flags := 0, chunk := 0, state := 1 }))) ∧
    (txRef s g.team true a = some r → txLive s r = true → b ≠ 0 → b < 2 ^ 24 → w.state = 1 → w.arrived + b < 2 ^ 32 →
      releaseWaits s f.gid g f.lanes .clu = false → NoDirty s →
      (w.arrived + b < w.target →
        exec (.txArrive x) s = .next (unfocus (updGroup (wakeTx (txWrite s r { w with arrived := w.arrived + b }) r)
          f.gid (retire f)))) ∧
      (w.arrived + b = w.target →
        exec (.txArrive x) s = .next (unfocus (updGroup (wakeTx (txWrite s r
          { w with arrived := w.arrived + b, gen := (w.gen + 1) % 2 ^ 16, state := 2 }) r) f.gid (retire f)))))

/-- tx.wait goes on with the word's status when the generation has changed or the chunks asked for are there, and blocks
otherwise; tx.test always goes on and says in bit 32 which it found; tx.drop clears the tag; an address that names no live
word is cause 0x76 (R253, R259, R260). -/
def Sys2Proof.Claims.TxWaitsAndDrops : Prop :=
  ∀ (x : R3L) (s : State) (f : Focus) (g : Group), Issues s f g → openAcq s g f.lanes = false → NoEdits s g →
    let v := seen f g
    let a := (sGet v x.a.toNat).toNat
    let gen := (sGet v x.d.toNat).toNat
    let mask := (sGet v x.b.toNat).toNat + (sGet v (x.b.toNat + 1)).toNat * 2 ^ 64
    (∀ r, txRef s g.team false a = some r → txLive s r = true → (txRead s r).state ≠ 3 → gen < 2 ^ 16 →
      (((txRead s r).gen ≠ gen ∨ (mask ≠ 0 ∧ Nat.land (txRead s r).chunk mask = mask)) →
        ∀ i ∈ [Instr.txWait x, Instr.txTest x], ∃ t g', exec i s = .next t ∧ t.groups = mapPut s.groups f.gid g' ∧
          g' = { retire f g with sregs := g'.sregs } ∧ sGet g' x.d.toNat = txStatus (txRead s r) true ∧
          (∀ n, n ≠ x.d.toNat → sGet g' n = sGet g n) ∧ t.sram = s.sram ∧ t.mem = s.mem) ∧
      ((txRead s r).gen = gen → (mask = 0 ∨ Nat.land (txRead s r).chunk mask ≠ mask) →
        (∃ t, exec (.txTest x) s = .next t ∧ UniDone s f g x.d (txStatus (txRead s r) false, 0) t) ∧
        exec (.txWait x) s = .next (unfocus (putGroup s f.gid { g with blocks := Block.mk f.lanes f.pc f.npc (.tx r.team (txAddr r) (BitVec.ofNat 16 gen) (BitVec.ofNat 128 mask) x.d) :: g.blocks })))) ∧
    (∀ r, txRef s g.team false a = some r → txLive s r = true → txLocked s f r = false → (txRead s r).infl = 0 →
      exec (.txDrop x) s = .next (unfocus (updGroup (trapWaiters (setLive s false (txGranule s r)) r 0x75)
        f.gid (retire f)))) ∧
    (Clear f g → (∀ r, txRef s g.team false a = some r → txLive s r = false ∧ txLocked s f r = false) →
      ∀ i ∈ [Instr.txAim x, Instr.txWait x, Instr.txTest x, Instr.txDrop x], Traps s f 0x76 (a % 2 ^ 56) (exec i s))

/-- The transaction-word instructions. -/
def Obligations.TransactionWords : Prop := TxWordsArmAndArrive ∧ TxWaitsAndDrops

/-! ### Across lanes, and the codebook -/

/-- In the group g', vector register d of the lanes that satisfy act holds val, and every other lane-register is as in g. -/
def Sys2Proof.Claims.Wrote (f : Focus) (g g' : Group) (d : BitVec 7) (act : Nat → Prop) (val : Nat → Word) : Prop :=
  ∀ l, l < 32 → (act l → vGet g' (vReg (seen f g) d) l = val l) ∧
    ∀ j, (¬ act l ∨ j ≠ vReg (seen f g) d) → vGet g' j l = vGet g j l

/-- shfl and bcast bring each active lane its elements by the lane addresses of the lane's own b, or for shfl of the uniform b of
major 0x1F, with zero and STALE where a source lane has
exited; bcast to a uniform register takes one lane's whole register (R110-R113). -/
def Sys2Proof.Claims.ShufflesAndBroadcasts : Prop :=
  ∀ (x : XArgs) (s : State) (f : Focus) (g : Group), Issues s f g →
    let v := seen f g
    let n := tyCount x.ty
    let mode := x.imm.toNat % 4
    let adr := fun l => (if x.form = .m then sGet v x.b.toNat else readV v x.b l).toNat % 512
    let src := fun l k => shflElem x.ty v mode x.a (readV v x.a l) (readV v x.c l) (adr l) l k
    let one := fun l => if n ≤ adr l % 16 then (0, true) else readFlat x.ty v x.a (adr l / 16 * n + adr l % 16)
    (x.form ≠ .s → InAllot v [x.d, x.a] → (x.form = .v → InAllot v [x.b]) → (mode = 1 → InAllot v [x.c]) →
      ∃ g', exec (.shfl x) s = .next (unfocus (putGroup s f.gid g')) ∧
        g' = { retire f g with vregs := g'.vregs, stale := g'.stale } ∧
        Wrote f g g' x.d (IsActive f v x.neg x.p) (fun l => packElems x.ty ((List.range n).map (fun k => (src l k).1))) ∧
        ∀ l, l < 32 → (g'.stale.getLsbD l = true ↔ g.stale.getLsbD l = true ∨
          (IsActive f v x.neg x.p l ∧ ∃ k, k < n ∧ (src l k).2 = true))) ∧
    (x.form = .v → InAllot v [x.d, x.a, x.b] →
      ∃ g', exec (.bcast x) s = .next (unfocus (putGroup s f.gid g')) ∧
        g' = { retire f g with vregs := g'.vregs, stale := g'.stale } ∧
        Wrote f g g' x.d (IsActive f v x.neg x.p) (fun l => splat x.ty (one l).1) ∧
        ∀ l, l < 32 → (g'.stale.getLsbD l = true ↔ g.stale.getLsbD l = true ∨
          (IsActive f v x.neg x.p l ∧ (one l).2 = true))) ∧
    (x.form = .m → InAllot v [x.a] → ∃ g', exec (.bcast x) s = .next (unfocus (putGroup s f.gid g')) ∧
      g' = { retire f g with sregs := g'.sregs,
                             stale := if v.exited.getLsbD x.imm.toNat = true then g.stale ||| f.lanes else g.stale } ∧
      sGet g' x.b.toNat = (if v.exited.getLsbD x.imm.toNat = true then 0 else readV v x.a x.imm.toNat) ∧
      ∀ i, i ≠ x.b.toNat → sGet g' i = sGet g i)

/-- ballot gives the mask of the active lanes whose predicate is 1, vote compares their number or the number of the others
with a count (R114). -/
def Sys2Proof.Claims.BallotsAndVotes : Prop :=
  ∀ (x : XArgs) (s : State) (f : Focus) (g : Group), Issues s f g →
    let v := seen f g
    let yes := (Finset.range 32).filter (fun l => f.lanes.getLsbD l = true ∧ pGet v x.p.toNat l ≠ x.neg ∧
      pGet v (x.c.toNat % 8) l = true)
    let no := (Finset.range 32).filter (fun l => f.lanes.getLsbD l = true ∧ pGet v x.p.toNat l ≠ x.neg ∧
      pGet v (x.c.toNat % 8) l = false)
    let m : Word := BitVec.ofNat 64 (yes.sum (fun l => 2 ^ l))
    let r := condI (x.aux.toNat % 8) ((if x.aux.getLsbD 3 = true then no.card else yes.card : Nat) : Int) (x.imm.toNat : Int)
    (x.form = .m → ∃ t, exec (.ballot x) s = .next t ∧ UniDone s f g x.b (m, 0) t) ∧
    (x.form ≠ .m → InAllot v [x.d] → ∃ t, exec (.ballot x) s = .next t ∧
      VecDone s f g x.d (IsActive f v x.neg x.p) (fun _ => (m, 0)) t) ∧
    (x.form = .m → ∃ t, exec (.vote x) s = .next t ∧ UniDone s f g x.b (if r then 1 else 0, 0) t) ∧
    (x.form ≠ .m → ∃ g', exec (.vote x) s = .next (unfocus (putGroup s f.gid g')) ∧
      g' = { retire f g with preds := g'.preds } ∧
      ∀ n l, n < 8 → l < 32 → pGet g' n l =
        if n ≠ 0 ∧ n = x.d.toNat % 8 ∧ f.lanes.getLsbD l = true ∧ pGet v x.p.toNat l ≠ x.neg then r else pGet g n l)

/-- What redCodes makes of codes in flat order: integer sums wrap or saturate the exact sum, min and max pick the least and the
greatest, the bitwise operations go bit by bit; a floating-point sum is exact and encoded once, with the first NaN, and a default NaN
where both infinities meet; fmin and fmax go left to right. Without a code each gives its identity (R41-R43, R115). -/
def Sys2Proof.Claims.CombinationsOfCodes : Prop :=
  ∀ (x : XArgs) (cs : List Nat), (∀ c ∈ cs, c < 2 ^ tyWidth x.ty) →
    let w := tyWidth x.ty
    let i := intVal (tySigned x.ty) w
    let lo : ℤ := if tySigned x.ty then -(2 ^ (w - 1)) else 0
    let hi : ℤ := if tySigned x.ty then 2 ^ (w - 1) - 1 else 2 ^ w - 1
    let r := redCodes x cs
    let op := x.imm.toNat % 8
    let ones := fun (b : Nat) => (cs.filter (fun c => c.testBit b)).length
    (tyIsInt x.ty = true → r.1 < 2 ^ w ∧
      (op = 0 → let sum := (cs.map i).sum
        (r.1 : ℤ) = (if x.sat then max lo (min hi sum) else sum) % 2 ^ w ∧
          r.2 = (if x.sat = true ∧ (sum < lo ∨ hi < sum) then flSAT else 0)) ∧
      (op = 1 → (∀ c ∈ cs, i r.1 ≤ i c) ∧ (cs = [] → i r.1 = hi) ∧ (cs ≠ [] → r.1 ∈ cs) ∧ r.2 = 0) ∧
      (op = 2 → (∀ c ∈ cs, i c ≤ i r.1) ∧ (cs = [] → i r.1 = lo) ∧ (cs ≠ [] → r.1 ∈ cs) ∧ r.2 = 0) ∧
      (∀ b < w, (op = 3 → r.1.testBit b = decide (ones b = cs.length)) ∧ (op = 4 → r.1.testBit b = decide (ones b ≠ 0)) ∧
        (op = 5 → r.1.testBit b = decide (ones b % 2 = 1)))) ∧
    (tyIsFloat x.ty = true →
      let f := tyFmt x.ty
      let m := if x.rnd = .dflt then .rn else x.rnd
      let v := fun (c : Nat) => decodeF f c
      let zeroNeg := decide (cs ≠ [] ∧ ((∀ c ∈ cs, v c = .zero true) ∨ (m = .rm ∧ 1 < cs.length)))
      ((∃ c ∈ cs, valIsSnan (v c) = true) → r.2.getLsbD 0 = true) ∧
      (op = 0 →
        (∀ pre c post, cs = pre ++ c :: post → (∀ d ∈ pre, valIsNan (v d) = false) → valIsNan (v c) = true → r.1 = c) ∧
        ((∀ c ∈ cs, IsFinite (v c)) → Exactly f m x.sat (cs.map (fun c => valQ (v c))).sum zeroNeg r.1) ∧
        ((∀ c ∈ cs, valIsNan (v c) = false) → ∀ n, (∃ c ∈ cs, v c = .inf n) →
          ((∃ c ∈ cs, v c = .inf (!n)) → r.1 = defaultNan f ∧ r.2.getLsbD 0 = true) ∧
          ((∀ c ∈ cs, v c ≠ .inf (!n)) → x.sat = false → v r.1 = .inf n))) ∧
      (op = 1 ∨ op = 2 →
        (cs = [] → valNeg (v r.1) = decide (op = 2) ∧ (f.inf = true → valIsInf (v r.1) = true) ∧
          (f.inf = false → r.1 % 2 ^ (f.eb + f.m) = f.max)) ∧
        (∀ c, cs = [c] → r.1 = c) ∧
        (∀ c d rest, cs = c :: d :: rest → r.1 =
          (redCodes x (elemN x.ty (fminOp [] x.ty (decide (op = 2)) (BitVec.ofNat 64 c) (BitVec.ofNat 64 d)).1 0 :: rest)).1)))

/-- gred combines the elements of the active lanes in flat order into every element of d or of a uniform register; gscan
gives each element its prefix, with or without itself; match gives each lane the leader, the number and the rank of the
active lanes with its code (R115, R116). -/
def Sys2Proof.Claims.ScansReductionsMatches : Prop :=
  ∀ (x : XArgs) (s : State) (f : Focus) (g : Group), Issues s f g →
    let v := seen f g
    let lanes := lanesOf (active f v x.neg x.p)
    let all := flatCodes x.ty v x.a lanes
    let n := tyCount x.ty
    (x.form = .m → InAllot v [x.a] → ∃ t, exec (.gred x) s = .next t ∧
      UniDone s f g x.b (splat x.ty (redCodes x all).1, (redCodes x all).2) t) ∧
    (x.form ≠ .m → InAllot v [x.d, x.a] → ∃ t, exec (.gred x) s = .next t ∧
      VecDone s f g x.d (IsActive f v x.neg x.p) (fun _ => (splat x.ty (redCodes x all).1, (redCodes x all).2)) t) ∧
    (InAllot v [x.d, x.a] → ∃ t, exec (.gscan x) s = .next t ∧
      VecDone s f g x.d (IsActive f v x.neg x.p) (fun l =>
        let j := (lanes.filter (fun m => decide (m < l))).length
        let rs := (List.range n).map (fun k =>
          redCodes x (all.take (j * n + k + (if x.imm.getLsbD 3 = true then 0 else 1))))
        (packElems x.ty (rs.map (·.1)), rs.foldl (fun fl r => fl ||| r.2) 0)) t) ∧
    (InAllot v [x.d, x.a] → ∃ t, exec (.matchEq x) s = .next t ∧
      VecDone s f g x.d (IsActive f v x.neg x.p) (fun l =>
        let same := lanes.filter (fun m => elemN x.ty (readV v x.a m) (x.imm.toNat % 16) ==
          elemN x.ty (readV v x.a l) (x.imm.toNat % 16))
        (BitVec.ofNat 64 (same.headD 0 * 2 ^ 48 + same.length * 2 ^ 32 + (same.filter (fun m => decide (m < l))).length),
          0)) t)

/-- Ballots, votes, reductions, scans and matches. -/
def Obligations.CrossLaneCombinations : Prop := BallotsAndVotes ∧ ScansReductionsMatches ∧ CombinationsOfCodes

/-- cbld loads the quarters of its mask from consecutive uniform registers and leaves the others; cbrd reads a quarter into
the four elements of a register (R107, R108). -/
def Sys2Proof.Claims.CodebookMoves : Prop :=
  ∀ (x : XArgs) (s : State) (f : Focus) (g : Group), Issues s f g →
    (∃ g', exec (.cbld x) s = .next (unfocus (putGroup s f.gid g')) ∧ g' = { retire f g with codebook := g'.codebook } ∧
      ∀ q i, q < 4 → i < 4 → mapGet 0 g'.codebook (4 * q + i) =
        if x.imm.getLsbD q = true then BitVec.ofNat 16 ((sGet (seen f g) (x.a.toNat + q)).toNat / 2 ^ (16 * i))
        else mapGet 0 g.codebook (4 * q + i)) ∧
    (Fits x.form (seen f g) [x.d] [] → ∃ t, exec (.cbrd x) s = .next t ∧
      RegDone x.form s f g x.neg x.p x.d (fun _ => (packElems .bf16 ((List.range 4).map (fun i =>
        (mapGet 0 (seen f g).codebook (4 * (x.imm.toNat % 4) + i)).toNat)), 0)) t)

/-- Shuffles, broadcasts, and the moves of the codebook. -/
def Obligations.ShufflesAndCodebookMoves : Prop := ShufflesAndBroadcasts ∧ CodebookMoves

/-! ### The Trellis: instructions -/

/-- Ridge: arrive gives the barrier's generation and counts the group, join and leave record it for the next generation, leave with
its arrival where it has not arrived; wait blocks while the generation is its token's and goes on once it has changed. Another name,
or a token above 32 bits, is cause 0x7C, a group that is no member, or arrives, joins or leaves twice, cause 0x7D (R319). INFO 0 of
both is log entry 10. -/
def Sys2Proof.Claims.RidgeBarriers : Prop :=
  ∀ (x : R3L) (s : State) (f : Focus) (g : Group), Issues s f g → openAcq s g f.lanes = false → NoEdits s g → NoDirty s →
    let name := (sGet (seen f g) x.a.toNat).toNat
    let b := barAt s g.team name
    let tok := sGet (seen f g) x.b.toNat
    (Clear f g → ridgeNameBad s g name = true → ∀ i ∈ [Instr.ridgeArrive x, .ridgeWait x, .ridgeJoin x, .ridgeLeave x],
      Traps s f 0x7C 0 (exec i s)) ∧
    (Clear f g → ridgeNameBad s g name = false → (g.uid ∉ b.members ∨ g.uid ∈ b.arrived) →
      Traps s f 0x7D 0 (exec (.ridgeArrive x) s)) ∧
    (Clear f g → ridgeNameBad s g name = false → ((g.uid ∈ b.members ∧ g.uid ∉ b.leaving) ∨ g.uid ∈ b.joining) →
      Traps s f 0x7D 0 (exec (.ridgeJoin x) s)) ∧
    (Clear f g → ridgeNameBad s g name = false → (g.uid ∉ b.members ∨ g.uid ∈ b.leaving) →
      Traps s f 0x7D 0 (exec (.ridgeLeave x) s)) ∧
    (Clear f g → 2 ^ 32 ≤ tok.toNat → Traps s f 0x7C 0 (exec (.ridgeWait x) s)) ∧
    (ridgeNameBad s g name = false → tok.toNat < 2 ^ 32 → b.gen = tok.setWidth 32 →
      exec (.ridgeWait x) s = .next (unfocus (putGroup s f.gid
        { g with blocks := Block.mk f.lanes f.pc f.npc (.ridge name (tok.setWidth 32)) :: g.blocks }))) ∧
    (ridgeNameBad s g name = false → g.uid ∈ b.members → g.uid ∉ b.arrived →
      releaseWaits s f.gid g f.lanes (barScope name) = false →
      exec (.ridgeArrive x) s = .next (unfocus (advanceBar (updGroup
        (putBar s g.team name { b with arrived := b.arrived ++ [g.uid] }) f.gid
        (fun h => retire f (sSet h x.d.toNat (b.gen.setWidth 64)))) g.team name))) ∧
    (ridgeNameBad s g name = false → tok.toNat < 2 ^ 32 → b.gen ≠ tok.setWidth 32 →
      ∃ t, exec (.ridgeWait x) s = .next t ∧ t.groups = mapPut s.groups f.gid (retire f g) ∧ t.mem = s.mem ∧
        t.teams = s.teams ∧ t.nodes = s.nodes) ∧
    (ridgeNameBad s g name = false → (g.uid ∉ b.members ∨ g.uid ∈ b.leaving) → g.uid ∉ b.joining →
      exec (.ridgeJoin x) s = .next (unfocus (advanceBar (updGroup
        (putBar s g.team name { b with joining := b.joining ++ [g.uid] }) f.gid
        (fun h => retire f (sSet h x.d.toNat (b.gen.setWidth 64)))) g.team name))) ∧
    (ridgeNameBad s g name = false → g.uid ∈ b.members → g.uid ∉ b.leaving → g.uid ∈ b.arrived →
      exec (.ridgeLeave x) s = .next (unfocus (advanceBar (updGroup
        (putBar s g.team name { b with leaving := b.leaving ++ [g.uid] }) f.gid (retire f)) g.team name))) ∧
    (ridgeNameBad s g name = false → g.uid ∈ b.members → g.uid ∉ b.leaving → g.uid ∉ b.arrived →
      releaseWaits s f.gid g f.lanes (barScope name) = false →
      exec (.ridgeLeave x) s = .next (unfocus (advanceBar (updGroup (putBar s g.team name
        { b with arrived := b.arrived ++ [g.uid], leaving := b.leaving ++ [g.uid] }) f.gid (retire f)) g.team name)))

/-- lead.step raises the group's phase by one and gives it to sD; it goes on where every neighbour has come within LEAD, and blocks
where one is further behind. In a node without eaves dropping it is cause 0x7C (R321), with INFO 0 by log entry 10. -/
def Sys2Proof.Claims.LeadStepsRaisePhase : Prop :=
  ∀ (x : R3L) (s : State) (f : Focus) (g : Group), Issues s f g → openAcq s g f.lanes = false → NoEdits s g → NoDirty s →
    let node := nodeAt s (teamAt s g.team).node
    (node.desc.eaves = false → Clear f g → Traps s f 0x7C 0 (exec (.leadStep x) s)) ∧
    (node.desc.eaves = true → releaseWaits s f.gid g f.lanes .clu = false →
      leadMet s (sSet { g with phase := g.phase + 1 } x.d.toNat (g.phase + 1)) = true →
      (∀ e ∈ s.groups, e.2.blocks = []) → g.blocks = [] →
      ∃ t g', exec (.leadStep x) s = .next t ∧ t.groups = mapPut s.groups f.gid g' ∧
        g' = { retire f g with sregs := g'.sregs, phase := g.phase + 1 } ∧ sGet g' x.d.toNat = g.phase + 1 ∧
        (∀ n, n ≠ x.d.toNat → sGet g' n = sGet g n) ∧ t.mem = s.mem ∧ t.sram = s.sram) ∧
    (node.desc.eaves = true → releaseWaits s f.gid g f.lanes .clu = false →
      leadMet s (sSet { g with phase := g.phase + 1 } x.d.toNat (g.phase + 1)) = false →
      (∀ e ∈ s.groups, e.2.blocks = []) → g.blocks = [] →
      ∃ t g' b, exec (.leadStep x) s = .next t ∧ t.groups = mapPut s.groups f.gid g' ∧
        g' = { g with sregs := g'.sregs, phase := g.phase + 1, blocks := [b] } ∧ b.lanes = f.lanes ∧ b.pc = f.pc ∧ b.why = .lead ∧
        sGet g' x.d.toNat = g.phase + 1 ∧ (∀ n, n ≠ x.d.toNat → sGet g' n = sGet g n) ∧ t.mem = s.mem ∧ t.sram = s.sram)

/-- Ridge barriers and lead steps; INFO 0 of causes 0x7C and 0x7D is log entry 10. -/
def Obligations.RidgeAndLead : Prop := RidgeBarriers ∧ LeadStepsRaisePhase

/-- The lanes of a run below l: which of the run's tickets, in ascending lane order, is lane l's. -/
def Sys2Proof.Claims.rankOf (m : LaneMask) (l : Nat) : Nat := ((lanesOf m).filter (fun i => decide (i < l))).length
/-- The ticket that position i of a unit hands out: the item and the slot, past the last position the stop value (R324). -/
def Sys2Proof.Claims.ticketAt (q : TasteParams) (i : Nat) : Word :=
  if i < q.items then BitVec.ofNat 64 (tastePerm q.items q.key i + i % 4096 * 2 ^ 40) else 0xFFFFFFFFFFFFFFFF
/-- A unit has handed out n positions, as far as there are so many. -/
def Sys2Proof.Claims.HandedOut (q : TasteParams) (u : Taste) (n : Nat) (u' : Taste) : Prop :=
  u' = { u with issued := u'.issued, out := u'.out } ∧ u'.issued = u.issued + min n (q.items - u.issued) ∧
    (∀ i, u.issued ≤ i → i < u'.issued → mapFind u'.out (i % 4096) = some i) ∧
    ∀ k, (∀ i, u.issued ≤ i → i < u'.issued → i % 4096 ≠ k) → mapFind u'.out k = mapFind u.out k

/-- taste.next: each active lane, in ascending order, or the uniform register receives the next position's ticket, the stop value
past the last position and from a unit that has stopped; where a position lies 4,096 or more above the lowest one outstanding the
run blocks at the unit and receives nothing (R323, R324). -/
def Sys2Proof.Claims.TicketsHandedOut : Prop :=
  ∀ (x : R3L) (s : State) (f : Focus) (g : Group) (n : Nat) (q : TasteParams) (u : Taste), Issues s f g →
    openAcq s g f.lanes = false → tasteOf s g = some (n, q, u) → u.waiters = [] →
    let lanes := (lanesOf f.lanes).length
    let room := fun (k : Nat) => min k (q.items - u.issued) = 0 ∨ u.issued + min k (q.items - u.issued) ≤ tasteH u + 4096
    let wrote := fun (val : Nat → Word) (t : State) => ∃ g', t.groups = mapPut s.groups f.gid g' ∧
      g' = { retire f g with vregs := g'.vregs } ∧
      (∀ l, l < 32 → f.lanes.getLsbD l = true → vGet g' (vReg (seen f g) x.d) l = val l) ∧
      ∀ j l, l < 32 → (f.lanes.getLsbD l = false ∨ j ≠ vReg (seen f g) x.d) → vGet g' j l = vGet g j l
    let wroteS := fun (w : Word) (t : State) => ∃ g', t.groups = mapPut s.groups f.gid g' ∧
      g' = { retire f g with sregs := g'.sregs } ∧ sGet g' x.d.toNat = w ∧ ∀ i, i ≠ x.d.toNat → sGet g' i = sGet g i
    (x.a.getLsbD 0 = true → InAllot (seen f g) [x.d] →
      (u.state = 0 → room lanes → ∃ t u', exec (.tasteNext x) s = .next t ∧
        wrote (fun l => ticketAt q (u.issued + rankOf f.lanes l)) t ∧ (nodeAt t n).taste = some u' ∧ HandedOut q u lanes u' ∧
        t.mem = s.mem) ∧
      (u.state ≠ 0 → ∃ t, exec (.tasteNext x) s = .next t ∧ wrote (fun _ => 0xFFFFFFFFFFFFFFFF) t ∧
        (nodeAt t n).taste = some u ∧ t.mem = s.mem)) ∧
    (x.a.getLsbD 0 = false →
      (u.state = 0 → room 1 → ∃ t u', exec (.tasteNext x) s = .next t ∧ wroteS (ticketAt q u.issued) t ∧
        (nodeAt t n).taste = some u' ∧ HandedOut q u 1 u' ∧ t.mem = s.mem) ∧
      (u.state ≠ 0 → ∃ t, exec (.tasteNext x) s = .next t ∧ wroteS 0xFFFFFFFFFFFFFFFF t ∧ (nodeAt t n).taste = some u ∧
        t.mem = s.mem)) ∧
    (u.state = 0 → (x.a.getLsbD 0 = true → InAllot (seen f g) [x.d]) → ¬ room (if x.a.getLsbD 0 = true then lanes else 1) →
      ∃ t g' b, exec (.tasteNext x) s = .next t ∧ t.groups = mapPut s.groups f.gid g' ∧ g' = { g with blocks := b :: g.blocks } ∧
        b.lanes = f.lanes ∧ b.pc = f.pc ∧ (nodeAt t n).taste = some { u with waiters := [(f.gid, f.lanes)] } ∧ t.mem = s.mem)

/-- taste.add: with every ticket outstanding for its item, the slots of the lower lanes counted as freed, each active lane, in
ascending order, or the uniform pair gives its value to the unit; any other ticket is cause 0x7F, and no lane contributes. A
contribution frees its slot; to a unit that has stopped it is late, and a NaN or an infinite value is rejected (R325). -/
def Sys2Proof.Claims.ContributionsTaken : Prop :=
  (∀ (x : R3L) (s : State) (f : Focus) (g : Group) (n : Nat) (q : TasteParams) (u : Taste), Issues s f g →
    tasteOf s g = some (n, q, u) → u.waiters = [] →
    let vec := x.d.getLsbD 0
    let ls := if vec = true then lanesOf f.lanes else [lowLane f.lanes]
    let reg := fun (r : BitVec 7) (l : Nat) => if vec = true then vGet (seen f g) (vReg (seen f g) r) l else sGet (seen f g) r.toNat
    (vec = true → InAllot (seen f g) [x.a, x.b]) →
    (ticketsOk q u [] (ls.map (reg x.a)) = true → openAcq s g f.lanes = false → ∃ t, exec (.tasteAdd x) s = .next t ∧
      t.groups = mapPut s.groups f.gid (retire f g) ∧ t.mem = s.mem ∧
      (nodeAt t n).taste = some (ls.foldl (fun v l => tasteGive q v ((reg x.a l).toNat / 2 ^ 40 % 2 ^ 12) (reg x.b l)) u)) ∧
    (ticketsOk q u [] (ls.map (reg x.a)) = false → Clear f g → Traps s f 0x7F 0 (exec (.tasteAdd x) s))) ∧
  ∀ (q : TasteParams) (u : Taste) (slot : Nat) (x : Word),
    (tasteGive q u slot x).out = mapDel u.out slot ∧
    (u.state ≠ 0 → tasteGive q u slot x = { u with out := mapDel u.out slot, late := u.late + 1 }) ∧
    (u.state = 0 → u.ordered = false → finiteF64 x.toNat = false →
      let v := tasteGive q u slot x
      v.reject = u.reject + 1 ∧ v.nv = true ∧ v.merged = u.merged + 1 ∧ v.count = u.count ∧ v.mean = u.mean ∧ v.m2 = u.m2)

/-- taste.stat reads a register of the tasting unit, and a selector of 7 or more is cause 0x7F; in a group of no tasting grid the
three instructions are cause 0x7E (R322, R324, R325, R327). INFO 0 of both causes is log entry 10. -/
def Sys2Proof.Claims.TasteRegisters : Prop :=
  ∀ (x : R3L) (s : State) (f : Focus) (g : Group), Issues s f g →
    (tasteOf s g = none → Clear f g → Traps s f 0x7E 0 (exec (.tasteStat x) s) ∧
      ((x.a.getLsbD 0 = true → InAllot (seen f g) [x.d]) → Traps s f 0x7E 0 (exec (.tasteNext x) s)) ∧
      ((x.d.getLsbD 0 = true → InAllot (seen f g) [x.a, x.b]) → Traps s f 0x7E 0 (exec (.tasteAdd x) s))) ∧
    (∀ n q u, tasteOf s g = some (n, q, u) →
      (7 ≤ x.b.toNat → Clear f g → Traps s f 0x7F 0 (exec (.tasteStat x) s)) ∧
      ∀ row ∈ [(0, u.count), (1, u.mean), (2, u.m2), (3, u.late), (4, u.reject), (5, BitVec.ofNat 64 u.issued),
          (6, BitVec.ofNat 64 (u.outcome + 256 * u.state + (if u.ordered = true then 1024 else 0) +
            (if u.nx = true then 8192 else 0) + (if u.ov = true then 16384 else 0) + if u.nv = true then 32768 else 0))],
        x.b.toNat = row.1 → ∃ t, exec (.tasteStat x) s = .next t ∧ UniDone s f g x.d (row.2, 0) t)

/-- The tasting instructions, in their uniform and their vector forms; INFO 0 of causes 0x7E and 0x7F is log entry 10. -/
def Obligations.TastingInstructions : Prop := TasteRegisters ∧ TicketsHandedOut ∧ ContributionsTaken

/-- tile.set writes a tile's full bit and clears its fail bit, and tile.get reads both with the numbers of live producers and
consumers; a tile number outside 1 to 4,095 or a tile.set value above 1 is cause 0x7B (R311, R312), with INFO 0 by log entry 10. -/
def Sys2Proof.Claims.TileInstructions : Prop :=
  ∀ (x : R3L) (s : State) (f : Focus) (g : Group), Issues s f g → openAcq s g f.lanes = false → NoEdits s g → NoDirty s →
    let n := (sGet (seen f g) x.a.toNat).toNat
    let b := (sGet (seen f g) x.b.toNat).toNat
    let k := groupCtx s g
    (n = 0 ∨ 4096 ≤ n → Clear f g → Traps s f 0x7B 0 (exec (.tileSet x) s) ∧ Traps s f 0x7B 0 (exec (.tileGet x) s)) ∧
    (2 ≤ b → Clear f g → Traps s f 0x7B 0 (exec (.tileSet x) s)) ∧
    (1 ≤ n → n < 4096 → b < 2 → releaseWaits s f.gid g f.lanes .pkg = false →
      ∃ t, exec (.tileSet x) s = .next t ∧ t.groups = mapPut s.groups f.gid (retire f g) ∧ t.mem = s.mem ∧
        tileAt t k n = { tileAt s k n with full := b == 1, fail := false } ∧
        ∀ m, m ≠ n → tileAt t k m = tileAt s k m) ∧
    (1 ≤ n → n < 4096 → ∃ t g', exec (.tileGet x) s = .next t ∧ t.groups = mapPut s.groups f.gid g' ∧
      g' = { retire f g with sregs := g'.sregs } ∧ (∀ i, i ≠ x.d.toNat → sGet g' i = sGet g i) ∧
      (sGet g' x.d.toNat).getLsbD 0 = (tileAt s k n).full ∧ (sGet g' x.d.toNat).getLsbD 1 = (tileAt s k n).fail ∧
      (sGet g' x.d.toNat).toNat / 2 ^ 16 % 2 ^ 24 = (tileAt s k n).prod % 2 ^ 24 ∧
      (sGet g' x.d.toNat).toNat / 2 ^ 40 = (tileAt s k n).pend % 2 ^ 24 ∧
      (sGet g' x.d.toNat).toNat / 4 % 2 ^ 14 = 0 ∧ t.mem = s.mem ∧ t.ctxs = s.ctxs)

/-- task.spawn of a good descriptor gives sD the context's next sequence number and adds one live node to the Trellis with
that number (R308). -/
def Sys2Proof.Claims.TaskSpawnAddsNode : Prop :=
  ∀ (x : R3L) (s : State) (f : Focus) (g : Group) (d : Desc) (h : Header), Issues s f g → openAcq s g f.lanes = false →
    NoEdits s g → NoDirty s → releaseWaits s f.gid g f.lanes .pkg = false →
    loadNode s (groupCtx s g) (coreChk s (gidCore f.gid) (groupCtx s g)) (sGet (seen f g) x.a.toNat).toNat = .ok d h →
    ∃ t g', exec (.taskSpawn x) s = .next t ∧ t.groups = mapPut s.groups f.gid g' ∧
      g' = { retire f g with sregs := g'.sregs } ∧ sGet g' x.d.toNat = (ctxAt s (groupCtx s g)).nextSeq ∧
      (∀ i, i ≠ x.d.toNat → sGet g' i = sGet g i) ∧
      (ctxAt t (groupCtx s g)).nextSeq = (ctxAt s (groupCtx s g)).nextSeq + 1 ∧ t.mem = s.mem ∧
      ∃ n, mapFind t.nodes n.uid = some n ∧ n.ctx = groupCtx s g ∧ n.seq = (ctxAt s (groupCtx s g)).nextSeq ∧
        n.desc = { d with prio := min d.prio (ctxAt s (groupCtx s g)).maxprio } ∧ n.hdr = h ∧ n.started = false

/-- The tile instructions and task.spawn; INFO 0 of cause 0x7B is log entry 10. -/
def Obligations.TilesAndSpawns : Prop := TileInstructions ∧ TaskSpawnAddsNode

/-- The bytes of a full image hold the state of a group, at the offsets of R295's table. -/
def Sys2Proof.Claims.ImageOf (h : Group) (bs : List Byte) : Prop :=
  bs.length = 0x600 + 256 * h.allot ∧ (∀ l, l < 32 → fieldOf bs (8 * l) 8 = (pcGet h l).toNat) ∧
    fieldOf bs 0x100 8 = h.exited.toNat ∧ fieldOf bs 0x108 8 = (repWord h.rep).toNat ∧ fieldOf bs 0x110 8 = h.winbase.toNat ∧
    fieldOf bs 0x118 8 = h.sticky.toNat ∧ fieldOf bs 0x120 8 = h.stale.toNat ∧ fieldOf bs 0x128 8 = h.cause.toNat ∧
    fieldOf bs 0x130 8 = h.epc.toNat ∧ fieldOf bs 0x138 8 = h.trapbase.toNat ∧
    (∀ i, i < 7 → fieldOf bs (0x140 + 8 * i) 8 = (mapGet 0 h.preds (i + 1)).toNat) ∧
    fieldOf bs 0x178 8 = h.allot / 8 + 2 ^ 16 ∧
    (∀ i, i < 16 → fieldOf bs (0x180 + 2 * i) 2 = (mapGet 0 h.codebook i).toNat) ∧
    (∀ c, c < 256 → (fieldOf bs 0x1A0 32).testBit c = h.latched.any (fun y => y.code == c)) ∧
    (∀ i, i < 64 → bs.getD (0x1C0 + i) 0 = 0) ∧ (∀ i, i < 128 → fieldOf bs (0x200 + 8 * i) 8 = (sGet h i).toNat) ∧
    ∀ j l, j < h.allot → l < 32 → fieldOf bs (0x600 + 256 * j + 8 * l) 8 = (vGet h j l).toNat

/-- A group has the state of an image: its control state, and of the rest what a full image holds or the liveness union names,
everything else zero; it waits for nothing, and stays stopped (R70, R145, R295). -/
def Sys2Proof.Claims.Holds (h : Group) (bs : List Byte) (h' : Group) : Prop :=
  let full := (fieldOf bs 0x178 8).testBit 16
  let union := fun (i : Nat) => (fieldOf bs 0x178 8).testBit (32 + i)
  let part := fun (named : Bool) (n : Nat) => if (full || named) = true then n else 0
  let wb := h'.winbase.toNat
  (∀ l, l < 32 → (pcGet h' l).toNat = fieldOf bs (8 * l) 8 % 2 ^ 56) ∧ h'.exited.toNat = fieldOf bs 0x100 8 % 2 ^ 32 ∧
    h'.rep.lanes.toNat = fieldOf bs 0x108 8 / 2 ^ 32 ∧ h'.rep.active = (fieldOf bs 0x108 8).testBit 6 ∧
    h'.rep.next.toNat = fieldOf bs 0x108 8 % 2 ^ 6 ∧ wb = fieldOf bs 0x110 8 % 2 ^ 9 ∧
    h'.sticky.toNat = fieldOf bs 0x118 8 % 2 ^ 6 ∧ h'.stale.toNat = fieldOf bs 0x120 8 % 2 ^ 32 ∧
    h'.cause.toNat = fieldOf bs 0x128 8 ∧ h'.epc = BitVec.ofNat 64 (fieldOf bs 0x130 8) &&& epcMask ∧
    h'.trapbase = BitVec.ofNat 64 (fieldOf bs 0x138 8) &&& 0x00FFFFFFFFFFFFFF ∧
    (∀ i, i < 7 → (mapGet 0 h'.preds (i + 1)).toNat = part (union 0) (fieldOf bs (0x140 + 8 * i) 8 % 2 ^ 32)) ∧
    (∀ i, i < 16 → (mapGet 0 h'.codebook i).toNat = part (union 1) (fieldOf bs (0x180 + 2 * i) 2)) ∧
    (∀ c, c < 256 → h'.latched.any (fun y => y.code == c) = (fieldOf bs 0x1A0 32).testBit c) ∧
    (∀ i, i < 128 → (sGet h' i).toNat = part (union (8 + i / 16)) (fieldOf bs (0x200 + 8 * i) 8)) ∧
    (∀ j l, j < h.allot → l < 32 → (vGet h' j l).toNat =
      part (decide (wb ≤ j ∧ j < wb + 128) && union (16 + (j - wb) / 8)) (fieldOf bs (0x600 + 256 * j + 8 * l) 8)) ∧
    h'.blocks = [] ∧ h'.barriers = [] ∧ h'.ages = [] ∧ h'.stopped = h.stopped ∧ h'.team = h.team ∧ h'.allot = h.allot

/-- gsave and grest are the supervisor's: in another context they are cause 0x08. A locator that names no stopped group of the
partition is cause 0x94. With the image's pages accessible, gsave leaves a store of every 128 bytes of the full image and waits for
their acceptance; grest gives the stopped group the state that the image holds, or traps with cause 0x94 where its allotment is
another (R294, R295). -/
def Obligations.ImagesSavedAndRestored : Prop :=
  ∀ (x : R3L) (s : State) (f : Focus) (g : Group), Issues s f g →
    let va := (sGet (seen f g) x.a.toNat).toNat
    let loc := (sGet (seen f g) x.b.toNat).toNat
    let k := groupCtx s g
    (k % 256 ≠ 0 → Clear f g → Traps s f 0x08 0 (exec (.gsave x) s) ∧ Traps s f 0x08 0 (exec (.grest x) s)) ∧
    (k % 256 = 0 → stoppedAt s (ctxPart k) loc = none → Clear f g →
      Traps s f 0x94 (loc % 2 ^ 56) (exec (.gsave x) s) ∧ Traps s f 0x94 (loc % 2 ^ 56) (exec (.grest x) s)) ∧
    (∀ gid h, k % 256 = 0 → stoppedAt s (ctxPart k) loc = some (gid, h) → gid ≠ f.gid → pendsOf h 0xFFFFFFFF = [] →
      openAcq s g f.lanes = false → s.edits = [] → TablesAwake s f g [(va, imageSize h)] →
      let pages := fun (w : Bool) => imageChecks s f g w va (imageSize h)
      let covered := fun (w : Bool) => ∀ i, i < imageSize h → ∃ e ∈ passed (pages w), transCovers e.2 k (va + i) = true
      (h.allot < 8192 → failures (pages true) = [] → zeroPages s k (passed (pages true)) = [] → covered true →
        ∃ t bs rs, exec (.gsave x) s = .next t ∧ ImageOf h bs ∧ t.reqs = s.reqs ++ rs ∧ 128 * rs.length = bs.length ∧
          (∀ i r, rs[i]? = some r → r.kind = .store ((bs.drop (128 * i)).take 128) ∧ r.va = va + 128 * i ∧ r.size = 128 ∧
            r.ctx = k ∧ r.uid = g.uid ∧ r.lanes = f.lanes ∧ r.rel = false ∧ r.stage = .queued ∧
            ∃ e ∈ passed (pages true), transCovers e.2 k r.va = true ∧ r.pa = transPa e.2 r.va ∧ r.gen = e.2.gen) ∧
          t.mem = s.mem ∧ t.sram = s.sram ∧ mapFind t.groups gid = some h ∧
          ∃ b g', mapFind t.groups f.gid = some g' ∧ b ∈ g'.blocks ∧ b.why = .stored ∧ b.lanes = f.lanes ∧ b.pc = f.pc ∧ b.npc = f.npc) ∧
      (failures (pages false) = [] → s.reqs = [] →
        ((piecesOf va (imageSize h)).map (·.1)).filterMap (pieceAsleep s k) = [] →
        ∀ bs : List PByte, bs.length = imageSize h →
        (∀ i, i < imageSize h → ∃ e, (passed (pages false)).find? (fun e => transCovers e.2 k (va + i)) = some e ∧
          bs[i]? = some (coreByte s f.gid k e.2 (va + i))) → (∀ b ∈ bs, b.2 = false) →
        let img := bs.map (·.1)
        (8 * (fieldOf img 0x178 8 % 1024) = h.allot →
          ∃ t h', exec (.grest x) s = .next t ∧ mapFind t.groups gid = some h' ∧ Holds h img h' ∧
            mapFind t.groups f.gid = some (retire f g) ∧ t.mem = s.mem ∧ t.sram = s.sram) ∧
        (8 * (fieldOf img 0x178 8 % 1024) ≠ h.allot → Clear f g → Traps s f 0x94 (loc % 2 ^ 56) (exec (.grest x) s))))


/-! ### The Trellis: events -/

/-- A group as its node starts it: s0 holds ARG and every other register 0, every lane stands at KERNEL + ENTRY and none has
exited, TRAPBASE is CTXTRAP (R309). -/
def Sys2Proof.Claims.Starts (s : State) (n : Node) (uid i : Nat) (g : Group) : Prop :=
  g.team = uid ∧ g.groupId = i ∧ g.allot = n.hdr.allot ∧ sGet g 0 = n.desc.arg ∧ (∀ j, j ≠ 0 → sGet g j = 0) ∧
    g.vregs = [] ∧ g.preds = [] ∧ g.codebook = [] ∧ g.exited = 0 ∧ g.winbase = 0 ∧ g.sticky = 0 ∧ g.stale = 0 ∧ g.rep = {} ∧
    (∀ l, l < 32 → pcGet g l = BitVec.ofNat 56 (n.desc.kernel + n.hdr.entry)) ∧ g.blocks = [] ∧ g.stopped = none ∧
    g.trapbase = (ctxAt s n.ctx).ctxtrap &&& ~~~2

/-- A placement goes to the unit that the partition's order chooses. A new cluster gets a team for each of its cores, in rank
order, with the core's lowest free slots and a new group in each; its cores lose their clean L1 lines, its node starts, and no
other core's group changes. A saved cluster comes back with its groups' states and its scratchpads' bytes (R18, R19, R301, R309,
R315, R316; the order of the placements rests on log entry 38). -/
def Sys2Proof.Claims.PlacementMakesGroups : Prop :=
  ∀ (s : State) (n : Node) (u : Unplaced) (c : Nat), mapFind s.nodes n.uid = some n →
    partChoice s (ctxPart n.ctx) = some (n, u, c) →
    let cs := rectCores n.hdr.cw n.hdr.ch c
    ∃ t, exec (.teamPlacement n.uid) s = .next t ∧ (∀ a, homeByte t.mem a = homeByte s.mem a) ∧
      ((∀ k, u = .saved k → ∀ x ∈ savedOf s n.uid k, x.team.rank < cs.length) →
        ∀ gid, gid / 64 ∉ cs → mapFind t.groups gid = mapFind s.groups gid) ∧
      (∀ k, u = .fresh k → (∀ e ∈ s.teams, e.1 < s.fresh) →
        (∃ n', mapFind t.nodes n.uid = some n' ∧ n'.started = true ∧ n'.nextCluster = n.nextCluster + 1) ∧
        (∀ x ∈ cs, ∀ l ∈ (coreAt t x).l1, l.mask ≠ 0) ∧
        ∀ r, r < cs.length → ∃ uid tm, s.fresh ≤ uid ∧ mapFind t.teams uid = some tm ∧ tm.node = n.uid ∧ tm.rank = r ∧
          tm.cluster = k ∧ tm.core = cs.getD r 0 ∧ tm.teamId = k * (n.hdr.cw * n.hdr.ch) + r ∧
          tm.slots = ((List.range 64).filter (fun i =>
            !((coreGroups s tm.core).map (·.1)).contains i)).take n.hdr.groups ∧
          ∀ i, i < n.hdr.groups → ∃ g, mapFind t.groups (64 * tm.core + tm.slots.getD i 0) = some g ∧ Starts s n uid i g) ∧
      (∀ k, u = .saved k → ((savedOf s n.uid k).map (·.uid)).Nodup → ((savedOf s n.uid k).map (·.team.rank)).Nodup →
        ∀ x ∈ savedOf s n.uid k, x.team.rank < cs.length → (x.groups.map (·.groupId)).Nodup →
          (∀ g ∈ x.groups, g.groupId < n.hdr.groups) → (∀ y ∈ savedOf s n.uid k, mapFind s.teams y.uid = none) →
          (∀ y ∈ t.saved, y.uid ≠ x.uid) ∧
          ∃ tm, mapFind t.teams x.uid = some tm ∧ tm.core = cs.getD x.team.rank 0 ∧ tm.rank = x.team.rank ∧
            tm.teamId = x.team.teamId ∧ tm.preemptAt = none ∧
            (∀ g ∈ x.groups, ∃ g', mapFind t.groups (64 * tm.core + tm.slots.getD g.groupId 0) = some g' ∧
              g' = { g with base := g'.base, lastSel := g'.lastSel }) ∧
            ∀ i, i < teamBytes tm false → sramGet t (sramByte t tm false i) = mapGet 0 x.scratch i)

/-- A node that has been the first of its context and has not fitted for 50 microseconds has a sector kept for it: the
partition's sector with the most cores without a team, the lowest among equals (R315). -/
def Sys2Proof.Claims.WaitKeepsSector : Prop :=
  ∀ (s : State) (k n t c0 : Nat), (ctxAt s k).waitFor = some (n, t) → t + 50000 ≤ s.clk.ns →
    mapFind (ctxAt s k).sectors n = none → c0 < 336 → coreOwned s (ctxPart k) c0 = true →
    let free := fun (e : Nat) => ((List.range 336).filter (fun c => coreOwned s (ctxPart k) c && coreSector c == e &&
      !s.teams.any (fun x => x.2.core == c && !x.2.gone))).length
    ∃ t' e, exec (.placementWaitExpiry k) s = .next t' ∧ mapFind (ctxAt t' k).sectors n = some e ∧
      (∃ c, c < 336 ∧ coreOwned s (ctxPart k) c = true ∧ coreSector c = e) ∧
      (∀ c, c < 336 → coreOwned s (ctxPart k) c = true → free (coreSector c) < free e ∨
        (free (coreSector c) = free e ∧ e ≤ coreSector c)) ∧
      (∀ m, m ≠ n → mapFind (ctxAt t' k).sectors m = mapFind (ctxAt s k).sectors m) ∧ t'.groups = s.groups ∧
      t'.mem = s.mem ∧ t'.teams = s.teams

/-- A pre-emption asks every team of its victims to stop, from now; where the save area has no room for a victim's cluster beside
those before it, that victim's teams keep running, the supervisor receives 0x97, and no team is asked; no other team changes and no
group leaves (R317; which victims are asked is log entry 38). -/
def Sys2Proof.Claims.PreemptionAsks : Prop :=
  ∀ (s : State) (node : Nat) (n : Node) (vs : List Victim), mapFind s.nodes node = some n → victimsOf s n = some vs →
    mapOrdered s.teams = true →
    let of_ := fun (v : Victim) (x : Team) => x.node = v.node ∧ x.cluster = v.cluster ∧ x.gone = false
    ∃ t, exec (.preemption node) s = .next t ∧
      (noSeat s vs = [] → t.groups = s.groups ∧ t.mem = s.mem ∧ ∀ uid x, mapFind s.teams uid = some x →
        ((∃ v ∈ vs, of_ v x) → ∃ y, mapFind t.teams uid = some y ∧ y.preemptAt = some s.clk.ns ∧
          y = { x with preemptAt := y.preemptAt, saveSlot := y.saveSlot }) ∧
        ((∀ v ∈ vs, ¬ of_ v x) → mapFind t.teams uid = some x)) ∧
      (noSeat s vs ≠ [] → t.groups = s.groups ∧ ∀ uid x, mapFind s.teams uid = some x →
        ((∃ v ∈ noSeat s vs, of_ v x) → mapFind t.teams uid = some { x with noRoom := true }) ∧
        ((∀ v ∈ noSeat s vs, ¬ of_ v x) → mapFind t.teams uid = some x)) ∧
      (∀ v s1 w, vs = [v, w] → seatVictim s v = some s1 → seatVictim s1 w = none → noSeat s vs = [w] ∧
        Recorded s t (ctxPart (nodeAt s w.node).ctx)
          (eventRecord (nodeAt s w.node).ctx 0 0 1 (causeWord 0x97 0) 0 s.clk.clock)) ∧
      (∀ v, vs = [v] → saveSeats s (nodeAt s v.node).ctx (victimTeams s v) (savePlaces s (nodeAt s v.node).ctx) = none →
        Recorded s t (ctxPart (nodeAt s v.node).ctx)
          (eventRecord (nodeAt s v.node).ctx 0 0 1 (causeWord 0x97 0) 0 s.clk.clock) ∧
        ∀ uid x, mapFind s.teams uid = some x →
          (of_ v x → ∃ y, mapFind t.teams uid = some y ∧ y.preemptAt = x.preemptAt ∧ y = { x with noRoom := true }) ∧
          (¬ of_ v x → mapFind t.teams uid = some x))

/-- A group of a saved team: one saved in full keeps its registers and its control state; of another, every register is kept or
reads as zero, and the counters are kept (R300, R301). -/
def Sys2Proof.Claims.SavedAs (whole : Prop) (g x : Group) : Prop :=
  x.uid = g.uid ∧ x.pcs = g.pcs ∧ x.exited = g.exited ∧ x.sticky = g.sticky ∧ x.stale = g.stale ∧ x.rep = g.rep ∧
    x.winbase = g.winbase ∧ x.cause = g.cause ∧ x.epc = g.epc ∧ x.trapbase = g.trapbase ∧ x.stopped = g.stopped ∧
    (∀ i, sGet x i = sGet g i ∨ sGet x i = 0) ∧ (∀ i l, l < 32 → vGet x i l = vGet g i l ∨ vGet x i l = 0) ∧
    (whole → x.sregs = g.sregs ∧ x.vregs = g.vregs ∧ x.preds = g.preds ∧ x.codebook = g.codebook)

/-- A cluster has been saved: its teams and groups have left their cores, and each team is kept with its groups, its Press
entries and its scratchpad's bytes. -/
def Sys2Proof.Claims.ClusterSaved (s : State) (ts : List Nat) (t : State) : Prop :=
  (∀ i ∈ ts, mapFind t.teams i = none) ∧ (∀ e ∈ t.groups, e.2.team ∉ ts) ∧
    (∀ x ∈ s.saved, x ∈ t.saved) ∧ (∀ x ∈ t.saved, x ∈ s.saved ∨ x.uid ∈ ts) ∧
    ((∀ e ∈ s.groups, e.2.team ∈ ts → e.2.exited ≠ 0xFFFFFFFF) →
      (∀ i ∈ ts, ∀ u, (nodeAt s (teamAt s i).node).taste = some u → u.waiters = []) →
      (∀ e ∈ s.groups, e.2.team ∉ ts → e ∈ t.groups) ∧
      ∀ i ∈ ts, ∃ x ∈ t.saved, x.uid = i ∧ x.team = { teamAt s i with preemptAt := none } ∧
        (∀ e ∈ s.groups, e.2.team = i → ∃ y ∈ x.groups,
          SavedAs (savedWhole e.2 = true ∨ (ts = [i] ∧ groupSafe s e.1 e.2 = false)) e.2 y) ∧
        (∀ q ∈ s.ops, q.team = i → q.press = true → q ∈ x.ops ∧ q ∉ t.ops) ∧
        ((∀ q ∈ s.ops, q.team ∈ ts → q.press = false) →
          ∀ a, a < teamBytes (teamAt s i) false → mapGet 0 x.scratch a = sramGet s (sramByte s (teamAt s i) false a)))

/-- A pre-empted cluster whose accesses are accepted is saved when every group stands at safe points, in its handler or stopped,
and 20 microseconds after the request where one does not, that one in full; the bins of its save area are awake and its pages
have frames (R299-R301; the layout of the save area is log entry 14, the save of a whole cluster in one step log entry 38). -/
def Sys2Proof.Claims.SaveEventsComplete : Prop :=
  ∀ (s : State) (team k : Nat) ts at', pendingSave s team = some (k, ts, at') →
    (saveVas s ts).filterMap (pieceAsleep s k) = [] → (∀ va ∈ saveVas s ts, needsFrame s k va = false) →
    (clusterSafe s ts = true → ∃ t, exec (.teamSave team) s = .next t ∧ ClusterSaved s ts t) ∧
    (clusterSafe s ts = false → at' + 20000 ≤ s.clk.ns → ∃ t, exec (.forcedSave team) s = .next t ∧ ClusterSaved s ts t)

/-- Placement, the wait for a sector, pre-emption and saving of teams. The layout of the save area is log entry 14; the placement
order, which victims are asked and the save of a cluster in one step are log entry 38 (DEDUCED). -/
def Obligations.TeamsPlacedAndSaved : Prop :=
  PlacementMakesGroups ∧ WaitKeepsSector ∧ PreemptionAsks ∧ SaveEventsComplete

/-- The tile table after a node has completed: its outputs are full, with FAIL where it failed, and one producer fewer; its
inputs have one consumer fewer, and are empty after the last; no other tile of any context changes (R311). -/
def Sys2Proof.Claims.TilesAfter (s t : State) (n : Node) (failed : Bool) : Prop :=
  ∀ i,
    (i ∈ nodeOuts n → i ∉ nodeIns n → tileAt t n.ctx i =
      { tileAt s n.ctx i with full := true, fail := failed, prod := (tileAt s n.ctx i).prod - 1 }) ∧
    (i ∈ nodeIns n → i ∉ nodeOuts n → tileAt t n.ctx i =
      if (tileAt s n.ctx i).pend ≤ 1 ∧ (tileAt s n.ctx i).full = true then
        { tileAt s n.ctx i with pend := 0, full := false, fail := false }
      else { tileAt s n.ctx i with pend := (tileAt s n.ctx i).pend - 1 }) ∧
    (i ∉ nodeIns n → i ∉ nodeOuts n → tileAt t n.ctx i = tileAt s n.ctx i) ∧
    (∀ k, k ≠ n.ctx → tileAt t k i = tileAt s k i)

/-- A node whose teams have left and whose operations are done completes: its record is written at RESULT, its tiles follow, its
entry is free. One with a failed input completes as failed when it would become eligible, with cause 0x98 to the supervisor and a
KIND 4 message to the host (R310, R311, R328, R362). -/
def Sys2Proof.Claims.NodesComplete : Prop :=
  ∀ (s : State) (n : Node), mapFind s.nodes n.uid = some n → (ctxAt s n.ctx).kill = none →
    (n.started = true → nodeLeft s n = true → nodeQuiet s n = true →
      (n.desc.result = 0 → ∃ t, exec (.nodeComplete n.uid) s = .next t ∧ mapFind t.nodes n.uid = none ∧ t.mem = s.mem ∧
        TilesAfter s t n n.failed) ∧
      (∀ tr, n.desc.result ≠ 0 → n.desc.result % 64 = 0 → winCheck s n.ctx true n.desc.result = none →
        walk s n.ctx n.desc.result = some tr → tableAsleep s n.ctx n.desc.result = none →
        tr.attr.zero = false → atHome s (ctxPart n.ctx) (transPa tr n.desc.result) = .ok →
        ∃ t, exec (.nodeComplete n.uid) s = .next t ∧ mapFind t.nodes n.uid = none ∧ TilesAfter s t n n.failed ∧
          (n.desc.taste = false → homeRead t.mem (transPa tr n.desc.result) 64 =
            leBytes 8 (if n.failed = false then 0 else if n.expiredAt = none then 2 else 1) ++ List.replicate 56 0) ∧
          ∀ a, a < transPa tr n.desc.result ∨ transPa tr n.desc.result + 64 ≤ a → homeByte t.mem a = homeByte s.mem a)) ∧
    (n.started = false → n.failed = false → failInput s n = true → eligible s n = true → n.desc.result = 0 →
      boxFull s (ctxPart n.ctx) = false →
      ∃ t, exec (.nodeFailInput n.uid) s = .next t ∧ mapFind t.nodes n.uid = none ∧ TilesAfter s t n true ∧
        Recorded s t (ctxPart n.ctx) (eventRecord n.ctx 0 0 1 (causeWord 0x98 n.seq.toNat) 0 s.clk.clock) ∧
        ∃ m, (partAt t (ctxPart n.ctx)).msgs = (partAt s (ctxPart n.ctx)).msgs ++ [m] ∧ m.kind = 4 ∧
          m.ctx = n.ctx % 256 ∧ m.d0 = n.seq)

/-- A context has been killed: its groups, teams, saved teams, operations, transfers and nodes are gone and others stay, its
windows are deregistered, of its requests only stores, atomics and write-backs go on, and the cause that its supervisor will
receive is noted (R305). -/
def Sys2Proof.Claims.Killed (s t : State) (k : Nat) (cause : Word) : Prop :=
  let mine := fun (node : Nat) => ∃ n, mapFind s.nodes node = some n ∧ n.ctx = k
  (ctxAt t k).kill = some cause ∧ (∀ w, (winAt t k w).valid = false) ∧
    (∀ e, e ∈ t.groups ↔ e ∈ s.groups ∧ ¬ mine (teamAt s e.2.team).node) ∧ (∀ e ∈ t.teams, ¬ mine e.2.node) ∧
    (∀ x, x ∈ t.saved ↔ x ∈ s.saved ∧ ¬ mine x.team.node) ∧ (∀ o, o ∈ t.ops ↔ o ∈ s.ops ∧ o.ctx ≠ k) ∧
    (∀ x, x ∈ t.xfers ↔ x ∈ s.xfers ∧ x.ctx ≠ k) ∧
    ((∀ e ∈ s.nodes, e.2.uid = e.1) → mapOrdered s.nodes = true → ∀ e, e ∈ t.nodes ↔ e ∈ s.nodes ∧ e.2.ctx ≠ k) ∧
    (∀ r ∈ t.reqs, (r.ctx = k → (isStore r || isAtom r || isWb r) = true) ∧ ∃ q ∈ s.reqs, r = { q with fill := r.fill }) ∧
    (∀ q ∈ s.reqs, q.ctx ≠ k ∨ (q.stage = .accepted ∧ (isStore q || isAtom q || isWb q) = true) →
      ∃ r ∈ t.reqs, r = { q with fill := r.fill })

/-- A grid that has used its budget fails: its resident groups have cause 0x90 latched, its saved teams are discarded, no more are
placed, and its tasting unit's OUTCOME is 1. Its watchdog kills the context 1 ms later with 0x91 where a group is still resident, one
that has exited but not left among them (log entry 30), and a kill is reported to the supervisor once nothing of the context is left
(R146, R147, R305, R322). -/
def Sys2Proof.Claims.BudgetsAndKills : Prop :=
  (∀ (s : State) (node : Nat) (n : Node), mapFind s.nodes node = some n →
    (n.started = true → n.expiredAt = none → 1000 * n.budget ≤ n.ran → mapOrdered s.groups = true →
      ∃ t n', exec (.gridBudgetExpired node) s = .next t ∧ mapFind t.nodes node = some n' ∧ n'.failed = true ∧
        n'.expiredAt = some s.clk.ns ∧ n'.desc.teams ≤ n'.nextCluster ∧
        (∀ u, n.taste = some u → n'.taste = some { u with outcome := 1 }) ∧
        (∀ x, x ∈ t.saved ↔ x ∈ s.saved ∧ x.team.node ≠ node) ∧
        ∀ gid g, mapFind s.groups gid = some g → (teamAt s g.team).node = node →
          ∃ g', mapFind t.groups gid = some g' ∧ ∃ c ∈ g'.latched, c.code = 0x90 ∧ c.sup = false) ∧
    (∀ t0, n.expiredAt = some t0 → t0 + 1000000 ≤ s.clk.ns → (∃ e ∈ s.groups, (teamAt s e.2.team).node = n.uid) →
      ∃ t, exec (.watchdogKill node) s = .next t ∧ Killed s t n.ctx (causeWord 0x91 (n.ctx % 256)))) ∧
  (∀ (s : State) (k : Nat) (w : Word), (ctxAt s k).kill = some w →
    (∀ e ∈ s.teams, ∀ n, mapFind s.nodes e.2.node = some n → n.ctx ≠ k) → (∀ o ∈ s.ops, o.ctx ≠ k) →
    (∀ r ∈ s.reqs, r.ctx = k → r.stage = .accepted) →
    ∃ t, exec (.killComplete k) s = .next t ∧ (ctxAt t k).kill = none ∧ t.nodes = s.nodes ∧
      Recorded s t (ctxPart k) (eventRecord k 0 0 1 w 0 s.clk.clock))

/-- A run outside the two lowest whose age has reached 4,096, the oldest of those, is promoted; a wait.clk whose deadline has come
goes on; a group whose lanes have all exited and whose accesses are accepted leaves its slot, which is free with its allotment, and
with the last one its team its core (R19, R122, R130, R138; R130 is followed beside R19 by log entry 43). -/
def Sys2Proof.Claims.GroupEvents : Prop :=
  (∀ (s : State) (gid : Nat) (g : Group) (r : Run), mapFind s.groups gid = some g → hmode g = false →
    r ∈ (runsOf s gid g).drop 2 → 4096 ≤ runAge g r →
    (∀ q ∈ (runsOf s gid g).drop 2, q ≠ r → runAge g q < runAge g r) → runAge g r < 2 ^ 64 →
    exec (.runPromoted gid r.lanes) s = .next (putGroup s gid { g with promoted := r.lanes })) ∧
  (∀ (s : State) (gid : Nat) (g : Group) (b : Block) (d : Word), mapFind s.groups gid = some g →
    b ∈ g.blocks → b.why = .clk d → d.toNat ≤ s.clk.clock.toNat → (∀ c ∈ g.blocks, c.lanes = b.lanes → c = b) →
    ∃ t g', exec (.waitClkDeadline gid b.lanes) s = .next t ∧ t = putGroup s gid g' ∧ b ∉ g'.blocks ∧
      (∀ c ∈ g.blocks, c ≠ b → c ∈ g'.blocks) ∧
      (∀ l, l < 32 → pcGet g' l = if b.lanes.getLsbD l = true then b.npc else pcGet g l) ∧
      g'.vregs = g.vregs ∧ g'.sregs = g.sregs ∧ g'.preds = g.preds) ∧
  (∀ (s : State) (gid : Nat) (g : Group), mapFind s.groups gid = some g → g.exited = 0xFFFFFFFF → g.pends = [] →
    (∀ r ∈ s.reqs, r.uid = g.uid → (isStore r || isAtom r || isWb r) = true → r.stage = .accepted) →
    (∀ x ∈ s.xfers, x.uid = g.uid → x.op = none → x.stage ≠ 0) → (∀ e ∈ s.edits, e.uid = g.uid → e.committed = true) →
    g.stopped = none →
    ∃ t, exec (.groupLeave gid) s = .next t ∧ mapFind t.groups gid = none ∧ (∀ a, homeByte t.mem a = homeByte s.mem a) ∧
      (∀ e ∈ coreGroups t (gidCore gid), e.1 ≠ gidSlot gid) ∧
      (∀ e ∈ coreGroups t (gidCore gid), ∃ d ∈ coreGroups s (gidCore gid), e.1 = d.1 ∧ e.2.base = d.2.base ∧ e.2.allot = d.2.allot) ∧
      ((∀ e ∈ s.groups, e.2.team = g.team → e.1 = gid) → ∀ x, mapFind t.teams g.team = some x →
        x.gone = true ∧ x.slots = [] ∧ x.bases = []))

/-- A latched cause is taken at an instruction boundary, the lowest code first, by the eligible run with the lowest entry or, with
every run blocked, by the blocked one with the lowest entry, once no run waits for the request that its resume performs first: a group cause enters the handler with EPC at the run's counter, a
supervisor cause stops the group and tells the supervisor (R288, R289, R296, R374). -/
def Sys2Proof.Claims.LatchedCausesTaken : Prop :=
  ∀ (s : State) (gid : Nat) (g : Group) (c : Latched) (lanes : LaneMask), mapFind s.groups gid = some g → g.stopped = none →
    c ∈ g.latched → (c.sup = true ∨ hmode g = false) →
    (∀ d ∈ g.latched, (d.sup = true ∨ hmode g = false) → d ≠ c → c.code < d.code) →
    ((∃ r rest, runsOf s gid g = r :: rest ∧ r.lanes = lanes) ∨ (runsOf s gid g = [] ∧ ∃ b ∈ g.blocks, b.lanes = lanes ∧
      let all := (if hmode g = true then g.hlanes else 0xFFFFFFFF) &&& ~~~g.exited
      meets b.lanes all = true ∧ ∀ d ∈ g.blocks, meets d.lanes all = true → d ≠ b → b.pc.toNat < d.pc.toNat)) →
    pendsOf g lanes = [] → (∀ b ∈ g.blocks, b.why = .held → blockHolds s gid g b = false) →
    let epc := epcWord (pcGet g (lowLane lanes)) none
    ∃ t g', exec (.latchedCauseDelivery gid) s = .next t ∧ mapFind t.groups gid = some g' ∧
      g'.latched = g.latched.erase c ∧
      (c.sup = false → handlerOn g = true → g'.cause = causeWord c.code c.info ∧ g'.epc = epc ∧ g'.hlanes = lanes ∧
        hmode g' = true ∧ t.mem = s.mem) ∧
      (c.sup = true → g'.stopped.isSome = true ∧ Told s t gid (groupCtx s g) (causeWord c.code c.info) epc)

/-- The ends of nodes, of grids and of contexts, and the events of one group. That a slot is free when its group leaves and the
team's core when its last one has is log entry 43 (DEDUCED from R130 beside R19); the watchdog's details are log entry 30. -/
def Obligations.NodesAndGroupsEnd : Prop := NodesComplete ∧ BudgetsAndKills ∧ GroupEvents ∧ LatchedCausesTaken

/-! ### Errors, the memory system's control and the package: events -/

/-- A correctable error counts in the partition's counter up to its largest value, and an error that a retry clears in its other
one, with no other effect (R302, R304). -/
def Sys2Proof.Claims.ErrorsCount : Prop :=
  (∀ (s : State) (p : Nat), ∃ t, exec (.correctedError p) s = .next t ∧
    (partAt t p).corrected.toNat = min ((partAt s p).corrected.toNat + 1) (2 ^ 32 - 1) ∧
    (∀ q, q ≠ p → partAt t q = partAt s q) ∧ t.groups = s.groups ∧ t.mem = s.mem) ∧
  (∀ (s : State) (place : ErrPlace), errPossible s place = true → ∃ t, exec (.uncorrectableError place true) s = .next t ∧
    (∀ p, errPart s place = some p →
      (partAt t p).transient.toNat = min ((partAt s p).transient.toNat + 1) (2 ^ 32 - 1)) ∧
    (∀ q, errPart s place ≠ some q → partAt t q = partAt s q) ∧ t.groups = s.groups ∧ t.mem = s.mem ∧ t.sram = s.sram ∧
    t.cores = s.cores)

/-- An error that no retry clears poisons its unit and no other, at its holder: a line at home, in a proxy slice, of a SHADOW copy,
of a format window or dirty in an L1, or a granule of the SRAM; a clean line of an L1 is dropped. No byte changes (R302). -/
def Sys2Proof.Claims.ErrorsPoison : Prop :=
  ∀ (s : State) (place : ErrPlace), errPossible s place = true →
    (∀ g r, place ≠ .group g r) → (∀ k, place ≠ .engine k) →
    ∃ t, exec (.uncorrectableError place false) s = .next t ∧ (∀ a, homeByte t.mem a = homeByte s.mem a) ∧
      t.sram.bytes = s.sram.bytes ∧ t.groups = s.groups ∧ t.parts = s.parts ∧
      (∀ l, place = .line l → ∀ i, i ∈ t.mem.poison ↔ i = l ∨ i ∈ s.mem.poison) ∧
      ((∀ l, place ≠ .line l) → t.mem.poison = s.mem.poison) ∧
      (∀ d l c, place = .proxy d l → proxyAt s d l = some c → c.line = l →
        proxyAt t d l = some { c with poison := true }) ∧
      (∀ l, place = .shadow l → ∃ c, mapFind t.mem.shadows l = some c ∧ c.poison = true) ∧
      (∀ p w l, place = .view p w l → (∀ v ∈ t.mem.views, v.part = p → v.win = w → v.off = 128 * l → v.poison = true) ∧
        ∀ v ∈ s.mem.views, (v.part ≠ p ∨ v.win ≠ w ∨ v.off ≠ 128 * l) → v ∈ t.mem.views) ∧
      (∀ c l, place = .l1 c l → (∀ y ∈ (coreAt t c).l1, y.line = l → y.mask ≠ 0 ∧ y.poison = true) ∧
        (∀ y ∈ (coreAt s c).l1, y.line = l → y.mask ≠ 0 → { y with poison := true } ∈ (coreAt t c).l1) ∧
        (∀ y ∈ (coreAt s c).l1, y.line ≠ l → y ∈ (coreAt t c).l1) ∧ ∀ d, d ≠ c → coreAt t d = coreAt s d) ∧
      (∀ c q, place = .sram c q → ∀ i, i ∈ t.sram.poison ↔ i = c * 32768 + q ∨ i ∈ s.sram.poison) ∧
      ((∀ c q, place ≠ .sram c q) → t.sram = s.sram)

/-- An error in a group's state stops the group and its supervisor receives 0xB0; one in an engine's state kills the context,
with 0xB2 to the supervisor and then 0x95 with bit 8 of INFO set; a link error is cause 0xB3 in the partition's supervisor
(R284, R302, R303, R305). R284 gives INFO of 0xB3 as die and port: the layout 256*die + port is the model's (log entry 10). -/
def Sys2Proof.Claims.ErrorsStop : Prop :=
  (∀ (s : State) (gid r : Nat) (g : Group), mapFind s.groups gid = some g → g.stopped = none → g.exited ≠ 0xFFFFFFFF →
    ∃ t g' epc, exec (.uncorrectableError (.group gid r) false) s = .next t ∧ mapFind t.groups gid = some g' ∧
      g'.stopped.isSome = true ∧ (hmode g = false → g'.cause = causeWord 0xB0 r ∧ g'.epc = epc) ∧
      Told s t gid (groupCtx s g) (causeWord 0xB0 r) epc) ∧
  (∀ (s : State) (k : Nat), (ctxAt s k).kill = none → ∃ t, exec (.uncorrectableError (.engine k) false) s = .next t ∧
    ((partAt s (ctxPart k)).sevWait = [] →
      (∀ pa, eventPlace s (ctxPart k) = .home pa → (partAt t (ctxPart k)).sevTail = (partAt s (ctxPart k)).sevTail + 1) ∧
      (eventPlace s (ctxPart k) = .lost → (partAt t (ctxPart k)).sevOvf = true)) ∧
    (ctxAt t k).kill = some (causeWord 0x95 (256 + k % 256)) ∧ (∀ w, (winAt t k w).valid = false) ∧
    (∀ e ∈ t.groups, ∀ n, mapFind s.nodes (teamAt s e.2.team).node = some n → n.ctx ≠ k) ∧
    (∀ e ∈ t.teams, ∀ n, mapFind s.nodes e.2.node = some n → n.ctx ≠ k) ∧
    (∀ x ∈ t.saved, ∀ n, mapFind s.nodes x.team.node = some n → n.ctx ≠ k) ∧ ∀ o ∈ t.ops, o.ctx ≠ k) ∧
  (∀ (s : State) (p die port : Nat), ∃ t, exec (.linkError p die port) s = .next t ∧
    Recorded s t p (eventRecord (256 * p) 0 0 1 (causeWord 0xB3 (256 * die + port)) 0 s.clk.clock))

/-- Errors of every kind. The unit that an error poisons is log entry 16, the layout of INFO of 0xB3 log entry 10. -/
def Obligations.ErrorsCountOrPoison : Prop := ErrorsCount ∧ ErrorsPoison ∧ ErrorsStop

/-- A switch point, once its bins are awake, makes every staged mask and every staged domain of the partition current, and none
stays staged; the lines that change their home are written back and dropped, with no byte lost. A range write-back leaves no dirty
byte in its lines and changes no byte that is read (R333, R334, R337). That masks staged after GO are taken too is log entry 36
(DEDUCED). -/
def Sys2Proof.Claims.SwitchesAndWriteBacks : Prop :=
  (∀ (s : State) (p : Nat), (partAt s p).switching = true → s.mem.wf = true → mapOrdered (partAt s p).staged = true →
    linesAsleep s ((dirtyLines s.mem).filter (moves s p)) = [] →
    ∃ t, exec (.switchPoint p) s = .next t ∧ (partAt t p).switching = false ∧
      (∀ d, curMask (partAt t p) d = stagedMask (partAt s p) d ∧ stagedMask (partAt t p) d = curMask (partAt t p) d) ∧
      (∀ b, binAt t b = if binOwned s p b = true then { binAt s b with dom := (binAt s b).sdom } else binAt s b) ∧
      (∀ a, homeByte t.mem a = homeByte s.mem a) ∧
      (∀ a, mapFind t.mem.dirty a = if moves s p (a / 128) = true then none else mapFind s.mem.dirty a) ∧
      t.groups = s.groups ∧ t.reqs = s.reqs ∧ ∀ q, q ≠ p → partAt t q = partAt s q) ∧
  (∀ (s : State) (p lo n : Nat), (partAt s p).slwb = some (lo, n) → s.mem.wf = true →
    linesAsleep s ((dirtyLines s.mem).filter (fun l => decide (lo ≤ l ∧ l < lo + n))) = [] →
    ∃ t, exec (.slwbDone p) s = .next t ∧ (partAt t p).slwb = none ∧
      (∀ a, homeByte t.mem a = homeByte s.mem a) ∧
      (∀ a, lo ≤ a / 128 → a / 128 < lo + n → mapFind t.mem.dirty a = none) ∧ t.groups = s.groups)

/-- An emptied key slot has no key and no view line, and an owner entry that waited for it takes effect (R341, R350). -/
def Sys2Proof.Claims.SlotsEmpty : Prop :=
  ∀ (s : State) (i : Nat), (mapGet {} s.out.slots i).emptying = true →
    ∃ t, exec (.keySlotEmptied i) s = .next t ∧ mapGet {} t.out.slots i = {} ∧
      (∀ v, v ∈ t.mem.views ↔ v ∈ s.mem.views ∧ v.slot ≠ i) ∧ t.mem.dirty = s.mem.dirty ∧ t.mem.cellar = s.mem.cellar ∧
      (∀ e, (mapGet {} s.out.slots i).owner = some e → mapGet 0 t.out.slotOwner i = e) ∧
      (∀ j, j ≠ i → mapGet {} t.out.slots j = mapGet {} s.out.slots j ∧ mapGet 0 t.out.slotOwner j = mapGet 0 s.out.slotOwner j)

/-- A line of a format window that a request waits for is decoded and held by its home slice; where the fill fails, the requests
receive poisoned data, nothing is held, and a supervisor receives the cause (R303, R339, R340). -/
def Sys2Proof.Claims.ViewLinesFill : Prop :=
  ∀ (s : State) (p win line : Nat),
    let waits := fun (r : Req) => r.stage = .queued ∧ r.attr.fmt = true ∧ ctxPart r.ctx = p ∧
      lineOf r.pa = lineOf (viewPa win (128 * line))
    (∃ r ∈ s.reqs, waits r) → viewAt s p win (128 * line) = none → viewAsleep s p win (128 * line) = none →
    (∀ l, viewFill s p win (128 * line) = (l, none) → ∃ t, exec (.viewLineFill p win line) s = .next t ∧
      t.mem.views = l :: s.mem.views ∧ t.mem.dirty = s.mem.dirty ∧ t.mem.cellar = s.mem.cellar ∧ t.reqs = s.reqs ∧
      t.groups = s.groups) ∧
    (∀ l c, viewFill s p win (128 * line) = (l, some c) → (∀ r ∈ s.reqs, waits r → isPref r = true) →
      ∃ t, exec (.viewLineFill p win line) s = .next t ∧ t = { s with reqs := t.reqs } ∧
        ∀ r, r ∈ t.reqs ↔ r ∈ s.reqs ∧ ¬ waits r) ∧
    (∀ l c, viewFill s p win (128 * line) = (l, some c) → (∃ r ∈ s.reqs, waits r ∧ isPref r = false) →
      ∃ t q, exec (.viewLineFill p win line) s = .next t ∧
      t.mem.views = s.mem.views ∧ Recorded s t q (eventRecord (256 * q) 0 0 1 (causeWord c (viewPa win (128 * line))) 0 s.clk.clock) ∧
      ∀ r ∈ s.reqs, (waits r → isPref r = false →
          { r with stage := .accepted, data := l.data, poison := true, fill := false, tag := 0xB1 } ∈ t.reqs) ∧
        (¬ waits r → ∃ b, { r with fill := b } ∈ t.reqs))

/-- Events of the home slices and of the key slots; what was staged after GO is log entry 36. -/
def Obligations.SlicesSlotsAndViewLines : Prop := SwitchesAndWriteBacks ∧ SlotsEmpty ∧ ViewLinesFill

/-- Every byte of bin b reads 0 and no cache of a core holds a line of it; every byte of the other bins is as it was. -/
def Sys2Proof.Claims.Emptied (s t : State) (b : Nat) : Prop :=
  (∀ a, binOf a = b → homeByte t.mem a = 0) ∧ (∀ a, binOf a ≠ b → homeByte t.mem a = homeByte s.mem a) ∧
    ∀ c, ∀ l ∈ (coreAt t c).l1, binOf (128 * l.line) ≠ b

/-- No event record of the bin's partition waits for it. -/
def Sys2Proof.Claims.NoRecordWaits (s : State) (b : Nat) : Prop :=
  ∀ p, ownerPart s.out.binOwner b = some p → (partAt s p).sevWait = []

/-- A bin that has been idle long enough and is not held goes to standby and then to retention; a wake ends in the state that it
was for, and leaves zeros after D; a bin whose ALLOC was cleared loses its bytes when it powers down; no other bin changes
(R343, R345, R346; that idle time starts anew after a wake is log entry 35). -/
def Sys2Proof.Claims.BinsSleepAndWake : Prop :=
  ∀ (s : State) (b : Nat),
    (mayStandby s b = true → ∃ t, exec (.binToStandby b) s = .next t ∧ binAt t b = { binAt s b with state := 1 } ∧
      (∀ c, c ≠ b → binAt t c = binAt s c) ∧ t.mem = s.mem ∧ t.groups = s.groups) ∧
    (mayRetain s b = true → ∃ t, exec (.binToRetention b) s = .next t ∧ binAt t b = { binAt s b with state := 2 } ∧
      (∀ c, c ≠ b → binAt t c = binAt s c) ∧ t.mem = s.mem ∧ t.groups = s.groups) ∧
    (∀ st w, (binAt s b).wake = some (st, w) → w ≤ s.clk.ns → NoRecordWaits s b →
      ∃ t, exec (.binWakeDone b) s = .next t ∧ (binAt t b).state = st ∧ (binAt t b).wake = none ∧
        (binAt t b).alloc = (binAt s b).alloc ∧ (binAt t b).sets = (binAt s b).sets ∧
        (binAt t b).last = (if (binAt s b).clear = true ∨ (binAt s b).awaited = true then s.clk.ns else (binAt s b).last) ∧
        (∀ c, c ≠ b → binAt t c = binAt s c) ∧ ((binAt s b).clear = true → Emptied s t b) ∧
        ((binAt s b).clear = false → t.mem = s.mem) ∧ t.groups = s.groups) ∧
    ((binAt s b).falling = true → NoRecordWaits s b → ∃ t, exec (.binPowerDown b) s = .next t ∧
      binAt t b = { binAt s b with falling := false } ∧ (∀ c, c ≠ b → binAt t c = binAt s c) ∧ Emptied s t b ∧
      t.groups = s.groups)

/-- A BWPHASE value arrives at the controllers, oldest first. LEVEL 4 to 7 wakes the allocated bins of its set to A, one that is
on its way to S within 30 ns of that and never later than from T; LEVEL 1 to 3 wakes those in T to S; no other bin changes
(R343, R348, R349, R355; that a value retargets a wake under way is log entry 35). -/
def Sys2Proof.Claims.PhasesArrive : Prop :=
  ∀ (s : State) (p t0 : Nat) (w : Word) rest, (partAt s p).bwSent = (t0, w) :: rest →
    let level := w.toNat % 8
    let held := fun (c : Nat) => binOwned s p c = true ∧ feature s p 7 = true ∧ level ≠ 0 ∧
      (binAt s c).sets.getLsbD (w.toNat / 8 % 8) = true ∧ (binAt s c).alloc = true ∧ (binAt s c).state ≠ 0
    ∃ t, exec (.bwphaseArrival p) s = .next t ∧ (partAt t p).bwSent = rest ∧ (partAt t p).bwNow = w ∧ t.mem = s.mem ∧
      t.groups = s.groups ∧ ∀ c,
        (¬ held c → binAt t c = binAt s c) ∧
        (held c → 4 ≤ level →
          ((binAt s c).wake = none → binAt t c =
            { binAt s c with wake := some (0, s.clk.ns + if (binAt s c).state = 1 then 30 else 2000) }) ∧
          (∀ u, (binAt s c).wake = some (1, u) → binAt t c =
            { binAt s c with wake := some (0, min (u + 30) (s.clk.ns + 2000)) }) ∧
          (∀ u, (binAt s c).wake = some (0, u) → binAt t c = binAt s c)) ∧
        (held c → level ≤ 3 →
          ((binAt s c).state = 2 → (binAt s c).wake = none → binAt t c =
            { binAt s c with wake := some (1, s.clk.ns + 2000) }) ∧
          ((binAt s c).state ≠ 2 ∨ (binAt s c).wake ≠ none → binAt t c = binAt s c))

/-- The power states of the bins. The start of idle time after a wake, and a phase value that retargets a wake, are log entry 35
(DEDUCED). -/
def Obligations.BinsChangeState : Prop := BinsSleepAndWake ∧ PhasesArrive

/-- Each control-register write that is an event of its own has exactly the effect that a write of that register by a
supervisor on die 0 with the current selects has (R294; that reading of the table's event rows is log entry 39, DESIGN CHOICE). -/
def Sys2Proof.Claims.RegisterWritesAsEvents : Prop :=
  ∀ row ∈ (
   [(.bankroleWrite, 0x6B, id), (.bankpinWrite, 0x6C, id), (.wtctlRegister, 0x53, fun v => v ||| 1),
    (.wtctlDeregister, 0x53, fun v => v &&& ~~~1), (.fpbaseWrite, 0x58, id), (.fpaddWrite, 0x5A, id),
    (.ptbaseWrite, 0x67, id), (.pteInstall, 0x56, fun _ => 1), (.pteRemove, 0x56, fun _ => 3),
    (.pteRead, 0x56, fun _ => 5), (.gctlResume, 0x63, fun v => BitVec.ofNat 64 (v.toNat % 2 ^ 15 + 2 ^ 56)),
    (.gctlReflect, 0x63, fun v => BitVec.ofNat 64 (v.toNat % 2 ^ 15 + 2 * 2 ^ 56)),
    (.gctlKill, 0x63, fun v => BitVec.ofNat 64 (v.toNat % 2 ^ 15 + 3 * 2 ^ 56)), (.ctxctlWrite, 0x66, id),
    (.slhashWrite, 0x71, id), (.slctlGo, 0x72, fun _ => 1), (.slwbWrite, 0x76, id),
    (.binmapAllocClear, 0x74, fun v => v &&& ~~~4), (.binmapAllocSet, 0x74, fun v => v ||| 4), (.binmapDomWrite, 0x74, id),
    (.fwctlValidSet, 0x7C, fun v => v ||| 1), (.fwctlValidClear, 0x7C, fun v => v &&& ~~~1),
    (fun p v => .registerWrite (.csr p 0x6A) v, 0x6A, id)] :
    List ((Nat → Word → Instr) × Nat × (Word → Word))), ∀ (p : Nat) (v : Word) (s t : State), csrWrite s p 0 row.2.1 (row.2.2 v) = .done t →
    exec (row.1 p v) s = .next t

/-- Bank roles and pins: BANKROLE gives an owned core without a team or a reservation its roles, and empties its L1 where they
change; with a team on it, or a role code 3, it is ignored. BANKPIN pins an owned core (R23, R25). -/
def Sys2Proof.Claims.BankWrites : Prop :=
  ∀ (s : State) (p : Nat) (v : Word), coreMine s p = true →
    let c := selCore s p
    let others := fun (t : State) => (∀ d, d ≠ c → coreAt t d = coreAt s d) ∧ t.groups = s.groups ∧ t.ctxs = s.ctxs
    ((∀ e ∈ s.teams, e.2.core ≠ c) → (∀ i, i < 32 → v.toNat / 4 ^ i % 4 ≠ 3) → ∃ t, exec (.bankroleWrite p v) s = .next t ∧
      (coreAt t c).bankrole = v ∧ (v ≠ (coreAt s c).bankrole → (coreAt t c).l1 = []) ∧
      (∀ a, homeByte t.mem a = homeByte s.mem a) ∧ others t) ∧
    ((∃ e ∈ s.teams, e.2.core = c) ∨ (∃ i, i < 32 ∧ v.toNat / 4 ^ i % 4 = 3) → exec (.bankroleWrite p v) s = .next s) ∧
    ∃ t, exec (.bankpinWrite p v) s = .next t ∧ coreAt t c = { coreAt s c with pin := v.getLsbD 0 } ∧ t.mem = s.mem ∧ others t

/-- Windows: WTCTL with VALID 1 registers an entry that passes its checks, with its counter at 0, and sets ERR on any other; with
VALID 0 it deregisters the entry once no transfer names it (R208, R209; the RW fields of such a write are log entry 32). -/
def Sys2Proof.Claims.WindowWrites : Prop :=
  ∀ (s : State) (p : Nat) (v : Word),
    let k := selCtx s p
    let i := (ctxAt s k).wtsel.toNat
    let others := fun (t : State) => (∀ j, j ≠ i → winAt t k j = winAt s k j) ∧ (∀ c, c ≠ k → ctxAt t c = ctxAt s c) ∧
      t.groups = s.groups ∧ t.mem = s.mem
    (ctxAt s k).wtsel ≠ 0 →
    ((winAt s k i).valid = false → winOk s p (winAt s k i) (v ||| 1) = true → ∃ t, exec (.wtctlRegister p v) s = .next t ∧
      winAt t k i = { winAt s k i with ctl := v &&& 0xFFFFFFF0000003C0, err := false, valid := true, arrivals := 0 } ∧ others t) ∧
    ((winAt s k i).valid = true ∨ winOk s p (winAt s k i) (v ||| 1) = false → ∃ t, exec (.wtctlRegister p v) s = .next t ∧
      winAt t k i = { winAt s k i with err := true } ∧ others t) ∧
    ((∀ x ∈ s.xfers, x.ctx = k → x.win ≠ i) → ∃ t, exec (.wtctlDeregister p v) s = .next t ∧ (winAt t k i).valid = false ∧
      (winAt t k i).arrivals = (winAt s k i).arrivals ∧ others t)

/-- Frame pools: FPBASE sets the ring of a disabled pool, or disables it; FPADD appends a frame of an allocated bin, and sets ERR
for another frame, a full ring, or a frame that holds the boot mapping's tables (R232, R361; the last is log entry 33). -/
def Sys2Proof.Claims.PoolWrites : Prop :=
  ∀ (s : State) (p : Nat) (v : Word),
    let k := selCtx s p
    let q := (ctxAt s k).pool
    let logn := v.toNat / 2 ^ 52 % 32
    let frame := v.toNat / 2 ^ 16 % 2 ^ 36 * 65536
    let root := (ctxAt s (256 * p)).ptbase.toNat / 2 ^ 11 % 2 ^ 41 * 2048
    let kept := (ctxAt s (256 * p)).ptbase.getLsbD 0 = true ∧ root % 2 ^ 28 = 0xFE00000 ∧ frame / 2 ^ 21 = root / 2 ^ 21
    (q.en = true → v.getLsbD 0 = true → exec (.fpbaseWrite p v) s = .next s) ∧
    (q.en = false ∨ v.getLsbD 0 = false → ∃ t, exec (.fpbaseWrite p v) s = .next t ∧
      (ctxAt t k).pool = { q with logn, base := v.toNat / 128 % 2 ^ 45 * 128,
                                  en := v.getLsbD 0 && decide (4 ≤ logn ∧ logn ≤ 25) } ∧
      (∀ c, c ≠ k → ctxAt t c = ctxAt s c) ∧ t.mem = s.mem ∧ t.groups = s.groups) ∧
    (inAllocated s p frame 65536 = true → ringRefuses q = false → ¬ kept →
      (∀ c, atHome s p (poolSlot q q.tail) ≠ .dead c) → ∃ t, exec (.fpaddWrite p v) s = .next t ∧
      (ctxAt t k).pool = { q with tail := q.tail + 1, waiting := false, err := false } ∧ t.groups = s.groups ∧
      homeRead t.mem (poolSlot q q.tail) 8 = leBytes 8 frame ∧
      ∀ a, a < poolSlot q q.tail ∨ poolSlot q q.tail + 8 ≤ a → homeByte t.mem a = homeByte s.mem a) ∧
    (inAllocated s p frame 65536 = false ∨ ringRefuses q = true ∨ kept → ∃ t, exec (.fpaddWrite p v) s = .next t ∧
      (ctxAt t k).pool = { q with err := true } ∧ t.mem = s.mem ∧ t.groups = s.groups)

/-- Page tables: PTBASE of a context without nodes names a root in an allocated bin and an unmapped frame, and setting the context
up zeroes the table; no core keeps a translation of the context. PTECMD's install and remove, accepted, leave an edit of their page
and set BUSY; its read gives the leaf of the page, or 0 (R235, R236). -/
def Sys2Proof.Claims.TableWrites : Prop :=
  ∀ (s : State) (p : Nat) (v : Word),
    let k := selCtx s p
    let c := ctxAt s k
    let root := v.toNat / 2 ^ 11 % 2 ^ 41 * 2048
    let va := c.pteva.toNat / 2 ^ 16 % 2 ^ 40 * 65536
    (liveNodes s k = [] → inAllocated s p root 2048 = true → mapGet 0 s.mem.counts (root / 65536) = 0 →
      ∃ t, exec (.ptbaseWrite p v) s = .next t ∧ (ctxAt t k).ptbase = v &&& 0x000FFFFFFFFFF801 ∧ t.groups = s.groups ∧
        (∀ d, ∀ u ∈ (coreAt t d).tlb, u.ctx ≠ k) ∧
        (v.getLsbD 0 = true → c.ptbase.getLsbD 0 = false → (ctxAt t k).ctrs = [] ∧ ∀ i, i < 2048 → homeByte t.mem (root + i) = 0) ∧
        ∀ a, a < root ∨ root + 2048 ≤ a → homeByte t.mem a = homeByte s.mem a) ∧
    (liveNodes s k ≠ [] ∨ inAllocated s p root 2048 = false ∨ mapGet 0 s.mem.counts (root / 65536) ≠ 0 →
      exec (.ptbaseWrite p v) s = .next s) ∧
    (∀ size, c.pteBusy = false → pteSize c.pteva = some size → va % size = 0 → tableAsleep s k va = none →
      poolAsleep s k = none → rangesBusy s k [(va, size)] (fun _ => true) = false →
      let accepted := fun (op : EditOp) (t : State) => ∃ e, t.edits = s.edits ++ [e] ∧ e.op = op ∧ e.ctx = k ∧ e.pte = true ∧
        e.committed = false ∧ (va, size) ∈ e.ranges ∧ (ctxAt t k).pteBusy = true ∧ t.mem = s.mem ∧ t.groups = s.groups
      (walkCtx s k va ≠ none → walkDead s k va = none → installOk s p size c.pteval.toNat = true → sizeClash s k va size = false →
        tablesNeeded s k (editChgs s k (.install va size c.pteval) 0) ≤ framesFree s k →
        ∃ t, exec (.pteInstall p v) s = .next t ∧ accepted (.install va size c.pteval) t) ∧
      (pageEntry s k va ≠ none → sizeClash s k va size = false →
        tablesNeeded s k (editChgs s k (.remove va size) 0) ≤ framesFree s k →
        ∃ t, exec (.pteRemove p v) s = .next t ∧ accepted (.remove va size) t) ∧
      (∀ f, walkCtx s k va = some (f, true) → f.level = pteLevel size → ∃ t, exec (.pteRead p v) s = .next t ∧
        ctxAt t k = { c with pteval := BitVec.ofNat 64 f.entry, pteErr := false } ∧ t.mem = s.mem ∧ t.groups = s.groups) ∧
      ((∀ f, walkCtx s k va ≠ some (f, true)) → ∃ t, exec (.pteRead p v) s = .next t ∧
        ctxAt t k = { c with pteval := 0, pteErr := false } ∧ t.mem = s.mem ∧ t.groups = s.groups))

/-- GCTL on a stopped group: resume has it issue again from EPC, reflect enters its handler with the cause that stopped it, and a
kill, or a reflect where no handler can take it, kills its context with 0x95 to come; CTXCTL sets the context's EN
(R298, R305, R358). -/
def Sys2Proof.Claims.GroupWrites : Prop :=
  ∀ (s : State) (p : Nat) (v : Word),
    (∀ gid g x, stoppedAt s p (v.toNat % 2 ^ 15) = some (gid, g) → g.stopped = some x →
      ((∀ r ∈ s.reqs, r.uid = g.uid → r.stage ≠ .held) → ∃ t g', exec (.gctlResume p v) s = .next t ∧ mapFind t.groups gid = some g' ∧ g'.stopped = none ∧
        g'.vregs = g.vregs ∧ g'.sregs = g.sregs ∧ g'.cause = g.cause ∧ t.mem = s.mem ∧
        (∀ l, l < 32 → pcGet g' l = if x.cont = false ∧ (x.lanes &&& ~~~g.exited).getLsbD l = true then epcPc g.epc
          else pcGet g l)) ∧
      (handlerOn g = true → hmode g = false → ∃ t g', exec (.gctlReflect p v) s = .next t ∧ mapFind t.groups gid = some g' ∧
        g'.stopped = none ∧ hmode g' = true ∧ g'.cause = g.cause ∧ g'.epc = g.epc ∧ g'.hlanes = (x.lanes &&& ~~~g.exited) ∧
        g'.vregs = g.vregs ∧ g'.sregs = g.sregs ∧ t.mem = s.mem ∧
        (∀ l, l < 32 → (x.lanes &&& ~~~g.exited).getLsbD l = true →
          (pcGet g' l).toNat = g.trapbase.toNat / 4 % 2 ^ 54 * 4) ∧
        (∀ r ∈ t.reqs, r ∈ s.reqs ∧ (r.uid = g.uid → r.stage ≠ .held))) ∧
      (handlerOn g = false ∨ hmode g = true → ∃ t, exec (.gctlReflect p v) s = .next t ∧
        Killed s t (groupCtx s g) (causeWord 0x95 (groupCtx s g % 256))) ∧
      ∃ t, exec (.gctlKill p v) s = .next t ∧ Killed s t (groupCtx s g) (causeWord 0x95 (groupCtx s g % 256))) ∧
    ∃ t, exec (.ctxctlWrite p v) s = .next t ∧ ctxAt t (selCtx s p) = { ctxAt s (selCtx s p) with en := v.getLsbD 0 } ∧
      (∀ c, c ≠ selCtx s p → ctxAt t c = ctxAt s c) ∧ t.groups = s.groups ∧ t.mem = s.mem

/-- Slices: SLHASH stages a mask and leaves the current one; a GO whose staged masks pass the checks begins a switch, any other
sets ERR; SLWB of whole frames in allocated bins begins a write-back, any other sets ERR, and so does either while one is under
way (R333, R334, R337). -/
def Sys2Proof.Claims.SliceWrites : Prop :=
  ∀ (s : State) (p : Nat) (v : Word),
    let x := partAt s p
    let n := v.toNat / 2 ^ 52 % 4096
    let a := v.toNat / 2 ^ 16 % 2 ^ 36 * 65536
    let others := fun (t : State) => (∀ q, q ≠ p → partAt t q = partAt s q) ∧ t.mem = s.mem ∧ t.bins = s.bins ∧ t.groups = s.groups
    (∀ d, selDom s p = some d → ∃ t, exec (.slhashWrite p v) s = .next t ∧ stagedMask (partAt t p) d = v.setWidth 48 ∧
      (∀ e, e ≠ d → stagedMask (partAt t p) e = stagedMask x e) ∧ (partAt t p).masks = x.masks ∧ others t) ∧
    (goOk s p = true → ∃ t, exec (.slctlGo p v) s = .next t ∧
      partAt t p = { x with switching := true, slErr := false, goAt := s.fresh } ∧ others t) ∧
    (goOk s p = false → ∃ t, exec (.slctlGo p v) s = .next t ∧ partAt t p = { x with slErr := true } ∧ others t) ∧
    (x.switching = true ∨ x.slwb ≠ none ∨
      (∃ d i, d < 64 ∧ i < 48 ∧ (stagedMask x d).getLsbD i = true ∧ sliceOwned s p (48 * (d / 16) + i) = false) ∨
      (∃ d e i, d < 64 ∧ e < 64 ∧ d ≠ e ∧ d / 16 = e / 16 ∧ i < 48 ∧ (stagedMask x d).getLsbD i = true ∧
        (stagedMask x e).getLsbD i = true) → goOk s p = false) ∧
    (x.switching = false → x.slwb = none → n ≠ 0 → inAllocated s p a (65536 * n) = true →
      ∃ t, exec (.slwbWrite p v) s = .next t ∧ partAt t p = { x with slErr := false, slwb := some (a / 128, 512 * n) } ∧ others t) ∧
    (x.switching = true ∨ x.slwb ≠ none ∨ n = 0 ∨ inAllocated s p a (65536 * n) = false →
      ∃ t, exec (.slwbWrite p v) s = .next t ∧ partAt t p = { x with slErr := true } ∧ others t)

/-- Bins: BINMAP stages the domain and sets SETS; ALLOC 0 puts an allocated bin in D at once, its power to fall; ALLOC 1 wakes a bin
in D to A within 40 microseconds, to read zeros (R344, R346). -/
def Sys2Proof.Claims.BinWrites : Prop :=
  ∀ (s : State) (p : Nat) (v : Word), binMine s p = true →
    let b := selBin s p
    let x := binAt s b
    let fields := fun (t : State) => (binAt t b).dom = x.dom ∧ (binAt t b).sdom.toNat = v.toNat / 2 ^ 44 % 16 ∧
      (binAt t b).sets.toNat = v.toNat / 2 ^ 56 ∧ (∀ c, c ≠ b → binAt t c = binAt s c) ∧ t.mem = s.mem ∧ t.groups = s.groups ∧
      t.parts = s.parts
    (∃ t, exec (.binmapAllocClear p v) s = .next t ∧ fields t ∧ (binAt t b).alloc = false ∧
      (x.alloc = true → (binAt t b).state = 3 ∧ (binAt t b).falling = true ∧ (binAt t b).wake = none)) ∧
    (∃ t, exec (.binmapAllocSet p v) s = .next t ∧ fields t ∧ (binAt t b).alloc = true ∧
      (x.alloc = false → (binAt t b).wake = some (0, s.clk.ns + 40000) ∧ (binAt t b).clear = true ∧ (binAt t b).falling = false)) ∧
    ∃ t, exec (.binmapDomWrite p v) s = .next t ∧ fields t ∧ (binAt t b).alloc = v.getLsbD 2

/-- Format windows: FWCTL with VALID 1 makes a window that passes its checks valid and sets ERR on any other; with VALID 0 the window
is invalid, and no slice, L1 or constant cache of the partition holds a line of its view (R338, R339). -/
def Sys2Proof.Claims.FormatWindowWrites : Prop :=
  ∀ (s : State) (p : Nat) (v : Word),
    let w := selFwin s p
    let x := { fwinAt s p with ctl := v &&& 0xFFFFF030 }
    let others := fun (t : State) => (∀ j, j ≠ w → mapGet {} (partAt t p).fwins j = mapGet {} (partAt s p).fwins j) ∧
      (∀ q, q ≠ p → partAt t q = partAt s q) ∧ t.groups = s.groups
    (fwOk s p x = true → ∃ t, exec (.fwctlValidSet p v) s = .next t ∧
      mapGet {} (partAt t p).fwins w = { x with err := false, valid := true } ∧ t.mem = s.mem ∧ others t) ∧
    (fwOk s p x = false → ∃ t, exec (.fwctlValidSet p v) s = .next t ∧
      mapGet {} (partAt t p).fwins w = { fwinAt s p with err := true } ∧ t.mem = s.mem ∧ others t) ∧
    ∃ t, exec (.fwctlValidClear p v) s = .next t ∧ mapGet {} (partAt t p).fwins w = { x with valid := false } ∧ others t ∧
      (∀ l, l ∈ t.mem.views ↔ l ∈ s.mem.views ∧ (l.part ≠ p ∨ l.win ≠ w)) ∧
      (∀ c, coreOwned s p c = true → (∀ l ∈ (coreAt t c).l1, viewLine w l.line = false) ∧
        ∀ l ∈ (coreAt t c).cc, viewLine w l.line = false) ∧
      ∀ a, homeByte t.mem a = homeByte s.mem a

/-- Any other write of a control register is a REGISTER_WRITE: what is written reads back through the register's mask (R6, R294),
and nothing outside the registers changes. A write of BAR0 is the host's (HostEvents). -/
def Sys2Proof.Claims.RegistersReadBack : Prop :=
  ∀ row ∈ ([(0x40, 1), (0x41, 0xFFFFFFFFFF), (0x50, 0xFFF), (0x54, 0x00FFFFFFFFFF0003), (0x55, 0xFFFFFFFFFFFFFFFF),
      (0x5C, 0x00FFFFFFFFFC0001), (0x61, 0x00FFFFFFFFFFFFFF), (0x64, 0x00FFFFFFFFFFFFFD), (0x65, 0xFF), (0x68, 0x7FF),
      (0x69, 0x00FFFFFFFFFF003F), (0x6A, 0x1FF), (0x70, 0x3F), (0x73, 0x1FFF), (0x75, 0xFFFFFFFF), (0x78, 0xF), (0x7D, 0x3F),
      (0x44, 0x00FFFFFFFFFFFFFC), (0x45, 0x00FFFFFFFFFFFFFC), (0x46, 0x00FFFFFFFFFFFFFC), (0x47, 0x00FFFFFFFFFFFFFC),
      (0x48, 0x3F03), (0x49, 0x3F03), (0x4A, 0x3F03), (0x4B, 0x3F03), (0x7F, 0x00FFFFFFFFFFFFFF)] : List (Nat × Word)),
    ∀ (s : State) (p : Nat) (v : Word),
    ∃ t, exec (.registerWrite (.csr p row.1) v) s = .next t ∧ csrRead t p row.1 = some (v &&& row.2) ∧ t.groups = s.groups ∧
      t.mem = s.mem ∧ t.sram = s.sram ∧ t.out = s.out ∧ t.cores = s.cores

/-- Control-register writes as events, which are those of a supervisor on die 0 by log entry 39, and the registers that hold what is
written. -/
def Obligations.RegisterWriteEvents : Prop := RegisterWritesAsEvents ∧ RegistersReadBack ∧ BwphaseWriteSends

/-- What the control-register writes with an effect of their own do. The event rows are log entry 39; WTCTL rests on log entry 32,
PTBASE and the pool on 33, the format windows on 34, resume, reflect and kill on 37. -/
def Obligations.RegisterWritesTakeEffect : Prop :=
  BankWrites ∧ WindowWrites ∧ PoolWrites ∧ TableWrites ∧ GroupWrites ∧ SliceWrites ∧ BinWrites ∧ FormatWindowWrites

/-- The package is ready, and takes what the host writes (R372). -/
def Sys2Proof.Claims.Open (s : State) : Prop := s.out.ready = true ∧ s.out.recovery = false
/-- The virtual function of a partition is there (R353). -/
def Sys2Proof.Claims.There (s : State) (p : Nat) : Prop := Open s ∧ p < s.out.numVfs

/-- PERST resets all but host memory and the tags that never repeat, and the boot ROM verifies the firmware; once training is done
the package is ready (R346, R371, R372; what PERST keeps is log entry 5). -/
def Sys2Proof.Claims.BringUp : Prop :=
  ∀ (s : State),
    (∃ t, exec .perstDeassert s = .next t ∧ t.out = { mem := s.out.mem, powered := true, recovery := !Config.firmwareOk } ∧
      t.groups = [] ∧ t.teams = [] ∧ t.nodes = [] ∧ t.saved = [] ∧ t.ctxs = [] ∧ t.parts = [] ∧ t.cores = [] ∧ t.bins = [] ∧
      t.reqs = [] ∧ t.ops = [] ∧ t.xfers = [] ∧ t.edits = [] ∧ t.sram = {} ∧ t.clk = {} ∧
      (∀ a, homeByte t.mem a = 0) ∧ ∀ l, lineTag t.mem l = lineTag s.mem l) ∧
    (s.out.powered = true → s.out.ready = false → s.out.recovery = false →
      exec .trainingDone s = .next { s with out := { s.out with ready := true } })

/-- NumVFs: the partitions of the functions above it are absent, the others present; above 16, and before the package is ready,
it is ignored (R353, R372; both are log entry 40). -/
def Sys2Proof.Claims.FunctionsAppear : Prop :=
  ∀ (s : State) (n : Nat),
    (Open s → n ≤ 16 → ∃ t, exec (.numvfsWrite n) s = .next t ∧ t.out = { s.out with numVfs := n } ∧ t.groups = s.groups ∧
      t.mem = s.mem ∧ (∀ p, p < 16 → partAt t p = { partAt s p with absent := decide (n ≤ p) }) ∧
      ∀ p, 16 ≤ p → partAt t p = partAt s p) ∧
    (¬ Open s ∨ 16 < n → exec (.numvfsWrite n) s = .next s)

/-- A unit is idle: a core without a team, a slice in no domain of its partition, a key slot that is empty, a bin that is not
allocated (R350). -/
def Sys2Proof.Claims.Idle (s : State) (u : UnitKind) (i : Nat) : Prop :=
  match u with
  | .core => ∀ e ∈ s.teams, e.2.core = i → e.2.gone = true
  | .slice => ∀ e ∈ s.parts, sliceOwned s e.1 i = true → ∀ m ∈ e.2.masks, m.1 / 16 = i / 48 → m.2.getLsbD (i % 48) = false
  | .slot => (mapGet {} s.out.slots i).key = none ∧ (mapGet {} s.out.slots i).emptying = false
  | .bin => (binAt s i).alloc = false

/-- Owner entries: a write to an idle unit changes its entry, of which bits 7 and 3:0 exist, and no other entry; a core that changes
hands keeps nothing in its SRAM, its L1 and its translations. Clearing VALID of a slot that holds a key empties the slot first.
Any other write is ignored (R350, R351; the SRAM is log entry 4). -/
def Sys2Proof.Claims.OwnersChange : Prop :=
  ∀ (s : State) (u : UnitKind) (i : Nat) (v : BitVec 8),
    let old := mapGet 0 (ownerMap s.out u) i
    let k := mapGet {} s.out.slots i
    (Open s → i < unitCount u → Idle s u i → ∃ t, exec (.ownerEntryWrite u i v) s = .next t ∧
      mapGet 0 (ownerMap t.out u) i = v &&& 0x8F ∧ (∀ j, j ≠ i → mapGet 0 (ownerMap t.out u) j = mapGet 0 (ownerMap s.out u) j) ∧
      (∀ w, w ≠ u → ownerMap t.out w = ownerMap s.out w) ∧ t.groups = s.groups ∧ t.out.slots = s.out.slots ∧
      (v &&& 0x8F ≠ old → ∀ p, (ownerPart (ownerMap s.out u) i = some p ∨ ownerPart (ownerMap t.out u) i = some p) →
        (spdmAt t (p + 1)).sessions = []) ∧
      (v &&& 0x8F ≠ old → u = .core → (coreAt t i).l1 = [] ∧ (coreAt t i).cc = [] ∧ (coreAt t i).tlb = [] ∧
        (∀ a, a / 2 ^ 20 = i → mapGet 0 t.sram.bytes a = 0) ∧
        (∀ a, a / 2 ^ 20 ≠ i → mapGet 0 t.sram.bytes a = mapGet 0 s.sram.bytes a) ∧
        ∀ a, homeByte t.mem a = homeByte s.mem a)) ∧
    (Open s → i < 256 → k.key ≠ none → v.getLsbD 7 = false → v &&& 0x8F ≠ mapGet 0 s.out.slotOwner i →
      ∃ t, exec (.ownerEntryWrite .slot i v) s = .next t ∧ t.groups = s.groups ∧ t.mem = s.mem ∧
        mapGet {} t.out.slots i = { k with emptying := true, owner := some (v &&& 0x8F) } ∧ t.out.slotOwner = s.out.slotOwner) ∧
    (¬ Open s ∨ unitCount u ≤ i ∨ (¬ Idle s u i ∧ (u = .slot → v.getLsbD 7 = true ∨ k.key = none)) →
      exec (.ownerEntryWrite u i v) s = .next s)

/-- FEATACC of a present function takes the offered bits until its partition has started (R354, R355); THDEV, BOOTSRC and BOOTLEN
are written until then too, and MBXCTX, MBXDESC and MBXRING always (R356, R360). The host's write of BAR0 at a register that is an
event of its own is that event, and one before the package is ready or at an absent function is ignored (R372; log entry 40). -/
def Sys2Proof.Claims.HostRegisters : Prop :=
  ∀ (s : State) (p : Nat) (v : Word),
    (∀ n, There s p → n < 4 → (partAt s p).started = false → ∃ t, exec (.feataccWrite p n v) s = .next t ∧
      mapGet 0 (partAt t p).feat n = v &&& (if n = 0 then 0x3FF else 0) ∧
      (∀ j, j ≠ n → mapGet 0 (partAt t p).feat j = mapGet 0 (partAt s p).feat j) ∧ t.groups = s.groups ∧ t.mem = s.mem ∧
      ∀ q, q ≠ p → partAt t q = partAt s q) ∧
    (∀ n, ¬ There s p ∨ 4 ≤ n ∨ (partAt s p).started = true → exec (.feataccWrite p n v) s = .next s) ∧
    (∀ n, n < 4 → exec (.registerWrite (.bar (p + 1) (0x60 + 8 * n)) v) s = exec (.feataccWrite p n v) s) ∧
    exec (.registerWrite (.bar (p + 1) 0x110) v) s = exec (.mbxdbPost p v) s ∧
    exec (.registerWrite (.bar (p + 1) 0x208) v) s = exec (.mbxptrWrite p v) s ∧
    exec (.registerWrite (.bar (p + 1) 0x210) v) s = exec (.mbxreplyWrite p v) s ∧
    (∀ row ∈ [(UnitKind.core, 0x10000), (.slice, 0x10200), (.slot, 0x10400), (.bin, 0x11000)], ∀ i, i < unitCount row.1 →
      exec (.registerWrite (.bar 0 (row.2 + i)) v) s = exec (.ownerEntryWrite row.1 i (v.setWidth 8)) s) ∧
    (∀ row ∈ ([(0x100, 0xFF), (0x108, 0x00FFFFFFFFFFFF80), (0x200, 0xFFFFFFFFFFFFF03F), (0x120, 0xFFFFFFFFFFFF0000),
        (0x128, 0x0FFFFFFF)] : List (Nat × Word)), There s p → (partAt s p).started = false ∨ row.1 ∉ [0x120, 0x128] →
      ∃ t, exec (.registerWrite (.bar (p + 1) row.1) v) s = .next t ∧ readBar t (p + 1) row.1 = v &&& row.2 ∧
        t.groups = s.groups ∧ t.mem = s.mem ∧ t.out = s.out ∧ ∀ q, q ≠ p → partAt t q = partAt s q) ∧
    (Open s → (∀ e ∈ s.parts, e.2.started = false) →
      exec (.registerWrite (.bar 0 0x100) v) s = .next { s with out := { s.out with thdev := v.setWidth 16 } }) ∧
    ∀ off, (¬ Open s → exec (.registerWrite (.bar 0 off) v) s = .next s) ∧
      (¬ There s p → exec (.registerWrite (.bar (p + 1) off) v) s = .next s)

/-- A doorbell begins the check of a post to the context that MBXCTX names, or sets ERR while one is checked; MBXPTR sets HEAD; a
reply closes its message: a grant gives the page's bus address, a refusal is cause 0x47 again to the supervisor, an acknowledgement
of a return needs no more; a reply to no open message is ignored (R356, R357, R362). -/
def Sys2Proof.Claims.HostPosts : Prop :=
  ∀ (s : State) (p : Nat) (v : Word),
    let x := partAt s p
    let k := x.mbxctx.toNat % 256
    let tag := v.toNat % 65536
    let only := fun (t : State) => t.groups = s.groups ∧ t.mem = s.mem ∧ ∀ q, q ≠ p → partAt t q = partAt s q
    (There s p → v.getLsbD 0 = true → ∃ t, exec (.mbxdbPost p v) s = .next t ∧ only t ∧ partAt t p =
      if x.busy = true then { x with mbxErr := true }
      else { x with busy := true, postFrom := some (k, x.mbxdesc.toNat, (ctxAt s (256 * p + k)).en || (k == 0 && x.started)) }) ∧
    (¬ There s p ∨ v.getLsbD 0 = false → exec (.mbxdbPost p v) s = .next s) ∧
    (There s p → ∃ t, exec (.mbxptrWrite p v) s = .next t ∧ only t ∧ partAt t p = { x with mbxHead := v.setWidth 32 }) ∧
    (¬ There s p ∨ (∀ m ∈ x.asked, m.tag ≠ tag) → exec (.mbxreplyWrite p v) s = .next s) ∧
    (∀ m ∈ x.asked, There s p → m.tag = tag → (∀ q ∈ x.asked, q.tag = tag → q = m) →
      let closed := { x with asked := x.asked.filter (fun y => y.tag != tag) }
      (m.kind = 3 → ∃ t, exec (.mbxreplyWrite p v) s = .next t ∧ only t ∧ partAt t p = closed) ∧
      (m.kind ≠ 3 → v.toNat / 65536 % 4 = 0 → ∃ t, exec (.mbxreplyWrite p v) s = .next t ∧ only t ∧
        (partAt t p).asked = closed.asked ∧ (256 * p + m.ctx, m.va, v.toNat / 2 ^ 18 % 2 ^ 46 * 65536) ∈ (partAt t p).granted ∧
        ∀ y ∈ (partAt t p).granted, y.1 = 256 * p + m.ctx → y.2.1 = m.va → y.2.2 = v.toNat / 2 ^ 18 % 2 ^ 46 * 65536) ∧
      (m.kind ≠ 3 → v.toNat / 65536 % 4 = 1 → m.ctx < 256 → ∃ t, exec (.mbxreplyWrite p v) s = .next t ∧
        (partAt t p).asked = closed.asked ∧
        Recorded s t p (eventRecord (256 * p + m.ctx) 0 0 1 (causeWord 0x47 m.va) 0 s.clk.clock)))

/-- Cooling: 1 ms after the last step the arithmetic clock falls by 100 MHz, to no less than 1,000, while a sensor reads 105 degrees
or more, and rises by 100, to no more than 2,500, when all read less than 100; at 115 the module powers down and stands still
(R373). -/
def Sys2Proof.Claims.Cooling : Prop :=
  ∀ (s : State),
    let mhz := if ∃ x ∈ s.clk.temps, 105 ≤ x then max 1000 (s.clk.mhz - 100)
      else if ∀ x ∈ s.clk.temps, x < 100 then min 2500 (s.clk.mhz + 100) else s.clk.mhz
    (s.clk.lastStep + 1000000 ≤ s.clk.ns → mhz ≠ s.clk.mhz →
      exec .throttleStep s = .next { s with clk := { s.clk with mhz, lastStep := s.clk.ns } }) ∧
    ((∃ x ∈ s.clk.temps, 115 ≤ x) → s.out.down = false →
      exec .thermalPowerDown s = .next { s with out := { s.out with down := true } } ∧
      step { s with out := { s.out with down := true } } = .fault .poweredDown)

/-- The host's side of the package: bring-up, functions and owners, registers, posts and replies, cooling. What is ignored before
the package is ready and NumVFs above 16 are log entry 40 (DEDUCED), what PERST keeps log entry 5, and what a core's SRAM keeps log
entry 4 (both DESIGN CHOICE). -/
def Obligations.HostEvents : Prop :=
  BringUp ∧ FunctionsAppear ∧ OwnersChange ∧ HostRegisters ∧ HostPosts ∧ Cooling

/-- A waiting message goes to the host's ring at TAIL, oldest first, and interrupts; a post that cannot boot a context other
than the supervisor's ends with code 0xF0, and one that cannot boot the partition with 0xF3 (R356, R357, R360, R362). -/
def Sys2Proof.Claims.MailboxEvents : Prop :=
  ∀ (s : State) (p : Nat), (partAt s p).absent = false →
    (∀ m rest, (partAt s p).msgs = m :: rest → ringReady (partAt s p) = true →
      let at' := (partAt s p).mbxring.toNat / 4096 % 2 ^ 52 * 4096 +
        32 * ((partAt s p).mbxTail.toNat % 2 ^ ((partAt s p).mbxring.toNat % 64))
      ∃ t, exec (.mailboxMessage p) s = .next t ∧ partAt t p =
          { partAt s p with msgs := rest, mbxTail := (partAt s p).mbxTail + 1 } ∧
        mapGetList 0 t.out.mem at' 32 = leBytes 1 m.kind ++ leBytes 1 m.ctx ++ leBytes 2 m.tag ++ leBytes 4 0 ++
          leBytes 8 m.va ++ leBytes 8 m.d0.toNat ++ leBytes 8 m.d1.toNat ∧
        (∀ a, a < at' ∨ at' + 32 ≤ a → mapGet 0 t.out.mem a = mapGet 0 s.out.mem a) ∧
        t.out.msix = (p + 1, 0) :: s.out.msix ∧ t.groups = s.groups ∧ t.mem = s.mem) ∧
    (∀ k va en, (partAt s p).busy = true → (partAt s p).postFrom = some (k, va, en) → (partAt s p).started = false →
      (k ≠ 0 ∨ (∀ b, b < 4608 → binOwned s p b = false) ∨ (∀ c, c < 336 → coreOwned s p c = false) ∨
        (partAt s p).bootlen.toNat % 2 ^ 28 = 0) →
      ∃ t, exec (.mailboxPostResult p) s = .next t ∧ partAt t p =
          { partAt s p with busy := false, postFrom := none, code := if k ≠ 0 then 0xF0 else 0xF3 } ∧
        t.out.msix = (p + 1, 1) :: s.out.msix ∧ t.groups = s.groups ∧ t.nodes = s.nodes ∧ t.mem = s.mem)

/-- A node of a description stands in the Trellis with its context's next sequence number (R308). -/
def Sys2Proof.Claims.NodeCreated (s t : State) (k : Nat) (d : Desc) (h : Header) : Prop :=
  (ctxAt t k).nextSeq = (ctxAt s k).nextSeq + 1 ∧
    ∃ n, mapFind t.nodes n.uid = some n ∧ n.ctx = k ∧ n.seq = (ctxAt s k).nextSeq ∧
      n.desc = { d with prio := min d.prio (ctxAt s k).maxprio } ∧ n.hdr = h ∧ n.started = false

/-- A post has been checked: BUSY has fallen, CODE is the result, and MSI-X vector 1 has fired (R357). -/
def Sys2Proof.Claims.PostEnded (s t : State) (p : Nat) (code : BitVec 8) : Prop :=
  (partAt t p).busy = false ∧ (partAt t p).postFrom = none ∧ (partAt t p).code = code ∧ t.out.msix = (p + 1, 1) :: s.out.msix ∧
    t.groups = s.groups

/-- The state s0 in which a post to context 0 of an unstarted partition is checked: its lowest bin b holds the image from its first
byte and zeros after it, the bin is allocated in domain 0, whose mask is every slice of the partition on the bin's die, and the boot
mapping maps the first 254 MiB of virtual addresses onto the bin's (R360, R361). -/
def Sys2Proof.Claims.BootedAs (s s0 : State) (p b : Nat) : Prop :=
  let len := (partAt s p).bootlen.toNat % 2 ^ 28
  let src := (partAt s p).bootsrc.toNat / 2 ^ 16 % 2 ^ 48 * 65536
  let base := b * 2 ^ 28
  (∀ i, i < len → homeByte s0.mem (base + i) = mapGet 0 s.out.mem (src + i)) ∧
    (∀ i, len ≤ i → i < 254 * 2 ^ 20 → homeByte s0.mem (base + i) = 0) ∧
    (∀ a, binOf a ≠ b → homeByte s0.mem a = homeByte s.mem a) ∧
    (∀ i, i < 48 → (curMask (partAt s0 p) (16 * (b / 1152))).getLsbD i = sliceOwned s p (48 * (b / 1152) + i)) ∧
    (binAt s0 b).alloc = true ∧ (binAt s0 b).state = 0 ∧ (binAt s0 b).dom = 0 ∧
    (ctxAt s0 (256 * p)).ptbase = BitVec.ofNat 64 (base + 0xFE00000 + 1) ∧
    ∀ va, va < 254 * 2 ^ 20 → ∃ tr, walk s0 (256 * p) va = some tr ∧ transPa tr va = base + va ∧ tr.attr = { w := true } ∧
      tr.size = 2 ^ 21

/-- The result of a post: of a started partition, the node is made and CODE is 0 where the description is good, the context enabled
and without a live node and the partition runs; the first of the other codes else, and nothing is made. A post to context 0 of an
unstarted partition that can be booted boots it and starts it with its node, or leaves everything as it was (R308, R357, R360). -/
def Sys2Proof.Claims.PostsChecked : Prop :=
  ∀ (s : State) (p k va : Nat) (en : Bool), (partAt s p).absent = false → (partAt s p).busy = true →
    (partAt s p).postFrom = some (k, va, en) →
    let c := 256 * p + k
    ((partAt s p).started = true →
      (∀ d h, loadNode s c (postChk s c) va = .ok d h →
        (en = true → liveNodes s c = [] → (partAt s p).halted = false → ∃ t, exec (.mailboxPostResult p) s = .next t ∧
          PostEnded s t p 0 ∧ NodeCreated s t c d h ∧ t.mem = s.mem) ∧
        (en = false ∨ liveNodes s c ≠ [] ∨ (partAt s p).halted = true → ∃ t, exec (.mailboxPostResult p) s = .next t ∧
          PostEnded s t p (if en = false then 0xF0 else if liveNodes s c ≠ [] then 0xF1 else 0xF2) ∧ t.nodes = s.nodes ∧
          t.mem = s.mem)) ∧
      ∀ code x y, (loadNode s c (postChk s c) va = .bad code x ∨ loadNode s c (postChk s c) va = .page code x y) →
        ∃ t, exec (.mailboxPostResult p) s = .next t ∧ PostEnded s t p (BitVec.ofNat 8 code) ∧ t.nodes = s.nodes ∧ t.mem = s.mem) ∧
    (∀ b, (partAt s p).started = false → k = 0 → s.mem.wf = true → b < 4608 → binOwned s p b = true →
      (∀ e, e < b → binOwned s p e = false) → (∃ e, e < 336 ∧ coreOwned s p e = true) →
      (∃ i, i < 48 ∧ sliceOwned s p (48 * (b / 1152) + i) = true) →
      0 < (partAt s p).bootlen.toNat % 2 ^ 28 → (partAt s p).bootlen.toNat % 2 ^ 28 ≤ 254 * 2 ^ 20 →
      ∃ s0, BootedAs s s0 p b ∧
        (∀ d h, loadNode s0 c (postChk s0 c) va = .ok d h → liveNodes s c = [] → (partAt s p).halted = false →
          ∃ t, exec (.mailboxPostResult p) s = .next t ∧ PostEnded s t p 0 ∧ NodeCreated s0 t c d h ∧
            (partAt t p).started = true ∧ t.mem = s0.mem ∧ t.bins = s0.bins ∧ (ctxAt t c).ptbase = (ctxAt s0 c).ptbase) ∧
        ∀ code x y, (loadNode s0 c (postChk s0 c) va = .bad code x ∨ loadNode s0 c (postChk s0 c) va = .page code x y) →
          ∃ t, exec (.mailboxPostResult p) s = .next t ∧ PostEnded s t p (BitVec.ofNat 8 code) ∧ t.nodes = s.nodes ∧
            t.mem = s.mem ∧ t.bins = s.bins ∧ t.ctxs = s.ctxs ∧ (partAt t p).started = false ∧ (partAt t p).masks = (partAt s p).masks)

/-- The SPDM responder of a function: GET_VERSION opens a negotiation, and each later step is answered only after the one before
it; only ML-DSA-87 over SHA3-512 with ML-KEM-1024 and AES-256-GCM is agreed. Every request gets one answer. KEY_EXCHANGE with good
exchange data opens a session, and FINISH with a good proof establishes it. A key is loaded into an
empty slot of the function's partition, or dropped, in an established session, which alone stays; any other such request is an
ERROR that changes nothing else (R368-R370; the response bytes and codes, and that the request says whether its proof is good, are
log entry 20). -/
def Sys2Proof.Claims.SpdmAnswers : Prop :=
  ∀ (s : State) (fn arg : Nat) (sel : AlgSel) (all good : Bool) (slot : Nat) (key : BitVec 512), fnThere s fn = true →
    let x := spdmAt s fn
    let agreed : AlgSel := { mlDsa87 := true, sha3 := true, mlKem1024 := true, aesGcm := true }
    let answered := fun (t : State) => (spdmAt t fn).answers.length = x.answers.length + 1 ∧ t.groups = s.groups ∧ t.mem = s.mem
    let refused := fun (t : State) (err : Byte) => spdmAt t fn = { x with count := x.count + 1, answers := (0x7F, [err]) :: x.answers } ∧
      t.out.slots = s.out.slots ∧ t.groups = s.groups ∧ t.mem = s.mem
    (∃ t, exec (.getVersion fn arg) s = .next t ∧ answered t ∧ (spdmAt t fn).phase = 1 ∧ (spdmAt t fn).sessions = []) ∧
    (1 ≤ x.phase → ∃ t, exec (.getCapabilities fn arg) s = .next t ∧ answered t ∧ (spdmAt t fn).phase = max 2 x.phase) ∧
    (2 ≤ x.phase → ∃ t, exec (.negotiateAlgorithms fn agreed) s = .next t ∧ answered t ∧ (spdmAt t fn).phase = 3) ∧
    (2 ≤ x.phase → sel ≠ agreed → ∃ t, exec (.negotiateAlgorithms fn sel) s = .next t ∧ refused t 7) ∧
    (∀ c ∈ [(1, Instr.getCapabilities fn arg), (2, .negotiateAlgorithms fn sel), (3, .getDigests fn arg), (3, .getCertificate fn arg),
        (3, .challenge fn arg), (3, .getMeasurements fn arg), (3, .keyExchange fn ⟨all, good⟩)], x.phase < c.1 →
      ∃ t, exec c.2 s = .next t ∧ refused t 4) ∧
    (∀ i ∈ [Instr.getDigests fn arg, .getCertificate fn arg, .challenge fn arg, .getMeasurements fn arg,
        .keyExchange fn ⟨all, good⟩, .finish fn ⟨arg, good⟩, .heartbeat fn arg, .keyUpdate fn arg, .endSession fn arg],
      ∃ t, exec i s = .next t ∧ answered t ∧ t.out.slots = s.out.slots) ∧
    (3 ≤ x.phase → (∃ t bs, exec (.keyExchange fn ⟨all, true⟩) s = .next t ∧ t.groups = s.groups ∧ t.mem = s.mem ∧
        t.out.slots = s.out.slots ∧ spdmAt t fn = { x with
          count := x.count + 1, answers := (0x64, bs) :: x.answers, nextSession := x.nextSession + 1
          sessions := x.sessions ++ [{ id := x.nextSession, all, up := false }] }) ∧
      ∃ t, exec (.keyExchange fn ⟨all, false⟩) s = .next t ∧ refused t 4) ∧
    (∀ y ∈ x.sessions, y.id = arg → y.up = false → (∀ z ∈ x.sessions, z.id = arg → z = y) →
      (∃ t bs, exec (.finish fn ⟨arg, true⟩) s = .next t ∧ t.groups = s.groups ∧ t.mem = s.mem ∧ t.out.slots = s.out.slots ∧
        spdmAt t fn = { x with
          count := x.count + 1, answers := (0x65, bs) :: x.answers
          sessions := x.sessions.map (fun z => if z.id = arg then { z with up := true } else z) }) ∧
      ∃ t, exec (.finish fn ⟨arg, false⟩) s = .next t ∧ refused t 4) ∧
    ((∀ y ∈ x.sessions, y.id = arg → y.up = true) → ∃ t, exec (.finish fn ⟨arg, good⟩) s = .next t ∧ refused t 0x0B) ∧
    ((∀ y ∈ x.sessions, y.id = arg → y.up = false) →
      ∀ i ∈ [Instr.heartbeat fn arg, .keyUpdate fn arg, .endSession fn arg, .keyload fn arg slot key, .keydrop fn arg slot],
        ∃ t, exec i s = .next t ∧ refused t 0x0B) ∧
    (∀ y ∈ x.sessions, y.id = arg → y.up = true → (∀ z ∈ x.sessions, z.id = arg → z = y) →
      let k := mapGet {} s.out.slots slot
      let mine := fn ≠ 0 ∧ slotOwned s (fn - 1) slot = true
      let alone := fun (t : State) => answered t ∧ (spdmAt t fn).sessions = x.sessions.filter (fun z => z.id == arg)
      (∃ t, exec (.endSession fn arg) s = .next t ∧ (spdmAt t fn).sessions = x.sessions.filter (fun z => z.id != arg)) ∧
      (mine → y.all = true → k.key = none → k.emptying = false → ∃ t, exec (.keyload fn arg slot key) s = .next t ∧ alone t ∧
        mapGet {} t.out.slots slot = { k with key := some key }) ∧
      (¬ mine ∨ y.all = false ∨ k.key ≠ none ∨ k.emptying = true → ∃ t, exec (.keyload fn arg slot key) s = .next t ∧
        refused t 7) ∧
      (mine → k.key ≠ none → k.emptying = false → ∃ t, exec (.keydrop fn arg slot) s = .next t ∧ alone t ∧
        mapGet {} t.out.slots slot = { k with emptying := true }) ∧
      (¬ mine ∨ k.key = none ∨ k.emptying = true → ∃ t, exec (.keydrop fn arg slot) s = .next t ∧ refused t 7))

/-- The mailbox and the SPDM responder. -/
def Obligations.MailboxAndSpdmEvents : Prop := MailboxEvents ∧ PostsChecked ∧ SpdmAnswers

/-- Byte va of a window of context k lies at pa and can be written. -/
def Sys2Proof.Claims.IncomingByte (s : State) (k va pa : Nat) : Prop :=
  winCheck s k true va = none ∧ ∃ tr, walk s k va = some tr ∧ tr.attr.zero = false ∧ transPa tr va = pa ∧
    atHome s (ctxPart k) pa = .ok

/-- Bytes from a peer stand at their place in a window of context k from address va on, and no other byte has changed, where each
has a place of its own off the tables on the way. -/
def Sys2Proof.Claims.Delivered (s t : State) (k va : Nat) (bs : List Byte) : Prop :=
  ∀ place : Nat → Nat, (∀ i, i < bs.length → IncomingByte s k (va + i) (place i) ∧ ∀ j, j < bs.length →
      (i ≠ j → place i ≠ place j) ∧
      (∀ q ∈ entriesAbove s.mem (va + i) 4 (bitsOf (ctxAt s k).ptbase.toNat 11 41 * 2048), place j < q ∨ q + 8 ≤ place j) ∧
      ∀ q, LeafSlot s k (va + i) q → place j < q ∨ q + 8 ≤ place j) →
    (∀ i, i < bs.length → some (homeByte t.mem (place i)) = bs[i]?) ∧
    ∀ a, (∀ i, i < bs.length → place i ≠ a) → homeByte t.mem a = homeByte s.mem a

/-- A put has ended: it is gone, and its local counter has risen by its length. -/
def Sys2Proof.Claims.PutEnds (s : State) (x : Xfer) (t : State) : Prop :=
  (∀ y ∈ t.xfers, y.id ≠ x.id) ∧ mapGet 0 (ctxAt t x.ctx).ctrs (16 * (x.core / 84) + x.ctr) =
    mapGet 0 (ctxAt s x.ctx).ctrs (16 * (x.core / 84) + x.ctr) + BitVec.ofNat 64 x.len

/-- A flit on a port that is up that is not the expected one, or damaged, is dropped and the expected number is asked for; of a
good one that names another device, of an idle one and of one of a reserved type only the number counts; credits are added; a
retry request has the flits from its number on sent again (R363-R365). Reserved types, flits for another device, and where a flit
carries its credits or its number are log entry 21 (DESIGN CHOICE). -/
def Sys2Proof.Claims.FlitsDroppedOrCounted : Prop :=
  ∀ (s : State) (i : Nat) (fl : Flit), s.out.ready = true → i < 18 → (portAt s i).up = true →
    let counted := fun (t : State) => (portAt t i).rxSeq = (portAt s i).rxSeq + 1 ∧ t.groups = s.groups ∧ t.ctxs = s.ctxs ∧
      t.mem = s.mem ∧ t.xfers = s.xfers ∧ ∀ j, j ≠ i → portAt t j = portAt s j
    (flitGood s i fl = false → ∀ c ∈ [((4 : BitVec 8), Instr.creditFlit i fl), (5, .retryRequestFlit i fl), (0, .idleFlit i fl),
        (1, .putDataFlit i fl), (2, .counterRiseFlit i fl), (3, .acknowledgementFlit i fl)], fl.typ = c.1 →
      ∃ t r, exec c.2 s = .next t ∧ (portAt t i).sent = (portAt s i).sent ++ [r] ∧ r.typ = 5 ∧
        r.payload = leBytes 2 (portAt s i).rxSeq.toNat ∧ (portAt t i).rxSeq = (portAt s i).rxSeq ∧ t.groups = s.groups ∧
        t.ctxs = s.ctxs ∧ t.mem = s.mem ∧ t.xfers = s.xfers) ∧
    (flitGood s i fl = true → fl.dst ≠ s.out.thdev → ∀ c ∈ [((1 : BitVec 8), Instr.putDataFlit i fl),
        (2, .counterRiseFlit i fl), (3, .acknowledgementFlit i fl)], fl.typ = c.1 → ∃ t, exec c.2 s = .next t ∧ counted t) ∧
    (flitGood s i fl = true → fl.typ = 0 ∨ 6 ≤ fl.typ.toNat → ∃ t, exec (.idleFlit i fl) s = .next t ∧ counted t ∧
      (portAt t i).credits = (portAt s i).credits ∧ (portAt t i).sent = (portAt s i).sent) ∧
    (flitGood s i fl = true → fl.typ = 4 → ∃ t, exec (.creditFlit i fl) s = .next t ∧ counted t ∧
      (portAt t i).credits = (portAt s i).credits + leNat (fl.payload.take 8)) ∧
    (flitGood s i fl = true → fl.typ = 5 → ∃ t, exec (.retryRequestFlit i fl) s = .next t ∧ counted t ∧
      (portAt t i).sent = (portAt s i).sent ++ (portAt s i).replay.dropWhile (fun g => g.seq.toNat != leNat (fl.payload.take 2)) ∧
      (portAt t i).failed = if (portAt s i).askedFor = some (BitVec.ofNat 16 (leNat (fl.payload.take 2))) then
        (portAt s i).failed + 1 else 1)

/-- A put's data go into the window that the flit names, a rise reaches that window's arrival counter and is acknowledged, and
both are refused outside it; an acknowledgement ends its put and raises the put's local counter, with cause 0x4C for a refused one
(R210, R364; the peer's window numbers and the reply's first byte are log entry 21). -/
def Sys2Proof.Claims.FlitsDelivered : Prop :=
  ∀ (s : State) (i : Nat) (fl : Flit), s.out.ready = true → i < 18 → (portAt s i).up = true → flitGood s i fl = true →
    fl.dst = s.out.thdev → mapOrdered s.ctxs = true →
    let w := fl.window.toNat
    let off := fl.offset.toNat
    let amount := leNat (fl.payload.take 8)
    (fl.typ = 1 → inWindow s w off (flitPayload fl).length = none → ∃ t, exec (.putDataFlit i fl) s = .next t ∧ t.mem = s.mem ∧
      t.ctxs = s.ctxs ∧ (portAt t i).rxSeq = (portAt s i).rxSeq + 1) ∧
    (∀ k e, fl.typ = 1 → inWindow s w off (flitPayload fl).length = some (k, e) →
      incomingAsleep s w off (flitPayload fl).length = [] →
      (∀ p ∈ piecesOf (winVa e off) (flitPayload fl).length, needsFrame s k p.1 = false) →
      ∃ t, exec (.putDataFlit i fl) s = .next t ∧ (portAt t i).rxSeq = (portAt s i).rxSeq + 1 ∧
        Delivered s t k (winVa e off) ((flitPayload fl).map (·.1))) ∧
    (fl.typ = 2 → inWindow s w off amount = none → ∃ t r, exec (.counterRiseFlit i fl) s = .next t ∧ t.groups = s.groups ∧
      t.ctxs = s.ctxs ∧ (portAt t i).sent = (portAt s i).sent ++ [r] ∧ r.typ = 3 ∧ r.payload = [1]) ∧
    (∀ k e, fl.typ = 2 → inWindow s w off amount = some (k, e) → ∃ t r, exec (.counterRiseFlit i fl) s = .next t ∧
      (winAt t k w).arrivals = (winAt s k w).arrivals + BitVec.ofNat 64 amount ∧ t.mem = s.mem ∧
      (portAt t i).sent = (portAt s i).sent ++ [r] ∧ r.typ = 3 ∧ r.payload = [0]) ∧
    (fl.typ = 3 → ackedPut s fl = none → ∃ t, exec (.acknowledgementFlit i fl) s = .next t ∧
      (portAt t i).rxSeq = (portAt s i).rxSeq + 1 ∧ t.xfers = s.xfers) ∧
    (∀ x, fl.typ = 3 → ackedPut s fl = some x → x.op = none →
      (fl.payload.headD 0 ≠ 1 → ∃ t, exec (.acknowledgementFlit i fl) s = .next t ∧ PutEnds s x t ∧ t.mem = s.mem) ∧
      (fl.payload.headD 0 = 1 → x.ctx % 256 ≠ 0 → ∃ t, exec (.acknowledgementFlit i fl) s = .next t ∧ PutEnds s x t ∧
        Recorded s t (ctxPart x.ctx) (eventRecord x.ctx 0 0 1 (causeWord 0x4C x.win) 0 s.clk.clock)))

/-- A port goes down after more than 16 replay requests of one number, with the last one the puts not acknowledged count as
refused; it comes up again by retraining with its numbers at 0, and runs on four lanes after a lane loss (R363, R365; the count
of failed replays is log entry 21). -/
def Sys2Proof.Claims.PortsChange : Prop :=
  ∀ (s : State) (i : Nat), i < 18 →
    ((portAt s i).up = true → 16 < (portAt s i).failed → ∃ t, exec (.portDown i) s = .next t ∧ (portAt t i).up = false ∧
      (∀ j, j ≠ i → portAt t j = portAt s j) ∧
      ((∃ j, j < 18 ∧ j ≠ i ∧ (portAt s j).up = true) → t.xfers = s.xfers ∧ t.groups = s.groups ∧ t.mem = s.mem) ∧
      ((∀ j, j < 18 → j ≠ i → (portAt s j).up = false) →
        ∀ y ∈ t.xfers, y.stage = 2 → winKind (winAt s y.ctx y.win) ≠ 1)) ∧
    ((portAt s i).up = false → ∃ t, exec (.theushPortRetrain i) s = .next t ∧ (portAt t i).up = true ∧
      (portAt t i).txSeq = 0 ∧ (portAt t i).rxSeq = 0 ∧ (portAt t i).failed = 0 ∧ (portAt t i).replay = [] ∧
      ∀ j, j ≠ i → portAt t j = portAt s j) ∧
    (∃ t, exec (.laneLoss i) s = .next t ∧ portAt t i = { portAt s i with lanes := 4 } ∧
      (∀ j, j ≠ i → portAt t j = portAt s j) ∧ t.groups = s.groups ∧ t.mem = s.mem)

/-- An Ethernet packet of at most 4,096 bytes is written into the window it names and raises the window's counter; one that
acknowledges a put raises the put's counter and ends it (R166, R366, R367; which window an incoming number names is log entry 21). -/
def Sys2Proof.Claims.PacketsDelivered : Prop :=
  ∀ (s : State), s.out.ready = true →
    (∀ w off bs rise, bs.length ≤ 4096 → inWindow s w off bs.length = none →
      exec (.ultraEthernetPacket (.deliver w off bs rise)) s = .next s) ∧
    (∀ w off bs rise k e, bs.length ≤ 4096 → inWindow s w off bs.length = some (k, e) → mapOrdered s.ctxs = true →
      incomingAsleep s w off bs.length = [] → (∀ p ∈ piecesOf (winVa e off) bs.length, needsFrame s k p.1 = false) →
      ∃ t, exec (.ultraEthernetPacket (.deliver w off bs rise)) s = .next t ∧
        (winAt t k w).arrivals = (winAt s k w).arrivals + BitVec.ofNat 64 rise ∧ Delivered s t k (winVa e off) bs) ∧
    (∀ id x, uePut s id = some x → x.op = none → ∃ t, exec (.ultraEthernetPacket (.acked id)) s = .next t ∧ PutEnds s x t ∧
      t.mem = s.mem) ∧
    (∀ id x, uePut s id = some x → x.op = none → x.ctx % 256 ≠ 0 → ∃ t, exec (.ultraEthernetPacket (.refused id)) s = .next t ∧
      PutEnds s x t ∧ Recorded s t (ctxPart x.ctx) (eventRecord x.ctx 0 0 1 (causeWord 0x4C x.win) 0 s.clk.clock))

/-- The links: flits, ports and Ethernet packets. Every detail of the flits that R363-R367 leave open is log entry 21. -/
def Obligations.FlitsPortsAndPackets : Prop := FlitsDroppedOrCounted ∧ FlitsDelivered ∧ PortsChange ∧ PacketsDelivered

/-! ### Encoding, the step, reset and the invariant -/

/-- Every well-formed instruction, with every operand at every value that the encoding admits, is read back from the words
that encode it: the second word follows exactly where the major takes one, and no field is dropped (R53-R67). -/
def Obligations.EncodeThenDecode : Prop :=
  ∀ (i : Instr) (x : IWord), i.WellFormed →
    (∃ w, encode i = [w] ∧ hasSecond w = false ∧ decode w x = .ok i) ∨
    (∃ w y, encode i = [w, y] ∧ hasSecond w = true ∧ decode w y = .ok i)

/-- Words that decode are the encoding of what they decode to, and that is well formed: no two words stand for one
instruction, and no word with a nonzero reserved field decodes (R53-R68). -/
def Obligations.DecodeThenEncode : Prop :=
  ∀ (w x : IWord) (i : Instr), decode w x = .ok i →
    i.WellFormed ∧ encode i = if hasSecond w = true then [w, x] else [w]

/-- Words written out field by field from the opcode map stand for the instructions that it gives them (R53-R67). -/
def Obligations.WrittenWordsDecode : Prop :=
  -- add.i32 s1, s2, s3: major 0x03, short type 0x02
  decode (0b0#1 ++ 0b000011#6 ++ 1#7 ++ 2#7 ++ 3#7 ++ 0b0010#4) 0 =
    .ok (.addSSS { sp := false, d := 1, a := 2, b := 3, ty := .i32 }) ∧
  -- nop: major 0x33, minor 4
  decode 0x66000004#32 0 = .ok (.nop { sp := false, d := 0, a := 0, b := 0 }) ∧
  -- ffma.f32.rz.sat v9, v8, v7, v6 under p3: major 0x1E; op 0x23, type 0x0B, rnd 0b011
  decode (0b0#1 ++ 0b011110#6 ++ 9#7 ++ 8#7 ++ 7#7 ++ 0b0011#4)
      (6#7 ++ 0b100011#6 ++ 0b01011#5 ++ 0#5 ++ 0b011#3 ++ 0b1#1 ++ 0#5) =
    .ok (.ffma { sp := false, form := .v, neg := false, p := 3, d := 9, a := 8, b := 7, c := 6, ty := .f32, aux := 0,
                 rnd := .rz, sat := true, imm := 0 }) ∧
  -- atom.add.i64.acq.pkg s5, [s6 - 8], s7 with lookahead 2: major 0x25; mop 5, aop 1, order 0b01, scope 0b100
  decode (0b0#1 ++ 0b100101#6 ++ 5#7 ++ 6#7 ++ 7#7 ++ 2#4)
      (5#4 ++ 1#4 ++ 0#5 ++ 0b01#2 ++ 0b100#3 ++ 0b11111111111000#14) =
    .ok (.atom { sp := false, form := .s, d := 5, a := 6, b := 7, look := 2, aop := 1, ty := .i64, ord := .acq, sc := .pkg,
                 off := 0x3FF8 }) ∧
  -- mm class E4M3 x E5M2, arrangement 2x2: major 0x2B, minor 0; shape 1, class 2
  decode (0b0#1 ++ 0b101011#6 ++ 10#7 ++ 12#7 ++ 14#7 ++ 0#4) (0#12 ++ 1#4 ++ 2#4 ++ 0#12) =
    .ok (.mm { sp := false, d := 10, a := 12, b := 14, handle := 0, shape := 1, cls := 2, param := 0 }) ∧
  -- brp p2 with NEG, four words back, at a safe point: major 0x31
  decode (0b1#1 ++ 0b110001#6 ++ 0#7 ++ 2#7 ++ 0#7 ++ 1#4) (BitVec.ofInt 32 (-4)) =
    .ok (.brp { sp := true, p := 2, neg := true, imm := BitVec.ofInt 32 (-4) }) ∧
  -- tret: major 0x38, minor 0
  decode (0b0#1 ++ 0b111000#6 ++ 0#7 ++ 0#7 ++ 0#7 ++ 0#4) 0 = .ok (.tret { sp := false, d := 0, a := 0, b := 0 })

/-- Decoding rejects by the lowest cause: the unassigned majors are 0x00; guard 0b1000 is 0x01 whatever the other fields of
the first word hold, in major 0x20 too by log entry 24 (DEDUCED); a nonzero field that nop does not use is 0x02; and no cause above
0x04 comes from the words (R68). -/
def Obligations.DecodeRejects : Prop :=
  (∀ w x : IWord, (w.extractLsb' 25 6).toNat ∈ [0x00, 0x2F, 0x39, 0x3A, 0x3B, 0x3C, 0x3D, 0x3E, 0x3F] →
    decode w x = .reject 0x00) ∧
  (∀ w x : IWord, (w.extractLsb' 25 6).toNat ∈ [0x1E, 0x1F, 0x20] → w.extractLsb' 0 4 = 0b1000#4 →
    decode w x = .reject 0x01) ∧
  (∀ w x : IWord, (w.extractLsb' 25 6).toNat = 0x33 → w.extractLsb' 0 4 = 4#4 → w.extractLsb' 4 21 ≠ 0 →
    decode w x = .reject 0x02) ∧
  (∀ (w x : IWord) (c : BitVec 8), decode w x = .reject c → c.toNat ≤ 0x04)

/-- A clock of a group with one run that nothing holds up fetches the words at the run's counter; where they decode to i,
the step is exec of i, with the counter after it given by the words' number, the access of the fetch to its bins noted, and the run's
age and the group's place in the selection set (R15, R55, R120, R345; the agenda is log entry 2, what the clock's start shows of flags
and BWPHASE log entry 9). -/
def Obligations.StepRunsDecoded : Prop :=
  ∀ (s : State) (gid : Nat) (rest : List Todo) (g : Group) (r : Run) (w x : IWord) (i : Instr),
    s.out.down = false → s.agenda = .issue gid :: rest → mapFind s.groups gid = some g →
    g.stopped = none → groupHalted s g = false → latchDue g = false → g.blocks = [] → g.pends = [] →
    (teamAt s g.team).preemptAt = none → (ctxAt s (groupCtx s g)).bkptc = [] →
    let g1 := { g with yielded := false, raised := 0, bwSeen := (partAt s (ctxPart (groupCtx s g))).bwphase }
    let s1 := putGroup { s with agenda := rest } gid g1
    let k := groupCtx s g
    let f : Focus := { gid, lanes := r.lanes, pc := r.pc, npc := pcPlus r.pc (wordsOf w) }
    let visited := fun (t : State) => (fetchPas s1 (gidCore gid) k ([r.pc.toNat, r.pc.toNat] ++
      (if hasSecond w = true then [(pcPlus r.pc 1).toNat] else []))).foldl (visitHome (ctxPart k)) t
    runsOf s1 gid g1 = [r] → r.rep = false →
    fetchWord s1 (gidCore gid) k r.pc.toNat = .word w →
    (hasSecond w = true → fetchWord s1 (gidCore gid) k (pcPlus r.pc 1).toNat = .word x) →
    (hasSecond w = false → x = 0) → decode w x = .ok i → featureCause s1 (ctxPart k) w x = none →
    (∀ e, exec i { s1 with focus := some f } = .fault e → step s = .fault e) ∧
    (∀ e, exec i { s1 with focus := some f } = .refused e → step s = .refused e) ∧
    (∀ t', exec i { s1 with focus := some f } = .next t' →
      (∀ b ∈ (groupAt t' gid).blocks, whySoft b.why = false ∧ b.why ≠ .closing ∧ b.why ≠ .misuse) →
      let t := visited t'
      step s = .next
        { (match mapFind t.groups gid with
            | some g' => putGroup t gid { ageRuns g' [r] [r] with lastSel := t.fresh, sel := t.fresh, promoted := 0 }
            | none => t) with fresh := t.fresh + 1 })

/-- An event at the head of the agenda is exec of its row, and the passing of a nanosecond adds MHz thousandths of a clock to
CLOCK's count (R117, R373). -/
def Obligations.StepRunsEvents : Prop :=
  ∀ (s : State) (rest : List Todo), s.out.down = false →
    (∀ i, s.agenda = .event i :: rest → step s = exec i { s with agenda := rest }) ∧
    (s.agenda = .tick :: rest → ∃ t, step s = .next t ∧ t.clk.ns = s.clk.ns + 1 ∧
      (s.clk.clock.toNat * 1000 + s.clk.rem + s.clk.mhz < 2 ^ 64 * 1000 →
        t.clk.clock.toNat * 1000 + t.clk.rem = s.clk.clock.toNat * 1000 + s.clk.rem + s.clk.mhz) ∧
      t.mem = s.mem ∧ t.sram = s.sram ∧ t.groups = s.groups)

/-- After reset no group, team or node exists, no partition has started and nothing is accepted, no bin is allocated and
every bin is powered down, CLOCK is 0 at 2,500 MHz, MAXPRIO is 7 and WEIGHT 1, no window or pool is enabled (values that the
spec gives); memory and SRAM list nothing (log entry 4). -/
def Obligations.ResetState : Prop :=
  let s := State.reset
  s.groups = [] ∧ s.teams = [] ∧ s.nodes = [] ∧ s.saved = [] ∧ s.reqs = [] ∧ s.ops = [] ∧ s.edits = [] ∧
  s.clk.clock = 0 ∧ s.clk.mhz = 2500 ∧ s.out.ready = false ∧ s.out.numVfs = 0 ∧
  (∀ a, homeByte s.mem a = 0) ∧ s.sram.bytes = [] ∧ s.sram.tags = [] ∧
  (∀ p, (partAt s p).started = false ∧ (partAt s p).bootsrc = 0 ∧ (partAt s p).bootlen = 0 ∧
    (partAt s p).feat = [] ∧ (partAt s p).bwphase = 0) ∧
  (∀ k, (ctxAt s k).en = false ∧ (ctxAt s k).maxprio = 7 ∧ (ctxAt s k).weight = 1 ∧ (ctxAt s k).pool.en = false ∧
    ∀ w, (winAt s k w).valid = false) ∧
  (∀ b, (binAt s b).alloc = false ∧ (binAt s b).state = 3)

/-- The state after reset has the invariant Good of Safety.lean. -/
def Obligations.GoodAtReset : Prop := Good State.reset

/-- Every step keeps the invariant Good of Safety.lean, from every state that has it: memory and SRAM stay in their canonical
forms (log entry 4), and the clock stays among its frequencies with less than one whole clock uncounted (R373). -/
def Obligations.GoodKept : Prop := ∀ s t : State, Good s → step s = .next t → Good t
end

