-- ==== Sys2Proof/Laws/Maps.lean ====
section
/-! SUPPORT. Laws of the sparse maps: a read after a write gives the value written, a write leaves every other key
alone, and every operation keeps the canonical form. -/

namespace Sys2Proof.Machine

variable {α : Type}

/-! ### Look-up after an update -/

theorem mapFind_put_self (m : SMap α) (a : Nat) (v : α) : mapFind (mapPut m a v) a = some v := by
  induction m with
  | nil => simp [mapPut, mapFind]
  | cons e m ih =>
    obtain ⟨k, w⟩ := e
    simp only [mapPut]
    split
    · simp [mapFind]
    · split
      · simp [mapFind]
      · rename_i h2
        simp [mapFind, h2, ih]

theorem mapFind_put_ne (m : SMap α) {a b : Nat} (v : α) (h : b ≠ a) :
    mapFind (mapPut m a v) b = mapFind m b := by
  induction m with
  | nil => simp [mapPut, mapFind, h]
  | cons e m ih =>
    obtain ⟨k, w⟩ := e
    simp only [mapPut]
    split
    · simp [mapFind, h]
    · split
      · rename_i h2
        subst h2
        simp [mapFind, h]
      · simp [mapFind, ih]

theorem mapPut_put (m : SMap α) (a : Nat) (v w : α) : mapPut (mapPut m a v) a w = mapPut m a w := by
  induction m with
  | nil => simp [mapPut]
  | cons e m ih =>
    obtain ⟨k, u⟩ := e
    by_cases h1 : a < k
    · simp [mapPut, h1]
    · by_cases h2 : a = k
      · simp [mapPut, h2]
      · simp [mapPut, h1, h2, ih]

theorem mapFind_del_ne (m : SMap α) {a b : Nat} (h : b ≠ a) : mapFind (mapDel m a) b = mapFind m b := by
  induction m with
  | nil => simp [mapDel]
  | cons e m ih =>
    obtain ⟨k, w⟩ := e
    simp only [mapDel]
    split
    · rename_i h2
      subst h2
      simp [mapFind, h, ih]
    · simp [mapFind, ih]

theorem mapFind_del_self (m : SMap α) (a : Nat) : mapFind (mapDel m a) a = none := by
  induction m with
  | nil => rfl
  | cons e m ih =>
    obtain ⟨k, w⟩ := e
    simp only [mapDel]
    split
    · exact ih
    · rename_i h
      simp [mapFind, h, ih]

/-- A key below the bound of a rising map is not listed. -/
theorem mapFind_lt (m : SMap α) {lo a : Nat} (hm : mapRising lo m = true) (h : a < lo) : mapFind m a = none := by
  induction m generalizing lo with
  | nil => rfl
  | cons e m ih =>
    obtain ⟨k, w⟩ := e
    simp only [mapRising, Bool.and_eq_true, decide_eq_true_eq] at hm
    have : a ≠ k := by omega
    simp [mapFind, this, ih hm.2 (by omega)]

/-! ### The canonical form -/

theorem mapRising_mono (m : SMap α) {lo lo' : Nat} (h : lo' ≤ lo) (hm : mapRising lo m = true) :
    mapRising lo' m = true := by
  cases m with
  | nil => rfl
  | cons e m =>
    obtain ⟨k, w⟩ := e
    simp only [mapRising, Bool.and_eq_true, decide_eq_true_eq] at hm ⊢
    exact ⟨by omega, hm.2⟩

theorem mapRising_put (m : SMap α) {lo a : Nat} (v : α) (h : lo ≤ a) (hm : mapRising lo m = true) :
    mapRising lo (mapPut m a v) = true := by
  induction m generalizing lo with
  | nil => simp [mapPut, mapRising, h]
  | cons e m ih =>
    obtain ⟨k, w⟩ := e
    simp only [mapRising, Bool.and_eq_true, decide_eq_true_eq] at hm
    simp only [mapPut]
    split
    · rename_i h1
      simp only [mapRising, Bool.and_eq_true, decide_eq_true_eq]
      exact ⟨h, by omega, hm.2⟩
    · split
      · rename_i h2
        subst h2
        simp only [mapRising, Bool.and_eq_true, decide_eq_true_eq]
        exact hm
      · simp only [mapRising, Bool.and_eq_true, decide_eq_true_eq]
        exact ⟨hm.1, ih (by omega) hm.2⟩

theorem mapRising_del (m : SMap α) {lo a : Nat} (hm : mapRising lo m = true) : mapRising lo (mapDel m a) = true := by
  induction m generalizing lo with
  | nil => rfl
  | cons e m ih =>
    obtain ⟨k, w⟩ := e
    simp only [mapRising, Bool.and_eq_true, decide_eq_true_eq] at hm
    simp only [mapDel]
    split
    · exact mapRising_mono _ (by omega) (ih hm.2)
    · simp only [mapRising, Bool.and_eq_true, decide_eq_true_eq]
      exact ⟨hm.1, ih hm.2⟩

theorem mapRising_keep (m : SMap α) (p : Nat → α → Bool) {lo : Nat} (hm : mapRising lo m = true) :
    mapRising lo (mapKeep m p) = true := by
  induction m generalizing lo with
  | nil => rfl
  | cons e m ih =>
    obtain ⟨k, w⟩ := e
    simp only [mapRising, Bool.and_eq_true, decide_eq_true_eq] at hm
    simp only [mapKeep, List.filter_cons] at ih ⊢
    split
    · simp only [mapRising, Bool.and_eq_true, decide_eq_true_eq]
      exact ⟨hm.1, ih hm.2⟩
    · exact ih (mapRising_mono m (by omega) hm.2)

theorem mapRising_all (m : SMap α) (f : Nat → α → α) {lo : Nat} (hm : mapRising lo m = true) :
    mapRising lo (mapAll m f) = true := by
  induction m generalizing lo with
  | nil => rfl
  | cons e m ih =>
    obtain ⟨k, w⟩ := e
    simp only [mapRising, Bool.and_eq_true, decide_eq_true_eq] at hm
    simp only [mapAll, List.map_cons] at ih ⊢
    simp only [mapRising, Bool.and_eq_true, decide_eq_true_eq]
    exact ⟨hm.1, ih hm.2⟩

@[simp] theorem mapOrdered_nil : mapOrdered ([] : SMap α) = true := rfl
theorem mapOrdered_put (m : SMap α) (a : Nat) (v : α) (hm : mapOrdered m = true) :
    mapOrdered (mapPut m a v) = true := mapRising_put m v (Nat.zero_le a) hm
theorem mapOrdered_del (m : SMap α) (a : Nat) (hm : mapOrdered m = true) : mapOrdered (mapDel m a) = true :=
  mapRising_del m hm
theorem mapOrdered_keep (m : SMap α) (p : Nat → α → Bool) (hm : mapOrdered m = true) :
    mapOrdered (mapKeep m p) = true := mapRising_keep m p hm
theorem mapOrdered_all (m : SMap α) (f : Nat → α → α) (hm : mapOrdered m = true) :
    mapOrdered (mapAll m f) = true := mapRising_all m f hm
theorem mapOrdered_upd (m : SMap α) (a : Nat) (f : α → α) (hm : mapOrdered m = true) :
    mapOrdered (mapUpd m a f) = true := by
  unfold mapUpd
  split
  · exact mapOrdered_put m a _ hm
  · exact hm

/-- What an update leaves listed came from the map or is the value put. -/
theorem mem_mapPut (m : SMap α) (a : Nat) (v : α) {e : Nat × α} (h : e ∈ mapPut m a v) : e = (a, v) ∨ e ∈ m := by
  induction m with
  | nil => simpa [mapPut] using h
  | cons x m ih =>
    obtain ⟨k, w⟩ := x
    simp only [mapPut] at h
    split at h
    · simpa using h
    · split at h
      · simp only [List.mem_cons] at h ⊢
        tauto
      · simp only [List.mem_cons] at h ⊢
        rcases h with h | h
        · exact .inr (.inl h)
        · rcases ih h with h | h
          · exact .inl h
          · exact .inr (.inr h)

theorem mem_mapDel (m : SMap α) (a : Nat) {e : Nat × α} (h : e ∈ mapDel m a) : e ∈ m := by
  induction m with
  | nil => simp [mapDel] at h
  | cons x m ih =>
    obtain ⟨k, w⟩ := x
    simp only [mapDel] at h
    split at h
    · exact List.mem_cons_of_mem _ (ih h)
    · simp only [List.mem_cons] at h ⊢
      exact h.imp id ih

/-- A listed entry of an ordered map is what the look-up finds. -/
theorem mapFind_of_mem (m : SMap α) {lo : Nat} (hm : mapRising lo m = true) {a : Nat} {v : α} (h : (a, v) ∈ m) :
    mapFind m a = some v := by
  induction m generalizing lo with
  | nil => simp at h
  | cons e m ih =>
    obtain ⟨k, w⟩ := e
    simp only [mapRising, Bool.and_eq_true, decide_eq_true_eq] at hm
    simp only [List.mem_cons, Prod.mk.injEq] at h
    rcases h with ⟨rfl, rfl⟩ | h
    · simp [mapFind]
    · have h1 := ih hm.2 h
      have : a ≠ k := by
        rintro rfl
        rw [mapFind_lt m hm.2 (by omega)] at h1
        simp at h1
      simp [mapFind, this, h1]

theorem mem_of_mapFind (m : SMap α) {a : Nat} {v : α} (h : mapFind m a = some v) : (a, v) ∈ m := by
  induction m with
  | nil => simp [mapFind] at h
  | cons e m ih =>
    obtain ⟨k, w⟩ := e
    simp only [mapFind] at h
    split at h
    · rename_i h2
      simp only [Option.some.injEq] at h
      simp [h2, h]
    · exact List.mem_cons_of_mem _ (ih h)

section Default
variable [DecidableEq α]

theorem mapWf_ordered {d : α} {m : SMap α} (h : mapWf d m = true) : mapOrdered m = true := by
  simp only [mapWf, Bool.and_eq_true] at h
  exact h.1
@[simp] theorem mapWf_nil (d : α) : mapWf d ([] : SMap α) = true := rfl

theorem mapWf_del (d : α) (m : SMap α) (a : Nat) (h : mapWf d m = true) : mapWf d (mapDel m a) = true := by
  simp only [mapWf, Bool.and_eq_true, List.all_eq_true] at h ⊢
  exact ⟨mapOrdered_del m a h.1, fun e he => h.2 e (mem_mapDel m a he)⟩
theorem mapWf_put (d : α) (m : SMap α) (a : Nat) (v : α) (hv : v ≠ d) (h : mapWf d m = true) :
    mapWf d (mapPut m a v) = true := by
  simp only [mapWf, Bool.and_eq_true, List.all_eq_true] at h ⊢
  refine ⟨mapOrdered_put m a v h.1, fun e he => ?_⟩
  rcases mem_mapPut m a v he with rfl | he
  · simpa using hv
  · exact h.2 e he
/-- A write keeps the canonical form. -/
theorem mapWf_set (d : α) (m : SMap α) (a : Nat) (v : α) (h : mapWf d m = true) : mapWf d (mapSet d m a v) = true := by
  unfold mapSet
  split
  · exact mapWf_del d m a h
  · exact mapWf_put d m a v ‹_› h
theorem mapWf_keep (d : α) (m : SMap α) (p : Nat → α → Bool) (h : mapWf d m = true) :
    mapWf d (mapKeep m p) = true := by
  simp only [mapWf, Bool.and_eq_true, List.all_eq_true] at h ⊢
  exact ⟨mapOrdered_keep m p h.1, fun e he => h.2 e (List.mem_filter.mp he).1⟩
theorem mapWf_setList (d : α) (m : SMap α) (a : Nat) (vs : List α) (h : mapWf d m = true) :
    mapWf d (mapSetList d m a vs) = true := by
  induction vs generalizing m a with
  | nil => exact h
  | cons v vs ih => exact ih _ _ (mapWf_set d m a v h)

/-- A read after a write to the same key gives the value written. -/
theorem mapGet_set_self (d : α) (m : SMap α) (a : Nat) (v : α) :
    mapGet d (mapSet d m a v) a = v := by
  unfold mapSet
  split
  · rename_i hv
    simp [mapGet, mapFind_del_self m a, hv]
  · simp [mapGet, mapFind_put_self]
/-- A write leaves every other key alone. -/
theorem mapGet_set_ne (d : α) (m : SMap α) {a b : Nat} (v : α) (h : b ≠ a) :
    mapGet d (mapSet d m a v) b = mapGet d m b := by
  unfold mapSet mapGet
  split
  · rw [mapFind_del_ne m h]
  · rw [mapFind_put_ne m v h]
end Default

@[simp] theorem mapGet_put_self (d : α) (m : SMap α) (a : Nat) (v : α) : mapGet d (mapPut m a v) a = v := by
  simp [mapGet, mapFind_put_self]
theorem mapGet_put_ne (d : α) (m : SMap α) {a b : Nat} (v : α) (h : b ≠ a) :
    mapGet d (mapPut m a v) b = mapGet d m b := by
  simp [mapGet, mapFind_put_ne m v h]

end Sys2Proof.Machine
end

