-- ==== Sys2Proof/Laws/State.lean ====
section
/-! SUPPORT. What each named update of the state and of a group leaves in every field: one lemma per field per update,
true by definition. -/

namespace Sys2Proof.Machine

/-! ### putGroup and updGroup -/

@[simp] theorem putGroup_agenda (s : State) (gid : Nat) (x : Group) : (putGroup s gid x).agenda = s.agenda := rfl
@[simp] theorem updGroup_agenda (s : State) (gid : Nat) (f : Group → Group) :
    (updGroup s gid f).agenda = s.agenda := rfl
@[simp] theorem putGroup_picks (s : State) (gid : Nat) (x : Group) : (putGroup s gid x).picks = s.picks := rfl
@[simp] theorem updGroup_picks (s : State) (gid : Nat) (f : Group → Group) : (updGroup s gid f).picks = s.picks := rfl
@[simp] theorem putGroup_fresh (s : State) (gid : Nat) (x : Group) : (putGroup s gid x).fresh = s.fresh := rfl
@[simp] theorem updGroup_fresh (s : State) (gid : Nat) (f : Group → Group) : (updGroup s gid f).fresh = s.fresh := rfl
@[simp] theorem putGroup_focus (s : State) (gid : Nat) (x : Group) : (putGroup s gid x).focus = s.focus := rfl
@[simp] theorem updGroup_focus (s : State) (gid : Nat) (f : Group → Group) : (updGroup s gid f).focus = s.focus := rfl
@[simp] theorem putGroup_clk (s : State) (gid : Nat) (x : Group) : (putGroup s gid x).clk = s.clk := rfl
@[simp] theorem updGroup_clk (s : State) (gid : Nat) (f : Group → Group) : (updGroup s gid f).clk = s.clk := rfl
@[simp] theorem putGroup_groups (s : State) (gid : Nat) (x : Group) :
    (putGroup s gid x).groups = mapPut s.groups gid x := rfl
@[simp] theorem updGroup_groups (s : State) (gid : Nat) (f : Group → Group) :
    (updGroup s gid f).groups = mapPut s.groups gid (f (groupAt s gid)) := rfl
@[simp] theorem putGroup_cores (s : State) (gid : Nat) (x : Group) : (putGroup s gid x).cores = s.cores := rfl
@[simp] theorem updGroup_cores (s : State) (gid : Nat) (f : Group → Group) : (updGroup s gid f).cores = s.cores := rfl
@[simp] theorem putGroup_teams (s : State) (gid : Nat) (x : Group) : (putGroup s gid x).teams = s.teams := rfl
@[simp] theorem updGroup_teams (s : State) (gid : Nat) (f : Group → Group) : (updGroup s gid f).teams = s.teams := rfl
@[simp] theorem putGroup_saved (s : State) (gid : Nat) (x : Group) : (putGroup s gid x).saved = s.saved := rfl
@[simp] theorem updGroup_saved (s : State) (gid : Nat) (f : Group → Group) : (updGroup s gid f).saved = s.saved := rfl
@[simp] theorem putGroup_nodes (s : State) (gid : Nat) (x : Group) : (putGroup s gid x).nodes = s.nodes := rfl
@[simp] theorem updGroup_nodes (s : State) (gid : Nat) (f : Group → Group) : (updGroup s gid f).nodes = s.nodes := rfl
@[simp] theorem putGroup_ctxs (s : State) (gid : Nat) (x : Group) : (putGroup s gid x).ctxs = s.ctxs := rfl
@[simp] theorem updGroup_ctxs (s : State) (gid : Nat) (f : Group → Group) : (updGroup s gid f).ctxs = s.ctxs := rfl
@[simp] theorem putGroup_parts (s : State) (gid : Nat) (x : Group) : (putGroup s gid x).parts = s.parts := rfl
@[simp] theorem updGroup_parts (s : State) (gid : Nat) (f : Group → Group) : (updGroup s gid f).parts = s.parts := rfl
@[simp] theorem putGroup_bins (s : State) (gid : Nat) (x : Group) : (putGroup s gid x).bins = s.bins := rfl
@[simp] theorem updGroup_bins (s : State) (gid : Nat) (f : Group → Group) : (updGroup s gid f).bins = s.bins := rfl
@[simp] theorem putGroup_mem (s : State) (gid : Nat) (x : Group) : (putGroup s gid x).mem = s.mem := rfl
@[simp] theorem updGroup_mem (s : State) (gid : Nat) (f : Group → Group) : (updGroup s gid f).mem = s.mem := rfl
@[simp] theorem putGroup_sram (s : State) (gid : Nat) (x : Group) : (putGroup s gid x).sram = s.sram := rfl
@[simp] theorem updGroup_sram (s : State) (gid : Nat) (f : Group → Group) : (updGroup s gid f).sram = s.sram := rfl
@[simp] theorem putGroup_reqs (s : State) (gid : Nat) (x : Group) : (putGroup s gid x).reqs = s.reqs := rfl
@[simp] theorem updGroup_reqs (s : State) (gid : Nat) (f : Group → Group) : (updGroup s gid f).reqs = s.reqs := rfl
@[simp] theorem putGroup_ops (s : State) (gid : Nat) (x : Group) : (putGroup s gid x).ops = s.ops := rfl
@[simp] theorem updGroup_ops (s : State) (gid : Nat) (f : Group → Group) : (updGroup s gid f).ops = s.ops := rfl
@[simp] theorem putGroup_xfers (s : State) (gid : Nat) (x : Group) : (putGroup s gid x).xfers = s.xfers := rfl
@[simp] theorem updGroup_xfers (s : State) (gid : Nat) (f : Group → Group) : (updGroup s gid f).xfers = s.xfers := rfl
@[simp] theorem putGroup_edits (s : State) (gid : Nat) (x : Group) : (putGroup s gid x).edits = s.edits := rfl
@[simp] theorem updGroup_edits (s : State) (gid : Nat) (f : Group → Group) : (updGroup s gid f).edits = s.edits := rfl
@[simp] theorem putGroup_out (s : State) (gid : Nat) (x : Group) : (putGroup s gid x).out = s.out := rfl
@[simp] theorem updGroup_out (s : State) (gid : Nat) (f : Group → Group) : (updGroup s gid f).out = s.out := rfl

/-! ### putCore and updCore -/

@[simp] theorem putCore_agenda (s : State) (c : Nat) (x : Core) : (putCore s c x).agenda = s.agenda := rfl
@[simp] theorem updCore_agenda (s : State) (c : Nat) (f : Core → Core) : (updCore s c f).agenda = s.agenda := rfl
@[simp] theorem putCore_picks (s : State) (c : Nat) (x : Core) : (putCore s c x).picks = s.picks := rfl
@[simp] theorem updCore_picks (s : State) (c : Nat) (f : Core → Core) : (updCore s c f).picks = s.picks := rfl
@[simp] theorem putCore_fresh (s : State) (c : Nat) (x : Core) : (putCore s c x).fresh = s.fresh := rfl
@[simp] theorem updCore_fresh (s : State) (c : Nat) (f : Core → Core) : (updCore s c f).fresh = s.fresh := rfl
@[simp] theorem putCore_focus (s : State) (c : Nat) (x : Core) : (putCore s c x).focus = s.focus := rfl
@[simp] theorem updCore_focus (s : State) (c : Nat) (f : Core → Core) : (updCore s c f).focus = s.focus := rfl
@[simp] theorem putCore_clk (s : State) (c : Nat) (x : Core) : (putCore s c x).clk = s.clk := rfl
@[simp] theorem updCore_clk (s : State) (c : Nat) (f : Core → Core) : (updCore s c f).clk = s.clk := rfl
@[simp] theorem putCore_groups (s : State) (c : Nat) (x : Core) : (putCore s c x).groups = s.groups := rfl
@[simp] theorem updCore_groups (s : State) (c : Nat) (f : Core → Core) : (updCore s c f).groups = s.groups := rfl
@[simp] theorem putCore_cores (s : State) (c : Nat) (x : Core) : (putCore s c x).cores = mapSet {} s.cores c x := rfl
@[simp] theorem updCore_cores (s : State) (c : Nat) (f : Core → Core) :
    (updCore s c f).cores = mapSet {} s.cores c (f (coreAt s c)) := rfl
@[simp] theorem putCore_teams (s : State) (c : Nat) (x : Core) : (putCore s c x).teams = s.teams := rfl
@[simp] theorem updCore_teams (s : State) (c : Nat) (f : Core → Core) : (updCore s c f).teams = s.teams := rfl
@[simp] theorem putCore_saved (s : State) (c : Nat) (x : Core) : (putCore s c x).saved = s.saved := rfl
@[simp] theorem updCore_saved (s : State) (c : Nat) (f : Core → Core) : (updCore s c f).saved = s.saved := rfl
@[simp] theorem putCore_nodes (s : State) (c : Nat) (x : Core) : (putCore s c x).nodes = s.nodes := rfl
@[simp] theorem updCore_nodes (s : State) (c : Nat) (f : Core → Core) : (updCore s c f).nodes = s.nodes := rfl
@[simp] theorem putCore_ctxs (s : State) (c : Nat) (x : Core) : (putCore s c x).ctxs = s.ctxs := rfl
@[simp] theorem updCore_ctxs (s : State) (c : Nat) (f : Core → Core) : (updCore s c f).ctxs = s.ctxs := rfl
@[simp] theorem putCore_parts (s : State) (c : Nat) (x : Core) : (putCore s c x).parts = s.parts := rfl
@[simp] theorem updCore_parts (s : State) (c : Nat) (f : Core → Core) : (updCore s c f).parts = s.parts := rfl
@[simp] theorem putCore_bins (s : State) (c : Nat) (x : Core) : (putCore s c x).bins = s.bins := rfl
@[simp] theorem updCore_bins (s : State) (c : Nat) (f : Core → Core) : (updCore s c f).bins = s.bins := rfl
@[simp] theorem putCore_mem (s : State) (c : Nat) (x : Core) : (putCore s c x).mem = s.mem := rfl
@[simp] theorem updCore_mem (s : State) (c : Nat) (f : Core → Core) : (updCore s c f).mem = s.mem := rfl
@[simp] theorem putCore_sram (s : State) (c : Nat) (x : Core) : (putCore s c x).sram = s.sram := rfl
@[simp] theorem updCore_sram (s : State) (c : Nat) (f : Core → Core) : (updCore s c f).sram = s.sram := rfl
@[simp] theorem putCore_reqs (s : State) (c : Nat) (x : Core) : (putCore s c x).reqs = s.reqs := rfl
@[simp] theorem updCore_reqs (s : State) (c : Nat) (f : Core → Core) : (updCore s c f).reqs = s.reqs := rfl
@[simp] theorem putCore_ops (s : State) (c : Nat) (x : Core) : (putCore s c x).ops = s.ops := rfl
@[simp] theorem updCore_ops (s : State) (c : Nat) (f : Core → Core) : (updCore s c f).ops = s.ops := rfl
@[simp] theorem putCore_xfers (s : State) (c : Nat) (x : Core) : (putCore s c x).xfers = s.xfers := rfl
@[simp] theorem updCore_xfers (s : State) (c : Nat) (f : Core → Core) : (updCore s c f).xfers = s.xfers := rfl
@[simp] theorem putCore_edits (s : State) (c : Nat) (x : Core) : (putCore s c x).edits = s.edits := rfl
@[simp] theorem updCore_edits (s : State) (c : Nat) (f : Core → Core) : (updCore s c f).edits = s.edits := rfl
@[simp] theorem putCore_out (s : State) (c : Nat) (x : Core) : (putCore s c x).out = s.out := rfl
@[simp] theorem updCore_out (s : State) (c : Nat) (f : Core → Core) : (updCore s c f).out = s.out := rfl

/-! ### putTeam and updTeam -/

@[simp] theorem putTeam_agenda (s : State) (t : Nat) (x : Team) : (putTeam s t x).agenda = s.agenda := rfl
@[simp] theorem updTeam_agenda (s : State) (t : Nat) (f : Team → Team) : (updTeam s t f).agenda = s.agenda := rfl
@[simp] theorem putTeam_picks (s : State) (t : Nat) (x : Team) : (putTeam s t x).picks = s.picks := rfl
@[simp] theorem updTeam_picks (s : State) (t : Nat) (f : Team → Team) : (updTeam s t f).picks = s.picks := rfl
@[simp] theorem putTeam_fresh (s : State) (t : Nat) (x : Team) : (putTeam s t x).fresh = s.fresh := rfl
@[simp] theorem updTeam_fresh (s : State) (t : Nat) (f : Team → Team) : (updTeam s t f).fresh = s.fresh := rfl
@[simp] theorem putTeam_focus (s : State) (t : Nat) (x : Team) : (putTeam s t x).focus = s.focus := rfl
@[simp] theorem updTeam_focus (s : State) (t : Nat) (f : Team → Team) : (updTeam s t f).focus = s.focus := rfl
@[simp] theorem putTeam_clk (s : State) (t : Nat) (x : Team) : (putTeam s t x).clk = s.clk := rfl
@[simp] theorem updTeam_clk (s : State) (t : Nat) (f : Team → Team) : (updTeam s t f).clk = s.clk := rfl
@[simp] theorem putTeam_groups (s : State) (t : Nat) (x : Team) : (putTeam s t x).groups = s.groups := rfl
@[simp] theorem updTeam_groups (s : State) (t : Nat) (f : Team → Team) : (updTeam s t f).groups = s.groups := rfl
@[simp] theorem putTeam_cores (s : State) (t : Nat) (x : Team) : (putTeam s t x).cores = s.cores := rfl
@[simp] theorem updTeam_cores (s : State) (t : Nat) (f : Team → Team) : (updTeam s t f).cores = s.cores := rfl
@[simp] theorem putTeam_teams (s : State) (t : Nat) (x : Team) : (putTeam s t x).teams = mapPut s.teams t x := rfl
@[simp] theorem updTeam_teams (s : State) (t : Nat) (f : Team → Team) :
    (updTeam s t f).teams = mapPut s.teams t (f (teamAt s t)) := rfl
@[simp] theorem putTeam_saved (s : State) (t : Nat) (x : Team) : (putTeam s t x).saved = s.saved := rfl
@[simp] theorem updTeam_saved (s : State) (t : Nat) (f : Team → Team) : (updTeam s t f).saved = s.saved := rfl
@[simp] theorem putTeam_nodes (s : State) (t : Nat) (x : Team) : (putTeam s t x).nodes = s.nodes := rfl
@[simp] theorem updTeam_nodes (s : State) (t : Nat) (f : Team → Team) : (updTeam s t f).nodes = s.nodes := rfl
@[simp] theorem putTeam_ctxs (s : State) (t : Nat) (x : Team) : (putTeam s t x).ctxs = s.ctxs := rfl
@[simp] theorem updTeam_ctxs (s : State) (t : Nat) (f : Team → Team) : (updTeam s t f).ctxs = s.ctxs := rfl
@[simp] theorem putTeam_parts (s : State) (t : Nat) (x : Team) : (putTeam s t x).parts = s.parts := rfl
@[simp] theorem updTeam_parts (s : State) (t : Nat) (f : Team → Team) : (updTeam s t f).parts = s.parts := rfl
@[simp] theorem putTeam_bins (s : State) (t : Nat) (x : Team) : (putTeam s t x).bins = s.bins := rfl
@[simp] theorem updTeam_bins (s : State) (t : Nat) (f : Team → Team) : (updTeam s t f).bins = s.bins := rfl
@[simp] theorem putTeam_mem (s : State) (t : Nat) (x : Team) : (putTeam s t x).mem = s.mem := rfl
@[simp] theorem updTeam_mem (s : State) (t : Nat) (f : Team → Team) : (updTeam s t f).mem = s.mem := rfl
@[simp] theorem putTeam_sram (s : State) (t : Nat) (x : Team) : (putTeam s t x).sram = s.sram := rfl
@[simp] theorem updTeam_sram (s : State) (t : Nat) (f : Team → Team) : (updTeam s t f).sram = s.sram := rfl
@[simp] theorem putTeam_reqs (s : State) (t : Nat) (x : Team) : (putTeam s t x).reqs = s.reqs := rfl
@[simp] theorem updTeam_reqs (s : State) (t : Nat) (f : Team → Team) : (updTeam s t f).reqs = s.reqs := rfl
@[simp] theorem putTeam_ops (s : State) (t : Nat) (x : Team) : (putTeam s t x).ops = s.ops := rfl
@[simp] theorem updTeam_ops (s : State) (t : Nat) (f : Team → Team) : (updTeam s t f).ops = s.ops := rfl
@[simp] theorem putTeam_xfers (s : State) (t : Nat) (x : Team) : (putTeam s t x).xfers = s.xfers := rfl
@[simp] theorem updTeam_xfers (s : State) (t : Nat) (f : Team → Team) : (updTeam s t f).xfers = s.xfers := rfl
@[simp] theorem putTeam_edits (s : State) (t : Nat) (x : Team) : (putTeam s t x).edits = s.edits := rfl
@[simp] theorem updTeam_edits (s : State) (t : Nat) (f : Team → Team) : (updTeam s t f).edits = s.edits := rfl
@[simp] theorem putTeam_out (s : State) (t : Nat) (x : Team) : (putTeam s t x).out = s.out := rfl
@[simp] theorem updTeam_out (s : State) (t : Nat) (f : Team → Team) : (updTeam s t f).out = s.out := rfl

/-! ### putNode and updNode -/

@[simp] theorem putNode_agenda (s : State) (n : Nat) (x : Node) : (putNode s n x).agenda = s.agenda := rfl
@[simp] theorem updNode_agenda (s : State) (n : Nat) (f : Node → Node) : (updNode s n f).agenda = s.agenda := rfl
@[simp] theorem putNode_picks (s : State) (n : Nat) (x : Node) : (putNode s n x).picks = s.picks := rfl
@[simp] theorem updNode_picks (s : State) (n : Nat) (f : Node → Node) : (updNode s n f).picks = s.picks := rfl
@[simp] theorem putNode_fresh (s : State) (n : Nat) (x : Node) : (putNode s n x).fresh = s.fresh := rfl
@[simp] theorem updNode_fresh (s : State) (n : Nat) (f : Node → Node) : (updNode s n f).fresh = s.fresh := rfl
@[simp] theorem putNode_focus (s : State) (n : Nat) (x : Node) : (putNode s n x).focus = s.focus := rfl
@[simp] theorem updNode_focus (s : State) (n : Nat) (f : Node → Node) : (updNode s n f).focus = s.focus := rfl
@[simp] theorem putNode_clk (s : State) (n : Nat) (x : Node) : (putNode s n x).clk = s.clk := rfl
@[simp] theorem updNode_clk (s : State) (n : Nat) (f : Node → Node) : (updNode s n f).clk = s.clk := rfl
@[simp] theorem putNode_groups (s : State) (n : Nat) (x : Node) : (putNode s n x).groups = s.groups := rfl
@[simp] theorem updNode_groups (s : State) (n : Nat) (f : Node → Node) : (updNode s n f).groups = s.groups := rfl
@[simp] theorem putNode_cores (s : State) (n : Nat) (x : Node) : (putNode s n x).cores = s.cores := rfl
@[simp] theorem updNode_cores (s : State) (n : Nat) (f : Node → Node) : (updNode s n f).cores = s.cores := rfl
@[simp] theorem putNode_teams (s : State) (n : Nat) (x : Node) : (putNode s n x).teams = s.teams := rfl
@[simp] theorem updNode_teams (s : State) (n : Nat) (f : Node → Node) : (updNode s n f).teams = s.teams := rfl
@[simp] theorem putNode_saved (s : State) (n : Nat) (x : Node) : (putNode s n x).saved = s.saved := rfl
@[simp] theorem updNode_saved (s : State) (n : Nat) (f : Node → Node) : (updNode s n f).saved = s.saved := rfl
@[simp] theorem putNode_nodes (s : State) (n : Nat) (x : Node) : (putNode s n x).nodes = mapPut s.nodes n x := rfl
@[simp] theorem updNode_nodes (s : State) (n : Nat) (f : Node → Node) :
    (updNode s n f).nodes = mapPut s.nodes n (f (nodeAt s n)) := rfl
@[simp] theorem putNode_ctxs (s : State) (n : Nat) (x : Node) : (putNode s n x).ctxs = s.ctxs := rfl
@[simp] theorem updNode_ctxs (s : State) (n : Nat) (f : Node → Node) : (updNode s n f).ctxs = s.ctxs := rfl
@[simp] theorem putNode_parts (s : State) (n : Nat) (x : Node) : (putNode s n x).parts = s.parts := rfl
@[simp] theorem updNode_parts (s : State) (n : Nat) (f : Node → Node) : (updNode s n f).parts = s.parts := rfl
@[simp] theorem putNode_bins (s : State) (n : Nat) (x : Node) : (putNode s n x).bins = s.bins := rfl
@[simp] theorem updNode_bins (s : State) (n : Nat) (f : Node → Node) : (updNode s n f).bins = s.bins := rfl
@[simp] theorem putNode_mem (s : State) (n : Nat) (x : Node) : (putNode s n x).mem = s.mem := rfl
@[simp] theorem updNode_mem (s : State) (n : Nat) (f : Node → Node) : (updNode s n f).mem = s.mem := rfl
@[simp] theorem putNode_sram (s : State) (n : Nat) (x : Node) : (putNode s n x).sram = s.sram := rfl
@[simp] theorem updNode_sram (s : State) (n : Nat) (f : Node → Node) : (updNode s n f).sram = s.sram := rfl
@[simp] theorem putNode_reqs (s : State) (n : Nat) (x : Node) : (putNode s n x).reqs = s.reqs := rfl
@[simp] theorem updNode_reqs (s : State) (n : Nat) (f : Node → Node) : (updNode s n f).reqs = s.reqs := rfl
@[simp] theorem putNode_ops (s : State) (n : Nat) (x : Node) : (putNode s n x).ops = s.ops := rfl
@[simp] theorem updNode_ops (s : State) (n : Nat) (f : Node → Node) : (updNode s n f).ops = s.ops := rfl
@[simp] theorem putNode_xfers (s : State) (n : Nat) (x : Node) : (putNode s n x).xfers = s.xfers := rfl
@[simp] theorem updNode_xfers (s : State) (n : Nat) (f : Node → Node) : (updNode s n f).xfers = s.xfers := rfl
@[simp] theorem putNode_edits (s : State) (n : Nat) (x : Node) : (putNode s n x).edits = s.edits := rfl
@[simp] theorem updNode_edits (s : State) (n : Nat) (f : Node → Node) : (updNode s n f).edits = s.edits := rfl
@[simp] theorem putNode_out (s : State) (n : Nat) (x : Node) : (putNode s n x).out = s.out := rfl
@[simp] theorem updNode_out (s : State) (n : Nat) (f : Node → Node) : (updNode s n f).out = s.out := rfl

/-! ### putCtx and updCtx -/

@[simp] theorem putCtx_agenda (s : State) (k : Nat) (x : Ctx) : (putCtx s k x).agenda = s.agenda := rfl
@[simp] theorem updCtx_agenda (s : State) (k : Nat) (f : Ctx → Ctx) : (updCtx s k f).agenda = s.agenda := rfl
@[simp] theorem putCtx_picks (s : State) (k : Nat) (x : Ctx) : (putCtx s k x).picks = s.picks := rfl
@[simp] theorem updCtx_picks (s : State) (k : Nat) (f : Ctx → Ctx) : (updCtx s k f).picks = s.picks := rfl
@[simp] theorem putCtx_fresh (s : State) (k : Nat) (x : Ctx) : (putCtx s k x).fresh = s.fresh := rfl
@[simp] theorem updCtx_fresh (s : State) (k : Nat) (f : Ctx → Ctx) : (updCtx s k f).fresh = s.fresh := rfl
@[simp] theorem putCtx_focus (s : State) (k : Nat) (x : Ctx) : (putCtx s k x).focus = s.focus := rfl
@[simp] theorem updCtx_focus (s : State) (k : Nat) (f : Ctx → Ctx) : (updCtx s k f).focus = s.focus := rfl
@[simp] theorem putCtx_clk (s : State) (k : Nat) (x : Ctx) : (putCtx s k x).clk = s.clk := rfl
@[simp] theorem updCtx_clk (s : State) (k : Nat) (f : Ctx → Ctx) : (updCtx s k f).clk = s.clk := rfl
@[simp] theorem putCtx_groups (s : State) (k : Nat) (x : Ctx) : (putCtx s k x).groups = s.groups := rfl
@[simp] theorem updCtx_groups (s : State) (k : Nat) (f : Ctx → Ctx) : (updCtx s k f).groups = s.groups := rfl
@[simp] theorem putCtx_cores (s : State) (k : Nat) (x : Ctx) : (putCtx s k x).cores = s.cores := rfl
@[simp] theorem updCtx_cores (s : State) (k : Nat) (f : Ctx → Ctx) : (updCtx s k f).cores = s.cores := rfl
@[simp] theorem putCtx_teams (s : State) (k : Nat) (x : Ctx) : (putCtx s k x).teams = s.teams := rfl
@[simp] theorem updCtx_teams (s : State) (k : Nat) (f : Ctx → Ctx) : (updCtx s k f).teams = s.teams := rfl
@[simp] theorem putCtx_saved (s : State) (k : Nat) (x : Ctx) : (putCtx s k x).saved = s.saved := rfl
@[simp] theorem updCtx_saved (s : State) (k : Nat) (f : Ctx → Ctx) : (updCtx s k f).saved = s.saved := rfl
@[simp] theorem putCtx_nodes (s : State) (k : Nat) (x : Ctx) : (putCtx s k x).nodes = s.nodes := rfl
@[simp] theorem updCtx_nodes (s : State) (k : Nat) (f : Ctx → Ctx) : (updCtx s k f).nodes = s.nodes := rfl
@[simp] theorem putCtx_ctxs (s : State) (k : Nat) (x : Ctx) : (putCtx s k x).ctxs = mapSet {} s.ctxs k x := rfl
@[simp] theorem updCtx_ctxs (s : State) (k : Nat) (f : Ctx → Ctx) :
    (updCtx s k f).ctxs = mapSet {} s.ctxs k (f (ctxAt s k)) := rfl
@[simp] theorem putCtx_parts (s : State) (k : Nat) (x : Ctx) : (putCtx s k x).parts = s.parts := rfl
@[simp] theorem updCtx_parts (s : State) (k : Nat) (f : Ctx → Ctx) : (updCtx s k f).parts = s.parts := rfl
@[simp] theorem putCtx_bins (s : State) (k : Nat) (x : Ctx) : (putCtx s k x).bins = s.bins := rfl
@[simp] theorem updCtx_bins (s : State) (k : Nat) (f : Ctx → Ctx) : (updCtx s k f).bins = s.bins := rfl
@[simp] theorem putCtx_mem (s : State) (k : Nat) (x : Ctx) : (putCtx s k x).mem = s.mem := rfl
@[simp] theorem updCtx_mem (s : State) (k : Nat) (f : Ctx → Ctx) : (updCtx s k f).mem = s.mem := rfl
@[simp] theorem putCtx_sram (s : State) (k : Nat) (x : Ctx) : (putCtx s k x).sram = s.sram := rfl
@[simp] theorem updCtx_sram (s : State) (k : Nat) (f : Ctx → Ctx) : (updCtx s k f).sram = s.sram := rfl
@[simp] theorem putCtx_reqs (s : State) (k : Nat) (x : Ctx) : (putCtx s k x).reqs = s.reqs := rfl
@[simp] theorem updCtx_reqs (s : State) (k : Nat) (f : Ctx → Ctx) : (updCtx s k f).reqs = s.reqs := rfl
@[simp] theorem putCtx_ops (s : State) (k : Nat) (x : Ctx) : (putCtx s k x).ops = s.ops := rfl
@[simp] theorem updCtx_ops (s : State) (k : Nat) (f : Ctx → Ctx) : (updCtx s k f).ops = s.ops := rfl
@[simp] theorem putCtx_xfers (s : State) (k : Nat) (x : Ctx) : (putCtx s k x).xfers = s.xfers := rfl
@[simp] theorem updCtx_xfers (s : State) (k : Nat) (f : Ctx → Ctx) : (updCtx s k f).xfers = s.xfers := rfl
@[simp] theorem putCtx_edits (s : State) (k : Nat) (x : Ctx) : (putCtx s k x).edits = s.edits := rfl
@[simp] theorem updCtx_edits (s : State) (k : Nat) (f : Ctx → Ctx) : (updCtx s k f).edits = s.edits := rfl
@[simp] theorem putCtx_out (s : State) (k : Nat) (x : Ctx) : (putCtx s k x).out = s.out := rfl
@[simp] theorem updCtx_out (s : State) (k : Nat) (f : Ctx → Ctx) : (updCtx s k f).out = s.out := rfl

/-! ### putPart and updPart -/

@[simp] theorem putPart_agenda (s : State) (p : Nat) (x : Partition) : (putPart s p x).agenda = s.agenda := rfl
@[simp] theorem updPart_agenda (s : State) (p : Nat) (f : Partition → Partition) :
    (updPart s p f).agenda = s.agenda := rfl
@[simp] theorem putPart_picks (s : State) (p : Nat) (x : Partition) : (putPart s p x).picks = s.picks := rfl
@[simp] theorem updPart_picks (s : State) (p : Nat) (f : Partition → Partition) :
    (updPart s p f).picks = s.picks := rfl
@[simp] theorem putPart_fresh (s : State) (p : Nat) (x : Partition) : (putPart s p x).fresh = s.fresh := rfl
@[simp] theorem updPart_fresh (s : State) (p : Nat) (f : Partition → Partition) :
    (updPart s p f).fresh = s.fresh := rfl
@[simp] theorem putPart_focus (s : State) (p : Nat) (x : Partition) : (putPart s p x).focus = s.focus := rfl
@[simp] theorem updPart_focus (s : State) (p : Nat) (f : Partition → Partition) :
    (updPart s p f).focus = s.focus := rfl
@[simp] theorem putPart_clk (s : State) (p : Nat) (x : Partition) : (putPart s p x).clk = s.clk := rfl
@[simp] theorem updPart_clk (s : State) (p : Nat) (f : Partition → Partition) : (updPart s p f).clk = s.clk := rfl
@[simp] theorem putPart_groups (s : State) (p : Nat) (x : Partition) : (putPart s p x).groups = s.groups := rfl
@[simp] theorem updPart_groups (s : State) (p : Nat) (f : Partition → Partition) :
    (updPart s p f).groups = s.groups := rfl
@[simp] theorem putPart_cores (s : State) (p : Nat) (x : Partition) : (putPart s p x).cores = s.cores := rfl
@[simp] theorem updPart_cores (s : State) (p : Nat) (f : Partition → Partition) :
    (updPart s p f).cores = s.cores := rfl
@[simp] theorem putPart_teams (s : State) (p : Nat) (x : Partition) : (putPart s p x).teams = s.teams := rfl
@[simp] theorem updPart_teams (s : State) (p : Nat) (f : Partition → Partition) :
    (updPart s p f).teams = s.teams := rfl
@[simp] theorem putPart_saved (s : State) (p : Nat) (x : Partition) : (putPart s p x).saved = s.saved := rfl
@[simp] theorem updPart_saved (s : State) (p : Nat) (f : Partition → Partition) :
    (updPart s p f).saved = s.saved := rfl
@[simp] theorem putPart_nodes (s : State) (p : Nat) (x : Partition) : (putPart s p x).nodes = s.nodes := rfl
@[simp] theorem updPart_nodes (s : State) (p : Nat) (f : Partition → Partition) :
    (updPart s p f).nodes = s.nodes := rfl
@[simp] theorem putPart_ctxs (s : State) (p : Nat) (x : Partition) : (putPart s p x).ctxs = s.ctxs := rfl
@[simp] theorem updPart_ctxs (s : State) (p : Nat) (f : Partition → Partition) : (updPart s p f).ctxs = s.ctxs := rfl
@[simp] theorem putPart_parts (s : State) (p : Nat) (x : Partition) :
    (putPart s p x).parts = mapSet {} s.parts p x := rfl
@[simp] theorem updPart_parts (s : State) (p : Nat) (f : Partition → Partition) :
    (updPart s p f).parts = mapSet {} s.parts p (f (partAt s p)) := rfl
@[simp] theorem putPart_bins (s : State) (p : Nat) (x : Partition) : (putPart s p x).bins = s.bins := rfl
@[simp] theorem updPart_bins (s : State) (p : Nat) (f : Partition → Partition) : (updPart s p f).bins = s.bins := rfl
@[simp] theorem putPart_mem (s : State) (p : Nat) (x : Partition) : (putPart s p x).mem = s.mem := rfl
@[simp] theorem updPart_mem (s : State) (p : Nat) (f : Partition → Partition) : (updPart s p f).mem = s.mem := rfl
@[simp] theorem putPart_sram (s : State) (p : Nat) (x : Partition) : (putPart s p x).sram = s.sram := rfl
@[simp] theorem updPart_sram (s : State) (p : Nat) (f : Partition → Partition) : (updPart s p f).sram = s.sram := rfl
@[simp] theorem putPart_reqs (s : State) (p : Nat) (x : Partition) : (putPart s p x).reqs = s.reqs := rfl
@[simp] theorem updPart_reqs (s : State) (p : Nat) (f : Partition → Partition) : (updPart s p f).reqs = s.reqs := rfl
@[simp] theorem putPart_ops (s : State) (p : Nat) (x : Partition) : (putPart s p x).ops = s.ops := rfl
@[simp] theorem updPart_ops (s : State) (p : Nat) (f : Partition → Partition) : (updPart s p f).ops = s.ops := rfl
@[simp] theorem putPart_xfers (s : State) (p : Nat) (x : Partition) : (putPart s p x).xfers = s.xfers := rfl
@[simp] theorem updPart_xfers (s : State) (p : Nat) (f : Partition → Partition) :
    (updPart s p f).xfers = s.xfers := rfl
@[simp] theorem putPart_edits (s : State) (p : Nat) (x : Partition) : (putPart s p x).edits = s.edits := rfl
@[simp] theorem updPart_edits (s : State) (p : Nat) (f : Partition → Partition) :
    (updPart s p f).edits = s.edits := rfl
@[simp] theorem putPart_out (s : State) (p : Nat) (x : Partition) : (putPart s p x).out = s.out := rfl
@[simp] theorem updPart_out (s : State) (p : Nat) (f : Partition → Partition) : (updPart s p f).out = s.out := rfl

/-! ### putBin and updBin -/

@[simp] theorem putBin_agenda (s : State) (b : Nat) (x : Bin) : (putBin s b x).agenda = s.agenda := rfl
@[simp] theorem updBin_agenda (s : State) (b : Nat) (f : Bin → Bin) : (updBin s b f).agenda = s.agenda := rfl
@[simp] theorem putBin_picks (s : State) (b : Nat) (x : Bin) : (putBin s b x).picks = s.picks := rfl
@[simp] theorem updBin_picks (s : State) (b : Nat) (f : Bin → Bin) : (updBin s b f).picks = s.picks := rfl
@[simp] theorem putBin_fresh (s : State) (b : Nat) (x : Bin) : (putBin s b x).fresh = s.fresh := rfl
@[simp] theorem updBin_fresh (s : State) (b : Nat) (f : Bin → Bin) : (updBin s b f).fresh = s.fresh := rfl
@[simp] theorem putBin_focus (s : State) (b : Nat) (x : Bin) : (putBin s b x).focus = s.focus := rfl
@[simp] theorem updBin_focus (s : State) (b : Nat) (f : Bin → Bin) : (updBin s b f).focus = s.focus := rfl
@[simp] theorem putBin_clk (s : State) (b : Nat) (x : Bin) : (putBin s b x).clk = s.clk := rfl
@[simp] theorem updBin_clk (s : State) (b : Nat) (f : Bin → Bin) : (updBin s b f).clk = s.clk := rfl
@[simp] theorem putBin_groups (s : State) (b : Nat) (x : Bin) : (putBin s b x).groups = s.groups := rfl
@[simp] theorem updBin_groups (s : State) (b : Nat) (f : Bin → Bin) : (updBin s b f).groups = s.groups := rfl
@[simp] theorem putBin_cores (s : State) (b : Nat) (x : Bin) : (putBin s b x).cores = s.cores := rfl
@[simp] theorem updBin_cores (s : State) (b : Nat) (f : Bin → Bin) : (updBin s b f).cores = s.cores := rfl
@[simp] theorem putBin_teams (s : State) (b : Nat) (x : Bin) : (putBin s b x).teams = s.teams := rfl
@[simp] theorem updBin_teams (s : State) (b : Nat) (f : Bin → Bin) : (updBin s b f).teams = s.teams := rfl
@[simp] theorem putBin_saved (s : State) (b : Nat) (x : Bin) : (putBin s b x).saved = s.saved := rfl
@[simp] theorem updBin_saved (s : State) (b : Nat) (f : Bin → Bin) : (updBin s b f).saved = s.saved := rfl
@[simp] theorem putBin_nodes (s : State) (b : Nat) (x : Bin) : (putBin s b x).nodes = s.nodes := rfl
@[simp] theorem updBin_nodes (s : State) (b : Nat) (f : Bin → Bin) : (updBin s b f).nodes = s.nodes := rfl
@[simp] theorem putBin_ctxs (s : State) (b : Nat) (x : Bin) : (putBin s b x).ctxs = s.ctxs := rfl
@[simp] theorem updBin_ctxs (s : State) (b : Nat) (f : Bin → Bin) : (updBin s b f).ctxs = s.ctxs := rfl
@[simp] theorem putBin_parts (s : State) (b : Nat) (x : Bin) : (putBin s b x).parts = s.parts := rfl
@[simp] theorem updBin_parts (s : State) (b : Nat) (f : Bin → Bin) : (updBin s b f).parts = s.parts := rfl
@[simp] theorem putBin_bins (s : State) (b : Nat) (x : Bin) : (putBin s b x).bins = mapSet {} s.bins b x := rfl
@[simp] theorem updBin_bins (s : State) (b : Nat) (f : Bin → Bin) :
    (updBin s b f).bins = mapSet {} s.bins b (f (binAt s b)) := rfl
@[simp] theorem putBin_mem (s : State) (b : Nat) (x : Bin) : (putBin s b x).mem = s.mem := rfl
@[simp] theorem updBin_mem (s : State) (b : Nat) (f : Bin → Bin) : (updBin s b f).mem = s.mem := rfl
@[simp] theorem putBin_sram (s : State) (b : Nat) (x : Bin) : (putBin s b x).sram = s.sram := rfl
@[simp] theorem updBin_sram (s : State) (b : Nat) (f : Bin → Bin) : (updBin s b f).sram = s.sram := rfl
@[simp] theorem putBin_reqs (s : State) (b : Nat) (x : Bin) : (putBin s b x).reqs = s.reqs := rfl
@[simp] theorem updBin_reqs (s : State) (b : Nat) (f : Bin → Bin) : (updBin s b f).reqs = s.reqs := rfl
@[simp] theorem putBin_ops (s : State) (b : Nat) (x : Bin) : (putBin s b x).ops = s.ops := rfl
@[simp] theorem updBin_ops (s : State) (b : Nat) (f : Bin → Bin) : (updBin s b f).ops = s.ops := rfl
@[simp] theorem putBin_xfers (s : State) (b : Nat) (x : Bin) : (putBin s b x).xfers = s.xfers := rfl
@[simp] theorem updBin_xfers (s : State) (b : Nat) (f : Bin → Bin) : (updBin s b f).xfers = s.xfers := rfl
@[simp] theorem putBin_edits (s : State) (b : Nat) (x : Bin) : (putBin s b x).edits = s.edits := rfl
@[simp] theorem updBin_edits (s : State) (b : Nat) (f : Bin → Bin) : (updBin s b f).edits = s.edits := rfl
@[simp] theorem putBin_out (s : State) (b : Nat) (x : Bin) : (putBin s b x).out = s.out := rfl
@[simp] theorem updBin_out (s : State) (b : Nat) (f : Bin → Bin) : (updBin s b f).out = s.out := rfl

/-! ### unfocus -/

@[simp] theorem unfocus_agenda (s : State) : (unfocus s).agenda = s.agenda := rfl
@[simp] theorem unfocus_picks (s : State) : (unfocus s).picks = s.picks := rfl
@[simp] theorem unfocus_fresh (s : State) : (unfocus s).fresh = s.fresh := rfl
@[simp] theorem unfocus_focus (s : State) : (unfocus s).focus = none := rfl
@[simp] theorem unfocus_clk (s : State) : (unfocus s).clk = s.clk := rfl
@[simp] theorem unfocus_groups (s : State) : (unfocus s).groups = s.groups := rfl
@[simp] theorem unfocus_cores (s : State) : (unfocus s).cores = s.cores := rfl
@[simp] theorem unfocus_teams (s : State) : (unfocus s).teams = s.teams := rfl
@[simp] theorem unfocus_saved (s : State) : (unfocus s).saved = s.saved := rfl
@[simp] theorem unfocus_nodes (s : State) : (unfocus s).nodes = s.nodes := rfl
@[simp] theorem unfocus_ctxs (s : State) : (unfocus s).ctxs = s.ctxs := rfl
@[simp] theorem unfocus_parts (s : State) : (unfocus s).parts = s.parts := rfl
@[simp] theorem unfocus_bins (s : State) : (unfocus s).bins = s.bins := rfl
@[simp] theorem unfocus_mem (s : State) : (unfocus s).mem = s.mem := rfl
@[simp] theorem unfocus_sram (s : State) : (unfocus s).sram = s.sram := rfl
@[simp] theorem unfocus_reqs (s : State) : (unfocus s).reqs = s.reqs := rfl
@[simp] theorem unfocus_ops (s : State) : (unfocus s).ops = s.ops := rfl
@[simp] theorem unfocus_xfers (s : State) : (unfocus s).xfers = s.xfers := rfl
@[simp] theorem unfocus_edits (s : State) : (unfocus s).edits = s.edits := rfl
@[simp] theorem unfocus_out (s : State) : (unfocus s).out = s.out := rfl

/-! ### vSet -/

@[simp] theorem vSet_uid (g : Group) (j l : Nat) (v : Word) : (vSet g j l v).uid = g.uid := rfl
@[simp] theorem vSet_team (g : Group) (j l : Nat) (v : Word) : (vSet g j l v).team = g.team := rfl
@[simp] theorem vSet_groupId (g : Group) (j l : Nat) (v : Word) : (vSet g j l v).groupId = g.groupId := rfl
@[simp] theorem vSet_base (g : Group) (j l : Nat) (v : Word) : (vSet g j l v).base = g.base := rfl
@[simp] theorem vSet_allot (g : Group) (j l : Nat) (v : Word) : (vSet g j l v).allot = g.allot := rfl
@[simp] theorem vSet_vregs (g : Group) (j l : Nat) (v : Word) :
    (vSet g j l v).vregs = mapSet 0 g.vregs (32 * j + l) v := rfl
@[simp] theorem vSet_sregs (g : Group) (j l : Nat) (v : Word) : (vSet g j l v).sregs = g.sregs := rfl
@[simp] theorem vSet_preds (g : Group) (j l : Nat) (v : Word) : (vSet g j l v).preds = g.preds := rfl
@[simp] theorem vSet_codebook (g : Group) (j l : Nat) (v : Word) : (vSet g j l v).codebook = g.codebook := rfl
@[simp] theorem vSet_pcs (g : Group) (j l : Nat) (v : Word) : (vSet g j l v).pcs = g.pcs := rfl
@[simp] theorem vSet_exited (g : Group) (j l : Nat) (v : Word) : (vSet g j l v).exited = g.exited := rfl
@[simp] theorem vSet_winbase (g : Group) (j l : Nat) (v : Word) : (vSet g j l v).winbase = g.winbase := rfl
@[simp] theorem vSet_sticky (g : Group) (j l : Nat) (v : Word) : (vSet g j l v).sticky = g.sticky := rfl
@[simp] theorem vSet_stale (g : Group) (j l : Nat) (v : Word) : (vSet g j l v).stale = g.stale := rfl
@[simp] theorem vSet_rep (g : Group) (j l : Nat) (v : Word) : (vSet g j l v).rep = g.rep := rfl
@[simp] theorem vSet_cause (g : Group) (j l : Nat) (v : Word) : (vSet g j l v).cause = g.cause := rfl
@[simp] theorem vSet_epc (g : Group) (j l : Nat) (v : Word) : (vSet g j l v).epc = g.epc := rfl
@[simp] theorem vSet_trapbase (g : Group) (j l : Nat) (v : Word) : (vSet g j l v).trapbase = g.trapbase := rfl
@[simp] theorem vSet_latched (g : Group) (j l : Nat) (v : Word) : (vSet g j l v).latched = g.latched := rfl
@[simp] theorem vSet_hlanes (g : Group) (j l : Nat) (v : Word) : (vSet g j l v).hlanes = g.hlanes := rfl
@[simp] theorem vSet_stopped (g : Group) (j l : Nat) (v : Word) : (vSet g j l v).stopped = g.stopped := rfl
@[simp] theorem vSet_barriers (g : Group) (j l : Nat) (v : Word) : (vSet g j l v).barriers = g.barriers := rfl
@[simp] theorem vSet_blocks (g : Group) (j l : Nat) (v : Word) : (vSet g j l v).blocks = g.blocks := rfl
@[simp] theorem vSet_pends (g : Group) (j l : Nat) (v : Word) : (vSet g j l v).pends = g.pends := rfl
@[simp] theorem vSet_ages (g : Group) (j l : Nat) (v : Word) : (vSet g j l v).ages = g.ages := rfl
@[simp] theorem vSet_skipBp (g : Group) (j l : Nat) (v : Word) : (vSet g j l v).skipBp = g.skipBp := rfl
@[simp] theorem vSet_lastSel (g : Group) (j l : Nat) (v : Word) : (vSet g j l v).lastSel = g.lastSel := rfl
@[simp] theorem vSet_sel (g : Group) (j l : Nat) (v : Word) : (vSet g j l v).sel = g.sel := rfl
@[simp] theorem vSet_yielded (g : Group) (j l : Nat) (v : Word) : (vSet g j l v).yielded = g.yielded := rfl
@[simp] theorem vSet_raised (g : Group) (j l : Nat) (v : Word) : (vSet g j l v).raised = g.raised := rfl
@[simp] theorem vSet_bwSeen (g : Group) (j l : Nat) (v : Word) : (vSet g j l v).bwSeen = g.bwSeen := rfl
@[simp] theorem vSet_promoted (g : Group) (j l : Nat) (v : Word) : (vSet g j l v).promoted = g.promoted := rfl
@[simp] theorem vSet_phase (g : Group) (j l : Nat) (v : Word) : (vSet g j l v).phase = g.phase := rfl
@[simp] theorem vSet_safeStop (g : Group) (j l : Nat) (v : Word) : (vSet g j l v).safeStop = g.safeStop := rfl

/-! ### sSet -/

@[simp] theorem sSet_uid (g : Group) (n : Nat) (v : Word) : (sSet g n v).uid = g.uid := rfl
@[simp] theorem sSet_team (g : Group) (n : Nat) (v : Word) : (sSet g n v).team = g.team := rfl
@[simp] theorem sSet_groupId (g : Group) (n : Nat) (v : Word) : (sSet g n v).groupId = g.groupId := rfl
@[simp] theorem sSet_base (g : Group) (n : Nat) (v : Word) : (sSet g n v).base = g.base := rfl
@[simp] theorem sSet_allot (g : Group) (n : Nat) (v : Word) : (sSet g n v).allot = g.allot := rfl
@[simp] theorem sSet_vregs (g : Group) (n : Nat) (v : Word) : (sSet g n v).vregs = g.vregs := rfl
@[simp] theorem sSet_sregs (g : Group) (n : Nat) (v : Word) : (sSet g n v).sregs = mapSet 0 g.sregs n v := rfl
@[simp] theorem sSet_preds (g : Group) (n : Nat) (v : Word) : (sSet g n v).preds = g.preds := rfl
@[simp] theorem sSet_codebook (g : Group) (n : Nat) (v : Word) : (sSet g n v).codebook = g.codebook := rfl
@[simp] theorem sSet_pcs (g : Group) (n : Nat) (v : Word) : (sSet g n v).pcs = g.pcs := rfl
@[simp] theorem sSet_exited (g : Group) (n : Nat) (v : Word) : (sSet g n v).exited = g.exited := rfl
@[simp] theorem sSet_winbase (g : Group) (n : Nat) (v : Word) : (sSet g n v).winbase = g.winbase := rfl
@[simp] theorem sSet_sticky (g : Group) (n : Nat) (v : Word) : (sSet g n v).sticky = g.sticky := rfl
@[simp] theorem sSet_stale (g : Group) (n : Nat) (v : Word) : (sSet g n v).stale = g.stale := rfl
@[simp] theorem sSet_rep (g : Group) (n : Nat) (v : Word) : (sSet g n v).rep = g.rep := rfl
@[simp] theorem sSet_cause (g : Group) (n : Nat) (v : Word) : (sSet g n v).cause = g.cause := rfl
@[simp] theorem sSet_epc (g : Group) (n : Nat) (v : Word) : (sSet g n v).epc = g.epc := rfl
@[simp] theorem sSet_trapbase (g : Group) (n : Nat) (v : Word) : (sSet g n v).trapbase = g.trapbase := rfl
@[simp] theorem sSet_latched (g : Group) (n : Nat) (v : Word) : (sSet g n v).latched = g.latched := rfl
@[simp] theorem sSet_hlanes (g : Group) (n : Nat) (v : Word) : (sSet g n v).hlanes = g.hlanes := rfl
@[simp] theorem sSet_stopped (g : Group) (n : Nat) (v : Word) : (sSet g n v).stopped = g.stopped := rfl
@[simp] theorem sSet_barriers (g : Group) (n : Nat) (v : Word) : (sSet g n v).barriers = g.barriers := rfl
@[simp] theorem sSet_blocks (g : Group) (n : Nat) (v : Word) : (sSet g n v).blocks = g.blocks := rfl
@[simp] theorem sSet_pends (g : Group) (n : Nat) (v : Word) : (sSet g n v).pends = g.pends := rfl
@[simp] theorem sSet_ages (g : Group) (n : Nat) (v : Word) : (sSet g n v).ages = g.ages := rfl
@[simp] theorem sSet_skipBp (g : Group) (n : Nat) (v : Word) : (sSet g n v).skipBp = g.skipBp := rfl
@[simp] theorem sSet_lastSel (g : Group) (n : Nat) (v : Word) : (sSet g n v).lastSel = g.lastSel := rfl
@[simp] theorem sSet_sel (g : Group) (n : Nat) (v : Word) : (sSet g n v).sel = g.sel := rfl
@[simp] theorem sSet_yielded (g : Group) (n : Nat) (v : Word) : (sSet g n v).yielded = g.yielded := rfl
@[simp] theorem sSet_raised (g : Group) (n : Nat) (v : Word) : (sSet g n v).raised = g.raised := rfl
@[simp] theorem sSet_bwSeen (g : Group) (n : Nat) (v : Word) : (sSet g n v).bwSeen = g.bwSeen := rfl
@[simp] theorem sSet_promoted (g : Group) (n : Nat) (v : Word) : (sSet g n v).promoted = g.promoted := rfl
@[simp] theorem sSet_phase (g : Group) (n : Nat) (v : Word) : (sSet g n v).phase = g.phase := rfl
@[simp] theorem sSet_safeStop (g : Group) (n : Nat) (v : Word) : (sSet g n v).safeStop = g.safeStop := rfl

/-! ### raiseFlags -/

@[simp] theorem raiseFlags_uid (g : Group) (fl : Flags) : (raiseFlags g fl).uid = g.uid := rfl
@[simp] theorem raiseFlags_team (g : Group) (fl : Flags) : (raiseFlags g fl).team = g.team := rfl
@[simp] theorem raiseFlags_groupId (g : Group) (fl : Flags) : (raiseFlags g fl).groupId = g.groupId := rfl
@[simp] theorem raiseFlags_base (g : Group) (fl : Flags) : (raiseFlags g fl).base = g.base := rfl
@[simp] theorem raiseFlags_allot (g : Group) (fl : Flags) : (raiseFlags g fl).allot = g.allot := rfl
@[simp] theorem raiseFlags_vregs (g : Group) (fl : Flags) : (raiseFlags g fl).vregs = g.vregs := rfl
@[simp] theorem raiseFlags_sregs (g : Group) (fl : Flags) : (raiseFlags g fl).sregs = g.sregs := rfl
@[simp] theorem raiseFlags_preds (g : Group) (fl : Flags) : (raiseFlags g fl).preds = g.preds := rfl
@[simp] theorem raiseFlags_codebook (g : Group) (fl : Flags) : (raiseFlags g fl).codebook = g.codebook := rfl
@[simp] theorem raiseFlags_pcs (g : Group) (fl : Flags) : (raiseFlags g fl).pcs = g.pcs := rfl
@[simp] theorem raiseFlags_exited (g : Group) (fl : Flags) : (raiseFlags g fl).exited = g.exited := rfl
@[simp] theorem raiseFlags_winbase (g : Group) (fl : Flags) : (raiseFlags g fl).winbase = g.winbase := rfl
@[simp] theorem raiseFlags_sticky (g : Group) (fl : Flags) : (raiseFlags g fl).sticky = g.sticky ||| fl := rfl
@[simp] theorem raiseFlags_stale (g : Group) (fl : Flags) : (raiseFlags g fl).stale = g.stale := rfl
@[simp] theorem raiseFlags_rep (g : Group) (fl : Flags) : (raiseFlags g fl).rep = g.rep := rfl
@[simp] theorem raiseFlags_cause (g : Group) (fl : Flags) : (raiseFlags g fl).cause = g.cause := rfl
@[simp] theorem raiseFlags_epc (g : Group) (fl : Flags) : (raiseFlags g fl).epc = g.epc := rfl
@[simp] theorem raiseFlags_trapbase (g : Group) (fl : Flags) : (raiseFlags g fl).trapbase = g.trapbase := rfl
@[simp] theorem raiseFlags_latched (g : Group) (fl : Flags) : (raiseFlags g fl).latched = g.latched := rfl
@[simp] theorem raiseFlags_hlanes (g : Group) (fl : Flags) : (raiseFlags g fl).hlanes = g.hlanes := rfl
@[simp] theorem raiseFlags_stopped (g : Group) (fl : Flags) : (raiseFlags g fl).stopped = g.stopped := rfl
@[simp] theorem raiseFlags_barriers (g : Group) (fl : Flags) : (raiseFlags g fl).barriers = g.barriers := rfl
@[simp] theorem raiseFlags_blocks (g : Group) (fl : Flags) : (raiseFlags g fl).blocks = g.blocks := rfl
@[simp] theorem raiseFlags_pends (g : Group) (fl : Flags) : (raiseFlags g fl).pends = g.pends := rfl
@[simp] theorem raiseFlags_ages (g : Group) (fl : Flags) : (raiseFlags g fl).ages = g.ages := rfl
@[simp] theorem raiseFlags_skipBp (g : Group) (fl : Flags) : (raiseFlags g fl).skipBp = g.skipBp := rfl
@[simp] theorem raiseFlags_lastSel (g : Group) (fl : Flags) : (raiseFlags g fl).lastSel = g.lastSel := rfl
@[simp] theorem raiseFlags_sel (g : Group) (fl : Flags) : (raiseFlags g fl).sel = g.sel := rfl
@[simp] theorem raiseFlags_yielded (g : Group) (fl : Flags) : (raiseFlags g fl).yielded = g.yielded := rfl
@[simp] theorem raiseFlags_raised (g : Group) (fl : Flags) : (raiseFlags g fl).raised = g.raised ||| fl := rfl
@[simp] theorem raiseFlags_bwSeen (g : Group) (fl : Flags) : (raiseFlags g fl).bwSeen = g.bwSeen := rfl
@[simp] theorem raiseFlags_promoted (g : Group) (fl : Flags) : (raiseFlags g fl).promoted = g.promoted := rfl
@[simp] theorem raiseFlags_phase (g : Group) (fl : Flags) : (raiseFlags g fl).phase = g.phase := rfl
@[simp] theorem raiseFlags_safeStop (g : Group) (fl : Flags) : (raiseFlags g fl).safeStop = g.safeStop := rfl

/-! ### raiseStale -/

@[simp] theorem raiseStale_uid (g : Group) (m : LaneMask) : (raiseStale g m).uid = g.uid := rfl
@[simp] theorem raiseStale_team (g : Group) (m : LaneMask) : (raiseStale g m).team = g.team := rfl
@[simp] theorem raiseStale_groupId (g : Group) (m : LaneMask) : (raiseStale g m).groupId = g.groupId := rfl
@[simp] theorem raiseStale_base (g : Group) (m : LaneMask) : (raiseStale g m).base = g.base := rfl
@[simp] theorem raiseStale_allot (g : Group) (m : LaneMask) : (raiseStale g m).allot = g.allot := rfl
@[simp] theorem raiseStale_vregs (g : Group) (m : LaneMask) : (raiseStale g m).vregs = g.vregs := rfl
@[simp] theorem raiseStale_sregs (g : Group) (m : LaneMask) : (raiseStale g m).sregs = g.sregs := rfl
@[simp] theorem raiseStale_preds (g : Group) (m : LaneMask) : (raiseStale g m).preds = g.preds := rfl
@[simp] theorem raiseStale_codebook (g : Group) (m : LaneMask) : (raiseStale g m).codebook = g.codebook := rfl
@[simp] theorem raiseStale_pcs (g : Group) (m : LaneMask) : (raiseStale g m).pcs = g.pcs := rfl
@[simp] theorem raiseStale_exited (g : Group) (m : LaneMask) : (raiseStale g m).exited = g.exited := rfl
@[simp] theorem raiseStale_winbase (g : Group) (m : LaneMask) : (raiseStale g m).winbase = g.winbase := rfl
@[simp] theorem raiseStale_sticky (g : Group) (m : LaneMask) : (raiseStale g m).sticky = g.sticky := rfl
@[simp] theorem raiseStale_stale (g : Group) (m : LaneMask) : (raiseStale g m).stale = g.stale ||| m := rfl
@[simp] theorem raiseStale_rep (g : Group) (m : LaneMask) : (raiseStale g m).rep = g.rep := rfl
@[simp] theorem raiseStale_cause (g : Group) (m : LaneMask) : (raiseStale g m).cause = g.cause := rfl
@[simp] theorem raiseStale_epc (g : Group) (m : LaneMask) : (raiseStale g m).epc = g.epc := rfl
@[simp] theorem raiseStale_trapbase (g : Group) (m : LaneMask) : (raiseStale g m).trapbase = g.trapbase := rfl
@[simp] theorem raiseStale_latched (g : Group) (m : LaneMask) : (raiseStale g m).latched = g.latched := rfl
@[simp] theorem raiseStale_hlanes (g : Group) (m : LaneMask) : (raiseStale g m).hlanes = g.hlanes := rfl
@[simp] theorem raiseStale_stopped (g : Group) (m : LaneMask) : (raiseStale g m).stopped = g.stopped := rfl
@[simp] theorem raiseStale_barriers (g : Group) (m : LaneMask) : (raiseStale g m).barriers = g.barriers := rfl
@[simp] theorem raiseStale_blocks (g : Group) (m : LaneMask) : (raiseStale g m).blocks = g.blocks := rfl
@[simp] theorem raiseStale_pends (g : Group) (m : LaneMask) : (raiseStale g m).pends = g.pends := rfl
@[simp] theorem raiseStale_ages (g : Group) (m : LaneMask) : (raiseStale g m).ages = g.ages := rfl
@[simp] theorem raiseStale_skipBp (g : Group) (m : LaneMask) : (raiseStale g m).skipBp = g.skipBp := rfl
@[simp] theorem raiseStale_lastSel (g : Group) (m : LaneMask) : (raiseStale g m).lastSel = g.lastSel := rfl
@[simp] theorem raiseStale_sel (g : Group) (m : LaneMask) : (raiseStale g m).sel = g.sel := rfl
@[simp] theorem raiseStale_yielded (g : Group) (m : LaneMask) : (raiseStale g m).yielded = g.yielded := rfl
@[simp] theorem raiseStale_raised (g : Group) (m : LaneMask) : (raiseStale g m).raised = g.raised := rfl
@[simp] theorem raiseStale_bwSeen (g : Group) (m : LaneMask) : (raiseStale g m).bwSeen = g.bwSeen := rfl
@[simp] theorem raiseStale_promoted (g : Group) (m : LaneMask) : (raiseStale g m).promoted = g.promoted := rfl
@[simp] theorem raiseStale_phase (g : Group) (m : LaneMask) : (raiseStale g m).phase = g.phase := rfl
@[simp] theorem raiseStale_safeStop (g : Group) (m : LaneMask) : (raiseStale g m).safeStop = g.safeStop := rfl

/-! ### countWindow -/

@[simp] theorem countWindow_uid (lanes : LaneMask) (g : Group) : (countWindow lanes g).uid = g.uid := rfl
@[simp] theorem countWindow_team (lanes : LaneMask) (g : Group) : (countWindow lanes g).team = g.team := rfl
@[simp] theorem countWindow_groupId (lanes : LaneMask) (g : Group) : (countWindow lanes g).groupId = g.groupId := rfl
@[simp] theorem countWindow_base (lanes : LaneMask) (g : Group) : (countWindow lanes g).base = g.base := rfl
@[simp] theorem countWindow_allot (lanes : LaneMask) (g : Group) : (countWindow lanes g).allot = g.allot := rfl
@[simp] theorem countWindow_vregs (lanes : LaneMask) (g : Group) : (countWindow lanes g).vregs = g.vregs := rfl
@[simp] theorem countWindow_sregs (lanes : LaneMask) (g : Group) : (countWindow lanes g).sregs = g.sregs := rfl
@[simp] theorem countWindow_preds (lanes : LaneMask) (g : Group) : (countWindow lanes g).preds = g.preds := rfl
@[simp] theorem countWindow_codebook (lanes : LaneMask) (g : Group) :
    (countWindow lanes g).codebook = g.codebook := rfl
@[simp] theorem countWindow_pcs (lanes : LaneMask) (g : Group) : (countWindow lanes g).pcs = g.pcs := rfl
@[simp] theorem countWindow_exited (lanes : LaneMask) (g : Group) : (countWindow lanes g).exited = g.exited := rfl
@[simp] theorem countWindow_winbase (lanes : LaneMask) (g : Group) : (countWindow lanes g).winbase = g.winbase := rfl
@[simp] theorem countWindow_sticky (lanes : LaneMask) (g : Group) : (countWindow lanes g).sticky = g.sticky := rfl
@[simp] theorem countWindow_stale (lanes : LaneMask) (g : Group) : (countWindow lanes g).stale = g.stale := rfl
@[simp] theorem countWindow_rep (lanes : LaneMask) (g : Group) : (countWindow lanes g).rep = g.rep := rfl
@[simp] theorem countWindow_cause (lanes : LaneMask) (g : Group) : (countWindow lanes g).cause = g.cause := rfl
@[simp] theorem countWindow_epc (lanes : LaneMask) (g : Group) : (countWindow lanes g).epc = g.epc := rfl
@[simp] theorem countWindow_trapbase (lanes : LaneMask) (g : Group) :
    (countWindow lanes g).trapbase = g.trapbase := rfl
@[simp] theorem countWindow_latched (lanes : LaneMask) (g : Group) : (countWindow lanes g).latched = g.latched := rfl
@[simp] theorem countWindow_hlanes (lanes : LaneMask) (g : Group) : (countWindow lanes g).hlanes = g.hlanes := rfl
@[simp] theorem countWindow_stopped (lanes : LaneMask) (g : Group) : (countWindow lanes g).stopped = g.stopped := rfl
@[simp] theorem countWindow_barriers (lanes : LaneMask) (g : Group) :
    (countWindow lanes g).barriers = g.barriers := rfl
@[simp] theorem countWindow_blocks (lanes : LaneMask) (g : Group) : (countWindow lanes g).blocks = g.blocks := rfl
@[simp] theorem countWindow_ages (lanes : LaneMask) (g : Group) : (countWindow lanes g).ages = g.ages := rfl
@[simp] theorem countWindow_skipBp (lanes : LaneMask) (g : Group) : (countWindow lanes g).skipBp = g.skipBp := rfl
@[simp] theorem countWindow_lastSel (lanes : LaneMask) (g : Group) : (countWindow lanes g).lastSel = g.lastSel := rfl
@[simp] theorem countWindow_sel (lanes : LaneMask) (g : Group) : (countWindow lanes g).sel = g.sel := rfl
@[simp] theorem countWindow_yielded (lanes : LaneMask) (g : Group) : (countWindow lanes g).yielded = g.yielded := rfl
@[simp] theorem countWindow_raised (lanes : LaneMask) (g : Group) : (countWindow lanes g).raised = g.raised := rfl
@[simp] theorem countWindow_bwSeen (lanes : LaneMask) (g : Group) : (countWindow lanes g).bwSeen = g.bwSeen := rfl
@[simp] theorem countWindow_promoted (lanes : LaneMask) (g : Group) :
    (countWindow lanes g).promoted = g.promoted := rfl
@[simp] theorem countWindow_phase (lanes : LaneMask) (g : Group) : (countWindow lanes g).phase = g.phase := rfl
@[simp] theorem countWindow_safeStop (lanes : LaneMask) (g : Group) :
    (countWindow lanes g).safeStop = g.safeStop := rfl

/-! ### pcSet -/

@[simp] theorem pcSet_uid (g : Group) (lanes : LaneMask) (pc : Pc) : (pcSet g lanes pc).uid = g.uid := rfl
@[simp] theorem pcSet_team (g : Group) (lanes : LaneMask) (pc : Pc) : (pcSet g lanes pc).team = g.team := rfl
@[simp] theorem pcSet_groupId (g : Group) (lanes : LaneMask) (pc : Pc) : (pcSet g lanes pc).groupId = g.groupId := rfl
@[simp] theorem pcSet_base (g : Group) (lanes : LaneMask) (pc : Pc) : (pcSet g lanes pc).base = g.base := rfl
@[simp] theorem pcSet_allot (g : Group) (lanes : LaneMask) (pc : Pc) : (pcSet g lanes pc).allot = g.allot := rfl
@[simp] theorem pcSet_vregs (g : Group) (lanes : LaneMask) (pc : Pc) : (pcSet g lanes pc).vregs = g.vregs := rfl
@[simp] theorem pcSet_sregs (g : Group) (lanes : LaneMask) (pc : Pc) : (pcSet g lanes pc).sregs = g.sregs := rfl
@[simp] theorem pcSet_preds (g : Group) (lanes : LaneMask) (pc : Pc) : (pcSet g lanes pc).preds = g.preds := rfl
@[simp] theorem pcSet_codebook (g : Group) (lanes : LaneMask) (pc : Pc) :
    (pcSet g lanes pc).codebook = g.codebook := rfl
@[simp] theorem pcSet_pcs (g : Group) (lanes : LaneMask) (pc : Pc) :
    (pcSet g lanes pc).pcs = (lanesOf lanes).foldl (fun m l => mapSet 0 m l pc) g.pcs := rfl
@[simp] theorem pcSet_exited (g : Group) (lanes : LaneMask) (pc : Pc) : (pcSet g lanes pc).exited = g.exited := rfl
@[simp] theorem pcSet_winbase (g : Group) (lanes : LaneMask) (pc : Pc) : (pcSet g lanes pc).winbase = g.winbase := rfl
@[simp] theorem pcSet_sticky (g : Group) (lanes : LaneMask) (pc : Pc) : (pcSet g lanes pc).sticky = g.sticky := rfl
@[simp] theorem pcSet_stale (g : Group) (lanes : LaneMask) (pc : Pc) : (pcSet g lanes pc).stale = g.stale := rfl
@[simp] theorem pcSet_rep (g : Group) (lanes : LaneMask) (pc : Pc) : (pcSet g lanes pc).rep = g.rep := rfl
@[simp] theorem pcSet_cause (g : Group) (lanes : LaneMask) (pc : Pc) : (pcSet g lanes pc).cause = g.cause := rfl
@[simp] theorem pcSet_epc (g : Group) (lanes : LaneMask) (pc : Pc) : (pcSet g lanes pc).epc = g.epc := rfl
@[simp] theorem pcSet_trapbase (g : Group) (lanes : LaneMask) (pc : Pc) :
    (pcSet g lanes pc).trapbase = g.trapbase := rfl
@[simp] theorem pcSet_latched (g : Group) (lanes : LaneMask) (pc : Pc) : (pcSet g lanes pc).latched = g.latched := rfl
@[simp] theorem pcSet_hlanes (g : Group) (lanes : LaneMask) (pc : Pc) : (pcSet g lanes pc).hlanes = g.hlanes := rfl
@[simp] theorem pcSet_stopped (g : Group) (lanes : LaneMask) (pc : Pc) : (pcSet g lanes pc).stopped = g.stopped := rfl
@[simp] theorem pcSet_barriers (g : Group) (lanes : LaneMask) (pc : Pc) :
    (pcSet g lanes pc).barriers = g.barriers := rfl
@[simp] theorem pcSet_blocks (g : Group) (lanes : LaneMask) (pc : Pc) : (pcSet g lanes pc).blocks = g.blocks := rfl
@[simp] theorem pcSet_pends (g : Group) (lanes : LaneMask) (pc : Pc) : (pcSet g lanes pc).pends = g.pends := rfl
@[simp] theorem pcSet_ages (g : Group) (lanes : LaneMask) (pc : Pc) : (pcSet g lanes pc).ages = g.ages := rfl
@[simp] theorem pcSet_skipBp (g : Group) (lanes : LaneMask) (pc : Pc) : (pcSet g lanes pc).skipBp = g.skipBp := rfl
@[simp] theorem pcSet_lastSel (g : Group) (lanes : LaneMask) (pc : Pc) : (pcSet g lanes pc).lastSel = g.lastSel := rfl
@[simp] theorem pcSet_sel (g : Group) (lanes : LaneMask) (pc : Pc) : (pcSet g lanes pc).sel = g.sel := rfl
@[simp] theorem pcSet_yielded (g : Group) (lanes : LaneMask) (pc : Pc) : (pcSet g lanes pc).yielded = g.yielded := rfl
@[simp] theorem pcSet_raised (g : Group) (lanes : LaneMask) (pc : Pc) : (pcSet g lanes pc).raised = g.raised := rfl
@[simp] theorem pcSet_bwSeen (g : Group) (lanes : LaneMask) (pc : Pc) : (pcSet g lanes pc).bwSeen = g.bwSeen := rfl
@[simp] theorem pcSet_promoted (g : Group) (lanes : LaneMask) (pc : Pc) :
    (pcSet g lanes pc).promoted = g.promoted := rfl
@[simp] theorem pcSet_phase (g : Group) (lanes : LaneMask) (pc : Pc) : (pcSet g lanes pc).phase = g.phase := rfl
@[simp] theorem pcSet_safeStop (g : Group) (lanes : LaneMask) (pc : Pc) :
    (pcSet g lanes pc).safeStop = g.safeStop := rfl

end Sys2Proof.Machine
end

