-- ==== Sys2Proof/Laws/Ops.lean ====
section
/-! SUPPORT. What the shared operations do, said once each: lanes, registers and counters of a group, retiring, the register
operation of every form, and taking a trap. -/

namespace Sys2Proof.Machine

open Host

/-! ### Lanes -/

theorem mem_lanesOf {m : LaneMask} {l : Nat} : l ∈ lanesOf m ↔ l < 32 ∧ m.getLsbD l = true := by
  simp [lanesOf]

theorem lanesOf_nodup (m : LaneMask) : (lanesOf m).Nodup := List.nodup_range.filter _

theorem lowLane_mem {m : LaneMask} (h : m ≠ 0) : lowLane m < 32 ∧ m.getLsbD (lowLane m) = true := by
  have : lanesOf m ≠ [] := by
    intro he
    apply h
    apply BitVec.eq_of_getLsbD_eq
    intro i hi
    by_contra hb
    have : i ∈ lanesOf m := mem_lanesOf.mpr ⟨hi, by simpa using hb⟩
    simp [he] at this
  have hm : lowLane m ∈ lanesOf m := by
    unfold lowLane
    cases hl : lanesOf m with
    | nil => exact absurd hl this
    | cons a t => simp
  exact mem_lanesOf.mp hm

theorem getLsbD_laneBit (l i : Nat) (hl : l < 32) : (laneBit l).getLsbD i = decide (i = l) := by
  rw [laneBit, BitVec.getLsbD_ofNat, Nat.testBit_two_pow]
  by_cases h : i = l
  · subst h; simp [hl]
  · have : l ≠ i := fun e => h e.symm
    simp [h, this]

/-- The mask that a fold over lanes builds. -/
theorem getLsbD_foldl_laneBit (p : Nat → Bool) (ls : List Nat) (m : LaneMask) (i : Nat) (hl : ∀ l ∈ ls, l < 32) :
    (ls.foldl (fun r l => if p l then r ||| laneBit l else r) m).getLsbD i =
      (m.getLsbD i || decide (i ∈ ls ∧ p i = true)) := by
  induction ls generalizing m with
  | nil => simp
  | cons a t ih =>
    rw [List.foldl_cons, ih _ (fun l h => hl l (by simp [h]))]
    have ha := hl a (by simp)
    by_cases hp : p a = true
    · simp only [hp, if_true, BitVec.getLsbD_or, getLsbD_laneBit a i ha]
      by_cases hi : i = a
      · subst hi; simp [hp]
      · simp [hi]
    · by_cases hi : i = a
      · subst hi; simp [hp]
      · simp [hp, hi]

theorem getLsbD_maskWhere (m : LaneMask) (p : Nat → Bool) (i : Nat) :
    (maskWhere m p).getLsbD i = (m.getLsbD i && p i) := by
  rw [maskWhere, getLsbD_foldl_laneBit p _ 0 i (fun l h => (mem_lanesOf.mp h).1)]
  by_cases hi : i < 32
  · simp [mem_lanesOf, hi]
  · have : m.getLsbD i = false := BitVec.getLsbD_of_ge _ _ (by omega)
    simp [mem_lanesOf, hi, this]

/-- The active lanes are those of the run whose guard passes (R88). -/
theorem mem_active {f : Focus} {v : Group} {neg : Bool} {p : BitVec 3} {l : Nat} :
    l ∈ lanesOf (active f v neg p) ↔ l < 32 ∧ f.lanes.getLsbD l = true ∧ pGet v p.toNat l ≠ neg := by
  simp [mem_lanesOf, active, getLsbD_maskWhere]

/-! ### Registers and counters of a group -/

theorem sGet_sSet_self (g : Group) (n : Nat) (w : Word) : sGet (sSet g n w) n = w := mapGet_set_self 0 _ _ _
theorem sGet_sSet_ne (g : Group) {n m : Nat} (w : Word) (h : m ≠ n) : sGet (sSet g n w) m = sGet g m :=
  mapGet_set_ne 0 _ _ h
theorem sGet_sSet (g : Group) (n m : Nat) (w : Word) : sGet (sSet g n w) m = if m = n then w else sGet g m := by
  split
  · rename_i h; rw [h, sGet_sSet_self]
  · rename_i h; exact sGet_sSet_ne g w h

theorem vGet_vSet (g : Group) (j l k m : Nat) (w : Word) (hl : l < 32) (hm : m < 32) :
    vGet (vSet g j l w) k m = if k = j ∧ m = l then w else vGet g k m := by
  unfold vGet vSet
  split
  · rename_i h; obtain ⟨rfl, rfl⟩ := h; exact mapGet_set_self 0 _ _ _
  · rename_i h
    refine mapGet_set_ne 0 _ _ ?_
    intro he
    exact h (by omega)

/-- One lane-register written in some lanes: those lanes hold the values listed, every other lane-register what it held. -/
theorem vGet_writeLanes (rs : List (Nat × Word)) (g : Group) (j k m : Nat) (hl : ∀ e ∈ rs, e.1 < 32) (hm : m < 32)
    (hn : (rs.map (·.1)).Nodup) :
    vGet (writeLanes g j rs) k m =
      if k = j then ((rs.find? (fun e => e.1 == m)).map (·.2)).getD (vGet g k m) else vGet g k m := by
  induction rs generalizing g with
  | nil => simp [writeLanes]
  | cons e t ih =>
    obtain ⟨a, w⟩ := e
    have h1 := ih (vSet g j a w) (fun x h => hl x (by simp [h])) (by simp at hn; exact hn.2)
    rw [show writeLanes g j ((a, w) :: t) = writeLanes (vSet g j a w) j t from rfl, h1,
      vGet_vSet _ _ _ _ _ _ (hl (a, w) (by simp)) hm]
    by_cases hk : k = j
    · by_cases ha : a = m
      · subst ha
        have : t.find? (fun e => e.1 == a) = none := by
          rw [List.find?_eq_none]
          intro x hx he
          simp at hn he
          exact hn.1 x.2 (by rw [← he]; exact hx)
        simp [hk, this]
      · have : m ≠ a := fun e => ha e.symm
        simp [hk, ha, this]
    · simp [hk]

theorem writeLanes_rest (rs : List (Nat × Word)) (g : Group) (j : Nat) :
    writeLanes g j rs = { g with vregs := (writeLanes g j rs).vregs } := by
  induction rs generalizing g with
  | nil => rfl
  | cons e t ih => exact ih (vSet g j e.1 e.2)

/-- Values given to the lanes of a mask by a function. -/
theorem vGet_writeLanes_fun (ls : List Nat) (val : Nat → Word) (g : Group) (j k m : Nat) (hl : ∀ l ∈ ls, l < 32)
    (hm : m < 32) (hn : ls.Nodup) :
    vGet (writeLanes g j (ls.map (fun l => (l, val l)))) k m = if k = j ∧ m ∈ ls then val m else vGet g k m := by
  rw [vGet_writeLanes _ _ _ _ _ (by simpa using hl) hm (by simpa [Function.comp_def] using hn)]
  by_cases hk : k = j
  · by_cases hmem : m ∈ ls
    · have : (ls.map (fun l => (l, val l))).find? (fun e => e.1 == m) = some (m, val m) := by
        clear hl hn
        induction ls with
        | nil => simp at hmem
        | cons a t ih =>
          by_cases ha : a = m
          · simp [ha]
          · have : m ∈ t := (List.mem_cons.mp hmem).resolve_left (fun e => ha e.symm)
            simp [ha, ih this]
      simp [hk, hmem, this]
    · have : (ls.map (fun l => (l, val l))).find? (fun e => e.1 == m) = none := by
        rw [List.find?_eq_none]
        intro x hx he
        simp only [List.mem_map] at hx
        obtain ⟨l, h1, rfl⟩ := hx
        simp at he
        exact hmem (he ▸ h1)
      simp [hk, hmem, this]
  · simp [hk]

theorem pGet_zero (g : Group) (l : Nat) : pGet g 0 l = true := by simp [pGet]

theorem pGet_pSet (g : Group) (n m l : Nat) (lanes vals : LaneMask) (hl : l < 32) :
    pGet (pSet g n lanes vals) m l =
      if m = n ∧ n ≠ 0 ∧ lanes.getLsbD l = true then vals.getLsbD l else pGet g m l := by
  by_cases hn : n = 0
  · subst hn; simp [pSet]
  · by_cases hm : m = n
    · subst hm
      have hb : lanes.getLsbD l = lanes[l] := BitVec.getLsbD_eq_getElem hl
      have hm : (m == 0) = false := by simpa using hn
      cases h : lanes[l] <;> simp [pSet, pGet, hn, hm, mapGet_set_self, h, hl]
    · simp [pSet, hn, pGet, hm, mapGet_set_ne]

theorem pcGet_pcSet (g : Group) (lanes : LaneMask) (pc : Pc) (l : Nat) (hl : l < 32) :
    pcGet (pcSet g lanes pc) l = if lanes.getLsbD l = true then pc else pcGet g l := by
  have key : ∀ (ls : List Nat) (m : SMap Pc), mapGet 0 (ls.foldl (fun m l => mapSet 0 m l pc) m) l =
      if l ∈ ls then pc else mapGet 0 m l := by
    intro ls
    induction ls with
    | nil => simp
    | cons a t ih =>
      intro m
      rw [List.foldl_cons, ih]
      by_cases ha : l = a
      · subst ha; simp [mapGet_set_self]
      · simp [ha, mapGet_set_ne]
  rw [pcGet, pcSet, key]
  simp only [mem_lanesOf, hl, true_and]
  rfl

theorem pcSet_rest (g : Group) (lanes : LaneMask) (pc : Pc) : pcSet g lanes pc = { g with pcs := (pcSet g lanes pc).pcs } :=
  rfl

/-! ### Retiring -/

/-- Retiring commutes with a change of the registers, the predicates, the codebook and the flags. -/
theorem retire_effect (f : Focus) (g : Group) (vr sr : SMap Word) (pr : SMap LaneMask) (cb : SMap (BitVec 16))
    (st ra : BitVec 6) (sl : LaneMask) :
    retire f { g with vregs := vr, sregs := sr, preds := pr, codebook := cb, sticky := st, raised := ra, stale := sl } =
      { retire f g with vregs := vr, sregs := sr, preds := pr, codebook := cb, sticky := st, raised := ra, stale := sl } := by
  unfold retire advance
  cases f.iter with
  | none => rfl
  | some it =>
    dsimp only
    by_cases h : it.idx + 1 < it.count
    · simp only [h, if_true]; rfl
    · simp only [h, if_false]; rfl

/-- Retiring leaves the registers, the flags and the exception registers of the group. -/
theorem retire_keeps (f : Focus) (g : Group) :
    (retire f g).vregs = g.vregs ∧ (retire f g).sregs = g.sregs ∧ (retire f g).preds = g.preds ∧
    (retire f g).codebook = g.codebook ∧ (retire f g).sticky = g.sticky ∧ (retire f g).stale = g.stale ∧
    (retire f g).cause = g.cause ∧ (retire f g).epc = g.epc ∧ (retire f g).trapbase = g.trapbase ∧
    (retire f g).exited = g.exited ∧ (retire f g).uid = g.uid ∧ (retire f g).team = g.team ∧
    (retire f g).winbase = g.winbase ∧ (retire f g).allot = g.allot ∧ (retire f g).hlanes = g.hlanes ∧
    (retire f g).blocks = g.blocks ∧ (retire f g).barriers = g.barriers ∧ (retire f g).stopped = g.stopped ∧
    (retire f g).latched = g.latched ∧ (retire f g).phase = g.phase ∧ (retire f g).raised = g.raised := by
  unfold retire advance
  cases f.iter with
  | none => simp [pcSet, countWindow]
  | some it =>
    dsimp only
    by_cases h : it.idx + 1 < it.count <;> simp [h, pcSet, countWindow]

/-- Outside a repeat the run's lanes go on to the next address (R55). -/
theorem retire_pcs (f : Focus) (g : Group) (h : f.iter = none) (l : Nat) (hl : l < 32) :
    pcGet (retire f g) l = if f.lanes.getLsbD l = true then f.npc else pcGet g l := by
  have : pcGet (retire f g) l = pcGet (pcSet (countWindow f.lanes g) f.lanes f.npc) l := by
    unfold retire advance; simp [h, pcGet]
  rw [this, pcGet_pcSet _ _ _ _ hl]
  rfl

/-! ### Issuing -/

/-- A meaning runs for the run in focus. -/
theorem issuer_focus {s : State} {f : Focus} {g : Group} (k : Focus → Group → Result) (hf : s.focus = some f)
    (hg : mapFind s.groups f.gid = some g) : issuer s k = k f g := by
  simp [issuer, hf, hg]

/-- With every vector register in the allotment the instruction goes on (R21). -/
theorem withRegs_inside (f : Focus) (g : Group) (ns : List (BitVec 7)) (s : State) (k : Result)
    (h : ∀ n ∈ ns, (seen f g).winbase.toNat + n.toNat < (seen f g).allot) : withRegs f g ns s k = k := by
  have : outside (seen f g) ns = none := by
    unfold outside
    rw [List.find?_eq_none]
    intro j hj
    simp only [List.mem_map] at hj
    obtain ⟨n, hn, rfl⟩ := hj
    have := h n hn
    simp only [vReg, Bool.not_eq_true]
    exact decide_eq_false (Nat.not_le.mpr this)
  simp [withRegs, this]

/-- The flags that a fold gathers. -/
theorem getLsbD_foldl_flags (rs : List (Nat × Res)) (fl : Flags) (i : Nat) :
    (rs.foldl (fun fl e => fl ||| e.2.2) fl).getLsbD i =
      (fl.getLsbD i || rs.any (fun e => e.2.2.getLsbD i)) := by
  induction rs generalizing fl with
  | nil => simp
  | cons e t ih => rw [List.foldl_cons, ih]; simp [Bool.or_assoc]

/-- A uniform register operation (R89): one value to one register, and its flags. -/
theorem regOp_uniform {x : Sel} {fn : Group → Nat → Opnds → Res} {s : State} {f : Focus} {g : Group} (hx : x.form = .s)
    (hf : s.focus = some f) (hg : mapFind s.groups f.gid = some g) :
    let r := fn (seen f g) (lowLane f.lanes) (x.read (seen f g) (lowLane f.lanes))
    regOp x fn s = .next (unfocus (putGroup s f.gid
      { retire f g with sregs := (sSet g x.d.toNat r.1).sregs, sticky := g.sticky ||| r.2, raised := g.raised ||| r.2 })) := by
  intro r
  unfold regOp
  rw [issuer_focus _ hf hg]
  simp only [hx, if_true, done, retired]
  have := retire_effect f g g.vregs (sSet g x.d.toNat r.1).sregs g.preds g.codebook (g.sticky ||| r.2) (g.raised ||| r.2) g.stale
  have hk := retire_keeps f g
  congr 3
  rw [show raiseFlags (sSet g x.d.toNat r.1) r.2 = { g with
    vregs := g.vregs, sregs := (sSet g x.d.toNat r.1).sregs, preds := g.preds, codebook := g.codebook,
    sticky := g.sticky ||| r.2, raised := g.raised ||| r.2, stale := g.stale } from rfl, this]
  simp [hk]

/-- A vector register operation (R88): each active lane's value to one register, and the flags of all. -/
theorem regOp_lanes {x : Sel} {fn : Group → Nat → Opnds → Res} {s : State} {f : Focus} {g : Group} (hx : x.form ≠ .s)
    (hf : s.focus = some f) (hg : mapFind s.groups f.gid = some g)
    (hr : ∀ n ∈ x.vecs, (seen f g).winbase.toNat + n.toNat < (seen f g).allot) :
    ∃ g', regOp x fn s = .next (unfocus (putGroup s f.gid g')) ∧
      g' = { retire f g with vregs := g'.vregs, sticky := g'.sticky, raised := g'.raised } ∧
      (∀ j l, l < 32 → vGet g' j l =
        if j = vReg (seen f g) x.d ∧ f.lanes.getLsbD l = true ∧ pGet (seen f g) x.p.toNat l ≠ x.neg
        then (fn (seen f g) l (x.read (seen f g) l)).1 else vGet g j l) ∧
      (∀ i, g'.sticky.getLsbD i = true ↔ (g.sticky.getLsbD i = true ∨ ∃ l, l < 32 ∧
        (f.lanes.getLsbD l = true ∧ pGet (seen f g) x.p.toNat l ≠ x.neg) ∧
        (fn (seen f g) l (x.read (seen f g) l)).2.getLsbD i = true)) := by
  unfold regOp
  rw [issuer_focus _ hf hg]
  simp only [hx, if_false, withRegs_inside f g x.vecs s _ hr, done, retired]
  generalize hrs : (lanesOf (active f (seen f g) x.neg x.p)).map
    (fun l => (l, fn (seen f g) l (x.read (seen f g) l))) = rs
  have hw := writeLanes_rest (rs.map (fun e => (e.1, e.2.1))) g (vReg (seen f g) x.d)
  generalize hG : writeLanes g (vReg (seen f g) x.d) (rs.map (fun e => (e.1, e.2.1))) = G at hw
  have hk := retire_keeps f g
  have he := retire_effect f g G.vregs g.sregs g.preds g.codebook
    (g.sticky ||| rs.foldl (fun fl e => fl ||| e.2.2) 0) (g.raised ||| rs.foldl (fun fl e => fl ||| e.2.2) 0) g.stale
  have hG' : raiseFlags G (rs.foldl (fun fl e => fl ||| e.2.2) 0) = { g with
    vregs := G.vregs, sregs := g.sregs, preds := g.preds, codebook := g.codebook,
    sticky := g.sticky ||| rs.foldl (fun fl e => fl ||| e.2.2) 0
    raised := g.raised ||| rs.foldl (fun fl e => fl ||| e.2.2) 0, stale := g.stale } := by
    rw [hw]; rfl
  refine ⟨_, rfl, ?_, ?_, ?_⟩
  · rw [hG', he]
    simp [hk]
  · intro j l hl
    rw [show vGet (retire f (raiseFlags G (rs.foldl (fun fl e => fl ||| e.2.2) 0))) j l = vGet G j l by
      unfold vGet; rw [(retire_keeps f _).1]; rfl]
    rw [← hG, ← hrs]
    simp only [List.map_map, Function.comp_def]
    rw [vGet_writeLanes_fun _ _ _ _ _ _ (fun l h => (mem_active.mp h).1) hl (lanesOf_nodup _)]
    simp only [mem_active, hl, true_and]
  · intro i
    rw [(retire_keeps f _).2.2.2.2.1]
    have hz : BitVec.getLsbD (0 : Flags) i = false := BitVec.getLsbD_zero
    simp only [raiseFlags, BitVec.getLsbD_or, getLsbD_foldl_flags, hz]
    rw [show G.sticky = g.sticky by rw [hw]]
    rw [← hrs]
    simp only [Bool.false_or, Bool.or_eq_true, List.any_eq_true, List.mem_map]
    constructor
    · rintro (h | ⟨e, ⟨l, hl, rfl⟩, he⟩)
      · exact .inl h
      · exact .inr ⟨l, (mem_active.mp hl).1, (mem_active.mp hl).2, he⟩
    · rintro (h | ⟨l, h1, h2, h3⟩)
      · exact .inl h
      · exact .inr ⟨_, ⟨l, mem_active.mpr ⟨h1, h2⟩, rfl⟩, h3⟩

/-! ### Traps -/

/-- A trap of a run with no open window is taken at once (R77, R288). -/
theorem trap_taken {f : Focus} {s : State} {g : Group} (code info : Nat) (hg : mapFind s.groups f.gid = some g)
    (hq : f.quiet = false) (hp : pendsOf g f.lanes = []) :
    trap f code info s = .next (unfocus (takeTrap (clearSkip f s) f.gid f.lanes code info (epcWord f.pc none))) := by
  have : groupAt s f.gid = g := by simp [groupAt, mapGet, hg]
  simp [trap, trapAt, hq, this, hp]

/-- Where a trap goes (R283, R288). -/
theorem takeTrap_cases {s : State} {gid : Nat} {g : Group} (lanes : LaneMask) (code info : Nat) (epc : Word)
    (hg : mapFind s.groups gid = some g) :
    takeTrap s gid lanes code info epc =
      if hmode g = true then stopGroup s gid lanes (causeWord 0x93 code) epc true
      else if handlerOn g = true then putGroup s gid (enterHandler lanes (causeWord code info) epc g)
      else stopGroup s gid lanes (causeWord code info) epc false := by
  have : groupAt s gid = g := by simp [groupAt, mapGet, hg]
  simp only [takeTrap, this]
  cases hmode g <;> cases handlerOn g <;> simp

/-- Taking a trap into the handler changes the group and nothing else (R288). -/
theorem takeTrap_handler {s : State} {gid : Nat} {g : Group} (lanes : LaneMask) (code info : Nat) (epc : Word)
    (hg : mapFind s.groups gid = some g) (hm : hmode g = false) (he : handlerOn g = true) :
    takeTrap s gid lanes code info epc = putGroup s gid (enterHandler lanes (causeWord code info) epc g) := by
  simp [takeTrap_cases lanes code info epc hg, hm, he]

/-- What entering the handler sets (R285-R288). -/
theorem enterHandler_sets (lanes : LaneMask) (cause epc : Word) (g : Group) :
    (enterHandler lanes cause epc g).cause = cause ∧ (enterHandler lanes cause epc g).epc = epc ∧
    hmode (enterHandler lanes cause epc g) = true ∧ (enterHandler lanes cause epc g).hlanes = lanes ∧
    handlerOn (enterHandler lanes cause epc g) = handlerOn g ∧
    (enterHandler lanes cause epc g).vregs = g.vregs ∧ (enterHandler lanes cause epc g).sregs = g.sregs ∧
    (enterHandler lanes cause epc g).preds = g.preds := by
  refine ⟨rfl, rfl, ?_, rfl, ?_, rfl, rfl, rfl⟩
  · simp only [hmode, enterHandler, pcSet, leaveBlocks, BitVec.getLsbD_or]; simp
  · simp only [handlerOn, enterHandler, pcSet, leaveBlocks, BitVec.getLsbD_or]; simp

/-- What the return from the handler sets (R292). -/
theorem leaveHandler_sets (g : Group) :
    hmode (leaveHandler g) = false ∧ handlerOn (leaveHandler g) = handlerOn g ∧ (leaveHandler g).hlanes = 0 ∧
    (leaveHandler g).rep = g.rep ∧ (leaveHandler g).vregs = g.vregs ∧ (leaveHandler g).sregs = g.sregs ∧
    (leaveHandler g).preds = g.preds ∧ (leaveHandler g).cause = g.cause := by
  refine ⟨?_, ?_, rfl, rfl, rfl, rfl, rfl, rfl⟩
  · simp [hmode, leaveHandler, pcSet]
  · simp [handlerOn, leaveHandler, pcSet]

end Sys2Proof.Machine
end

