-- ==== Sys2Proof/Laws/Access.lean ====
section
/-! SUPPORT. Everything that the shared frames of an instruction's meaning can do, said once each: the allotment check, the
waits before an access, the checks of the accesses, the frames of ZERO pages, the wakes, and what a received flit goes
through. -/

namespace Sys2Proof.Machine

open Host

/-- An instruction that names registers goes on, or one of them lies outside the allotment and it traps (R21, R68). -/
theorem withRegs_cases (f : Focus) (g : Group) (ns : List (BitVec 7)) (s : State) (k : Result) :
    withRegs f g ns s k = k ∨ ∃ n ∈ ns, (seen f g).allot ≤ vReg (seen f g) n ∧
      withRegs f g ns s k = trap f 0x06 (vReg (seen f g) n) s := by
  unfold withRegs
  cases ho : outside (seen f g) ns with
  | none => exact .inl rfl
  | some j =>
    refine .inr ?_
    unfold outside at ho
    have h1 := List.find?_some ho
    have h2 := List.mem_of_find?_eq_some ho
    obtain ⟨n, hn, rfl⟩ := List.mem_map.mp h2
    exact ⟨n, hn, of_decide_eq_true h1, rfl⟩

/-- A memory instruction waits, wakes a bin of a table and waits, or goes on from the state or, where it releases at a wide scope, from the state whose L1s
have given their dirty bytes to the proxy slices (R184, R187, R204, R228, R345). -/
theorem ordered_cases (f : Focus) (g : Group) (accs : List Acc) (n : Nat) (rel : Option Scope) (s : State)
    (k : State → Result) :
    (∃ w, ordered f g accs n rel s k = waits f w s) ∨
      (∃ b, walksAsleep s (gidCore f.gid) (groupCtx s g) (accs.map (fun a => (a.addr, n))) = some b ∧
        ordered f g accs n rel s k = waits f .operand (wakeBin s b)) ∨
      ordered f g accs n rel s k = k s ∨ ordered f g accs n rel s k = k (drainL1 s (l1Cores s f.gid)) := by
  unfold ordered
  by_cases h1 : openAcq s g f.lanes = true
  · rw [if_pos h1]; exact .inl ⟨_, rfl⟩
  rw [if_neg h1]
  by_cases h2 : accs.any (fun a => editsOn s g.uid a.lanes a.addr n) = true
  · rw [if_pos h2]; exact .inl ⟨_, rfl⟩
  rw [if_neg h2]
  cases walksAsleep s (gidCore f.gid) (groupCtx s g) (accs.map (fun a => (a.addr, n))) with
  | some b => exact .inr (.inl ⟨b, rfl, rfl⟩)
  | none =>
    cases rel with
    | none => exact .inr (.inr (.inl rfl))
    | some sc =>
      dsimp only
      by_cases h3 : releaseWaits s f.gid g f.lanes sc = true
      · rw [if_pos h3]; exact .inl ⟨_, rfl⟩
      rw [if_neg h3]
      by_cases h4 : wideScope sc = true
      · rw [if_pos h4]; exact .inr (.inr (.inr rfl))
      · rw [if_neg h4]; exact .inr (.inr (.inl rfl))

/-- With no open acquire, no edit of the group's still to commit and its pages' tables awake, an instruction that does not release
goes on. -/
theorem ordered_ready {f : Focus} {g : Group} {accs : List Acc} {n : Nat} {s : State} {k : State → Result}
    (ha : openAcq s g f.lanes = false) (he : ∀ e ∈ s.edits, e.uid = g.uid → e.committed = true)
    (hw : walksAsleep s (gidCore f.gid) (groupCtx s g) (accs.map (fun a => (a.addr, n))) = none) :
    ordered f g accs n none s k = k s := by
  have hn : ∀ a : Acc, editsOn s g.uid a.lanes a.addr n = false := by
    intro a
    unfold editsOn
    rw [List.any_eq_false]
    intro e hm
    by_cases hu : e.uid = g.uid
    · simp [he e hm hu]
    · simp [hu]
  simp only [ordered, ha, hn, hw]
  simp

/-- An instruction whose accesses pass goes on; else it takes the cause reported, for the handler or the supervisor (R170,
R171). -/
theorem withChecks_cases (f : Focus) (l : List (Nat × Nat)) (s : State) (k : Result) :
    (l = [] ∧ withChecks f l s k = k) ∨ ∃ c a, (c, a) ∈ l ∧ reported l = some (c, a) ∧
      withChecks f l s k = if supCause c then superTrap f c a s else trap f c a (reportWalk f c a s) := by
  have hl : ∀ (key : Nat × Nat → Nat) (l : List (Nat × Nat)), (leastBy key l = none ↔ l = []) ∧
      ∀ e, leastBy key l = some e → e ∈ l := by
    intro key l
    induction l with
    | nil => simp [leastBy]
    | cons x t ih =>
      cases h : leastBy key t with
      | none => simp [leastBy, h]
      | some y =>
        have hy := ih.2 y h
        constructor
        · simp only [leastBy, h]; split <;> simp
        · intro e he
          simp only [leastBy, h] at he
          split at he <;> cases he
          · exact List.mem_cons_self ..
          · exact List.mem_cons_of_mem _ hy
  unfold withChecks trapOr reported
  cases h1 : leastBy (·.1) (l.filter (fun e => !supCause e.1)) with
  | some e =>
    have := (hl _ _).2 e h1
    exact .inr ⟨e.1, e.2, (List.mem_filter.mp this).1, rfl, rfl⟩
  | none =>
    cases h2 : leastBy (fun e : Nat × Nat => 2 ^ 8 - e.1) l with
    | none => exact .inl ⟨(hl _ _).1.mp h2, rfl⟩
    | some e => exact .inr ⟨e.1, e.2, (hl _ _).2 e h2, rfl, rfl⟩

/-- A write of ZERO pages goes on with the frames reserved, takes cause 0x54 where the pool has too few, or waits for the ring's bin
(R222, R345). -/
theorem withZeroFrames_cases (f : Focus) (g : Group) (l : List (Acc × Trans)) (s : State) (k : State → Result) :
    withZeroFrames f g l s k = superTrap f 0x54 0 s ∨
      (∃ b, poolAsleep s (groupCtx s g) = some b ∧ withZeroFrames f g l s k = waits f .operand (wakeBin s b)) ∨
      withZeroFrames f g l s k = k (reserveZero s f g (groupCtx s g) (zeroPages s (groupCtx s g) l)) := by
  unfold withZeroFrames
  dsimp only
  split
  · exact .inl rfl
  · cases hp : poolAsleep s (groupCtx s g) <;> cases hz : (zeroPages s (groupCtx s g) l).isEmpty <;> simp

/-- With no ZERO page written nothing is reserved. -/
theorem withZeroFrames_none {f : Focus} {g : Group} {l : List (Acc × Trans)} {s : State} {k : State → Result}
    (h : zeroPages s (groupCtx s g) l = []) : withZeroFrames f g l s k = k s := by
  simp [withZeroFrames, h, reserveZero]

/-- An event goes on with every bin awake; else it starts the wakes, or is not possible while they are under way (R345). -/
theorem whenAwake_cases (s : State) (bins : List Nat) (k : Result) :
    (bins = [] ∧ whenAwake s bins k = k) ∨ whenAwake s bins k = .next (bins.foldl wakeBin s) ∨
      whenAwake s bins k = .fault .notEnabled := by
  unfold whenAwake
  cases bins with
  | nil => exact .inl ⟨rfl, rfl⟩
  | cons b l =>
    dsimp only
    split
    · exact .inr (.inl rfl)
    · exact .inr (.inr rfl)

/-- A trap of the instruction that issues: nothing where the second port's does not count, a wait for the open windows, or
the trap (R77, R288). -/
theorem trapAt_cases (f : Focus) (code info : Nat) (epc : Pc) (s : State) :
    trapAt f code info epc s = unfocus s ∨ trapAt f code info epc s = waitOn f .closing s ∨
      trapAt f code info epc s = unfocus (takeTrap (clearSkip f s) f.gid f.lanes code info (epcWord epc none)) := by
  unfold trapAt
  split
  · exact .inl rfl
  · split
    · exact .inr (.inr rfl)
    · exact .inr (.inl rfl)

/-- A flit is received, for this device or to be dropped, or asked for again, or the event is not possible (R363-R365). -/
theorem receive_cases (s : State) (i : Nat) (typ : BitVec 8) (f : Flit) (k : State → State) :
    receive s i typ f k = .fault .notEnabled ∨
      receive s i typ f k = .next (sendOn s i (retryFlit f.src (portAt s i).rxSeq)) ∨
      receive s i typ f k = .next (k (updPort s i (fun p => { p with rxSeq := p.rxSeq + 1 }))) ∨
      receive s i typ f k = .next (updPort s i (fun p => { p with rxSeq := p.rxSeq + 1 })) := by
  unfold receive
  split
  · exact .inl rfl
  · split
    · exact .inr (.inl rfl)
    · by_cases h : flitMine s f
      · exact .inr (.inr (.inl (by simp [h])))
      · exact .inr (.inr (.inr (by simp [h])))

end Sys2Proof.Machine
end

