-- ==== Sys2Proof/Laws/Exec.lean ====
section
/-! SUPPORT. One equation for each arm of exec, so that no proof unfolds the whole match. -/

namespace Sys2Proof.Machine

@[simp] theorem exec_addVVV (x) (s : State) : exec (.addVVV x) s = execAddVVV x s := rfl
@[simp] theorem exec_addVVS (x) (s : State) : exec (.addVVS x) s = execAddVVS x s := rfl
@[simp] theorem exec_addSSS (x) (s : State) : exec (.addSSS x) s = execAddSSS x s := rfl
@[simp] theorem exec_faddVVV (x) (s : State) : exec (.faddVVV x) s = execFaddVVV x s := rfl
@[simp] theorem exec_faddVVS (x) (s : State) : exec (.faddVVS x) s = execFaddVVS x s := rfl
@[simp] theorem exec_faddSSS (x) (s : State) : exec (.faddSSS x) s = execFaddSSS x s := rfl
@[simp] theorem exec_subVVV (x) (s : State) : exec (.subVVV x) s = execSubVVV x s := rfl
@[simp] theorem exec_subVVS (x) (s : State) : exec (.subVVS x) s = execSubVVS x s := rfl
@[simp] theorem exec_subSSS (x) (s : State) : exec (.subSSS x) s = execSubSSS x s := rfl
@[simp] theorem exec_fsubVVV (x) (s : State) : exec (.fsubVVV x) s = execFsubVVV x s := rfl
@[simp] theorem exec_fsubVVS (x) (s : State) : exec (.fsubVVS x) s = execFsubVVS x s := rfl
@[simp] theorem exec_fsubSSS (x) (s : State) : exec (.fsubSSS x) s = execFsubSSS x s := rfl
@[simp] theorem exec_mulVVV (x) (s : State) : exec (.mulVVV x) s = execMulVVV x s := rfl
@[simp] theorem exec_mulVVS (x) (s : State) : exec (.mulVVS x) s = execMulVVS x s := rfl
@[simp] theorem exec_mulSSS (x) (s : State) : exec (.mulSSS x) s = execMulSSS x s := rfl
@[simp] theorem exec_fmulVVV (x) (s : State) : exec (.fmulVVV x) s = execFmulVVV x s := rfl
@[simp] theorem exec_fmulVVS (x) (s : State) : exec (.fmulVVS x) s = execFmulVVS x s := rfl
@[simp] theorem exec_fmulSSS (x) (s : State) : exec (.fmulSSS x) s = execFmulSSS x s := rfl
@[simp] theorem exec_minVVV (x) (s : State) : exec (.minVVV x) s = execMinVVV x s := rfl
@[simp] theorem exec_minVVS (x) (s : State) : exec (.minVVS x) s = execMinVVS x s := rfl
@[simp] theorem exec_minSSS (x) (s : State) : exec (.minSSS x) s = execMinSSS x s := rfl
@[simp] theorem exec_fminVVV (x) (s : State) : exec (.fminVVV x) s = execFminVVV x s := rfl
@[simp] theorem exec_fminVVS (x) (s : State) : exec (.fminVVS x) s = execFminVVS x s := rfl
@[simp] theorem exec_fminSSS (x) (s : State) : exec (.fminSSS x) s = execFminSSS x s := rfl
@[simp] theorem exec_maxVVV (x) (s : State) : exec (.maxVVV x) s = execMaxVVV x s := rfl
@[simp] theorem exec_maxVVS (x) (s : State) : exec (.maxVVS x) s = execMaxVVS x s := rfl
@[simp] theorem exec_maxSSS (x) (s : State) : exec (.maxSSS x) s = execMaxSSS x s := rfl
@[simp] theorem exec_fmaxVVV (x) (s : State) : exec (.fmaxVVV x) s = execFmaxVVV x s := rfl
@[simp] theorem exec_fmaxVVS (x) (s : State) : exec (.fmaxVVS x) s = execFmaxVVS x s := rfl
@[simp] theorem exec_fmaxSSS (x) (s : State) : exec (.fmaxSSS x) s = execFmaxSSS x s := rfl
@[simp] theorem exec_andVVV (x) (s : State) : exec (.andVVV x) s = execAndVVV x s := rfl
@[simp] theorem exec_andVVS (x) (s : State) : exec (.andVVS x) s = execAndVVS x s := rfl
@[simp] theorem exec_andSSS (x) (s : State) : exec (.andSSS x) s = execAndSSS x s := rfl
@[simp] theorem exec_orVVV (x) (s : State) : exec (.orVVV x) s = execOrVVV x s := rfl
@[simp] theorem exec_orVVS (x) (s : State) : exec (.orVVS x) s = execOrVVS x s := rfl
@[simp] theorem exec_orSSS (x) (s : State) : exec (.orSSS x) s = execOrSSS x s := rfl
@[simp] theorem exec_xorVVV (x) (s : State) : exec (.xorVVV x) s = execXorVVV x s := rfl
@[simp] theorem exec_xorVVS (x) (s : State) : exec (.xorVVS x) s = execXorVVS x s := rfl
@[simp] theorem exec_xorSSS (x) (s : State) : exec (.xorSSS x) s = execXorSSS x s := rfl
@[simp] theorem exec_shlVVV (x) (s : State) : exec (.shlVVV x) s = execShlVVV x s := rfl
@[simp] theorem exec_shlVVS (x) (s : State) : exec (.shlVVS x) s = execShlVVS x s := rfl
@[simp] theorem exec_shlSSS (x) (s : State) : exec (.shlSSS x) s = execShlSSS x s := rfl
@[simp] theorem exec_shrVVV (x) (s : State) : exec (.shrVVV x) s = execShrVVV x s := rfl
@[simp] theorem exec_shrVVS (x) (s : State) : exec (.shrVVS x) s = execShrVVS x s := rfl
@[simp] theorem exec_shrSSS (x) (s : State) : exec (.shrSSS x) s = execShrSSS x s := rfl
@[simp] theorem exec_sarVVV (x) (s : State) : exec (.sarVVV x) s = execSarVVV x s := rfl
@[simp] theorem exec_sarVVS (x) (s : State) : exec (.sarVVS x) s = execSarVVS x s := rfl
@[simp] theorem exec_sarSSS (x) (s : State) : exec (.sarSSS x) s = execSarSSS x s := rfl
@[simp] theorem exec_rotVVV (x) (s : State) : exec (.rotVVV x) s = execRotVVV x s := rfl
@[simp] theorem exec_rotVVS (x) (s : State) : exec (.rotVVS x) s = execRotVVS x s := rfl
@[simp] theorem exec_rotSSS (x) (s : State) : exec (.rotSSS x) s = execRotSSS x s := rfl
@[simp] theorem exec_absVV (x) (s : State) : exec (.absVV x) s = execAbsVV x s := rfl
@[simp] theorem exec_absVS (x) (s : State) : exec (.absVS x) s = execAbsVS x s := rfl
@[simp] theorem exec_absSS (x) (s : State) : exec (.absSS x) s = execAbsSS x s := rfl
@[simp] theorem exec_negVV (x) (s : State) : exec (.negVV x) s = execNegVV x s := rfl
@[simp] theorem exec_negVS (x) (s : State) : exec (.negVS x) s = execNegVS x s := rfl
@[simp] theorem exec_negSS (x) (s : State) : exec (.negSS x) s = execNegSS x s := rfl
@[simp] theorem exec_notVV (x) (s : State) : exec (.notVV x) s = execNotVV x s := rfl
@[simp] theorem exec_notVS (x) (s : State) : exec (.notVS x) s = execNotVS x s := rfl
@[simp] theorem exec_notSS (x) (s : State) : exec (.notSS x) s = execNotSS x s := rfl
@[simp] theorem exec_popcVV (x) (s : State) : exec (.popcVV x) s = execPopcVV x s := rfl
@[simp] theorem exec_popcVS (x) (s : State) : exec (.popcVS x) s = execPopcVS x s := rfl
@[simp] theorem exec_popcSS (x) (s : State) : exec (.popcSS x) s = execPopcSS x s := rfl
@[simp] theorem exec_clzVV (x) (s : State) : exec (.clzVV x) s = execClzVV x s := rfl
@[simp] theorem exec_clzVS (x) (s : State) : exec (.clzVS x) s = execClzVS x s := rfl
@[simp] theorem exec_clzSS (x) (s : State) : exec (.clzSS x) s = execClzSS x s := rfl
@[simp] theorem exec_brevVV (x) (s : State) : exec (.brevVV x) s = execBrevVV x s := rfl
@[simp] theorem exec_brevVS (x) (s : State) : exec (.brevVS x) s = execBrevVS x s := rfl
@[simp] theorem exec_brevSS (x) (s : State) : exec (.brevSS x) s = execBrevSS x s := rfl
@[simp] theorem exec_movVV (x) (s : State) : exec (.movVV x) s = execMovVV x s := rfl
@[simp] theorem exec_movVS (x) (s : State) : exec (.movVS x) s = execMovVS x s := rfl
@[simp] theorem exec_movSS (x) (s : State) : exec (.movSS x) s = execMovSS x s := rfl
@[simp] theorem exec_moviVecImm (x) (s : State) : exec (.moviVecImm x) s = execMoviVecImm x s := rfl
@[simp] theorem exec_moviUniImm (x) (s : State) : exec (.moviUniImm x) s = execMoviUniImm x s := rfl
@[simp] theorem exec_moviVecIword (x) (s : State) : exec (.moviVecIword x) s = execMoviVecIword x s := rfl
@[simp] theorem exec_moviUniIword (x) (s : State) : exec (.moviUniIword x) s = execMoviUniIword x s := rfl
@[simp] theorem exec_addImm (x) (s : State) : exec (.addImm x) s = execAddImm x s := rfl
@[simp] theorem exec_addX (x) (s : State) : exec (.addX x) s = execAddX x s := rfl
@[simp] theorem exec_subX (x) (s : State) : exec (.subX x) s = execSubX x s := rfl
@[simp] theorem exec_mulX (x) (s : State) : exec (.mulX x) s = execMulX x s := rfl
@[simp] theorem exec_mulhi (x) (s : State) : exec (.mulhi x) s = execMulhi x s := rfl
@[simp] theorem exec_mad (x) (s : State) : exec (.mad x) s = execMad x s := rfl
@[simp] theorem exec_minX (x) (s : State) : exec (.minX x) s = execMinX x s := rfl
@[simp] theorem exec_maxX (x) (s : State) : exec (.maxX x) s = execMaxX x s := rfl
@[simp] theorem exec_absX (x) (s : State) : exec (.absX x) s = execAbsX x s := rfl
@[simp] theorem exec_negX (x) (s : State) : exec (.negX x) s = execNegX x s := rfl
@[simp] theorem exec_andX (x) (s : State) : exec (.andX x) s = execAndX x s := rfl
@[simp] theorem exec_orX (x) (s : State) : exec (.orX x) s = execOrX x s := rfl
@[simp] theorem exec_xorX (x) (s : State) : exec (.xorX x) s = execXorX x s := rfl
@[simp] theorem exec_notX (x) (s : State) : exec (.notX x) s = execNotX x s := rfl
@[simp] theorem exec_shlX (x) (s : State) : exec (.shlX x) s = execShlX x s := rfl
@[simp] theorem exec_shrX (x) (s : State) : exec (.shrX x) s = execShrX x s := rfl
@[simp] theorem exec_sarX (x) (s : State) : exec (.sarX x) s = execSarX x s := rfl
@[simp] theorem exec_rotX (x) (s : State) : exec (.rotX x) s = execRotX x s := rfl
@[simp] theorem exec_popcX (x) (s : State) : exec (.popcX x) s = execPopcX x s := rfl
@[simp] theorem exec_clzX (x) (s : State) : exec (.clzX x) s = execClzX x s := rfl
@[simp] theorem exec_brevX (x) (s : State) : exec (.brevX x) s = execBrevX x s := rfl
@[simp] theorem exec_bfx (x) (s : State) : exec (.bfx x) s = execBfx x s := rfl
@[simp] theorem exec_bfi (x) (s : State) : exec (.bfi x) s = execBfi x s := rfl
@[simp] theorem exec_sel (x) (s : State) : exec (.sel x) s = execSel x s := rfl
@[simp] theorem exec_cmp (x) (s : State) : exec (.cmp x) s = execCmp x s := rfl
@[simp] theorem exec_movX (x) (s : State) : exec (.movX x) s = execMovX x s := rfl
@[simp] theorem exec_dot4 (x) (s : State) : exec (.dot4 x) s = execDot4 x s := rfl
@[simp] theorem exec_sad (x) (s : State) : exec (.sad x) s = execSad x s := rfl
@[simp] theorem exec_faddX (x) (s : State) : exec (.faddX x) s = execFaddX x s := rfl
@[simp] theorem exec_fsubX (x) (s : State) : exec (.fsubX x) s = execFsubX x s := rfl
@[simp] theorem exec_fmulX (x) (s : State) : exec (.fmulX x) s = execFmulX x s := rfl
@[simp] theorem exec_ffma (x) (s : State) : exec (.ffma x) s = execFfma x s := rfl
@[simp] theorem exec_fminX (x) (s : State) : exec (.fminX x) s = execFminX x s := rfl
@[simp] theorem exec_fmaxX (x) (s : State) : exec (.fmaxX x) s = execFmaxX x s := rfl
@[simp] theorem exec_fcmp (x) (s : State) : exec (.fcmp x) s = execFcmp x s := rfl
@[simp] theorem exec_frnd (x) (s : State) : exec (.frnd x) s = execFrnd x s := rfl
@[simp] theorem exec_cvt (x) (s : State) : exec (.cvt x) s = execCvt x s := rfl
@[simp] theorem exec_pack (x) (s : State) : exec (.pack x) s = execPack x s := rfl
@[simp] theorem exec_unpack (x) (s : State) : exec (.unpack x) s = execUnpack x s := rfl
@[simp] theorem exec_exp2 (x) (s : State) : exec (.exp2 x) s = execExp2 x s := rfl
@[simp] theorem exec_log2 (x) (s : State) : exec (.log2 x) s = execLog2 x s := rfl
@[simp] theorem exec_rcp (x) (s : State) : exec (.rcp x) s = execRcp x s := rfl
@[simp] theorem exec_rsqrt (x) (s : State) : exec (.rsqrt x) s = execRsqrt x s := rfl
@[simp] theorem exec_sqrt (x) (s : State) : exec (.sqrt x) s = execSqrt x s := rfl
@[simp] theorem exec_sin (x) (s : State) : exec (.sin x) s = execSin x s := rfl
@[simp] theorem exec_cos (x) (s : State) : exec (.cos x) s = execCos x s := rfl
@[simp] theorem exec_tanh (x) (s : State) : exec (.tanh x) s = execTanh x s := rfl
@[simp] theorem exec_cbld (x) (s : State) : exec (.cbld x) s = execCbld x s := rfl
@[simp] theorem exec_cbrd (x) (s : State) : exec (.cbrd x) s = execCbrd x s := rfl
@[simp] theorem exec_cbq (x) (s : State) : exec (.cbq x) s = execCbq x s := rfl
@[simp] theorem exec_shfl (x) (s : State) : exec (.shfl x) s = execShfl x s := rfl
@[simp] theorem exec_bcast (x) (s : State) : exec (.bcast x) s = execBcast x s := rfl
@[simp] theorem exec_ballot (x) (s : State) : exec (.ballot x) s = execBallot x s := rfl
@[simp] theorem exec_vote (x) (s : State) : exec (.vote x) s = execVote x s := rfl
@[simp] theorem exec_gscan (x) (s : State) : exec (.gscan x) s = execGscan x s := rfl
@[simp] theorem exec_gred (x) (s : State) : exec (.gred x) s = execGred x s := rfl
@[simp] theorem exec_matchEq (x) (s : State) : exec (.matchEq x) s = execMatchEq x s := rfl
@[simp] theorem exec_rdsrVector (x) (s : State) : exec (.rdsrVector x) s = execRdsrVector x s := rfl
@[simp] theorem exec_rdsrUniform (x) (s : State) : exec (.rdsrUniform x) s = execRdsrUniform x s := rfl
@[simp] theorem exec_wrsr (x) (s : State) : exec (.wrsr x) s = execWrsr x s := rfl
@[simp] theorem exec_bwphaseWrite (part) (v) (s : State) :
    exec (.bwphaseWrite part v) s = execBwphaseWrite part v s := rfl
@[simp] theorem exec_ld (x) (s : State) : exec (.ld x) s = execLd x s := rfl
@[simp] theorem exec_st (x) (s : State) : exec (.st x) s = execSt x s := rfl
@[simp] theorem exec_lds (x) (s : State) : exec (.lds x) s = execLds x s := rfl
@[simp] theorem exec_sts (x) (s : State) : exec (.sts x) s = execSts x s := rfl
@[simp] theorem exec_ldc (x) (s : State) : exec (.ldc x) s = execLdc x s := rfl
@[simp] theorem exec_atom (x) (s : State) : exec (.atom x) s = execAtom x s := rfl
@[simp] theorem exec_atoms (x) (s : State) : exec (.atoms x) s = execAtoms x s := rfl
@[simp] theorem exec_pref (x) (s : State) : exec (.pref x) s = execPref x s := rfl
@[simp] theorem exec_fence (x) (s : State) : exec (.fence x) s = execFence x s := rfl
@[simp] theorem exec_fenceEng (x) (s : State) : exec (.fenceEng x) s = execFenceEng x s := rfl
@[simp] theorem exec_wbr (x) (s : State) : exec (.wbr x) s = execWbr x s := rfl
@[simp] theorem exec_invr (x) (s : State) : exec (.invr x) s = execInvr x s := rfl
@[simp] theorem exec_put (x) (s : State) : exec (.put x) s = execPut x s := rfl
@[simp] theorem exec_get (x) (s : State) : exec (.get x) s = execGet x s := rfl
@[simp] theorem exec_ctrw (x) (s : State) : exec (.ctrw x) s = execCtrw x s := rfl
@[simp] theorem exec_mapCat (x) (s : State) : exec (.mapCat x) s = execMapCat x s := rfl
@[simp] theorem exec_mapSplit (x) (s : State) : exec (.mapSplit x) s = execMapSplit x s := rfl
@[simp] theorem exec_mapPerm (x) (s : State) : exec (.mapPerm x) s = execMapPerm x s := rfl
@[simp] theorem exec_mapXchg (x) (s : State) : exec (.mapXchg x) s = execMapXchg x s := rfl
@[simp] theorem exec_mapAlias (x) (s : State) : exec (.mapAlias x) s = execMapAlias x s := rfl
@[simp] theorem exec_mapDrop (x) (s : State) : exec (.mapDrop x) s = execMapDrop x s := rfl
@[simp] theorem exec_mapQuery (x) (s : State) : exec (.mapQuery x) s = execMapQuery x s := rfl
@[simp] theorem exec_cpG2s (x) (s : State) : exec (.cpG2s x) s = execCpG2s x s := rfl
@[simp] theorem exec_cpS2g (x) (s : State) : exec (.cpS2g x) s = execCpS2g x s := rfl
@[simp] theorem exec_cpS2s (x) (s : State) : exec (.cpS2s x) s = execCpS2s x s := rfl
@[simp] theorem exec_cpMc (x) (s : State) : exec (.cpMc x) s = execCpMc x s := rfl
@[simp] theorem exec_cpNet (x) (s : State) : exec (.cpNet x) s = execCpNet x s := rfl
@[simp] theorem exec_cpxTr (x) (s : State) : exec (.cpxTr x) s = execCpxTr x s := rfl
@[simp] theorem exec_cpxQ4r (x) (s : State) : exec (.cpxQ4r x) s = execCpxQ4r x s := rfl
@[simp] theorem exec_cpxDq (x) (s : State) : exec (.cpxDq x) s = execCpxDq x s := rfl
@[simp] theorem exec_cpxZbc (x) (s : State) : exec (.cpxZbc x) s = execCpxZbc x s := rfl
@[simp] theorem exec_cpxZbx (x) (s : State) : exec (.cpxZbx x) s = execCpxZbx x s := rfl
@[simp] theorem exec_mm (x) (s : State) : exec (.mm x) s = execMm x s := rfl
@[simp] theorem exec_mmLd (x) (s : State) : exec (.mmLd x) s = execMmLd x s := rfl
@[simp] theorem exec_mmSt (x) (s : State) : exec (.mmSt x) s = execMmSt x s := rfl
@[simp] theorem exec_txInit (x) (s : State) : exec (.txInit x) s = execTxInit x s := rfl
@[simp] theorem exec_txAim (x) (s : State) : exec (.txAim x) s = execTxAim x s := rfl
@[simp] theorem exec_txArrive (x) (s : State) : exec (.txArrive x) s = execTxArrive x s := rfl
@[simp] theorem exec_txWait (x) (s : State) : exec (.txWait x) s = execTxWait x s := rfl
@[simp] theorem exec_txTest (x) (s : State) : exec (.txTest x) s = execTxTest x s := rfl
@[simp] theorem exec_txDrop (x) (s : State) : exec (.txDrop x) s = execTxDrop x s := rfl
@[simp] theorem exec_taskSpawn (x) (s : State) : exec (.taskSpawn x) s = execTaskSpawn x s := rfl
@[simp] theorem exec_tileSet (x) (s : State) : exec (.tileSet x) s = execTileSet x s := rfl
@[simp] theorem exec_tileGet (x) (s : State) : exec (.tileGet x) s = execTileGet x s := rfl
@[simp] theorem exec_ridgeArrive (x) (s : State) : exec (.ridgeArrive x) s = execRidgeArrive x s := rfl
@[simp] theorem exec_ridgeWait (x) (s : State) : exec (.ridgeWait x) s = execRidgeWait x s := rfl
@[simp] theorem exec_ridgeJoin (x) (s : State) : exec (.ridgeJoin x) s = execRidgeJoin x s := rfl
@[simp] theorem exec_ridgeLeave (x) (s : State) : exec (.ridgeLeave x) s = execRidgeLeave x s := rfl
@[simp] theorem exec_leadStep (x) (s : State) : exec (.leadStep x) s = execLeadStep x s := rfl
@[simp] theorem exec_tasteNext (x) (s : State) : exec (.tasteNext x) s = execTasteNext x s := rfl
@[simp] theorem exec_tasteAdd (x) (s : State) : exec (.tasteAdd x) s = execTasteAdd x s := rfl
@[simp] theorem exec_tasteStat (x) (s : State) : exec (.tasteStat x) s = execTasteStat x s := rfl
@[simp] theorem exec_bra (x) (s : State) : exec (.bra x) s = execBra x s := rfl
@[simp] theorem exec_brp (x) (s : State) : exec (.brp x) s = execBrp x s := rfl
@[simp] theorem exec_call (x) (s : State) : exec (.call x) s = execCall x s := rfl
@[simp] theorem exec_jmpi (x) (s : State) : exec (.jmpi x) s = execJmpi x s := rfl
@[simp] theorem exec_ret (x) (s : State) : exec (.ret x) s = execRet x s := rfl
@[simp] theorem exec_exit (x) (s : State) : exec (.exit x) s = execExit x s := rfl
@[simp] theorem exec_yield (x) (s : State) : exec (.yield x) s = execYield x s := rfl
@[simp] theorem exec_nop (x) (s : State) : exec (.nop x) s = execNop x s := rfl
@[simp] theorem exec_gsync (x) (s : State) : exec (.gsync x) s = execGsync x s := rfl
@[simp] theorem exec_wait (x) (s : State) : exec (.wait x) s = execWait x s := rfl
@[simp] theorem exec_waitClk (x) (s : State) : exec (.waitClk x) s = execWaitClk x s := rfl
@[simp] theorem exec_rep (x) (s : State) : exec (.rep x) s = execRep x s := rfl
@[simp] theorem exec_win (x) (s : State) : exec (.win x) s = execWin x s := rfl
@[simp] theorem exec_trap (x) (s : State) : exec (.trap x) s = execTrap x s := rfl
@[simp] theorem exec_brk (x) (s : State) : exec (.brk x) s = execBrk x s := rfl
@[simp] theorem exec_tret (x) (s : State) : exec (.tret x) s = execTret x s := rfl
@[simp] theorem exec_csrr (x) (s : State) : exec (.csrr x) s = execCsrr x s := rfl
@[simp] theorem exec_csrw (x) (s : State) : exec (.csrw x) s = execCsrw x s := rfl
@[simp] theorem exec_gsave (x) (s : State) : exec (.gsave x) s = execGsave x s := rfl
@[simp] theorem exec_grest (x) (s : State) : exec (.grest x) s = execGrest x s := rfl
@[simp] theorem exec_scall (x) (s : State) : exec (.scall x) s = execScall x s := rfl
@[simp] theorem exec_runPromoted (gid) (lanes) (s : State) :
    exec (.runPromoted gid lanes) s = execRunPromoted gid lanes s := rfl
@[simp] theorem exec_waitClkDeadline (gid) (lanes) (s : State) :
    exec (.waitClkDeadline gid lanes) s = execWaitClkDeadline gid lanes s := rfl
@[simp] theorem exec_groupLeave (gid) (s : State) : exec (.groupLeave gid) s = execGroupLeave gid s := rfl
@[simp] theorem exec_latchedCauseDelivery (gid) (s : State) :
    exec (.latchedCauseDelivery gid) s = execLatchedCauseDelivery gid s := rfl
@[simp] theorem exec_requestAtHomeSlice (id) (s : State) :
    exec (.requestAtHomeSlice id) s = execRequestAtHomeSlice id s := rfl
@[simp] theorem exec_requestRetranslation (id) (s : State) :
    exec (.requestRetranslation id) s = execRequestRetranslation id s := rfl
@[simp] theorem exec_tableWalk (core) (ctx) (va) (s : State) :
    exec (.tableWalk core ctx va) s = execTableWalk core ctx va s := rfl
@[simp] theorem exec_loadResponse (id) (s : State) : exec (.loadResponse id) s = execLoadResponse id s := rfl
@[simp] theorem exec_atomicResponse (id) (s : State) : exec (.atomicResponse id) s = execAtomicResponse id s := rfl
@[simp] theorem exec_storeAcknowledgement (id) (s : State) :
    exec (.storeAcknowledgement id) s = execStoreAcknowledgement id s := rfl
@[simp] theorem exec_l1Eviction (core) (line) (s : State) :
    exec (.l1Eviction core line) s = execL1Eviction core line s := rfl
@[simp] theorem exec_proxySliceEviction (die) (line) (s : State) :
    exec (.proxySliceEviction die line) s = execProxySliceEviction die line s := rfl
@[simp] theorem exec_putArrival (id) (s : State) : exec (.putArrival id) s = execPutArrival id s := rfl
@[simp] theorem exec_putAcknowledged (id) (s : State) : exec (.putAcknowledged id) s = execPutAcknowledged id s := rfl
@[simp] theorem exec_getComplete (id) (s : State) : exec (.getComplete id) s = execGetComplete id s := rfl
@[simp] theorem exec_pressEntryExecute (id) (s : State) :
    exec (.pressEntryExecute id) s = execPressEntryExecute id s := rfl
@[simp] theorem exec_enginePartArrival (id) (part) (s : State) :
    exec (.enginePartArrival id part) s = execEnginePartArrival id part s := rfl
@[simp] theorem exec_engineOperationComplete (id) (s : State) :
    exec (.engineOperationComplete id) s = execEngineOperationComplete id s := rfl
@[simp] theorem exec_editCommit (id) (s : State) : exec (.editCommit id) s = execEditCommit id s := rfl
@[simp] theorem exec_editComplete (id) (s : State) : exec (.editComplete id) s = execEditComplete id s := rfl
@[simp] theorem exec_zeroPageCommit (id) (s : State) : exec (.zeroPageCommit id) s = execZeroPageCommit id s := rfl
@[simp] theorem exec_frameRelease (frame) (s : State) : exec (.frameRelease frame) s = execFrameRelease frame s := rfl
@[simp] theorem exec_teamPlacement (node) (s : State) : exec (.teamPlacement node) s = execTeamPlacement node s := rfl
@[simp] theorem exec_placementWaitExpiry (ctx) (s : State) :
    exec (.placementWaitExpiry ctx) s = execPlacementWaitExpiry ctx s := rfl
@[simp] theorem exec_preemption (node) (s : State) : exec (.preemption node) s = execPreemption node s := rfl
@[simp] theorem exec_teamSave (team) (s : State) : exec (.teamSave team) s = execTeamSave team s := rfl
@[simp] theorem exec_forcedSave (team) (s : State) : exec (.forcedSave team) s = execForcedSave team s := rfl
@[simp] theorem exec_nodeComplete (node) (s : State) : exec (.nodeComplete node) s = execNodeComplete node s := rfl
@[simp] theorem exec_nodeFailInput (node) (s : State) : exec (.nodeFailInput node) s = execNodeFailInput node s := rfl
@[simp] theorem exec_gridBudgetExpired (node) (s : State) :
    exec (.gridBudgetExpired node) s = execGridBudgetExpired node s := rfl
@[simp] theorem exec_watchdogKill (node) (s : State) : exec (.watchdogKill node) s = execWatchdogKill node s := rfl
@[simp] theorem exec_killComplete (ctx) (s : State) : exec (.killComplete ctx) s = execKillComplete ctx s := rfl
@[simp] theorem exec_uncorrectableError (place) (retryOk) (s : State) :
    exec (.uncorrectableError place retryOk) s = execUncorrectableError place retryOk s := rfl
@[simp] theorem exec_linkError (part) (die) (port) (s : State) :
    exec (.linkError part die port) s = execLinkError part die port s := rfl
@[simp] theorem exec_switchPoint (part) (s : State) : exec (.switchPoint part) s = execSwitchPoint part s := rfl
@[simp] theorem exec_slwbDone (part) (s : State) : exec (.slwbDone part) s = execSlwbDone part s := rfl
@[simp] theorem exec_viewLineFill (part) (win) (line) (s : State) :
    exec (.viewLineFill part win line) s = execViewLineFill part win line s := rfl
@[simp] theorem exec_keySlotEmptied (slot) (s : State) :
    exec (.keySlotEmptied slot) s = execKeySlotEmptied slot s := rfl
@[simp] theorem exec_binToStandby (bin) (s : State) : exec (.binToStandby bin) s = execBinToStandby bin s := rfl
@[simp] theorem exec_binToRetention (bin) (s : State) : exec (.binToRetention bin) s = execBinToRetention bin s := rfl
@[simp] theorem exec_binWakeDone (bin) (s : State) : exec (.binWakeDone bin) s = execBinWakeDone bin s := rfl
@[simp] theorem exec_binPowerDown (bin) (s : State) : exec (.binPowerDown bin) s = execBinPowerDown bin s := rfl
@[simp] theorem exec_bwphaseArrival (part) (s : State) :
    exec (.bwphaseArrival part) s = execBwphaseArrival part s := rfl
@[simp] theorem exec_bankroleWrite (part) (v) (s : State) :
    exec (.bankroleWrite part v) s = execBankroleWrite part v s := rfl
@[simp] theorem exec_bankpinWrite (part) (v) (s : State) :
    exec (.bankpinWrite part v) s = execBankpinWrite part v s := rfl
@[simp] theorem exec_wtctlRegister (part) (v) (s : State) :
    exec (.wtctlRegister part v) s = execWtctlRegister part v s := rfl
@[simp] theorem exec_wtctlDeregister (part) (v) (s : State) :
    exec (.wtctlDeregister part v) s = execWtctlDeregister part v s := rfl
@[simp] theorem exec_fpbaseWrite (part) (v) (s : State) :
    exec (.fpbaseWrite part v) s = execFpbaseWrite part v s := rfl
@[simp] theorem exec_fpaddWrite (part) (v) (s : State) : exec (.fpaddWrite part v) s = execFpaddWrite part v s := rfl
@[simp] theorem exec_ptbaseWrite (part) (v) (s : State) :
    exec (.ptbaseWrite part v) s = execPtbaseWrite part v s := rfl
@[simp] theorem exec_pteInstall (part) (v) (s : State) : exec (.pteInstall part v) s = execPteInstall part v s := rfl
@[simp] theorem exec_pteRemove (part) (v) (s : State) : exec (.pteRemove part v) s = execPteRemove part v s := rfl
@[simp] theorem exec_pteRead (part) (v) (s : State) : exec (.pteRead part v) s = execPteRead part v s := rfl
@[simp] theorem exec_gctlResume (part) (v) (s : State) : exec (.gctlResume part v) s = execGctlResume part v s := rfl
@[simp] theorem exec_gctlReflect (part) (v) (s : State) :
    exec (.gctlReflect part v) s = execGctlReflect part v s := rfl
@[simp] theorem exec_gctlKill (part) (v) (s : State) : exec (.gctlKill part v) s = execGctlKill part v s := rfl
@[simp] theorem exec_ctxctlWrite (part) (v) (s : State) :
    exec (.ctxctlWrite part v) s = execCtxctlWrite part v s := rfl
@[simp] theorem exec_slhashWrite (part) (v) (s : State) :
    exec (.slhashWrite part v) s = execSlhashWrite part v s := rfl
@[simp] theorem exec_slctlGo (part) (v) (s : State) : exec (.slctlGo part v) s = execSlctlGo part v s := rfl
@[simp] theorem exec_slwbWrite (part) (v) (s : State) : exec (.slwbWrite part v) s = execSlwbWrite part v s := rfl
@[simp] theorem exec_binmapAllocClear (part) (v) (s : State) :
    exec (.binmapAllocClear part v) s = execBinmapAllocClear part v s := rfl
@[simp] theorem exec_binmapAllocSet (part) (v) (s : State) :
    exec (.binmapAllocSet part v) s = execBinmapAllocSet part v s := rfl
@[simp] theorem exec_binmapDomWrite (part) (v) (s : State) :
    exec (.binmapDomWrite part v) s = execBinmapDomWrite part v s := rfl
@[simp] theorem exec_fwctlValidSet (part) (v) (s : State) :
    exec (.fwctlValidSet part v) s = execFwctlValidSet part v s := rfl
@[simp] theorem exec_fwctlValidClear (part) (v) (s : State) :
    exec (.fwctlValidClear part v) s = execFwctlValidClear part v s := rfl
@[simp] theorem exec_registerWrite (target) (v) (s : State) :
    exec (.registerWrite target v) s = execRegisterWrite target v s := rfl
@[simp] theorem exec_perstDeassert (s : State) : exec .perstDeassert s = execPerstDeassert s := rfl
@[simp] theorem exec_trainingDone (s : State) : exec .trainingDone s = execTrainingDone s := rfl
@[simp] theorem exec_ownerEntryWrite (unit) (idx) (v) (s : State) :
    exec (.ownerEntryWrite unit idx v) s = execOwnerEntryWrite unit idx v s := rfl
@[simp] theorem exec_numvfsWrite (n) (s : State) : exec (.numvfsWrite n) s = execNumvfsWrite n s := rfl
@[simp] theorem exec_feataccWrite (part) (n) (v) (s : State) :
    exec (.feataccWrite part n v) s = execFeataccWrite part n v s := rfl
@[simp] theorem exec_mbxdbPost (part) (v) (s : State) : exec (.mbxdbPost part v) s = execMbxdbPost part v s := rfl
@[simp] theorem exec_mailboxPostResult (part) (s : State) :
    exec (.mailboxPostResult part) s = execMailboxPostResult part s := rfl
@[simp] theorem exec_mailboxMessage (part) (s : State) :
    exec (.mailboxMessage part) s = execMailboxMessage part s := rfl
@[simp] theorem exec_mbxreplyWrite (part) (v) (s : State) :
    exec (.mbxreplyWrite part v) s = execMbxreplyWrite part v s := rfl
@[simp] theorem exec_getVersion (fn) (arg) (s : State) : exec (.getVersion fn arg) s = execGetVersion fn arg s := rfl
@[simp] theorem exec_getCapabilities (fn) (arg) (s : State) :
    exec (.getCapabilities fn arg) s = execGetCapabilities fn arg s := rfl
@[simp] theorem exec_negotiateAlgorithms (fn) (sel) (s : State) :
    exec (.negotiateAlgorithms fn sel) s = execNegotiateAlgorithms fn sel s := rfl
@[simp] theorem exec_getDigests (fn) (arg) (s : State) : exec (.getDigests fn arg) s = execGetDigests fn arg s := rfl
@[simp] theorem exec_getCertificate (fn) (arg) (s : State) :
    exec (.getCertificate fn arg) s = execGetCertificate fn arg s := rfl
@[simp] theorem exec_challenge (fn) (arg) (s : State) : exec (.challenge fn arg) s = execChallenge fn arg s := rfl
@[simp] theorem exec_getMeasurements (fn) (arg) (s : State) :
    exec (.getMeasurements fn arg) s = execGetMeasurements fn arg s := rfl
@[simp] theorem exec_keyExchange (fn) (ask) (s : State) :
    exec (.keyExchange fn ask) s = execKeyExchange fn ask s := rfl
@[simp] theorem exec_finish (fn) (ask) (s : State) : exec (.finish fn ask) s = execFinish fn ask s := rfl
@[simp] theorem exec_heartbeat (fn) (arg) (s : State) : exec (.heartbeat fn arg) s = execHeartbeat fn arg s := rfl
@[simp] theorem exec_keyUpdate (fn) (arg) (s : State) : exec (.keyUpdate fn arg) s = execKeyUpdate fn arg s := rfl
@[simp] theorem exec_endSession (fn) (arg) (s : State) : exec (.endSession fn arg) s = execEndSession fn arg s := rfl
@[simp] theorem exec_keyload (fn) (session) (slot) (key) (s : State) :
    exec (.keyload fn session slot key) s = execKeyload fn session slot key s := rfl
@[simp] theorem exec_keydrop (fn) (session) (slot) (s : State) :
    exec (.keydrop fn session slot) s = execKeydrop fn session slot s := rfl
@[simp] theorem exec_putDataFlit (port) (f) (s : State) :
    exec (.putDataFlit port f) s = execPutDataFlit port f s := rfl
@[simp] theorem exec_counterRiseFlit (port) (f) (s : State) :
    exec (.counterRiseFlit port f) s = execCounterRiseFlit port f s := rfl
@[simp] theorem exec_acknowledgementFlit (port) (f) (s : State) :
    exec (.acknowledgementFlit port f) s = execAcknowledgementFlit port f s := rfl
@[simp] theorem exec_creditFlit (port) (f) (s : State) : exec (.creditFlit port f) s = execCreditFlit port f s := rfl
@[simp] theorem exec_retryRequestFlit (port) (f) (s : State) :
    exec (.retryRequestFlit port f) s = execRetryRequestFlit port f s := rfl
@[simp] theorem exec_idleFlit (port) (f) (s : State) : exec (.idleFlit port f) s = execIdleFlit port f s := rfl
@[simp] theorem exec_portDown (port) (s : State) : exec (.portDown port) s = execPortDown port s := rfl
@[simp] theorem exec_laneLoss (port) (s : State) : exec (.laneLoss port) s = execLaneLoss port s := rfl
@[simp] theorem exec_throttleStep (s : State) : exec .throttleStep s = execThrottleStep s := rfl
@[simp] theorem exec_thermalPowerDown (s : State) : exec .thermalPowerDown s = execThermalPowerDown s := rfl
@[simp] theorem exec_mbxptrWrite (part) (v) (s : State) :
    exec (.mbxptrWrite part v) s = execMbxptrWrite part v s := rfl
@[simp] theorem exec_ultraEthernetPacket (p) (s : State) :
    exec (.ultraEthernetPacket p) s = execUltraEthernetPacket p s := rfl
@[simp] theorem exec_theushPortRetrain (port) (s : State) :
    exec (.theushPortRetrain port) s = execTheushPortRetrain port s := rfl
@[simp] theorem exec_correctedError (part) (s : State) :
    exec (.correctedError part) s = execCorrectedError part s := rfl

end Sys2Proof.Machine
end

