-- ==== Sys2Proof/Laws/Memory.lean ====
section
/-! SUPPORT. Laws of physical memory at its home slices and of the local SRAM: reads after writes, frames, and that
every operation keeps the canonical form. -/

namespace Sys2Proof.Machine

/-! ### One byte -/

@[simp] theorem cellarByte_homePut (m : Mem) (a b : Nat) (v : Byte) : cellarByte (homePut m a v) b = cellarByte m b := rfl
@[simp] theorem cellarByte_bumpTag (m : Mem) (l b : Nat) : cellarByte (bumpTag m l) b = cellarByte m b := rfl
@[simp] theorem dirty_bumpTag (m : Mem) (l : Nat) : (bumpTag m l).dirty = m.dirty := rfl
@[simp] theorem cellar_bumpTag (m : Mem) (l : Nat) : (bumpTag m l).cellar = m.cellar := rfl
@[simp] theorem homeByte_bumpTag (m : Mem) (l b : Nat) : homeByte (bumpTag m l) b = homeByte m b := rfl

theorem homeByte_foldl_bumpTag (ls : List Nat) (m : Mem) (b : Nat) :
    homeByte (ls.foldl bumpTag m) b = homeByte m b := by
  induction ls generalizing m with
  | nil => rfl
  | cons l ls ih => rw [List.foldl_cons, ih, homeByte_bumpTag]

/-- The canonical form, in parts. -/
theorem Mem.wf_iff (m : Mem) : m.wf = true ↔
    mapWf 0 m.cellar = true ∧ mapOrdered m.dirty = true ∧ ∀ e ∈ m.dirty, e.2 ≠ cellarByte m e.1 := by
  simp only [Mem.wf, Bool.and_eq_true, List.all_eq_true, decide_eq_true_eq]
  tauto

/-- A byte reads as it was written. -/
theorem homeByte_homePut_self (m : Mem) (a : Nat) (v : Byte) :
    homeByte (homePut m a v) a = v := by
  unfold homeByte homePut
  simp only
  split
  · rename_i x hx
    split at hx
    · simp [mapFind_del_self] at hx
    · rw [mapFind_put_self] at hx
      simpa using hx.symm
  · rename_i hx
    split at hx
    · rename_i hv
      exact hv.symm
    · simp [mapFind_put_self] at hx

/-- A byte written leaves every other address alone. -/
theorem homeByte_homePut_ne (m : Mem) {a b : Nat} (v : Byte) (h : b ≠ a) :
    homeByte (homePut m a v) b = homeByte m b := by
  unfold homeByte homePut
  simp only
  split
  · rename_i x hx
    have : mapFind m.dirty b = some x := by
      split at hx
      · rwa [mapFind_del_ne _ h] at hx
      · rwa [mapFind_put_ne _ _ h] at hx
    simp [this]
  · rename_i hx
    have : mapFind m.dirty b = none := by
      split at hx
      · rwa [mapFind_del_ne _ h] at hx
      · rwa [mapFind_put_ne _ _ h] at hx
    simp [this, cellarByte]

theorem wf_homePut (m : Mem) (a : Nat) (v : Byte) (h : m.wf = true) : (homePut m a v).wf = true := by
  rw [Mem.wf_iff] at h ⊢
  refine ⟨h.1, ?_, ?_⟩
  · unfold homePut
    simp only
    split
    · exact mapOrdered_del _ _ h.2.1
    · exact mapOrdered_put _ _ _ h.2.1
  · intro e he
    rw [cellarByte_homePut]
    unfold homePut at he
    simp only at he
    split at he
    · exact h.2.2 e (mem_mapDel _ _ he)
    · rename_i hv
      rcases mem_mapPut _ _ _ he with rfl | he
      · exact hv
      · exact h.2.2 e he

theorem ordered_homePut (m : Mem) (a : Nat) (v : Byte) (h : mapOrdered m.dirty = true) :
    mapOrdered (homePut m a v).dirty = true := by
  unfold homePut
  simp only
  split
  · exact mapOrdered_del _ _ h
  · exact mapOrdered_put _ _ _ h

/-! ### Lists of bytes -/

theorem homeByte_homePutList_out (bs : List Byte) (m : Mem) {a b : Nat} (h : b < a ∨ a + bs.length ≤ b) :
    homeByte (homePutList m a bs) b = homeByte m b := by
  induction bs generalizing m a with
  | nil => rfl
  | cons v bs ih =>
    simp only [List.length_cons] at h
    rw [homePutList, ih _ (by omega), homeByte_homePut_ne _ _ (by omega)]

theorem ordered_homePutList (bs : List Byte) (m : Mem) (a : Nat) (h : mapOrdered m.dirty = true) :
    mapOrdered (homePutList m a bs).dirty = true := by
  induction bs generalizing m a with
  | nil => exact h
  | cons v bs ih => exact ih _ _ (ordered_homePut m a v h)

theorem homeByte_homePutList_in (bs : List Byte) (m : Mem) (a : Nat) {i : Nat}
    (hi : i < bs.length) : homeByte (homePutList m a bs) (a + i) = bs[i] := by
  induction bs generalizing m a i with
  | nil => simp at hi
  | cons v bs ih =>
    rw [homePutList]
    cases i with
    | zero =>
      rw [homeByte_homePutList_out _ _ (by omega)]
      exact homeByte_homePut_self m a v
    | succ i =>
      have := ih (homePut m a v) (a + 1) (i := i) (by simpa using hi)
      rw [show a + (i + 1) = a + 1 + i by omega, this]
      rfl

theorem wf_homePutList (bs : List Byte) (m : Mem) (a : Nat) (h : m.wf = true) : (homePutList m a bs).wf = true := by
  induction bs generalizing m a with
  | nil => exact h
  | cons v bs ih => exact ih _ _ (wf_homePut m a v h)

/-- Keeping a line for SHADOW pages changes only what is kept for them. -/
theorem keepShadow_eq (m : Mem) (l : Nat) : keepShadow m l = { m with shadows := (keepShadow m l).shadows } := by
  unfold keepShadow
  split <;> rfl

@[simp] theorem homeByte_keepShadow (m : Mem) (l a : Nat) : homeByte (keepShadow m l) a = homeByte m a := by
  rw [keepShadow_eq]
  rfl

@[simp] theorem wf_keepShadow (m : Mem) (l : Nat) : (keepShadow m l).wf = m.wf := by
  rw [keepShadow_eq]
  rfl

@[simp] theorem homeByte_foldl_keepShadow (ls : List Nat) (m : Mem) (a : Nat) :
    homeByte (ls.foldl keepShadow m) a = homeByte m a := by
  induction ls generalizing m with
  | nil => rfl
  | cons l ls ih => rw [List.foldl_cons, ih, homeByte_keepShadow]

/-- A write at home leaves every byte outside it as it was. -/
theorem homeByte_homeWrite_out (m : Mem) {a b : Nat} (bs : List Byte) (h : b < a ∨ a + bs.length ≤ b) :
    homeByte (homeWrite m a bs) b = homeByte m b := by
  rw [homeWrite, homeByte_foldl_bumpTag, homeByte_homePutList_out _ _ h, homeByte_foldl_keepShadow]

/-- A byte written at home reads as written. -/
theorem homeByte_homeWrite_in (m : Mem) (a : Nat) (bs : List Byte) {i : Nat}
    (hi : i < bs.length) : homeByte (homeWrite m a bs) (a + i) = bs[i] := by
  rw [homeWrite, homeByte_foldl_bumpTag, homeByte_homePutList_in _ _ _ hi]

theorem homeRead_eq_map (m : Mem) (a n : Nat) : homeRead m a n = (List.range n).map (fun i => homeByte m (a + i)) := by
  induction n generalizing a with
  | zero => rfl
  | succ n ih =>
    rw [homeRead, ih, List.range_succ_eq_map, List.map_cons, List.map_map]
    congr 1
    apply List.map_congr_left
    intro i _
    simp [Nat.add_assoc, Nat.add_comm 1 i]

/-- A read at home after a write of the same bytes gives what was written. -/
theorem homeRead_homeWrite (m : Mem) (a : Nat) (bs : List Byte) :
    homeRead (homeWrite m a bs) a bs.length = bs := by
  rw [homeRead_eq_map]
  apply List.ext_getElem
  · simp
  · intro i h1 h2
    simp only [List.getElem_map, List.getElem_range]
    exact homeByte_homeWrite_in m a bs h2

/-! ### The canonical form is kept -/

@[simp] theorem wf_bumpTag (m : Mem) (l : Nat) : (bumpTag m l).wf = m.wf := rfl
@[simp] theorem wf_poisonLine (m : Mem) (l : Nat) : (poisonLine m l).wf = m.wf := rfl
@[simp] theorem wf_cleanLine (m : Mem) (l : Nat) : (cleanLine m l).wf = m.wf := rfl
@[simp] theorem wf_dropCopies (m : Mem) (l : Nat) : (dropCopies m l).wf = m.wf := rfl

theorem wf_foldl {β : Type} (f : Mem → β → Mem) (hf : ∀ m b, m.wf = true → (f m b).wf = true) (l : List β) (m : Mem)
    (h : m.wf = true) : (l.foldl f m).wf = true := by
  induction l generalizing m with
  | nil => exact h
  | cons b l ih => exact ih _ (hf m b h)

theorem wf_homeWrite (m : Mem) (a : Nat) (bs : List Byte) (h : m.wf = true) : (homeWrite m a bs).wf = true :=
  wf_foldl _ (fun m l h => by simpa using h) _ _
    (wf_homePutList bs _ a (wf_foldl _ (fun m l h => by simpa using h) _ _ h))

/-- Fewer listed slice bytes keep the form. -/
theorem wf_dirty_keep (m : Mem) (p : Nat → Byte → Bool) (h : m.wf = true) :
    ({ m with dirty := mapKeep m.dirty p } : Mem).wf = true := by
  rw [Mem.wf_iff] at h ⊢
  exact ⟨h.1, mapOrdered_keep _ _ h.2.1, fun e he => h.2.2 e (List.mem_filter.mp he).1⟩

theorem wf_dropDirty (m : Mem) (l : Nat) (h : m.wf = true) : (dropDirty m l).wf = true :=
  wf_dirty_keep _ _ (by simpa using h)

/-- Both levels losing the bytes that a test rejects keep the form. -/
theorem wf_keep_both (m : Mem) (p : Nat → Bool) (h : m.wf = true) :
    ({ m with cellar := mapKeep m.cellar (fun a _ => p a), dirty := mapKeep m.dirty (fun a _ => p a) } : Mem).wf
      = true := by
  rw [Mem.wf_iff] at h ⊢
  refine ⟨mapWf_keep 0 m.cellar (fun a _ => p a) h.1, mapOrdered_keep m.dirty (fun a _ => p a) h.2.1, fun e he => ?_⟩
  have he' := List.mem_filter.mp he
  have h1 := h.2.2 e he'.1
  have : mapFind (mapKeep m.cellar (fun a _ => p a)) e.1 = mapFind m.cellar e.1 := by
    have hp := he'.2
    generalize m.cellar = c at *
    clear h he he' h1
    induction c with
    | nil => rfl
    | cons x c ih =>
      obtain ⟨k, w⟩ := x
      simp only [mapKeep, List.filter_cons] at ih ⊢
      split
      · simp [mapFind, ih]
      · rename_i hk
        have : e.1 ≠ k := by
          rintro rfl
          exact hk hp
        simp [mapFind, this, ih]
  simpa [cellarByte, mapGet, this] using h1

theorem wf_zeroFill (m : Mem) (frame : Nat) (h : m.wf = true) : (zeroFill m frame).wf = true := by
  unfold zeroFill
  exact wf_foldl _ (fun m i h => by simpa using h) _ _
    (wf_keep_both m (fun a => !decide (frame * 65536 ≤ a ∧ a < frame * 65536 + 65536)) h)

theorem mapGet_foldl_del (c : SMap Byte) (ks : List Nat) (a : Nat) :
    mapGet 0 (ks.foldl mapDel c) a = if a ∈ ks then 0 else mapGet 0 c a := by
  induction ks generalizing c with
  | nil => simp
  | cons k ks ih =>
    rw [List.foldl_cons, ih _]
    by_cases h : a = k
    · subst h
      simp [mapGet, mapFind_del_self c a]
    · simp [mapGet, mapFind_del_ne c h, h]

theorem mapWf_foldl_del (c : SMap Byte) (ks : List Nat) (hc : mapWf 0 c = true) : mapWf 0 (ks.foldl mapDel c) = true := by
  induction ks generalizing c with
  | nil => exact hc
  | cons k ks ih => exact ih _ (mapWf_del 0 c k hc)

theorem foldl_del_offsets (c : SMap Byte) (lo n : Nat) :
    (List.range n).foldl (fun c i => mapDel c (lo + i)) c = ((List.range n).map (fun i => lo + i)).foldl mapDel c := by
  rw [List.foldl_map]

theorem mem_offsets {lo n a : Nat} : a ∈ (List.range n).map (fun i => lo + i) ↔ lo ≤ a ∧ a < lo + n := by
  simp only [List.mem_map, List.mem_range]
  constructor
  · rintro ⟨i, hi, rfl⟩
    omega
  · intro h
    exact ⟨a - lo, by omega, by omega⟩

/-- Clearing a line's zero bit changes no byte. -/
theorem cellarByte_clearZbit (m : Mem) (l a : Nat) :
    cellarByte (clearZbit m l) a = cellarByte m a := by
  unfold clearZbit
  split
  · rename_i hl
    have hl' : l ∈ m.zbit := by simpa using hl
    unfold cellarByte
    simp only
    rw [foldl_del_offsets, mapGet_foldl_del _ _ _]
    by_cases ha : lineOf a = l
    · have hmem : a ∈ (List.range 128).map (fun i => 128 * l + i) := by
        rw [mem_offsets]
        unfold lineOf at ha
        omega
      rw [if_pos hmem]
      simp [ha, hl']
    · have hmem : a ∉ (List.range 128).map (fun i => 128 * l + i) := by
        rw [mem_offsets]
        unfold lineOf at ha
        omega
      rw [if_neg hmem]
      simp [removeNat, ha]
  · rfl

theorem clearZbit_cellar (m : Mem) (l : Nat) (h : mapWf 0 m.cellar = true) : mapWf 0 (clearZbit m l).cellar = true := by
  unfold clearZbit
  split
  · simp only
    rw [foldl_del_offsets]
    exact mapWf_foldl_del m.cellar _ h
  · exact h

theorem clearZbit_dirty (m : Mem) (l : Nat) : (clearZbit m l).dirty = m.dirty := by
  unfold clearZbit
  split <;> rfl

theorem wf_clearZbit (m : Mem) (l : Nat) (h : m.wf = true) : (clearZbit m l).wf = true := by
  have h' := (Mem.wf_iff m).mp h
  rw [Mem.wf_iff, clearZbit_dirty]
  refine ⟨clearZbit_cellar m l h'.1, h'.2.1, fun e he => ?_⟩
  rw [cellarByte_clearZbit m l e.1]
  exact h'.2.2 e he

theorem wf_cleanByte (m : Mem) (a : Nat) (h : m.wf = true) : (cleanByte m a).wf = true := by
  unfold cleanByte
  split
  · rename_i b hb
    have h' := (Mem.wf_iff m).mp h
    rw [Mem.wf_iff]
    refine ⟨mapWf_set 0 _ _ _ h'.1, mapOrdered_del _ _ h'.2.1, fun e he => ?_⟩
    have hne : e.1 ≠ a := by
      intro hea
      have h1 := mapFind_del_self m.dirty a
      have h2 := mapFind_of_mem _ (mapOrdered_del _ a h'.2.1) (a := e.1) (v := e.2) he
      rw [hea] at h2
      rw [h1] at h2
      simp at h2
    have h3 := h'.2.2 e (mem_mapDel _ _ he)
    unfold cellarByte at h3 ⊢
    simp only at h3 ⊢
    rwa [mapGet_set_ne 0 m.cellar b hne]
  · exact h

theorem wf_writeBackLine (m : Mem) (l : Nat) (h : m.wf = true) : (writeBackLine m l).wf = true := by
  unfold writeBackLine
  split
  · exact wf_foldl _ (fun m i h => wf_cleanByte m _ h) _ _ (wf_clearZbit m l h)
  · exact h

/-- Setting a line's zero bit once its slice bytes are dropped keeps the form. -/
theorem wf_setZbit (m : Mem) (l : Nat) (h : m.wf = true) :
    ({ dropDirty m l with zbit := insertNat (dropDirty m l).zbit l } : Mem).wf = true := by
  have h' := (Mem.wf_iff m).mp h
  rw [dropDirty, keepShadow_eq, Mem.wf_iff]
  refine ⟨h'.1, mapOrdered_keep m.dirty (fun a _ => lineOf a != l) h'.2.1, fun e he => ?_⟩
  have he' := List.mem_filter.mp he
  have h1 := h'.2.2 e he'.1
  have hl : lineOf e.1 ≠ l := by simpa using he'.2
  have hin : ∀ (z : List Nat) (x : Nat), x ≠ l → (insertNat z l).contains x = z.contains x := by
    intro z x hx
    induction z with
    | nil => simp [insertNat, hx]
    | cons y z ih =>
      simp only [insertNat]
      split
      · simp [hx]
      · split
        · rfl
        · simp only [List.contains_cons, ih]
  unfold cellarByte at h1 ⊢
  simp only [hin _ _ hl] at h1 ⊢
  exact h1

/-! ### Local SRAM -/

/-- A write of a team's space changes only the bytes of the local SRAM. -/
theorem sramWrite_eq (bs : List Byte) (s : State) (t : Team) (ob : Bool) (off : Nat) :
    sramWrite s t ob off bs = { s with sram := { s.sram with bytes := (sramWrite s t ob off bs).sram.bytes } } := by
  induction bs generalizing s off with
  | nil => rfl
  | cons b bs ih =>
    rw [sramWrite]
    simp only
    rw [ih]
    split <;> rfl

theorem wf_sramWrite (bs : List Byte) (s : State) (t : Team) (ob : Bool) (off : Nat) (h : s.sram.wf = true) :
    (sramWrite s t ob off bs).sram.wf = true := by
  induction bs generalizing s off with
  | nil => exact h
  | cons b bs ih =>
    rw [sramWrite]
    apply ih
    split
    · exact mapWf_set 0 _ _ _ h
    · exact h

end Sys2Proof.Machine
end

