-- ==== Sys2Proof/Laws/Keep.lean ====
section
/-! SUPPORT. What keeps the invariant Good: each operation that the meanings share gives a state that has it when
    the state
it is given has it. GoodR, GoodC and GoodO say it of the outcomes that carry a state. -/

namespace Sys2Proof.Machine

open Host

/-! ### Good and the outcomes that carry a state -/

theorem mem_of_good {s : State} (h : Good s) : s.mem.wf = true := h.1
theorem sram_of_good {s : State} (h : Good s) : s.sram.wf = true := h.2.1

theorem good_foldl {β : Type} {f : State → β → State} (hf : ∀ s b, Good s → Good (f s b)) (l : List β) {s : State}
    (h : Good s) : Good (l.foldl f s) := by
  induction l generalizing s with
  | nil => exact h
  | cons b l ih => exact ih (hf s b h)

theorem good_foldl_fst {α β : Type} {f : State × α → β → State × α} (hf : ∀ s b, Good s.1 → Good (f s b).1)
    (l : List β)
    {s : State × α} (h : Good s.1) : Good (l.foldl f s).1 := by
  induction l generalizing s with
  | nil => exact h
  | cons b l ih => exact ih (hf s b h)

theorem good_foldl_snd {α β : Type} {f : α × State → β → α × State} (hf : ∀ s b, Good s.2 → Good (f s b).2)
    (l : List β)
    {s : α × State} (h : Good s.2) : Good (l.foldl f s).2 := by
  induction l generalizing s with
  | nil => exact h
  | cons b l ih => exact ih (hf s b h)

/-- Whatever state an outcome gives has the invariant. -/
structure GoodR (r : Result) : Prop where
  out : ∀ t, r = .next t → Good t

theorem goodR_next {s : State} (h : Good s) : GoodR (.next s) := ⟨fun _ e => by cases e; exact h⟩
theorem goodR_fault (e : Fault) : GoodR (.fault e) := ⟨fun _ h => nomatch h⟩
theorem goodR_refused (e : Refusal) : GoodR (.refused e) := ⟨fun _ h => nomatch h⟩

/-- The clock's part of Good. -/
def GoodClk (c : Clk) : Prop := 1000 ≤ c.mhz ∧ c.mhz ≤ 2500 ∧ c.rem < 1000
theorem clk_of_good {s : State} (h : Good s) : GoodClk s.clk := h.2.2
/-- Good of a state written out field by field. -/
theorem good_mk_iff {agenda picks fresh focus clk groups cores teams saved nodes ctxs parts bins mem sram reqs ops
    xfers
    edits out} :
    Good (State.mk agenda picks fresh focus clk groups cores teams saved nodes ctxs parts bins mem sram reqs ops xfers
      edits out) ↔ mem.wf = true ∧ sram.wf = true ∧ GoodClk clk := Iff.rfl
theorem wf_mk {m : Mem} {t p g c tb r lg sw px sh v} (h : m.wf = true) :
    (Mem.mk m.cellar m.dirty t m.zbit p g c tb r lg sw px sh v).wf = true := h
theorem swf_mk {m : Sram} {t p} (h : m.wf = true) : (Sram.mk m.bytes t p).wf = true := h
/-- The same of a control register write. -/
structure GoodC (r : CsrRes) : Prop where
  out : ∀ t, r = .done t → Good t
theorem goodC_done {s : State} (h : Good s) : GoodC (.done s) := ⟨fun _ e => by cases e; exact h⟩
theorem goodC_absent : GoodC .absent := ⟨fun _ h => nomatch h⟩
theorem goodC_later (w : Why) : GoodC (.later w) := ⟨fun _ h => nomatch h⟩
theorem goodC_asleep (b : Nat) : GoodC (.asleep b) := ⟨fun _ h => nomatch h⟩
theorem goodC_refused (c i : Nat) : GoodC (.refused c i) := ⟨fun _ h => nomatch h⟩
/-- The same of an optional state. -/
structure GoodO (r : Option State) : Prop where
  out : ∀ t, r = some t → Good t
theorem goodO_some {s : State} (h : Good s) : GoodO (some s) := ⟨fun _ e => by cases e; exact h⟩
theorem goodO_none : GoodO none := ⟨fun _ h => nomatch h⟩
theorem good_of_done {r : CsrRes} {t : State} (h : GoodC r) (e : r = .done t) : Good t := h.out t e
theorem good_of_some {r : Option State} {t : State} (h : GoodO r) (e : r = some t) : Good t := h.out t e
theorem good_of_next {r : Result} {t : State} (h : GoodR r) (e : r = .next t) : Good t := h.out t e

/-! ### The operations of Machine/Home.lean -/

theorem good_putGroup {s : State} {gid : Nat} {g : Group} (hs : Good s) : Good (putGroup s gid g) := hs

theorem good_putCore {s : State} {c : Nat} {x : Core} (hs : Good s) : Good (putCore s c x) := hs

theorem good_putTeam {s : State} {t : Nat} {x : Team} (hs : Good s) : Good (putTeam s t x) := hs

theorem good_putNode {s : State} {n : Nat} {x : Node} (hs : Good s) : Good (putNode s n x) := hs

theorem good_putCtx {s : State} {k : Nat} {x : Ctx} (hs : Good s) : Good (putCtx s k x) := hs

theorem good_putPart {s : State} {p : Nat} {x : Partition} (hs : Good s) : Good (putPart s p x) := hs

theorem good_putBin {s : State} {b : Nat} {x : Bin} (hs : Good s) : Good (putBin s b x) := hs

theorem good_updGroup {s : State} {gid : Nat} {f : Group → Group} (hs : Good s) : Good (updGroup s gid f) := hs

theorem good_updCore {s : State} {c : Nat} {f : Core → Core} (hs : Good s) : Good (updCore s c f) := hs

theorem good_updTeam {s : State} {t : Nat} {f : Team → Team} (hs : Good s) : Good (updTeam s t f) := hs

theorem good_updNode {s : State} {n : Nat} {f : Node → Node} (hs : Good s) : Good (updNode s n f) := hs

theorem good_updCtx {s : State} {k : Nat} {f : Ctx → Ctx} (hs : Good s) : Good (updCtx s k f) := hs

theorem good_updPart {s : State} {p : Nat} {f : Partition → Partition} (hs : Good s) : Good (updPart s p f) := hs

theorem good_updBin {s : State} {b : Nat} {f : Bin → Bin} (hs : Good s) : Good (updBin s b f) := hs

theorem form_bumpTag {m : Mem} {line : Nat} (hm : m.wf = true) : (bumpTag m line).wf = true := by
  unfold bumpTag
  repeat' (first | with_reducible assumption | fail_if_no_progress (with_reducible apply wf_mk))

theorem form_keepShadow {m : Mem} {line : Nat} (hm : m.wf = true) :
    (keepShadow m line).wf = true := by
  unfold keepShadow
  repeat' (first | with_reducible assumption | fail_if_no_progress (with_reducible apply wf_mk) | split)

theorem form_poisonLine {m : Mem} {line : Nat} (hm : m.wf = true) : (poisonLine m line).wf = true := by
  unfold poisonLine
  repeat' (first | with_reducible assumption | fail_if_no_progress (with_reducible apply wf_mk))

theorem form_cleanLine {m : Mem} {line : Nat} (hm : m.wf = true) : (cleanLine m line).wf = true := by
  unfold cleanLine
  repeat' (first | with_reducible assumption | fail_if_no_progress (with_reducible apply wf_mk))

theorem form_dropCopies {m : Mem} {line : Nat} (hm : m.wf = true) : (dropCopies m line).wf = true := by
  unfold dropCopies
  repeat' (first | with_reducible assumption | fail_if_no_progress (with_reducible apply wf_mk))

theorem good_tlbFill {s : State} {core : Nat} {t : Trans} (hs : Good s) : Good (tlbFill s core t) := hs

theorem good_sramWrite {s : State} {t : Team} {ob : Bool} {off : Nat} {bs : List Byte} (hs : Good s) :
    Good (sramWrite s t ob off bs) := by
  induction bs generalizing s off with
  | nil => exact hs
  | cons b bs ih =>
    unfold sramWrite
    dsimp only
    refine ih ?_
    split
    · exact ⟨hs.1, mapWf_set _ _ _ _ hs.2.1, hs.2.2⟩
    · exact hs

theorem good_setPoison {s : State} {on : Bool} {g : Option Nat} (hs : Good s) : Good (setPoison s on g) := by
  unfold setPoison
  repeat' (first | assumption | split)

theorem good_setLive {s : State} {on : Bool} {g : Option Nat} (hs : Good s) : Good (setLive s on g) := by
  unfold setLive
  repeat' (first | assumption | split)

/-! ### The operations of Machine/Ops.lean -/

theorem good_issuer {s : State} {k : Focus → Group → Result} (_ : Good s) (hk : ∀ a0 a1, GoodR (k a0 a1)) :
    GoodR (issuer s k) := by
  unfold issuer
  repeat' (first | with_reducible exact goodR_fault _ | with_reducible apply hk | split)

theorem good_unfocus {s : State} (hs : Good s) : Good (unfocus s) := hs

theorem good_retired {f : Focus} {g : Group} {s : State} (hs : Good s) : Good (retired f g s) := hs

theorem good_done {f : Focus} {g : Group} {s : State} (hs : Good s) : GoodR (done f g s) := by
  unfold done
  repeat' (first | assumption | with_reducible apply goodR_next)

theorem good_doneIn {f : Focus} {s : State} (hs : Good s) : GoodR (doneIn f s) := by
  unfold doneIn
  repeat' (first | assumption | with_reducible apply goodR_next)

theorem good_doneAt {f : Focus} {g : Group} {s : State} (hs : Good s) : GoodR (doneAt f g s) := by
  unfold doneAt
  repeat' (first | assumption | with_reducible apply goodR_next)

theorem good_waitOn {f : Focus} {why : Why} {s : State} (hs : Good s) : Good (waitOn f why s) := hs

theorem good_waits {f : Focus} {why : Why} {s : State} (hs : Good s) : GoodR (waits f why s) := by
  unfold waits
  repeat' (first | assumption | with_reducible apply goodR_next)

theorem good_sendMsg {s : State} {p : Nat} {m : Msg} (hs : Good s) : Good (sendMsg s p m) := hs

theorem good_askHost {s : State} {k : Nat} {kind : Nat} {va : Nat} {d0 : Nat} (hs : Good s) :
    Good (askHost s k kind va d0) := hs

theorem good_clearFills {s : State} {core : Nat} {p : Req → Bool} (hs : Good s) :
    Good (clearFills s core p) := by
  unfold clearFills
  repeat' assumption

theorem good_dropClean {s : State} {core : Nat} (hs : Good s) : Good (dropClean s core) := hs

theorem good_acquireAt {s : State} {gid : Nat} {sc : Scope} (hs : Good s) : Good (acquireAt s gid sc) := by
  unfold acquireAt
  repeat' (first | assumption | with_reducible apply good_dropClean | with_reducible apply good_foldl | split)

theorem good_elim_acquire {s : State} {gid : Nat} {acq : Option Scope} (hs : Good s) :
    Good (acq.elim s (acquireAt s gid)) := by
  cases acq with
  | none => exact hs
  | some sc => exact good_acquireAt hs

theorem good_elim_wake {s : State} {b : Option Nat} (hs : Good s) : Good (b.elim s (wakeBin s)) := by
  cases b with
  | none => exact hs
  | some _ => exact hs

theorem good_passBlock {s : State} {gid : Nat} {b : Block} {d : Option (BitVec 7 × Word)} (hs : Good s) :
    Good (passBlock s gid b d) := hs

theorem good_wakeCtrw {s : State} (hs : Good s) : Good (wakeCtrw s) := by
  unfold wakeCtrw
  dsimp only
  repeat' (first
    | assumption | with_reducible apply good_acquireAt | with_reducible apply good_foldl | intro _ | split)

theorem good_raiseCtr {s : State} {k : Nat} {die : Nat} {l : Nat} {n : Nat} (hs : Good s) :
    Good (raiseCtr s k die l n) := by
  unfold raiseCtr
  repeat' (first | assumption | with_reducible apply good_wakeCtrw)

theorem good_raiseWin {s : State} {k : Nat} {w : Nat} {n : Nat} (hs : Good s) : Good (raiseWin s k w n) := by
  unfold raiseWin
  repeat' (first | assumption | with_reducible apply good_wakeCtrw)

theorem good_takeFrame {s : State} {k : Nat} (hs : Good s) : Good (takeFrame s k).2 := hs

theorem good_touchBin {s : State} {pa : Nat} (hs : Good s) : Good (touchBin s pa) := hs

theorem good_touchTables {s : State} {k va : Nat} (hs : Good s) : Good (touchTables s k va) :=
  good_foldl (fun _ _ h => good_touchBin h) _ hs

theorem good_wakeBin {s : State} {b : Nat} (hs : Good s) : Good (wakeBin s b) := hs

theorem good_holdBin {s : State} {b : Nat} (hs : Good s) :
    Good (holdBin s b) := by
  unfold holdBin
  repeat' assumption

theorem good_zeroEvent {s : State} {k : Nat} {va : Nat} (hs : Good s) :
    Good (zeroEvent s k va) := by
  unfold zeroEvent
  repeat' (first | assumption | split)

theorem good_settleEvents {p : Nat} {l : List (List Byte)} {s : State} (hs : Good s) : Good (settleEvents p l s) := by
  induction l generalizing s with
  | nil => exact good_updPart hs
  | cons r rest ih =>
    unfold settleEvents
    dsimp only
    split
    · refine ih (good_raiseCtr (good_touchBin (good_updPart ?_)))
      simp only [good_mk_iff]
      have h := good_touchTables (k := 256 * p) (va := bitsOf (partAt s p).sevbase.toNat 5 51 * 32) hs
      exact ⟨wf_homeWrite _ _ _ h.1, h.2⟩
    · exact ih (good_raiseCtr (good_updPart hs))
    · exact good_wakeBin (good_updPart hs)
    · exact good_zeroEvent (good_updPart hs)

theorem good_resumeEvents {s : State} {p : Nat} (hs : Good s) :
    Good (resumeEvents s p) := by
  unfold resumeEvents
  repeat' (first | assumption | with_reducible apply good_settleEvents | split)

theorem good_postEvent {s : State} {k : Nat} {core : Nat} {slot : Nat} {kind : Nat} {cause : Word} {epc : Word}
    (hs : Good s) :
    Good (postEvent s k core slot kind cause epc) := by
  unfold postEvent
  repeat' (first | assumption | with_reducible apply good_settleEvents)

theorem good_postNoGroup {s : State} {k : Nat} {code : Nat} {info : Nat} (hs : Good s) :
    Good (postNoGroup s k code info) := by
  unfold postNoGroup
  repeat' (first | assumption | with_reducible apply good_postEvent)

theorem good_stopGroup {s : State} {gid : Nat} {lanes : LaneMask} {cause : Word} {epc : Word} {cont : Bool}
    (hs : Good s) :
    Good (stopGroup s gid lanes cause epc cont) := by
  unfold stopGroup
  dsimp only
  repeat' (first
    | assumption | with_reducible apply good_updGroup | with_reducible apply good_askHost
    | with_reducible apply good_postEvent | split)

theorem good_takeTrap {s : State} {gid : Nat} {lanes : LaneMask} {code : Nat} {info : Nat} {epc : Word} (hs :
    Good s) :
    Good (takeTrap s gid lanes code info epc) := by
  unfold takeTrap
  dsimp only
  repeat' (first | assumption | with_reducible apply good_stopGroup | split)

theorem good_trapAt {f : Focus} {code : Nat} {info : Nat} {epc : Pc} {s : State} (hs : Good s) :
    Good (trapAt f code info epc s) := by
  unfold trapAt
  repeat' (first | assumption | with_reducible apply good_unfocus | with_reducible apply good_takeTrap | split)

theorem good_trap {f : Focus} {code : Nat} {info : Nat} {s : State} (hs : Good s) : GoodR (trap f code info s) := by
  unfold trap
  repeat' (first | assumption | with_reducible apply goodR_next | with_reducible apply good_trapAt)

theorem good_superTrapAt {f : Focus} {code : Nat} {info : Nat} {epc : Pc} {s : State} (hs : Good s) :
    Good (superTrapAt f code info epc s) := by
  unfold superTrapAt
  repeat' (first | assumption | with_reducible apply good_unfocus | with_reducible apply good_stopGroup | split)

theorem good_superTrap {f : Focus} {code : Nat} {info : Nat} {s : State} (hs : Good s) :
    GoodR (superTrap f code info s) := by
  unfold superTrap
  repeat' (first | assumption | with_reducible apply goodR_next | with_reducible apply good_superTrapAt)

theorem good_latchOrPost {s : State} {gid : Nat} {uid : Nat} {k : Nat} {code : Nat} {info : Nat} (hs : Good s) :
    Good (latchOrPost s gid uid k code info) := by
  unfold latchOrPost
  repeat' (first | assumption | with_reducible apply good_postNoGroup | split)

theorem good_freshId {s : State} (hs : Good s) : Good (freshId s).2 := hs

/-! ### The operations of Machine/Operands.lean -/

theorem good_withRegs {f : Focus} {g : Group} {ns : List (BitVec 7)} {s : State} {k : Result} (hs : Good s)
    (hk : GoodR k) :
    GoodR (withRegs f g ns s k) := by
  unfold withRegs
  repeat' (first | assumption | with_reducible apply good_trap | split)

theorem good_regOp {x : Sel} {fn : Group → Nat → Opnds → Res} {s : State} (hs : Good s) : GoodR (regOp x fn s) := by
  unfold regOp
  repeat' (first
    | assumption | with_reducible apply good_issuer | with_reducible apply good_done
    | with_reducible apply good_withRegs | intro _ | split)

theorem good_predOp {x : Sel} {fn : Group → Nat → Opnds → Bool × Flags} {s : State} (hs : Good s) :
    GoodR (predOp x fn s) := by
  unfold predOp
  repeat' (first
    | assumption | with_reducible apply good_issuer | with_reducible apply good_done
    | with_reducible apply good_withRegs | intro _ | split)

/-! ### The operations of Machine/Access.lean -/

theorem good_postFabric {s : State} {p : Nat} {pa : Nat} {c : Option Nat} (hs : Good s) :
    Good (postFabric s p pa c) := by
  unfold postFabric
  repeat' (first | assumption | with_reducible apply good_postNoGroup | split)

theorem good_reportWalk {f : Focus} {c a : Nat} {s : State} (hs : Good s) : Good (reportWalk f c a s) := by
  unfold reportWalk
  dsimp only
  repeat' (first | assumption | with_reducible apply good_postFabric | split)

theorem good_trapOr {f : Focus} {e : Option (Nat × Nat)} {s : State} {k : Result} (hs : Good s) (hk : GoodR k) :
    GoodR (trapOr f e s k) := by
  unfold trapOr
  repeat' (first
    | assumption | with_reducible apply good_trap | with_reducible apply good_superTrap
    | with_reducible apply good_reportWalk | split)

theorem good_touchWalk {s : State} {core k va : Nat} (hs : Good s) : Good (touchWalk s core k va) := by
  unfold touchWalk
  repeat' (first | assumption | with_reducible apply good_touchTables | split)

theorem good_touchWalks {s : State} {core k : Nat} {l : List (Nat × Nat)} (hs : Good s) : Good (touchWalks s core k l) :=
  good_foldl (fun _ _ h => good_foldl (fun _ _ h => good_touchWalk h) _ h) _ hs

theorem good_withChecks {f : Focus} {l : List (Nat × Nat)} {s : State} {k : Result} (hs : Good s) (hk : GoodR k) :
    GoodR (withChecks f l s k) := by
  unfold withChecks
  exact good_trapOr hs hk

theorem good_withLowest {f : Focus} {l : List (Nat × Nat)} {s : State} {k : Result} (hs : Good s) (hk : GoodR k) :
    GoodR (withLowest f l s k) := good_trapOr hs hk

theorem good_takeFrames {k n : Nat} {s : State} (hs : Good s) : Good (takeFrames s k n).2 := by
  induction n generalizing s with
  | zero => exact hs
  | succ n ih => exact ih (good_takeFrame hs)

theorem good_writeRing {s : State} {k slot frame : Nat} (hs : Good s) : Good (writeRing s k slot frame) := by
  unfold writeRing
  dsimp only
  have hw : ∀ s, Good s → Good (touchBin { s with mem := homeWrite s.mem slot (leBytes 8 frame) } slot) :=
    fun s h => good_touchBin ⟨wf_homeWrite _ _ _ h.1, h.2⟩
  split
  · exact hw _ hs
  · exact hw _ (good_wakeBin hs)
  · exact good_postFabric hs

theorem good_appendFrame {s : State} {k : Nat} {frame : Nat} (hs : Good s) : Good (appendFrame s k frame) := by
  unfold appendFrame
  exact good_updCtx (good_writeRing hs)

theorem good_giveFrame {s : State} {k : Nat} {frame : Nat} (hs : Good s) :
    Good (giveFrame s k frame) := by
  unfold giveFrame
  dsimp only
  repeat' (first | assumption | with_reducible apply good_postNoGroup | with_reducible apply good_appendFrame | split)

theorem good_addReq {s : State} {r : Req} (hs : Good s) : Good (addReq s r) := hs

theorem good_putReq {s : State} {r : Req} (hs : Good s) : Good (putReq s r) := hs

theorem good_dropReq {s : State} {id : Nat} (hs : Good s) : Good (dropReq s id) := hs

theorem good_l1Drop {s : State} {core : Nat} {line : Nat} (hs : Good s) : Good (l1Drop s core line) := hs

theorem good_l1Fill {s : State} {core : Nat} {line : Nat} {gen : BitVec 16} {tag : Nat} {manual shadow : Bool}
    {data : List Byte} (hs : Good s) :
    Good (l1Fill s core line gen tag manual shadow data) := by
  unfold l1Fill
  dsimp only
  repeat' (first | assumption | with_reducible apply good_putCore | split)

theorem good_l1Store {s : State} {core : Nat} {pa : Nat} {gen : BitVec 16} {bs : List Byte} (hs : Good s) :
    Good (l1Store s core pa gen bs) := hs

theorem good_l1Tag {s : State} {core : Nat} {pa : Nat} {gen : BitVec 16} {tag : Nat} (hs : Good s) :
    Good (l1Tag s core pa gen tag) := hs

theorem good_putProxy {s : State} {die : Nat} {c : Copy} (hs : Good s) : Good (putProxy s die c) := by
  unfold putProxy
  repeat' (first
    | simp only [good_mk_iff] | with_reducible apply And.intro | with_reducible apply mem_of_good
    | with_reducible apply sram_of_good | with_reducible apply clk_of_good | with_reducible assumption
    | fail_if_no_progress (with_reducible apply wf_mk))

theorem good_dropProxy {s : State} {die : Nat} {line : Nat} (hs : Good s) : Good (dropProxy s die line) := by
  unfold dropProxy
  repeat' (first
    | simp only [good_mk_iff] | with_reducible apply And.intro | with_reducible apply mem_of_good
    | with_reducible apply sram_of_good | with_reducible apply clk_of_good | with_reducible assumption
    | fail_if_no_progress (with_reducible apply wf_mk))

theorem good_proxyFill {s : State} {die : Nat} {line : Nat} (hs : Good s) : Good (proxyFill s die line).2 := by
  unfold proxyFill
  repeat' (first | assumption | split)

theorem good_drainCopy {s : State} {core : Nat} {x : Copy} (hs : Good s) :
    Good (drainCopy s core x) := by
  unfold drainCopy
  repeat' (first
    | assumption | with_reducible apply good_updCore | with_reducible apply good_putProxy
    | with_reducible apply good_proxyFill | simp only [good_mk_iff] | with_reducible apply And.intro
    | with_reducible apply mem_of_good | with_reducible apply sram_of_good | with_reducible apply clk_of_good
    | split)

theorem good_drainL1 {s : State} {cores : List Nat} (hs : Good s) : Good (drainL1 s cores) := by
  unfold drainL1
  repeat' (first | assumption | with_reducible apply good_drainCopy | with_reducible apply good_foldl | intro _)

theorem good_drainLine {s : State} {cores : List Nat} {line : Nat} (hs : Good s) :
    Good (drainLine s cores line) := by
  unfold drainLine
  repeat' (first
    | assumption | with_reducible apply good_drainCopy | with_reducible apply good_foldl | intro _ | split)

theorem good_endFusion {s : State} {t : Team} (hs : Good s) :
    Good (endFusion s t) := by
  unfold endFusion
  repeat' (first
    | assumption | with_reducible apply good_updCore | with_reducible apply good_clearFills
    | with_reducible apply good_drainL1 | with_reducible apply good_foldl | intro _ | split)

theorem good_manualLine {s : State} {core : Nat} {l1 : Nat} {line : Nat} (hs : Good s) :
    Good (manualLine s core l1 line).2 := by
  unfold manualLine
  repeat' (first | assumption | with_reducible apply good_proxyFill | split)

theorem form_mergeHome {m : Mem} {line : Nat} {data : List Byte} {mask : BitVec 128} {poison : Bool} {whole :
    Bool} (hm : m.wf = true) :
    (mergeHome m line data mask poison whole).wf = true := by
  unfold mergeHome
  repeat' (first
    | with_reducible apply wf_homePut | with_reducible apply form_bumpTag | with_reducible apply form_keepShadow
    | with_reducible apply form_poisonLine | with_reducible apply form_cleanLine | with_reducible apply wf_foldl
    | with_reducible assumption | intro _ | split)

theorem good_cleanProxy {s : State} {die : Nat} {line : Nat} (hs : Good s) :
    Good (cleanProxy s die line) := by
  unfold cleanProxy
  try dsimp only
  repeat' (first
    | assumption | with_reducible apply goodR_next | with_reducible exact goodR_fault _
    | with_reducible exact goodR_refused _ | with_reducible apply good_putProxy
    | with_reducible apply form_mergeHome | with_reducible apply good_foldl | with_reducible apply good_foldl_fst
    | with_reducible apply good_foldl_snd | simp only [good_mk_iff] | with_reducible apply And.intro
    | with_reducible apply mem_of_good | with_reducible apply sram_of_good | with_reducible apply clk_of_good
    | with_reducible apply wf_foldl | with_reducible assumption | with_reducible apply wf_setZbit
    | fail_if_no_progress (with_reducible apply wf_mk) | intro _ | split)

theorem good_reserveZero {s : State} {f : Focus} {g : Group} {k : Nat} {pages : List Nat} (hs : Good s) :
    Good (reserveZero s f g k pages) := by
  unfold reserveZero
  repeat' (first | assumption | with_reducible apply good_foldl | intro _)

/-! ### The operations of Machine/View.lean -/

theorem good_holdView {s : State} {l : ViewLine} (hs : Good s) :
    Good (holdView s l) := by
  unfold holdView
  repeat' (first
    | with_reducible apply good_touchBin | with_reducible apply good_foldl | simp only [good_mk_iff]
    | with_reducible apply And.intro | with_reducible apply mem_of_good | with_reducible apply sram_of_good
    | with_reducible apply clk_of_good | with_reducible assumption
    | fail_if_no_progress (with_reducible apply wf_mk) | intro _)

theorem good_viewGet {s : State} {p : Nat} {w : Nat} {v : Nat} (hs : Good s) :
    Good (viewGet s p w v).2 := by
  unfold viewGet
  repeat' (first | assumption | with_reducible apply good_postNoGroup | with_reducible apply good_holdView | split)

/-! ### The operations of Machine/Tables.lean -/

theorem good_Work_take {w : Work} {k : Nat} (hw : Good w.s) : Good (w.take k).2.s := by
  unfold Work.take
  split
  · rename_i a rest _
    have h := wf_zeroFill w.s.mem (a / 65536) hw.1
    simp only [good_mk_iff]
    exact ⟨h, hw.2⟩
  · have h := good_takeFrame (k := k) hw
    have h2 := wf_zeroFill (takeFrame w.s k).2.mem ((takeFrame w.s k).1 / 65536) h.1
    simp only [good_mk_iff]
    exact ⟨h2, h.2⟩

theorem good_Work_table {w : Work} {k : Nat} {level : Nat} (hw : Good w.s) : Good (Work.table w k level).2.s := by
  unfold Work.table
  repeat' (first
    | with_reducible apply good_updCtx | with_reducible apply good_Work_take | simp only [good_mk_iff]
    | with_reducible apply And.intro | with_reducible apply mem_of_good | with_reducible apply sram_of_good
    | with_reducible apply clk_of_good | with_reducible assumption
    | fail_if_no_progress (with_reducible apply wf_mk) | split)

theorem good_writeEntry {s : State} {slot : Nat} {e : Nat} (hs : Good s) : Good (writeEntry s slot e) := by
  unfold writeEntry
  repeat' (first
    | with_reducible apply wf_homeWrite | simp only [good_mk_iff] | with_reducible apply And.intro
    | with_reducible apply mem_of_good | with_reducible apply sram_of_good | with_reducible apply clk_of_good
    | with_reducible assumption)

theorem good_Work_descend {k va target level table : Nat} {w : Work} (hw : Good w.s) :
    Good (Work.descend k va target level table w).2.s := by
  induction level generalizing table w with
  | zero => exact hw
  | succ level ih =>
    unfold Work.descend
    dsimp only
    repeat' (first
      | assumption | with_reducible apply ih | with_reducible apply good_foldl
      | with_reducible apply good_writeEntry | with_reducible apply good_Work_table | split | intro _)

theorem good_Work_setEntry {w : Work} {k : Nat} {va : Nat} {level : Nat} {e : Nat} (hw : Good w.s) :
    Good (Work.setEntry w k va level e).s := by
  unfold Work.setEntry
  dsimp only
  split
  · exact hw
  repeat' (first | assumption | with_reducible apply good_writeEntry | with_reducible apply good_Work_descend)

theorem form_setGen {m : Mem} {fr : Nat} {g : BitVec 16} (hm : m.wf = true) :
    (setGen m fr g).wf = true := by
  unfold setGen
  repeat' (first | with_reducible assumption | fail_if_no_progress (with_reducible apply wf_mk))

theorem form_bumpGen {m : Mem} {fr : Nat} (hm : m.wf = true) :
    (bumpGen m fr).wf = true := by
  unfold bumpGen
  repeat' (first | with_reducible apply form_setGen | with_reducible assumption)

theorem form_countLarge {m : Mem} {lost : List Nat} {gained : List Nat} (hm : m.wf = true) :
    (countLarge m lost gained).wf = true := by
  unfold countLarge
  repeat' (first | with_reducible assumption | fail_if_no_progress (with_reducible apply wf_mk))

theorem form_bumpFrames {old m : Mem} {frames blocks : List Nat} (hm : m.wf = true) :
    (bumpFrames old m frames blocks).wf = true := by
  unfold bumpFrames
  dsimp only
  repeat' (first
    | with_reducible apply form_setGen | with_reducible apply form_bumpGen | with_reducible apply wf_foldl
    | with_reducible assumption | intro _ | split)

theorem form_countGain {k : Nat} {m : Mem} {c : Nat × Nat × Nat} (hm : m.wf = true) : (countGain k m c).wf = true := by
  unfold countGain
  repeat' (first | with_reducible assumption | fail_if_no_progress (with_reducible apply wf_mk) | split)

theorem form_countLoss {k : Nat} {m : Mem} {c : Nat × Nat × Nat} (hm : m.wf = true) :
    (countLoss k m c).wf = true := by
  unfold countLoss
  repeat' (first | with_reducible assumption | fail_if_no_progress (with_reducible apply wf_mk) | split)

theorem good_Work_writeAll {w : Work} {k : Nat} {cs : List Chg} (hw : Good w.s) : Good (w.writeAll k cs).s := by
  unfold Work.writeAll
  induction cs generalizing w with
  | nil => exact hw
  | cons c cs ih =>
    rw [List.foldl_cons]
    apply ih
    split
    · exact hw
    · exact good_Work_setEntry hw

theorem good_dropTlb {s : State} {core : Nat} {k : Nat} {ranges : List (Nat × Nat)} (hs : Good s) :
    Good (dropTlb s core k ranges) := hs

theorem good_dropTlbEvery {s : State} {k : Nat} {ranges : List (Nat × Nat)} (hs : Good s) :
    Good (dropTlbEvery s k ranges) := good_foldl (fun _ _ h => good_dropTlb h) _ hs

theorem good_dropTlbAll {s : State} {k : Nat} (hs : Good s) : Good (dropTlbAll s k) := hs

theorem form_countShadow {m : Mem} {up : Bool} {e : Nat} (hm : m.wf = true) :
    (countShadow m up e).wf = true := by
  unfold countShadow
  repeat' (first | with_reducible assumption | fail_if_no_progress (with_reducible apply wf_mk) | split)

theorem good_commitChanges {w : Work} {k : Nat} {attrs : Bool} {cs : List Chg} (hw : Good w.s) :
    Good (commitChanges w k attrs cs).s := by
  unfold commitChanges
  repeat' (first
    | with_reducible apply form_countLarge | with_reducible apply form_bumpFrames | with_reducible apply form_countGain
    | with_reducible apply form_countLoss | with_reducible apply good_Work_writeAll
    | with_reducible apply good_dropTlbAll | with_reducible apply form_countShadow | simp only [good_mk_iff]
    | with_reducible apply And.intro | with_reducible apply mem_of_good | with_reducible apply sram_of_good
    | with_reducible apply clk_of_good | with_reducible apply wf_foldl | with_reducible assumption | intro _ | split)

theorem good_commitZero {w : Work} {k : Nat} {va : Nat} (hw : Good w.s) :
    Good (commitZero w k va).s := by
  unfold commitZero
  repeat' (first | assumption | with_reducible apply good_Work_take | with_reducible apply good_commitChanges | split)

theorem good_returnFrames {w : Work} {k : Nat} (hw : Good w.s) :
    Good (returnFrames w k) := by
  unfold returnFrames
  repeat' (first | assumption | with_reducible apply good_giveFrame | with_reducible apply good_foldl | intro _)

/-! ### The operations of Machine/Move.lean -/

theorem form_markLines {m : Mem} {pa : Nat} {bs : List PByte} (hm : m.wf = true) : (markLines m pa bs).wf = true := by
  unfold markLines
  dsimp only
  repeat' (first
    | with_reducible apply form_poisonLine | with_reducible apply form_cleanLine | with_reducible apply wf_foldl
    | with_reducible assumption | intro _ | split)

theorem good_writeFrame {s : State} {p : Nat} {pa : Nat} {bs : List PByte} (hs : Good s) :
    Good (writeFrame s p pa bs) := by
  unfold writeFrame
  repeat' (first
    | with_reducible apply wf_homeWrite | with_reducible apply good_touchBin | with_reducible apply good_postFabric
    | with_reducible apply form_markLines | simp only [good_mk_iff] | with_reducible apply And.intro
    | with_reducible apply mem_of_good | with_reducible apply sram_of_good | with_reducible apply clk_of_good
    | with_reducible assumption | split)

theorem good_readView {s : State} {p pa n : Nat} (hs : Good s) : Good (readView s p pa n).2 := by
  induction n generalizing s pa with
  | zero => exact hs
  | succ n ih =>
    unfold readView
    dsimp only
    repeat' (first | assumption | with_reducible apply ih | with_reducible apply good_viewGet)

theorem good_readPiece {s : State} {k : Nat} {t : Trans} {va : Nat} {n : Nat} (hs : Good s) :
    Good (readPiece s k t va n).2 := by
  unfold readPiece
  dsimp only
  have h := good_touchTables (k := k) (va := va) hs
  repeat' (first
    | assumption | with_reducible apply good_touchBin | with_reducible apply good_postFabric
    | with_reducible apply good_readView | split)

theorem good_writePiece {s : State} {k : Nat} {va : Nat} {bs : List PByte} (hs : Good s) :
    Good (writePiece s k va bs) := by
  unfold writePiece
  dsimp only
  have h := good_touchTables (k := k) (va := va) hs
  repeat' (first | assumption | with_reducible apply good_dropTlbEvery | with_reducible apply good_commitZero | with_reducible apply good_writeFrame | split)

theorem good_withFrames {s : State} {k : Nat} {vas : List Nat} {r : Result} (hs : Good s) (hr : GoodR r) :
    GoodR (withFrames s k vas r) := by
  unfold withFrames
  dsimp only
  repeat' (first
    | assumption | with_reducible apply goodR_next | with_reducible exact goodR_fault _
    | with_reducible apply good_postNoGroup | split)

theorem good_whenAwake {s : State} {bins : List Nat} {k : Result} (hs : Good s) (hk : GoodR k) :
    GoodR (whenAwake s bins k) := by
  unfold whenAwake
  repeat' (first
    | assumption | with_reducible apply goodR_next | with_reducible exact goodR_fault _
    | with_reducible apply good_wakeBin | with_reducible apply good_foldl | split)

/-! ### The operations of Machine/Memory.lean -/

theorem good_ordered {f : Focus} {g : Group} {accs : List Acc} {n : Nat} {rel : Option Scope} {s : State}
    {k : State → Result} (hs : Good s) (hk : ∀ s, Good s → GoodR (k s)) :
    GoodR (ordered f g accs n rel s k) := by
  unfold ordered
  repeat' (first
    | assumption | with_reducible apply good_waits | with_reducible apply good_drainL1 | with_reducible apply hk
    | split)

theorem good_startFL {f : Focus} {g : Group} {s : State} {p : Pend} (hs : Good s) : GoodR (startFL f g s p) := by
  unfold startFL
  repeat' (first | assumption | with_reducible apply goodR_next)

theorem good_addLoad {s : State} {f : Focus} {g : Group} {pend : Nat} {n : Nat} {acq shared : Bool} {a : Acc} {t :
    Trans} (hs : Good s) :
    Good (addLoad s f g pend n acq shared a t) := by
  unfold addLoad
  dsimp only
  repeat' (first | assumption | split)

theorem good_addConst {s : State} {f : Focus} {g : Group} {pend : Nat} {n : Nat} {shared : Bool} {a : Acc} {t : Trans}
    (hs : Good s) : Good (addConst s f g pend n shared a t) := by
  unfold addConst
  dsimp only
  repeat' (first | assumption | split)

theorem good_fillTlb {s : State} {core : Nat} {l : List (Acc × Trans)} (hs : Good s) : Good (fillTlb s core l) := by
  unfold fillTlb
  repeat' (first | assumption | with_reducible apply good_tlbFill | with_reducible apply good_touchWalk | with_reducible apply good_foldl | intro _)

theorem good_loadOp {const : Bool} {x : MArgs} {s : State} (hs : Good s) : GoodR (loadOp const x s) := by
  unfold loadOp
  repeat' (first
    | assumption | with_reducible apply good_issuer | with_reducible apply good_acquireAt
    | with_reducible apply good_withRegs | with_reducible apply good_withChecks | with_reducible apply good_ordered
    | with_reducible apply good_startFL | with_reducible apply good_addLoad | with_reducible apply good_addConst
    | with_reducible apply good_fillTlb | with_reducible apply good_foldl | simp only [good_mk_iff]
    | with_reducible apply And.intro | with_reducible apply mem_of_good | with_reducible apply sram_of_good
    | with_reducible apply clk_of_good | intro _ | split)

theorem good_addStore {s : State} {f : Focus} {g : Group} {n : Nat} {rel : Bool} {iid : Nat} {cover : Nat} {bs :
    List Byte} {a : Acc} {t : Trans} (hs : Good s) :
    Good (addStore s f g n rel iid cover bs a t) := by
  unfold addStore
  repeat' (first | assumption | with_reducible apply good_addReq | split)

theorem good_withZeroFrames {f : Focus} {g : Group} {l : List (Acc × Trans)} {s : State} {k : State → Result}
    (hs : Good s) (hk : ∀ s, Good s → GoodR (k s)) :
    GoodR (withZeroFrames f g l s k) := by
  unfold withZeroFrames
  dsimp only
  repeat' (first
    | assumption | with_reducible apply good_waits | with_reducible apply good_wakeBin | with_reducible apply good_superTrap | with_reducible apply good_reserveZero
    | with_reducible apply hk | split)

theorem good_cleanCovered {s : State} {n : Nat} {l : List SramRef} (hs : Good s) : Good (cleanCovered s n l) := by
  unfold cleanCovered
  dsimp only
  repeat' (first
    | assumption | with_reducible apply good_setPoison | with_reducible apply good_foldl | intro _ | split)

theorem good_rangeOp {inv : Bool} {x : MArgs} {s : State} (hs : Good s) : GoodR (rangeOp inv x s) := by
  unfold rangeOp
  dsimp only
  repeat' (first
    | assumption | with_reducible apply good_trapOr | with_reducible apply good_touchWalks | with_reducible apply good_addReq
    | with_reducible apply good_acquireAt | with_reducible apply good_elim_acquire | with_reducible apply good_issuer | with_reducible apply good_done
    | with_reducible apply good_waits | with_reducible apply good_trap | with_reducible apply good_superTrap
    | with_reducible apply good_dropProxy | with_reducible apply good_drainCopy | with_reducible apply good_wbReq
    | with_reducible apply good_ordered | with_reducible apply good_foldl | intro _ | split)

theorem good_xferOp {isGet : Bool} {x : MArgs} {s : State} (hs : Good s) : GoodR (xferOp isGet x s) := by
  unfold xferOp
  dsimp only
  repeat' (first
    | assumption | with_reducible apply good_ordered | with_reducible apply good_trapOr | with_reducible apply good_touchWalks
    | simp only [good_mk_iff] | with_reducible apply good_issuer | with_reducible apply good_done
    | with_reducible apply good_waits | with_reducible apply good_trap | with_reducible apply good_superTrap
    | with_reducible apply good_drainL1 | simp only | with_reducible apply And.intro
    | with_reducible apply mem_of_good | with_reducible apply sram_of_good | with_reducible apply clk_of_good
    | intro _)

/-! ### The operations of Machine/Control.lean -/

theorem good_jumpOp {x : R3L} {s : State} (hs : Good s) : GoodR (jumpOp x s) := by
  unfold jumpOp
  repeat' (first
    | assumption | with_reducible apply good_issuer | with_reducible apply good_doneAt
    | with_reducible apply good_trap | with_reducible apply good_withRegs | intro _ | split)

theorem good_goOn {s : State} (hs : Good s) : GoodR (goOn s) := by
  unfold goOn
  repeat' (first | assumption | with_reducible apply good_issuer | with_reducible apply good_doneAt | intro _)

theorem good_releaseBarriers {n gid : Nat} {s : State} (hs : Good s) : Good (releaseBarriers n gid s) := by
  induction n generalizing s with
  | zero => exact hs
  | succ n ih =>
    unfold releaseBarriers
    dsimp only
    repeat' (first
      | assumption
      | with_reducible apply ih
      | with_reducible apply good_foldl
      | with_reducible apply good_putGroup
      | with_reducible apply good_passBlock
      | split
      | intro _)

theorem good_trapNext {f : Focus} {code : Nat} {info : Nat} {sup : Bool} {s : State} (hs : Good s) :
    GoodR (trapNext f code info sup s) := by
  unfold trapNext
  dsimp only
  repeat' (first
    | assumption | with_reducible apply goodR_next | with_reducible apply good_trapAt
    | with_reducible apply good_trap | with_reducible apply good_superTrapAt | split)

/-! ### The operations of Machine/CrossLane.lean -/

theorem good_crossOp {x : XArgs} {names : List (BitVec 7)} {fn : Group → Nat → Word × Bool × Flags} {s : State}
    (hs : Good s) :
    GoodR (crossOp x names fn s) := by
  unfold crossOp
  repeat' (first
    | assumption | with_reducible apply good_issuer | with_reducible apply good_done
    | with_reducible apply good_withRegs | intro _)

/-! ### The operations of Machine/Requests.lean -/

theorem good_refuse {s : State} {r : Req} (hs : Good s) : Good (refuse s r) := by
  unfold refuse
  dsimp only
  repeat' (first | assumption | split)

theorem good_answer {s : State} {r : Req} {data : List Byte} {poison : Bool} {tag : Nat} {fill : Bool} (hs : Good s) :
    Good (answer s r data poison tag fill) := by
  unfold answer
  dsimp only
  repeat' (first | assumption | with_reducible apply good_l1Fill | split)

theorem good_dropWrite {s : State} {r : Req} (hs : Good s) : Good (dropWrite s r) := hs

theorem good_homeLoad {s : State} {r : Req} (hs : Good s) : Good (homeLoad s r) := by
  unfold homeLoad
  repeat' (first
    | with_reducible apply good_touchBin | with_reducible apply good_answer | simp only
    | with_reducible apply And.intro | with_reducible apply mem_of_good | with_reducible apply sram_of_good
    | with_reducible apply clk_of_good | with_reducible assumption
    | fail_if_no_progress (with_reducible apply wf_mk) | split)

theorem good_homeStore {s : State} {r : Req} {bs : List Byte} (hs : Good s) :
    Good (homeStore s r bs) := by
  unfold homeStore
  have hf : ∀ (l : List Nat) (s : State), Good s → Good (l.foldl (fun s c => l1Drop s c (lineOf r.pa)) s) :=
    fun l s h => good_foldl (fun _ _ h => good_l1Drop h) l h
  repeat' (first
    | with_reducible apply hf | with_reducible apply wf_homeWrite | with_reducible apply form_cleanLine | with_reducible apply good_touchBin
    | with_reducible apply good_putReq | with_reducible apply good_l1Drop | simp only [good_mk_iff]
    | with_reducible apply And.intro | with_reducible apply mem_of_good | with_reducible apply sram_of_good
    | with_reducible apply clk_of_good | with_reducible assumption | split)

theorem good_homeAtom {s : State} {r : Req} {op : Nat} {ty : Ty} {b : Word} {c : Word} (hs : Good s) :
    Good (homeAtom s r op ty b c) := by
  unfold homeAtom
  repeat' (first
    | with_reducible apply wf_homeWrite | with_reducible apply good_putReq | with_reducible apply good_touchBin
    | simp only [good_mk_iff] | with_reducible apply And.intro | with_reducible apply mem_of_good
    | with_reducible apply sram_of_good | with_reducible apply clk_of_good | with_reducible assumption | split)

theorem good_manualStore {s : State} {r : Req} {bs : List Byte} (hs : Good s) : Good (manualStore s r bs) := by
  unfold manualStore
  repeat' (first
    | assumption | with_reducible apply good_l1Drop | with_reducible apply good_drainCopy | with_reducible apply good_updCore | with_reducible apply good_putReq
    | with_reducible apply good_proxyFill | split)

theorem good_rangeLine {s : State} {r : Req} {inv : Bool} (hs : Good s) :
    Good (rangeLine s r inv) := by
  unfold rangeLine
  repeat' (first
    | assumption | with_reducible apply good_dropProxy | with_reducible apply good_drainLine
    | with_reducible apply good_cleanProxy | with_reducible apply good_foldl | intro _ | split)

theorem good_performReq {s : State} {r : Req} (hs : Good s) :
    Good (performReq s r) := by
  unfold performReq
  repeat' (first
    | assumption | with_reducible apply good_elim_acquire | with_reducible apply good_touchBin | with_reducible apply good_putReq
    | with_reducible apply good_manualLine | with_reducible apply good_answer | with_reducible apply good_homeLoad
    | with_reducible apply good_homeStore | with_reducible apply good_homeAtom
    | with_reducible apply good_manualStore | with_reducible apply good_rangeLine | split)

theorem good_deadReq {s : State} {r : Req} {c : Nat} (hs : Good s) :
    Good (deadReq s r c) := by
  unfold deadReq
  repeat' (first
    | assumption | with_reducible apply good_putReq | with_reducible apply good_l1Drop
    | with_reducible apply good_postFabric | with_reducible apply good_answer | with_reducible apply good_dropWrite
    | split)

theorem good_failReq {s : State} {r : Req} {c : Nat} (hs : Good s) :
    Good (failReq s r c) := by
  unfold failReq
  dsimp only
  repeat' (first
    | assumption | with_reducible apply good_updGroup | with_reducible apply good_postNoGroup
    | with_reducible apply good_latchOrPost | with_reducible apply good_foldl | intro _ | split)

theorem good_reissue {s : State} {r : Req} {t : Trans} (hs : Good s) : Good (reissue s r t) := by
  unfold reissue
  extract_lets s1 s2 q s3 s4 f
  have h3 : Good s3 := good_putReq (good_tlbFill (good_dropTlb hs))
  have h4 : Good s4 := by
    show Good (match r.kind with
      | .store bs => if showsAtCore q = true then l1Store s3 (reqL1 s3 q) q.pa q.gen bs else s3
      | _ => s3)
    split
    · split
      · exact good_l1Store h3
      · exact h3
    · exact h3
  split
  · exact good_reserveZero h4
  · exact h4

theorem good_releaseHeld {s : State} {gid : Nat} {uid : Nat} (hs : Good s) : Good (releaseHeld s gid uid) := hs

theorem good_fillFrom {s : State} {r : Req} (hs : Good s) :
    Good (fillFrom s r) := by
  unfold fillFrom
  dsimp only
  repeat' (first | assumption | with_reducible apply good_updCore | with_reducible apply good_l1Drop | with_reducible apply good_clearFills | with_reducible apply good_l1Fill | split)

theorem good_finishPend {s : State} {gid : Nat} {p : Pend} {vals : List (Nat × Word)} {fault : Option (Nat × Nat)}
    (hs : Good s) :
    Good (finishPend s gid p vals fault) := by
  unfold finishPend
  repeat' (first | assumption | with_reducible apply good_acquireAt | split)

theorem good_l1Atom {s : State} {r : Req} (hs : Good s) : Good (l1Atom s r) := by
  unfold l1Atom
  repeat' (first | assumption | split)

/-! ### The operations of Machine/Rename.lean -/

theorem good_editOp {sc : Scope} {plan : Group → Plan} {early : Group → Bool} {s : State} (hs : Good s) :
    GoodR (editOp sc plan early s) := by
  unfold editOp
  repeat' (first
    | assumption | with_reducible apply good_wakeBin | with_reducible apply good_reportWalk
    | with_reducible apply good_touchWalks | with_reducible apply good_issuer | with_reducible apply good_done
    | with_reducible apply good_waits | with_reducible apply good_trap | with_reducible apply good_superTrap
    | with_reducible apply good_takeFrames | simp only [good_mk_iff] | with_reducible apply And.intro
    | with_reducible apply mem_of_good | with_reducible apply sram_of_good | with_reducible apply clk_of_good
    | intro _ | split)

theorem good_remainder {s : State} {k : Nat} {op : EditOp} {fresh : Nat} (hs : Good s) :
    Good (remainder s k op fresh) := by
  unfold remainder
  repeat' (first
    | assumption | with_reducible apply good_writeFrame | with_reducible apply good_readPiece
    | with_reducible apply good_writePiece | split)

theorem good_dropLines {s : State} {k : Nat} {op : EditOp} (hs : Good s) : Good (dropLines s k op) := by
  unfold dropLines
  repeat' (first
    | with_reducible apply wf_dropDirty | with_reducible apply form_dropCopies | with_reducible apply good_foldl
    | simp only [good_mk_iff] | with_reducible apply And.intro | with_reducible apply mem_of_good
    | with_reducible apply sram_of_good | with_reducible apply clk_of_good | with_reducible assumption | intro _
    | split)

theorem good_takePages {old s : State} {k : Nat} {va : Nat} {size : Nat} {leaf : Nat} (hs : Good s) :
    Good (takePages old s k va size leaf) := by
  unfold takePages
  repeat' (first
    | with_reducible apply wf_homeWrite | with_reducible apply good_foldl | simp only [good_mk_iff]
    | with_reducible apply And.intro | with_reducible apply mem_of_good | with_reducible apply sram_of_good
    | with_reducible apply clk_of_good | with_reducible assumption | intro _ | split)

theorem good_returnPage {s : State} {k : Nat} {x : Nat × Nat × Nat} (hs : Good s) :
    Good (returnPage s k x) := by
  unfold returnPage
  repeat' (first
    | with_reducible apply good_updPart | with_reducible apply good_askHost | simp only [good_mk_iff]
    | with_reducible apply And.intro | with_reducible apply mem_of_good | with_reducible apply sram_of_good
    | with_reducible apply clk_of_good | with_reducible assumption
    | fail_if_no_progress (with_reducible apply wf_mk))

theorem good_commitEdit {s : State} {e : Edit} (hs : Good s) : Good (commitEdit s e) := by
  unfold commitEdit
  extract_lets k w q w0 w1 s1 t
  have h0 : Good w0.s := by
    show Good (if cutsPage e.op = true then w.take k else (0, w)).2.s
    split
    · exact good_Work_take hs
    · exact hs
  have h1 : Good w1.s := by
    show Good (match editCopy e.op with
      | some (_, _, .inl va) => commitZero w0 k va
      | _ => w0).s
    split
    · exact good_commitZero h0
    · exact h0
  have h2 : Good s1 := good_dropLines (good_remainder h1)
  have h3 : Good t := good_returnFrames (good_commitChanges (w := ⟨s1, w1.avail⟩) h2)
  split
  · exact good_takePages h3
  · exact h3

theorem good_putEdit {s : State} {e : Edit} (hs : Good s) : Good (putEdit s e) := hs

theorem good_dropEdit {s : State} {id : Nat} (hs : Good s) : Good (dropEdit s id) := hs

theorem good_dropFrame {s : State} {frame : Nat} (hs : Good s) : Good (dropFrame s frame) := by
  unfold dropFrame
  simp only [good_mk_iff]
  exact ⟨wf_dirty_keep s.mem _ hs.1, hs.2⟩

/-! ### The operations of Machine/Tx.lean -/

theorem good_txWrite {s : State} {r : SramRef} {w : TxWord} (hs : Good s) : Good (txWrite s r w) := by
  unfold txWrite
  repeat' (first | assumption | with_reducible apply good_sramWrite)

theorem good_wakeTx {s : State} {r : SramRef} (hs : Good s) : Good (wakeTx s r) := by
  unfold wakeTx
  dsimp only
  repeat' (first
    | assumption | with_reducible apply good_acquireAt | with_reducible apply good_foldl | intro _ | split)

theorem good_trapWaiters {s : State} {r : SramRef} {code : Nat} (hs : Good s) : Good (trapWaiters s r code) := by
  unfold trapWaiters
  repeat' (first | assumption | with_reducible apply good_foldl | intro _)

theorem good_txArriveAt {s : State} {r : SramRef} {n : Nat} {bits : Nat} {flags : Nat} (hs : Good s) :
    Good (txArriveAt s r n bits flags).1 := by
  unfold txArriveAt
  dsimp only
  repeat' (first
    | assumption | with_reducible apply good_txWrite | with_reducible apply good_wakeTx
    | with_reducible apply good_trapWaiters | split)

theorem good_txAsk {wait : Bool} {x : R3L} {s : State} (hs : Good s) : GoodR (txAsk wait x s) := by
  unfold txAsk
  dsimp only
  repeat' (first
    | assumption | with_reducible apply good_issuer | with_reducible apply good_done
    | with_reducible apply good_waits | with_reducible apply good_acquireAt | with_reducible apply good_trap
    | with_reducible apply good_ordered | intro _ | split)

/-! ### The operations of Machine/Engines.lean -/

theorem good_bumpInfl {s : State} {tx : Option Nat} {teams : List Nat} {up : Bool} (hs : Good s) :
    Good (bumpInfl s tx teams up) := by
  unfold bumpInfl
  repeat' (first | assumption | with_reducible apply good_txWrite | with_reducible apply good_foldl | intro _ | split)

theorem good_startOp {s : State} {o : EngOp} {locks : List Lock} {lanes : LaneMask} (hs : Good s) :
    Good (startOp s o locks lanes) := by
  unfold startOp
  repeat' (first | assumption | with_reducible apply good_bumpInfl)

theorem good_engineOp {press : Bool} {plan : State → Focus → Group → EngPlan} {s : State} (hs : Good s) :
    GoodR (engineOp press plan s) := by
  unfold engineOp
  dsimp only
  repeat' (first
    | assumption | with_reducible apply good_elim_wake | with_reducible apply good_withLowest
    | with_reducible apply good_touchWalks | with_reducible apply good_wakeBin | with_reducible apply good_issuer | with_reducible apply good_doneIn
    | with_reducible apply good_waits | with_reducible apply good_withChecks | with_reducible apply good_startOp
    | with_reducible apply good_foldl | intro _ | split)

theorem good_readLocs {s : State} {k : Nat} {l : List Loc} (hs : Good s) :
    Good (readLocs s k l) := by
  unfold readLocs
  repeat' (first | assumption | with_reducible apply good_postNoGroup | with_reducible apply good_foldl | intro _)

theorem good_writeSram {s : State} {team : Nat} {bs : List (Nat × PByte)} (hs : Good s) :
    Good (writeSram s team bs) := by
  unfold writeSram
  dsimp only
  repeat' (first
    | assumption | with_reducible apply good_sramWrite | with_reducible apply good_setPoison
    | with_reducible apply good_foldl | intro _ | split)

theorem good_putOp {s : State} {o : EngOp} (hs : Good s) : Good (putOp s o) := hs

theorem good_dropOp {s : State} {id : Nat} (hs : Good s) : Good (dropOp s id) := hs

theorem good_failOp {s : State} {o : EngOp} {info : Nat} (hs : Good s) : Good (failOp s o info) := by
  unfold failOp
  repeat' (first | assumption | with_reducible apply good_latchOrPost)

theorem good_arrivePart {s : State} {o : EngOp} {team : Nat} {n : Nat} {chunk : Option Nat} {flags : Nat}
    (hs : Good s) :
    Good (arrivePart s o team n chunk flags) := by
  unfold arrivePart
  dsimp only
  repeat' (first | assumption | with_reducible apply good_latchOrPost | with_reducible apply good_txArriveAt | split)

theorem good_reapTeams {s : State} (hs : Good s) : Good (reapTeams s) := hs

theorem good_endOp {s : State} {o : EngOp} (hs : Good s) : Good (endOp s o) := by
  unfold endOp
  repeat' (first | assumption | with_reducible apply good_bumpInfl | with_reducible apply good_reapTeams)

theorem good_ueLeave {s : State} {p : Nat} {q : Nat} {xfer : Nat} {win : Nat} {pkts : List (Nat × List Byte)}
    (hs : Good s) :
    Good (ueLeave s p q xfer win pkts) := by
  unfold ueLeave
  repeat' assumption

/-! ### The operations of Machine/Links.lean -/

theorem good_putPort {s : State} {i : Nat} {p : Port} (hs : Good s) : Good (putPort s i p) := hs

theorem good_updPort {s : State} {i : Nat} {f : Port → Port} (hs : Good s) : Good (updPort s i f) := hs

theorem good_sendOn {s : State} {i : Nat} {f : Flit} (hs : Good s) : Good (sendOn s i f) := hs

theorem good_sendSpread {s : State} {fs : List Flit} (hs : Good s) : Good (sendSpread s fs) := by
  unfold sendSpread
  repeat' (first | assumption | with_reducible apply good_foldl_fst | intro _ | split)

theorem good_receive {s : State} {i : Nat} {typ : BitVec 8} {f : Flit} {k : State → State} (hs : Good s)
    (hk : ∀ s, Good s → Good (k s)) :
    GoodR (receive s i typ f k) := by
  unfold receive
  repeat' (first
    | assumption | with_reducible apply goodR_next | with_reducible exact goodR_fault _
    | with_reducible apply good_updPort | with_reducible apply hk | split)

/-! ### The operations of Machine/Windows.lean -/

theorem good_putXfer {s : State} {x : Xfer} (hs : Good s) : Good (putXfer s x) := hs

theorem good_dropXfer {s : State} {id : Nat} (hs : Good s) : Good (dropXfer s id) := hs

theorem good_xferStart {s : State} {x : Xfer} (hs : Good s) :
    Good (xferStart s x) := by
  unfold xferStart
  repeat' (first | assumption | with_reducible apply good_drainL1 | split)

theorem good_flushDirty {s : State} {x : Xfer} {t : Trans} {pa : Nat} {n : Nat} (hs : Good s) :
    Good (flushDirty s x t pa n) := by
  unfold flushDirty
  repeat' (first
    | assumption | with_reducible apply good_drainLine | with_reducible apply good_cleanProxy
    | with_reducible apply good_foldl | intro _ | split)

theorem good_xferRead {s : State} {x : Xfer} {o : Nat} {n : Nat} (hs : Good s) : Good (xferRead s x o n).2 := by
  unfold xferRead
  repeat' (first | assumption | with_reducible apply good_readPiece | split)

theorem good_winLost {s : State} {x : Xfer} {lost : Bool} (hs : Good s) : Good (winLost s x lost) := by
  unfold winLost
  repeat' (first | assumption | with_reducible apply good_postNoGroup | split)

theorem good_putPieces {s : State} {x : Xfer} (hs : Good s) : Good (putPieces s x).1 := by
  unfold putPieces
  dsimp only
  repeat' (first
    | assumption | with_reducible apply good_writePiece | with_reducible apply good_xferRead
    | with_reducible apply good_foldl_fst | intro _ | split)

theorem good_putRead {s : State} {x : Xfer} (hs : Good s) : Good (putRead s x).1 := by
  unfold putRead
  dsimp only
  repeat' (first
    | assumption | with_reducible apply good_xferRead | with_reducible apply good_foldl_fst | intro _ | split)

theorem good_opPoison {s : State} {x : Xfer} {bad : Bool} (hs : Good s) : Good (opPoison s x bad) := by
  unfold opPoison
  repeat' (first | assumption | split)

theorem good_localRise {s : State} {x : Xfer} (hs : Good s) : Good (localRise s x) := by
  unfold localRise
  dsimp only
  repeat' (first
    | assumption | with_reducible apply good_failOp | with_reducible apply good_raiseCtr | with_reducible apply good_arrivePart
    | with_reducible apply good_endOp | split)

theorem good_refusePut {s : State} {x : Xfer} (hs : Good s) : Good (refusePut s x) := by
  unfold refusePut
  repeat' (first | assumption | with_reducible apply good_winLost | with_reducible apply good_localRise)

theorem good_sendTheush {s : State} {x : Xfer} (hs : Good s) : Good (sendTheush s x) := by
  unfold sendTheush
  repeat' (first
    | assumption | with_reducible apply good_sendSpread | with_reducible apply good_putXfer
    | with_reducible apply good_winLost | with_reducible apply good_putRead | with_reducible apply good_opPoison
    | with_reducible apply good_refusePut | split)

theorem good_sendUe {s : State} {x : Xfer} (hs : Good s) :
    Good (sendUe s x) := by
  unfold sendUe
  dsimp only
  repeat' (first
    | assumption | with_reducible apply good_ueLeave | with_reducible apply good_putXfer
    | with_reducible apply good_winLost | with_reducible apply good_putRead | with_reducible apply good_opPoison
    | with_reducible apply good_refusePut | split)

theorem good_getPieces {s : State} {x : Xfer} (hs : Good s) :
    Good (getPieces s x).1 := by
  unfold getPieces
  dsimp only
  repeat' (first
    | assumption | with_reducible apply good_readPiece | with_reducible apply good_writePiece
    | with_reducible apply good_flushDirty | with_reducible apply good_foldl_fst | intro _ | split)

theorem good_placeIncoming {s : State} {k : Nat} {e : Win} {w : Nat} {off : Nat} {bs : List PByte} (hs : Good s) :
    Good (placeIncoming s k e w off bs) := by
  unfold placeIncoming
  dsimp only
  repeat' (first
    | assumption | with_reducible apply good_postNoGroup | with_reducible apply good_writePiece
    | with_reducible apply good_foldl_fst | intro _ | split)

theorem good_withIncoming {s : State} {w : Nat} {off : Nat} {n : Nat} {r : Result} (hs : Good s) (hr : GoodR r) :
    GoodR (withIncoming s w off n r) := by
  unfold withIncoming
  repeat' (first | assumption | with_reducible apply good_whenAwake | with_reducible apply good_withFrames | split)

/-! ### The operations of Machine/Nodes.lean -/

theorem good_updTile {s : State} {k : Nat} {f : Tile → Tile} {t : Nat} (hs : Good s) : Good (updTile s k f t) := hs

theorem good_tilesSpawn {s : State} {k : Nat} {d : Desc} {h : Header} (hs : Good s) : Good (tilesSpawn s k d h) := by
  unfold tilesSpawn
  repeat' (first | assumption | with_reducible apply good_foldl | intro _)

theorem good_tilesDone {s : State} {n : Node} (hs : Good s) : Good (tilesDone s n) := by
  unfold tilesDone
  repeat' (first | assumption | with_reducible apply good_foldl | intro _)

theorem good_createNode {s : State} {k : Nat} {d : Desc} {h : Header} (hs : Good s) : Good (createNode s k d h) := by
  unfold createNode
  repeat' (first | assumption | with_reducible apply good_tilesSpawn)

/-! ### The operations of Machine/Ridge.lean -/

theorem good_putBar {s : State} {tuid : Nat} {name : Nat} {b : Bar} (hs : Good s) : Good (putBar s tuid name b) := by
  unfold putBar
  repeat' (first | assumption | with_reducible apply good_updTeam | split)

theorem good_wakeRidge {s : State} {tuid : Nat} {name : Nat} (hs : Good s) : Good (wakeRidge s tuid name) := by
  unfold wakeRidge
  repeat' (first
    | assumption | with_reducible apply good_acquireAt | with_reducible apply good_foldl | intro _ | split)

theorem good_advanceBar {s : State} {tuid : Nat} {name : Nat} (hs : Good s) : Good (advanceBar s tuid name) := by
  unfold advanceBar
  dsimp only
  repeat' (first | assumption | with_reducible apply good_drainL1 | with_reducible apply good_putBar | with_reducible apply good_wakeRidge | split)

theorem good_advanceAll {s : State} {tuid : Nat} {uid : Nat} (hs : Good s) : Good (advanceAll s tuid uid) := by
  unfold advanceAll
  repeat' (first
    | assumption | with_reducible apply good_advanceBar | with_reducible apply good_foldl | intro _ | split)

theorem good_wakeLead {s : State} {node : Nat} {cluster : Nat} (hs : Good s) : Good (wakeLead s node cluster) := by
  unfold wakeLead
  repeat' (first
    | assumption | with_reducible apply good_acquireAt | with_reducible apply good_foldl | intro _ | split)

/-! ### The operations of Machine/Tasting.lean -/

theorem good_putTaste {s : State} {i : Nat} {u : Taste} (hs : Good s) : Good (putTaste s i u) := hs

theorem good_grantWaiters {i n : Nat} {s : State} (hs : Good s) : Good (grantWaiters i n s) := by
  induction n generalizing s with
  | zero => exact hs
  | succ n ih =>
    unfold grantWaiters
    dsimp only
    repeat' (first
      | assumption | with_reducible apply ih | with_reducible apply good_putTaste
      | with_reducible apply good_updGroup | with_reducible apply good_passBlock | with_reducible apply good_foldl
      | split)

theorem good_settleTaste {s : State} {i : Nat} (hs : Good s) :
    Good (settleTaste s i) := by
  unfold settleTaste
  repeat' (first | assumption | with_reducible apply good_grantWaiters | split)

/-! ### The operations of Machine/Leaving.lean -/

theorem good_afterExit {s : State} {gid : Nat} (hs : Good s) : Good (afterExit s gid) := by
  unfold afterExit
  dsimp only
  repeat' (first
    | assumption | with_reducible apply good_releaseBarriers | with_reducible apply good_advanceAll
    | with_reducible apply good_wakeLead | split)

theorem good_teamLeaves {s : State} {t : Nat} (hs : Good s) :
    Good (teamLeaves s t) := by
  unfold teamLeaves
  repeat' (first | assumption | with_reducible apply good_endFusion | with_reducible apply good_reapTeams | split)

theorem good_writeRecord {s : State} {n : Node} (hs : Good s) : Good (writeRecord s n) := by
  unfold writeRecord
  dsimp only
  repeat' (first | assumption | with_reducible apply good_writePiece | split)

theorem good_freeNode {s : State} {n : Node} (hs : Good s) : Good (freeNode s n) := hs

theorem good_completeNode {s : State} {n : Node} (hs : Good s) : Good (completeNode s n) := by
  unfold completeNode
  repeat' (first
    | assumption | with_reducible apply good_tilesDone | with_reducible apply good_writeRecord
    | with_reducible apply good_freeNode)

theorem good_withRecord {s : State} {n : Node} {r : Result} (hs : Good s) (hr : GoodR r) :
    GoodR (withRecord s n r) := by
  unfold withRecord
  repeat' (first | assumption | with_reducible apply good_whenAwake | with_reducible apply good_withFrames | split)

/-! ### The operations of Machine/Placement.lean -/

theorem good_prepareCore {s : State} {c : Nat} {fuse : Bool} {seat : Seat} (hs : Good s) :
    Good (prepareCore s c fuse seat) := by
  unfold prepareCore
  dsimp only
  repeat' (first | assumption | with_reducible apply good_dropClean | with_reducible apply good_updCore | with_reducible apply good_drainL1 | split)

theorem good_clearTags {s : State} {t : Nat} (hs : Good s) : Good (clearTags s t) := hs

theorem good_placeTeam {s : State} {n : Node} {cluster : Nat} {rank : Nat} {c : Nat} (hs : Good s) :
    Good (placeTeam s n cluster rank c) := by
  unfold placeTeam
  repeat' (first
    | assumption | with_reducible apply good_putTeam | with_reducible apply good_prepareCore
    | with_reducible apply good_clearTags | with_reducible apply good_foldl | intro _ | split)

theorem good_startNode {s : State} {n : Node} (hs : Good s) : Good (startNode s n) := hs

theorem good_restoreSpace {s : State} {t : Nat} {ob : Bool} {bytes : SMap Byte} {x : SavedTeam} (hs : Good s) :
    Good (restoreSpace s t ob bytes x) := by
  unfold restoreSpace
  repeat' (first
    | assumption | with_reducible apply good_sramWrite | with_reducible apply good_setPoison
    | with_reducible apply good_setLive | with_reducible apply good_foldl | intro _)

theorem good_roomAgain {s : State} {k : Nat} (hs : Good s) : Good (roomAgain s k) := hs

theorem good_restoreTeam {s : State} {h : Header} {x : SavedTeam} {c : Nat} (hs : Good s) :
    Good (restoreTeam s h x c) := by
  unfold restoreTeam
  repeat' (first
    | assumption | with_reducible apply good_putTeam | with_reducible apply good_updCore
    | with_reducible apply good_prepareCore | with_reducible apply good_clearTags
    | with_reducible apply good_restoreSpace | with_reducible apply good_foldl | simp only [good_mk_iff]
    | with_reducible apply And.intro | with_reducible apply mem_of_good | with_reducible apply sram_of_good
    | with_reducible apply clk_of_good | intro _ | split)

theorem good_endWait {s : State} {k : Nat} {n : Nat} (hs : Good s) : Good (endWait s k n) := hs

theorem good_countTurn {s : State} {k : Nat} {m : Nat} (hs : Good s) : Good (countTurn s k m) := hs

theorem good_placeUnit {s : State} {n : Node} {u : Unplaced} {c : Nat} (hs : Good s) : Good (placeUnit s n u c) := by
  unfold placeUnit
  repeat' (first
    | assumption | with_reducible apply good_placeTeam | with_reducible apply good_startNode
    | with_reducible apply good_roomAgain | with_reducible apply good_restoreTeam
    | with_reducible apply good_endWait | with_reducible apply good_foldl | intro _ | split)

theorem good_trackWait {s : State} {k : Nat} (hs : Good s) : Good (trackWait s k) := by
  unfold trackWait
  dsimp only
  repeat' (first | assumption | split)

theorem good_trackWaits {s : State} (hs : Good s) : Good (trackWaits s) := by
  unfold trackWaits
  repeat' (first | assumption | with_reducible apply good_trackWait | with_reducible apply good_foldl)

/-! ### The operations of Machine/Special.lean -/

theorem good_sendPhase {s : State} {p : Nat} {v : Word} (hs : Good s) : Good (sendPhase s p v) := hs

/-! ### The operations of Machine/Image.lean -/

theorem good_imageOp {x : R3L} {s : State} {k : Focus → Group → Nat → Nat → Group → Result} (hs : Good s)
    (hk : ∀ a0 a1 a2 a3 a4, GoodR (k a0 a1 a2 a3 a4)) :
    GoodR (imageOp x s k) := by
  unfold imageOp
  dsimp only
  repeat' (first
    | assumption | with_reducible apply good_issuer | with_reducible apply good_waits
    | with_reducible apply good_trap | with_reducible apply hk | intro _ | split)

/-! ### The operations of Machine/Saving.lean -/

theorem good_without {s : State} {vs : List Victim} (hs : Good s) : Good (without s vs) := hs

theorem good_seatVictim {s : State} {v : Victim} (hs : Good s) : GoodO (seatVictim s v) := by
  constructor
  intro t h
  unfold seatVictim at h
  dsimp only at h
  obtain ⟨l, -, rfl⟩ := Option.map_eq_some_iff.mp h
  exact good_foldl (fun _ _ h => good_updTeam h) l hs

theorem good_abandonVictim {s : State} {v : Victim} (hs : Good s) : Good (abandonVictim s v) := by
  unfold abandonVictim
  exact good_postNoGroup (good_foldl (fun _ _ h => good_updTeam h) _ hs)

theorem good_askVictims {s : State} {vs : List Victim} (hs : Good s) : Good (askVictims s vs) := by
  unfold askVictims
  split
  · refine good_foldl (fun s v h => ?_) _ hs
    cases e : seatVictim s v with
    | none => exact h
    | some t => exact good_of_some (good_seatVictim h) e
  · exact good_foldl (fun _ _ h => good_abandonVictim h) _ hs

theorem good_flushC {s : State} {o : EngOp} (hs : Good s) : Good (flushC s o) := by
  unfold flushC
  repeat' (first | assumption | with_reducible apply good_sramWrite | split)

theorem good_saveTeam {s : State} {t : Nat} (hs : Good s) : Good (saveTeam s t) := by
  unfold saveTeam
  repeat' (first
    | assumption | with_reducible apply good_updCore | with_reducible apply good_updNode
    | with_reducible apply good_writePiece | with_reducible apply good_flushC | with_reducible apply good_foldl
    | simp only [good_mk_iff] | with_reducible apply And.intro | with_reducible apply mem_of_good
    | with_reducible apply sram_of_good | with_reducible apply clk_of_good | intro _ | split)

theorem good_takeAway {s : State} {ts : List Nat} (hs : Good s) :
    Good (takeAway s ts) := by
  unfold takeAway
  repeat' (first
    | assumption | with_reducible apply good_settleTaste | with_reducible apply good_drainL1 | with_reducible apply good_endFusion
    | with_reducible apply good_advanceAll | with_reducible apply good_saveTeam | with_reducible apply good_foldl
    | intro _ | split)

theorem good_saveCluster {s : State} {ts : List Nat} {k : Nat} (hs : Good s) :
    GoodR (saveCluster s ts k) := by
  unfold saveCluster
  repeat' (first
    | assumption | with_reducible apply goodR_next | with_reducible apply good_withFrames
    | with_reducible apply good_whenAwake | with_reducible apply good_takeAway)

/-! ### The operations of Machine/Kill.lean -/

theorem good_killContext {s : State} {k : Nat} {cause : Word} (hs : Good s) :
    Good (killContext s k cause) := by
  unfold killContext
  repeat' (first
    | assumption | with_reducible apply good_updCtx | with_reducible apply good_giveFrame
    | with_reducible apply good_endFusion | with_reducible apply good_reapTeams | with_reducible apply good_foldl
    | intro _)

theorem good_expireNode {s : State} {i : Nat} (hs : Good s) : Good (expireNode s i) := by
  unfold expireNode
  dsimp only
  repeat' (first
    | assumption | with_reducible apply good_advanceBar | with_reducible apply good_foldl | intro _ | split)

/-! ### The operations of Machine/Csr.lean -/

theorem good_writeWtctl {s : State} {p : Nat} {v : Word} (hs : Good s) :
    GoodC (writeWtctl s p v) := by
  unfold writeWtctl
  dsimp only
  repeat' (first | assumption | with_reducible apply goodC_done | with_reducible exact goodC_later _ | split)

theorem good_writeWin {s : State} {p : Nat} {f : Win → Win} (hs : Good s) : Good (writeWin s p f) := by
  unfold writeWin
  dsimp only
  repeat' (first | assumption | split)

theorem good_writeFpbase {s : State} {k : Nat} {v : Word} (hs : Good s) : Good (writeFpbase s k v) := hs

theorem good_writeFpadd {s : State} {p k : Nat} {v : Word} (hs : Good s) : Good (writeFpadd s p k v) := by
  unfold writeFpadd
  extract_lets boot kept frame setErr
  have key : ∀ (s : State) (b : Bool), Good s → Good (setErr s b) := fun s b h => good_updCtx h
  split
  · exact key _ _ hs
  · refine key _ _ (good_appendFrame ?_)
    simp only [good_mk_iff]
    exact ⟨wf_mk hs.1, hs.2⟩

theorem good_writePtbase {s : State} {p k : Nat} {v : Word} (hs : Good s) : Good (writePtbase s p k v) := by
  have key : ∀ (m : Mem) (f : Ctx → Ctx), m.wf = true → Good (updCtx (dropTlbAll { s with mem := m } k) k f) :=
    fun m f h => good_updCtx (good_dropTlbAll (s := { s with mem := m }) ⟨h, hs.2⟩)
  unfold writePtbase
  generalize (List.replicate 2048 0 : List Byte) = z
  extract_lets v old root was shared left src m1 rise m2
  by_cases h1 : (!ctxQuiet s k || !inAllocated s p root 2048 || mapGet 0 s.mem.counts (root / 65536) != 0) = true
  · rw [if_pos h1]; exact hs
  rw [if_neg h1]
  refine key _ _ ?_
  show Mem.wf (ite (rise = true) (homeWrite m1 root z) m1) = true
  have h : m1.wf = true := wf_mk hs.1
  by_cases h4 : rise = true
  · rw [if_pos h4]; exact wf_homeWrite _ _ _ h
  · rw [if_neg h4]; exact h

theorem good_startPte {s : State} {k : Nat} {die : Nat} {op : EditOp} {va : Nat} {size : Nat} {n : Nat} (hs :
    Good s) :
    Good (startPte s k die op va size n) := by
  unfold startPte
  repeat' (first
    | assumption | with_reducible apply good_updCtx | with_reducible apply good_takeFrames | simp only [good_mk_iff]
    | with_reducible apply And.intro | with_reducible apply mem_of_good | with_reducible apply sram_of_good
    | with_reducible apply clk_of_good)

theorem good_writePtecmd {s : State} {p : Nat} {k : Nat} {die : Nat} {v : Word} (hs : Good s) :
    GoodC (writePtecmd s p k die v) := by
  unfold writePtecmd
  dsimp only
  have hw : ∀ b : Option Nat, GoodC (b.elim (.done s) .asleep) := by
    intro b
    cases b with
    | none => exact goodC_done hs
    | some b => exact goodC_asleep b
  repeat' (first
    | assumption | with_reducible exact hw _ | with_reducible exact goodC_asleep _ | with_reducible apply goodC_done | with_reducible exact goodC_later _
    | with_reducible apply good_startPte | split)

theorem good_resumeGroup {s : State} {gid : Nat} {g : Group} {x : Stop} (hs : Good s) :
    Good (resumeGroup s gid g x) := by
  unfold resumeGroup
  dsimp only
  repeat' (first | assumption | split)

theorem good_killByGctl {s : State} {k : Nat} (hs : Good s) : Good (killByGctl s k) := by
  unfold killByGctl
  repeat' (first | assumption | with_reducible apply good_killContext)

theorem good_reflectGroup {s : State} {gid : Nat} {g : Group} {x : Stop} (hs : Good s) :
    Good (reflectGroup s gid g x) := by
  unfold reflectGroup
  repeat' (first | assumption | with_reducible apply good_killByGctl | split)

theorem good_writeGctl {s : State} {p : Nat} {v : Word} (hs : Good s) : GoodC (writeGctl s p v) := by
  unfold writeGctl
  dsimp only
  repeat' (first
    | assumption | with_reducible apply goodC_done | with_reducible exact goodC_absent
    | with_reducible exact goodC_refused _ _ | with_reducible apply good_resumeGroup
    | with_reducible apply good_killByGctl | with_reducible apply good_reflectGroup | split)

theorem good_writeBankrole {s : State} {p : Nat} {v : Word} (hs : Good s) : Good (writeBankrole s p v) := by
  unfold writeBankrole
  dsimp only
  repeat' (first | assumption | with_reducible apply good_updCore | with_reducible apply good_drainL1 | split)

theorem good_startSwitch {s : State} {p : Nat} (hs : Good s) : Good (startSwitch s p) := hs

theorem good_writeSlctl {s : State} {p : Nat} {v : Word} (hs : Good s) : Good (writeSlctl s p v) := by
  unfold writeSlctl
  repeat' (first | assumption | split)

theorem good_writeSlwb {s : State} {p : Nat} {v : Word} (hs : Good s) : Good (writeSlwb s p v) := hs

theorem good_writeBinmap {s : State} {p : Nat} {v : Word} (hs : Good s) : Good (writeBinmap s p v) := by
  unfold writeBinmap
  repeat' (first | assumption | split)

theorem good_putFwin {s : State} {p : Nat} {x : FWin} (hs : Good s) : Good (putFwin s p x) := hs

theorem good_writeFw {s : State} {p : Nat} {f : FWin → FWin} (hs : Good s) : Good (writeFw s p f) := by
  unfold writeFw
  repeat' (first | assumption | split)

theorem good_dropViews {s : State} {p : Nat} {w : Nat} (hs : Good s) : Good (dropViews s p w) := by
  unfold dropViews
  repeat' (first
    | simp only [good_mk_iff] | with_reducible apply And.intro | with_reducible apply mem_of_good
    | with_reducible apply sram_of_good | with_reducible apply clk_of_good | with_reducible assumption
    | fail_if_no_progress (with_reducible apply wf_mk))

theorem good_writeFwctl {s : State} {p : Nat} {v : Word} (hs : Good s) : Good (writeFwctl s p v) := by
  unfold writeFwctl
  dsimp only
  repeat' (first | assumption | with_reducible apply good_putFwin | split)

theorem good_updQueue {s : State} {p : Nat} {f : SendQ → SendQ} (hs : Good s) : Good (updQueue s p f) := hs

theorem good_csrWrite {s : State} {p die n : Nat} {v : Word} (hs : Good s) : GoodC (csrWrite s p die n v) := by
  unfold csrWrite
  extract_lets k ctx part
  have hc : ∀ f, GoodC (ctx f) := fun f => goodC_done (good_updCtx hs)
  have hp : ∀ f, GoodC (part f) := fun f => goodC_done (good_updPart hs)
  have hif : ∀ f, GoodC (.done (if coreMine s p then updCore s (selCore s p) f else s)) := by
    intro f
    apply goodC_done
    split
    · exact good_updCore hs
    · exact hs
  split <;> first
    | with_reducible exact hc _
    | with_reducible exact hp _
    | with_reducible exact goodC_done hs
    | with_reducible exact goodC_done (good_writeWin hs)
    | with_reducible exact good_writeWtctl hs
    | with_reducible exact good_writePtecmd hs
    | with_reducible exact goodC_done (good_writeFpbase hs)
    | with_reducible exact goodC_done (good_writeFpadd hs)
    | with_reducible exact good_writeGctl hs
    | with_reducible exact goodC_done (good_writePtbase hs)
    | with_reducible exact goodC_done (good_roomAgain (good_updCtx hs))
    | with_reducible exact goodC_done (good_writeBankrole hs)
    | with_reducible exact hif _
    | with_reducible exact goodC_done (good_writeSlctl hs)
    | with_reducible exact goodC_done (good_writeBinmap hs)
    | with_reducible exact goodC_done (good_writeSlwb hs)
    | with_reducible exact goodC_done (good_writeFw hs)
    | with_reducible exact goodC_done (good_writeFwctl hs)
    | with_reducible exact goodC_done (good_updQueue hs)
    | with_reducible exact goodC_absent
    | (split; exacts [hp _, goodC_done hs])

/-! ### The operations of Machine/Errors.lean -/

theorem good_countTransient {s : State} {p : Option Nat} (hs : Good s) : Good (countTransient s p) := by
  unfold countTransient
  repeat' (first | assumption | split)

theorem form_poisonShadow {m : Mem} {l : Nat} (hm : m.wf = true) :
    (poisonShadow m l).wf = true := by
  unfold poisonShadow
  repeat' (first
    | with_reducible apply form_keepShadow | with_reducible assumption
    | fail_if_no_progress (with_reducible apply wf_mk))

theorem good_hardError {s : State} {e : ErrPlace} (hs : Good s) :
    Good (hardError s e) := by
  unfold hardError
  repeat' (first
    | with_reducible apply good_updCore | with_reducible apply form_keepShadow | with_reducible apply form_poisonLine
    | with_reducible apply good_postNoGroup | with_reducible apply good_stopGroup
    | with_reducible apply good_putProxy | with_reducible apply good_settleTaste
    | with_reducible apply good_killContext | with_reducible apply form_poisonShadow | simp only [good_mk_iff]
    | with_reducible apply And.intro | with_reducible apply mem_of_good | with_reducible apply sram_of_good
    | with_reducible apply clk_of_good | with_reducible assumption
    | fail_if_no_progress (with_reducible apply wf_mk) | fail_if_no_progress (with_reducible apply swf_mk) | split)

theorem good_switchNow {s : State} {p : Nat} (hs : Good s) : Good (switchNow s p) := by
  unfold switchNow
  repeat' (first
    | with_reducible apply wf_writeBackLine | with_reducible apply good_updPart | simp only [good_mk_iff]
    | with_reducible apply And.intro | with_reducible apply mem_of_good | with_reducible apply sram_of_good
    | with_reducible apply clk_of_good | with_reducible apply wf_foldl | with_reducible assumption
    | fail_if_no_progress (with_reducible apply wf_mk))

theorem good_endSessions {s : State} {fn : Nat} {keep : Option Nat} (hs : Good s) : Good (endSessions s fn keep) := hs

theorem good_measuredChange {s : State} {p : Option Nat} (hs : Good s) : Good (measuredChange s p) := by
  unfold measuredChange
  repeat' (first | assumption | split)

theorem good_dropViewCopies {s : State} {p : Nat} (hs : Good s) : Good (dropViewCopies s p) := hs

theorem wf_keep_lines (m : Mem) (p q : Nat → Bool) (hq : ∀ a, p a = true → q (lineOf a) = true) (h : m.wf = true) :
    ({ m with cellar := mapKeep m.cellar (fun a _ => p a), dirty := mapKeep m.dirty (fun a _ => p a),
              zbit := m.zbit.filter q } : Mem).wf = true := by
  have h1 := wf_keep_both m p h
  rw [Mem.wf_iff] at h1 ⊢
  refine ⟨h1.1, h1.2.1, fun e he => ?_⟩
  have h2 := h1.2.2 e he
  have hp : p e.1 = true := (List.mem_filter.mp he).2
  have : (m.zbit.filter q).contains (lineOf e.1) = m.zbit.contains (lineOf e.1) := by
    rw [Bool.eq_iff_iff]
    simp [hq _ hp]
  unfold cellarByte at h2 ⊢
  change e.2 ≠ if (m.zbit.filter q).contains (lineOf e.1) then 0 else _
  rw [this]
  exact h2

theorem good_clearBin {s : State} {b : Nat} (hs : Good s) : Good (clearBin s b) := by
  unfold clearBin
  have h := wf_keep_lines s.mem (fun a => binOf a != b) (fun l => !binOf (128 * l) == b) (by
    intro a h
    simp only [binOf, lineOf, bne_iff_ne, ne_eq, Bool.not_eq_true', beq_eq_false_iff_ne] at h ⊢
    intro e; apply h; omega) hs.1
  simp only [good_mk_iff]
  exact ⟨h, hs.2⟩

theorem good_resumeBin {s : State} {b : Nat} (hs : Good s) :
    Good (resumeBin s b) := by
  unfold resumeBin
  repeat' (first
    | assumption | with_reducible apply goodR_next | with_reducible exact goodR_fault _
    | with_reducible exact goodR_refused _ | with_reducible apply good_resumeEvents
    | with_reducible apply good_foldl | with_reducible apply good_foldl_fst | with_reducible apply good_foldl_snd
    | simp only [good_mk_iff] | with_reducible apply And.intro | with_reducible apply mem_of_good
    | with_reducible apply sram_of_good | with_reducible apply clk_of_good | intro _ | split)

/-! ### The operations of Machine/Extended.lean -/

theorem good_ext2 {x : XArgs} {op : List Nat → Word → Word → Res} {s : State} (hs : Good s) :
    GoodR (ext2 x op s) := by
  unfold ext2
  repeat' (first | assumption | with_reducible apply good_regOp)

theorem good_ext1 {x : XArgs} {op : List Nat → Word → Res} {s : State} (hs : Good s) : GoodR (ext1 x op s) := by
  unfold ext1
  repeat' (first | assumption | with_reducible apply good_regOp)

theorem good_ext3 {x : XArgs} {op : List Nat → Opnds → Res} {s : State} (hs : Good s) : GoodR (ext3 x op s) := by
  unfold ext3
  repeat' (first | assumption | with_reducible apply good_regOp)

theorem good_cmpOp {x : XArgs} {cond : List Nat → Word → Word → Nat → Bool × Flags} {s : State} (hs : Good s) :
    GoodR (cmpOp x cond s) := by
  unfold cmpOp
  repeat' (first | assumption | with_reducible apply good_predOp | with_reducible apply good_ext2 | split)

/-! ### The operations of Machine/Mailbox.lean -/

theorem good_clearUnit {s : State} {u : UnitKind} {i : Nat} (hs : Good s) : Good (clearUnit s u i) := by
  cases u with
  | core =>
    have h : Good (clearFills (updCore (drainL1 s [i]) i (fun x => { x with l1 := [], cc := [], tlb := [] })) i
        (fun _ => true)) := good_clearFills (good_updCore (good_drainL1 hs))
    exact ⟨h.1, mapWf_keep 0 _ (fun a _ => decide (a / 2 ^ 20 ≠ i)) h.2.1, h.2.2⟩
  | slice => exact good_foldl (fun _ _ h => good_dropProxy (good_cleanProxy h)) _ hs
  | slot => exact hs
  | bin => exact hs

theorem good_writeOwner {s : State} {u : UnitKind} {i : Nat} {v : BitVec 8} (hs : Good s) :
    Good (writeOwner s u i v) := by
  unfold writeOwner
  repeat' (first
    | assumption | with_reducible apply good_measuredChange | with_reducible apply good_clearUnit
    | simp only [good_mk_iff] | with_reducible apply And.intro | with_reducible apply mem_of_good
    | with_reducible apply sram_of_good | with_reducible apply clk_of_good | split)

theorem good_setVfs {s : State} {n : Nat} (hs : Good s) : Good (setVfs s n) :=
  good_foldl (fun _ _ h => good_updPart h) _ (s := { s with out := { s.out with numVfs := n } }) hs

theorem good_writeFeatacc {s : State} {p : Nat} {n : Nat} {v : Word} (hs : Good s) : Good (writeFeatacc s p n v) := by
  unfold writeFeatacc
  dsimp only
  repeat' (first | assumption | split)

theorem good_ringDoorbell {s : State} {p : Nat} {v : Word} (hs : Good s) : Good (ringDoorbell s p v) := by
  unfold ringDoorbell
  repeat' (first | assumption | split)

theorem form_bootTables {m : Mem} {base : Nat} (hm : m.wf = true) : (bootTables m base).wf = true := by
  have hw : ∀ (m : Mem) (a : Nat) (bs : List Byte), m.wf = true → (homeWrite m a bs).wf = true := wf_homeWrite
  unfold bootTables
  generalize (List.replicate 0x4000 0 : List Byte) = z
  refine wf_mk (form_bumpFrames (form_countLarge (wf_foldl _ (fun m b h => wf_mk h) _ _ (wf_foldl _
    (fun m b h => hw _ _ _ h) _ _ ?_))))
  exact hw _ _ _ (hw _ _ _ (hw _ _ _ (hw _ _ _ hm)))

theorem good_bootPart {s : State} {p : Nat} (hs : Good s) : GoodO (bootPart s p) := by
  have key : ∀ (s : State) (m : Mem) (k : Nat) (f : Ctx → Ctx), Good s → m.wf = true → Good (updCtx
    { s with mem := m } k f) :=
    fun s m k f h hm => good_updCtx (s := { s with mem := m }) ⟨hm, h.2⟩
  unfold bootPart
  extract_lets x len
  cases lowestWhere 4608 (binOwned s p) with
  | none => exact goodO_none
  | some b =>
    dsimp -zeta only
    extract_lets d slices mask base s1 s2 s3 image m root
    by_cases h :
    ((lowestWhere 336 (coreOwned s p)).isNone || slices.isEmpty || decide (len = 0) || decide (254 * 2 ^ 20 < len)) = true
    · rw [if_pos h]; exact goodO_none
    · rw [if_neg h]
      have h3 : Good s3 := good_updBin (good_clearBin (good_updPart hs))
      refine goodO_some (key _ _ _ _ h3 ?_)
      exact form_bootTables (wf_homeWrite _ _ _ (mem_of_good h3))

theorem good_fireMsix {s : State} {fn : Nat} {v : Nat} (hs : Good s) : Good (fireMsix s fn v) := hs

theorem good_endPost {s : State} {p : Nat} {code : Nat} (hs : Good s) : Good (endPost s p code) := hs

theorem good_startPart {s : State} {p : Nat} (hs : Good s) : Good (startPart s p) := by
  unfold startPart
  repeat' (first | assumption | split)

theorem good_finishPost {s0 : State} {s : State} {p : Nat} {k : Nat} {va : Nat} {en : Bool} (hs0 : Good s0)
    (hs : Good s) :
    GoodR (finishPost s0 s p k va en) := by
  unfold finishPost
  repeat' (first
    | assumption | with_reducible apply goodR_next | with_reducible exact goodR_fault _
    | with_reducible exact goodR_refused _ | with_reducible apply good_whenAwake
    | with_reducible apply good_createNode | with_reducible apply good_endPost | with_reducible apply good_startPart
    | with_reducible apply good_foldl | with_reducible apply good_foldl_fst | with_reducible apply good_foldl_snd
    | simp only [good_mk_iff] | with_reducible apply And.intro | with_reducible apply mem_of_good
    | with_reducible apply sram_of_good | with_reducible apply clk_of_good | intro _ | split)

theorem good_writeReply {s : State} {p : Nat} {v : Word} (hs : Good s) : Good (writeReply s p v) := by
  unfold writeReply
  dsimp only
  repeat' (first | assumption | with_reducible apply good_postNoGroup | split)

theorem good_writeMbxptr {s : State} {p : Nat} {v : Word} (hs : Good s) : Good (writeMbxptr s p v) := by
  unfold writeMbxptr
  repeat' (first | assumption)

theorem good_writeVf {s : State} {p : Nat} {off : Nat} {v : Word} (hs : Good s) : Good (writeVf s p off v) := by
  unfold writeVf
  repeat' (first
    | assumption | with_reducible apply good_writeFeatacc | with_reducible apply good_ringDoorbell
    | with_reducible apply good_writeReply | split)

theorem good_writePf {s : State} {off : Nat} {v : Word} (hs : Good s) : Good (writePf s off v) := by
  unfold writePf
  repeat' (first | assumption | with_reducible apply good_writeOwner | split)

theorem good_writeBar {s : State} {fn : Nat} {off : Nat} {v : Word} (hs : Good s) : Good (writeBar s fn off v) := by
  unfold writeBar
  repeat' (first
    | assumption | with_reducible apply goodR_next | with_reducible exact goodR_fault _
    | with_reducible exact goodR_refused _ | with_reducible apply good_writeVf | with_reducible apply good_writePf
    | with_reducible apply good_foldl | with_reducible apply good_foldl_fst | with_reducible apply good_foldl_snd
    | simp only [good_mk_iff] | with_reducible apply And.intro | with_reducible apply mem_of_good
    | with_reducible apply sram_of_good | with_reducible apply clk_of_good | intro _ | split)

/-! ### The operations of Machine/Transfer.lean -/

theorem good_zbcLine {s : State} {k va : Nat} {bs : List PByte} (hs : Good s) : Good (zbcLine s k va bs) := by
  unfold zbcLine
  split
  · exact hs
  · rename_i t _
    dsimp only
    split
    · simp only [good_mk_iff]
      exact ⟨wf_mk (m :=
    { dropDirty s.mem (lineOf (transPa t va)) with
      zbit := insertNat (dropDirty s.mem (lineOf (transPa t va))).zbit (lineOf (transPa t va)) })
        (wf_setZbit s.mem _ hs.1), hs.2⟩
    · refine good_writeFrame ?_
      simp only [good_mk_iff]
      exact ⟨wf_clearZbit _ _ hs.1, hs.2⟩

theorem good_placeBytes {s : State} {o : EngOp} {p : Part} {bs : List (Nat × PByte)} (hs : Good s) :
    Good (placeBytes s o p bs) := by
  unfold placeBytes
  dsimp only
  repeat' (first
    | assumption | with_reducible apply good_writePiece | with_reducible apply good_writeSram
    | with_reducible apply good_zbcLine | with_reducible apply good_foldl | intro _ | split)

theorem good_clearCovered {s : State} {o : EngOp} {p : Part} {bs : List (Nat × PByte)} (hs : Good s) :
    Good (clearCovered s o p bs) := by
  unfold clearCovered
  repeat' (first
    | with_reducible apply form_cleanLine | with_reducible apply good_setPoison | with_reducible apply good_foldl
    | simp only [good_mk_iff] | with_reducible apply And.intro | with_reducible apply mem_of_good
    | with_reducible apply sram_of_good | with_reducible apply clk_of_good | with_reducible assumption | intro _
    | split)

/-! ### The operations of Machine/Security.lean -/

theorem good_putSpdm {s : State} {fn : Nat} {x : Spdm} (hs : Good s) : Good (putSpdm s fn x) := hs

theorem good_request {fn : Nat} {s : State} {k : Spdm → Spdm} (hs : Good s) : GoodR (request fn s k) := by
  unfold request
  repeat' (first
    | assumption | with_reducible apply goodR_next | with_reducible exact goodR_fault _
    | with_reducible exact goodR_refused _ | with_reducible apply good_putSpdm | with_reducible apply good_foldl
    | with_reducible apply good_foldl_fst | with_reducible apply good_foldl_snd | simp only [good_mk_iff]
    | with_reducible apply And.intro | with_reducible apply mem_of_good | with_reducible apply sram_of_good
    | with_reducible apply clk_of_good | intro _ | split)

theorem good_keyChange {s : State} {fn : Nat} {session : Nat} {slot : Nat} {k : KeySlot} (hs : Good s) :
    Good (keyChange s fn session slot k) := by
  unfold keyChange
  repeat' (first | assumption)

theorem good_keyError {s : State} {fn : Nat} {session : Nat} (hs : Good s) :
    Good (keyError s fn session) := by
  unfold keyError
  repeat' assumption

/-! ### The operations of Machine/Short.lean -/

theorem good_shortInt {form : Form} {x : R3} {op : Ty → Word → Word → Res} {s : State} (hs : Good s) :
    GoodR (shortInt form x op s) := by
  unfold shortInt
  repeat' (first
    | assumption | with_reducible apply goodR_next | with_reducible exact goodR_fault _
    | with_reducible exact goodR_refused _ | with_reducible apply good_regOp)

theorem good_shortFlt {form : Form} {x : R3} {op : List Nat → Ty → Word → Word → Res} {s : State} (hs : Good s) :
    GoodR (shortFlt form x op s) := by
  unfold shortFlt
  repeat' (first
    | assumption | with_reducible apply goodR_next | with_reducible exact goodR_fault _
    | with_reducible exact goodR_refused _ | with_reducible apply good_regOp)

theorem good_shortLogic {form : Form} {x : R3L} {op : Word → Word → Word} {s : State} (hs : Good s) :
    GoodR (shortLogic form x op s) := by
  unfold shortLogic
  repeat' (first
    | assumption | with_reducible apply goodR_next | with_reducible exact goodR_fault _
    | with_reducible exact goodR_refused _ | with_reducible apply good_regOp)

theorem good_shortShift {form : Form} {x : R3W} {op : Nat → Nat → Nat → Nat} {s : State} (hs : Good s) :
    GoodR (shortShift form x op s) := by
  unfold shortShift
  repeat' (first
    | assumption | with_reducible apply goodR_next | with_reducible exact goodR_fault _
    | with_reducible exact goodR_refused _ | with_reducible apply good_regOp)

theorem good_shortUnary {form : Form} {x : R2} {op : Ty → Word → Res} {s : State} (hs : Good s) :
    GoodR (shortUnary form x op s) := by
  unfold shortUnary
  repeat' (first
    | assumption | with_reducible apply goodR_next | with_reducible exact goodR_fault _
    | with_reducible exact goodR_refused _ | with_reducible apply good_regOp)

/-! ### The operations of Machine/Supervisor.lean -/

theorem good_csrEvent {p : Nat} {n : Nat} {v : Word} {s : State} (hs : Good s) : GoodR (csrEvent p n v s) := by
  unfold csrEvent
  repeat' (first
    | assumption | with_reducible apply goodR_next | with_reducible exact goodR_fault _
    | with_reducible exact goodR_refused _
    | with_reducible apply good_whenAwake | with_reducible exact good_of_done (good_csrWrite (by assumption)) (by assumption)
    | with_reducible apply good_done | with_reducible apply good_csrWrite | with_reducible apply good_foldl
    | with_reducible apply good_foldl_fst | with_reducible apply good_foldl_snd | simp only [good_mk_iff]
    | with_reducible apply And.intro | with_reducible apply mem_of_good | with_reducible apply sram_of_good
    | with_reducible apply clk_of_good | intro _ | split)

/-! ### The operations of Machine/Time.lean -/

theorem good_tickOf {s : State} (hs : Good s) : Good (tickOf s) := by
  unfold tickOf
  dsimp only
  apply good_trackWaits
  simp only [good_mk_iff]
  exact ⟨hs.1, hs.2.1, hs.2.2.1, hs.2.2.2.1, Nat.mod_lt _ (by decide)⟩

end Sys2Proof.Machine
end

