-- ==== Sys2Proof/Tests/Slice0.lean ====
section
/-! SUPPORT. The model's own tests: words written out from the opcode map, the well-formedness smoke, single steps with
results worked out from the manual, and a witness that the hypotheses of every statement can be met. -/

open Sys2Proof Sys2Proof.Machine Sys2Proof.Claims

namespace Sys2Proof.Tests

set_option Elab.async false

/-! ### Small states -/

/-- A group with 32 vector registers and an enabled handler at 0x1000. -/
def grp : Group := { uid := 7, team := 7, allot := 32, trapbase := 0x1001#64 }
/-- Lanes 0 and 1 issue the instruction at 64. -/
def foc : Focus := { gid := 0, lanes := 3, pc := 64, npc := 68 }
/-- The first page of context k, backed from physical address 0. -/
def page0 (k : Nat) : Trans := { ctx := k, va := 0, size := 65536, pa := 0, attr := { w := true }, gen := 0 }
/-- The tables of a mapping of eight pages onto the frames of their numbers (R233, R234): four tables, and leaves with V,
LEAF and W. -/
def tables : SMap Byte :=
  [(0x10000, 1), (0x10001, 0x10), (0x10002, 1), (0x11000, 1), (0x11001, 0x20), (0x11002, 1), (0x12000, 1), (0x12001, 0x30),
   (0x12002, 1), (0x13000, 1), (0x13001, 0x40), (0x13002, 1), (0x14000, 7), (0x14008, 7), (0x1400A, 1), (0x14010, 7),
   (0x14012, 2), (0x14018, 7), (0x1401A, 3), (0x14020, 7), (0x14022, 4), (0x14028, 7), (0x1402A, 5), (0x14030, 7),
   (0x14032, 6), (0x14038, 7), (0x1403A, 7)]
/-- Core 0, with 16 banks of L1, 12 of scratchpad and 4 of operand buffer, runs a group of context k of partition 0, which owns core 0, slice 0, key slot 0 and bin 0. -/
def at' (k : Nat) (f : Focus) (g : Group) : State :=
  { State.reset with
    focus := some f, groups := [(0, g)]
    teams := [(7, { uid := 7, node := 7
                    slots := [0], scratch := List.range 64
                    opbuf := List.range 32 })]
    nodes := [(7, { uid := 7, ctx := k, started := true })]
    cores := [(0, { bankrole := 0xAA55555500000000, tlb := [page0 k] })]
    ctxs := [(k, { ptbase := 0x10001 })]
    parts := [(0, { started := true, feat := [(0, 0x3FF)], masks := [(0, 1)] })]
    bins := [(0, { alloc := true, state := 0 })]
    mem := { State.reset.mem with cellar := tables, counts := (List.range 8).map (fun i => (i, 1)) }
    out := { State.reset.out with
      powered := true, ready := true, numVfs := 1
      coreOwner := [(0, 0x80)], sliceOwner := [(0, 0x80)], slotOwner := [(0, 0x80)], binOwner := [(0, 0x80)] } }
/-- The state that most tests use: context 1 of partition 0. -/
def sA : State := at' 1 foc grp

/-- The group of slot 0 after a result. -/
def groupOf (r : Result) : Group :=
  match r with
  | .next t => groupAt t 0
  | _ => {}
/-- The state after a result. -/
def nextOf (r : Result) : State :=
  match r with
  | .next t => t
  | _ => State.reset

theorem issues_sA : Issues sA foc grp := by unfold Issues; decide +kernel
theorem clear_sA : Clear foc grp := by unfold Clear; decide +kernel
theorem fits_all (form : Form) : Fits form (seen foc grp) [31, 8, 6] [7] := by
  unfold Fits InAllot; cases form <;> decide +kernel
theorem fits_two (form : Form) : Fits form (seen foc grp) [31, 8] [7] := by
  unfold Fits InAllot; cases form <;> decide +kernel
theorem fits_one (form : Form) : Fits form (seen foc grp) [31, 8] [] := by
  unfold Fits InAllot; cases form <;> decide +kernel

/-! ### Witnesses: register instructions and control flow -/

theorem witness_ShortArithmeticResults (form : Form) : Issues sA foc grp ∧ Fits form (seen foc grp) [31, 8] [7] :=
  ⟨issues_sA, fits_two form⟩
theorem witness_ShortBitwiseResults (form : Form) :
    Issues sA foc grp ∧ Fits form (seen foc grp) [31, 8] [7] ∧ Fits form (seen foc grp) [31] [31] :=
  ⟨issues_sA, fits_two form, by unfold Fits InAllot; cases form <;> decide +kernel⟩
theorem witness_ImmediateResults : Issues sA foc grp ∧ InAllot (seen foc grp) [31] :=
  ⟨issues_sA, by unfold InAllot; decide +kernel⟩
theorem witness_ExtendedResults (form : Form) :
    Issues sA foc grp ∧ Fits form (seen foc grp) [31, 8] [7] ∧ Fits form (seen foc grp) [31, 8] [] :=
  ⟨issues_sA, fits_two form, fits_one form⟩
theorem witness_ThreeSourceAndConversionResults (form : Form) :
    Issues sA foc grp ∧ Fits form (seen foc grp) [31, 8, 6] [7] ∧ Fits form (seen foc grp) [31, 8] [7] ∧
      Fits form (seen foc grp) [31, 8] [] ∧ (30#7).toNat < 127 ∧ Fits form (seen foc grp) [30, 8, 30 + 1] [] :=
  ⟨issues_sA, fits_all form, fits_two form, fits_one form, by decide, by unfold Fits InAllot; cases form <;> decide +kernel⟩
theorem witness_CompareResults (form : Form) : Issues sA foc grp ∧ (0x0F#5).getLsbD 4 = false ∧ (0x10#5).getLsbD 4 = true ∧
    Fits form (seen foc grp) [31, 8] [7] ∧ Fits form (seen foc grp) [31] [7] :=
  ⟨issues_sA, by decide, by decide, fits_two form, by unfold Fits InAllot; cases form <;> decide +kernel⟩
/-- The first register past the allotment, in each field that may name it. -/
theorem witness_OutsideAllotmentTraps : Issues sA foc grp ∧ Clear foc grp ∧
    (∀ ns ∈ ([named .v 32 0 0, named .v 31 32 0, named .v 31 0 32, named .m 32 33 0, [31, 32], [31, 8, 7] ++ [32]] :
      List (List (BitVec 7))), firstOutside (seen foc grp) ns = some 32) ∧ firstOutside (seen foc grp) [31] = none :=
  ⟨issues_sA, clear_sA, by decide +kernel, by decide +kernel⟩
theorem witness_ShiftElements : tyIsInt .i8 = true ∧ 7 < tyCount .i8 ∧ 7 < tyWidth .i8 ∧ elemN .i8 0xFF00 0 = 0 ∧
    elemN .i8 0xFF00 1 ≠ 0 := by decide +kernel
/-- Of E2M1, whose greatest value is 6, a value in range and one past its end. -/
theorem witness_ElementArithmetic_encode : fmtE2m1 ∈ fltFmts ∧ valQ (decodeF fmtE2m1 fmtE2m1.max) = 6 ∧
    roundTo fmtE2m1 .rz (valQ (.fin true 4 1)) = -4 ∧ roundTo fmtE2m1 .rz (valQ (.fin false 8 1)) = 8 := by
  have h4 : Int.log 2 (4 : ℚ) = 2 := by
    rw [show (4 : ℚ) = ((2 : ℕ) : ℚ) ^ (2 : ℤ) by norm_num]
    exact Int.log_zpow (by norm_num) 2
  have h8 : Int.log 2 (8 : ℚ) = 3 := by
    rw [show (8 : ℚ) = ((2 : ℕ) : ℚ) ^ (3 : ℤ) by norm_num]
    exact Int.log_zpow (by norm_num) 3
  have hb : fmtE2m1.bias = 1 ∧ fmtE2m1.m = 1 := by decide
  refine ⟨by decide +kernel, ?_, ?_, ?_⟩
  · rw [show decodeF fmtE2m1 fmtE2m1.max = .fin false 6 1 by decide +kernel]; norm_num [valQ]
  · norm_num [roundTo, roundQ, valQ, hb.1, hb.2, h4]
  · norm_num [roundTo, roundQ, valQ, hb.1, hb.2, h8]
/-- Codes of f32: numbers of both signs, both zeros and infinities, and NaNs of both kinds; and integers of every width. -/
theorem witness_ElementArithmetic_values :
    let v := decodeF fmtF32
    tyIsFloat .f32 = true ∧ 1 < tyCount .f32 ∧ tyIsInt .n4 = true ∧ 15 < tyCount .n4 ∧ tyIsInt .i64 = true ∧ 0 < tyCount .i64 ∧
    tyWidth .i8 = 8 ∧ tyWidth .n16 = 16 ∧
    (∃ n d, v 0x3FC00000 = .fin false n d ∧ sfuSpecial .exp2 (v 0x3FC00000) = none ∧ sfuExact .exp2 false n d = none) ∧
    (∃ n d, v 0xBFC00000 = .fin true n d) ∧ v 0 = .zero false ∧ v 0x80000000 = .zero true ∧ v 0x7F800000 = .inf false ∧
    v 0xFF800000 = .inf true ∧ valIsNan (v 0x7FC00000) = true ∧ valIsSnan (v 0x7F800001) = true ∧
    elemN .f32 0x7FC000003FC00000 0 = 0x3FC00000 ∧ elemN .f32 0x7FC000003FC00000 1 = 0x7FC00000 := by
  refine ⟨rfl, by decide, rfl, by decide, rfl, by decide, rfl, rfl, ⟨12582912, 8388608, by decide +kernel⟩,
    ⟨12582912, 8388608, by decide +kernel⟩, by decide +kernel, by decide +kernel, by decide +kernel, by decide +kernel, by decide +kernel,
    by decide +kernel, by decide +kernel, by decide +kernel⟩
/-- The ends of the exact cases of the special functions: 128 and 127, -149, 1, 1/4, and a value past 9.01. -/
theorem witness_ElementArithmetic_exact :
    let q := fun c => valQ (decodeF fmtF32 c)
    q 0x43000000 = 128 ∧ q 0x42FE0000 = (127 : ℤ) ∧ q 0xC3150000 = (-149 : ℤ) ∧ q 0x3F800000 = 2 ^ (0 : ℤ) ∧
      q 0x3E800000 = 4 ^ (-1 : ℤ) ∧ q 0x3E800000 = 2 ^ (-2 : ℤ) ∧ 901 / 100 ≤ |q 0xC2FE0000| := by
  have h : ∀ e ∈ ([(0x43000000, false, 8388608, 65536), (0x42FE0000, false, 16646144, 131072), (0xC3150000, true, 9764864, 65536),
      (0x3F800000, false, 8388608, 8388608), (0x3E800000, false, 8388608, 33554432), (0xC2FE0000, true, 16646144, 131072)] :
      List (Nat × Bool × Nat × Nat)), decodeF fmtF32 e.1 = .fin e.2.1 e.2.2.1 e.2.2.2 := by decide +kernel
  obtain ⟨h1, h2, h3, h4, h5, h6, -⟩ := by simpa only [List.forall_mem_cons] using h
  simp only [h1, h2, h3, h4, h5, h6, valQ]
  norm_num
/-- Codebooks without a NaN, with one and without a number. -/
theorem witness_ElementArithmetic_codebook :
    (List.replicate 16 0x3F80).length = 16 ∧ valIsNan (decodeF fmtBf16 0x3F80) = false ∧ valIsNan (decodeF fmtBf16 0x7FC0) = true ∧
    valIsNan (decodeF fmtF32 0x3FC00000) = false ∧ valIsNan (decodeF fmtF32 0x7FC00000) = true ∧
    (∀ i < 16, valIsNan (decodeF fmtBf16 ((List.replicate 16 0x7FC0).getD i 0)) ≠ valIsNan (decodeF fmtF32 0x3FC00000)) := by
  decide +kernel

/-- Lanes 0 and 1 hold the addresses 0x100 and 0x104, or one that is misaligned. -/
def jumper (b : Word) : Group := { grp with vregs := [(32 * 8, 0x100), (32 * 8 + 1, b)] }
theorem witness_BranchesAndJumpsMove : Issues sA foc grp ∧ InAllot (seen foc grp) [31] ∧
    Issues (at' 1 foc (jumper 0x104)) foc (jumper 0x104) ∧
    (∀ l, l < 32 → foc.lanes.getLsbD l = true → (readV (seen foc (jumper 0x104)) 8 l).toNat % 4 = 0) ∧
    Issues (at' 1 foc (jumper 0x106)) foc (jumper 0x106) ∧ Clear foc (jumper 0x106) ∧
    (∃ l, l < 32 ∧ foc.lanes.getLsbD l = true ∧ (readV (seen foc (jumper 0x106)) 8 l).toNat % 4 ≠ 0) :=
  ⟨issues_sA, by unfold InAllot; decide +kernel, by unfold Issues; decide +kernel, by decide +kernel,
    by unfold Issues; decide +kernel, by unfold Clear; decide +kernel, 1, by decide +kernel⟩

/-- Lanes 0 and 1 hold their own masks. -/
def masks (a b : Word) : Group := { grp with vregs := [(32 * 8, a), (32 * 8 + 1, b)] }
/-- The mask that lane l of a group reads in v8. -/
def maskOf (g : Group) (l : Nat) : LaneMask := (readV (seen foc g) 8 l).setWidth 32
theorem witness_GsyncArrives (m : LaneMask) (h : m = 3 ∨ m = 7) :
    Issues (at' 1 foc (masks (m.zeroExtend 64) (m.zeroExtend 64))) foc (masks (m.zeroExtend 64) (m.zeroExtend 64)) ∧
      InAllot (seen foc (masks (m.zeroExtend 64) (m.zeroExtend 64))) [8] ∧ foc.lanes ≠ 0 ∧ foc.lanes &&& ~~~m = 0 ∧
      (∀ l, l < 32 → foc.lanes.getLsbD l = true → maskOf (masks (m.zeroExtend 64) (m.zeroExtend 64)) l = m) ∧
      openAcq (at' 1 foc (masks (m.zeroExtend 64) (m.zeroExtend 64))) (masks (m.zeroExtend 64) (m.zeroExtend 64)) foc.lanes = false ∧
      releaseWaits (at' 1 foc (masks (m.zeroExtend 64) (m.zeroExtend 64))) foc.gid (masks (m.zeroExtend 64) (m.zeroExtend 64)) foc.lanes .grp = false ∧
      (masks (m.zeroExtend 64) (m.zeroExtend 64)).barriers = [] ∧ (masks (m.zeroExtend 64) (m.zeroExtend 64)).blocks = [] ∧
      ((3 : LaneMask) &&& ~~~(foc.lanes ||| grp.exited) = 0) ∧ ((7 : LaneMask) &&& ~~~(foc.lanes ||| grp.exited) ≠ 0) := by
  unfold Issues InAllot; rcases h with rfl | rfl <;> decide +kernel
theorem witness_GsyncMisuse :
    (Issues (at' 1 foc (masks 3 7)) foc (masks 3 7) ∧ Clear foc (masks 3 7) ∧ InAllot (seen foc (masks 3 7)) [8] ∧
      foc.lanes.getLsbD 1 = true ∧ maskOf (masks 3 7) 1 ≠ maskOf (masks 3 7) (lowLane foc.lanes)) ∧
    Issues (at' 1 foc (masks 1 1)) foc (masks 1 1) ∧ Clear foc (masks 1 1) ∧
      (∀ l, l < 32 → foc.lanes.getLsbD l = true → maskOf (masks 1 1) l = maskOf (masks 1 1) (lowLane foc.lanes)) ∧
      foc.lanes &&& ~~~(maskOf (masks 1 1) (lowLane foc.lanes)) ≠ 0 := by
  unfold Issues InAllot Clear; decide +kernel

/-- A rep is the last word of the space; page 0 holds the two words of the instruction after it. -/
def repAt : Focus := { gid := 0, lanes := 3, pc := 0xFFFFFFFFFFFFFC, npc := 0 }
def repState (w : Nat) (g : Group) : State :=
  { State.reset.withFetchWord 64 w with
    agenda := [], focus := some repAt, groups := [(0, g)]
    teams := [(7, { uid := 7, node := 7, slots := [0] })], nodes := [(7, { uid := 7, ctx := 0, started := true })]
    cores := [(0, { tlb := [page0 0] })] }
/-- A group in its handler. -/
def handling : Group := { grp with trapbase := 0x1003#64, hlanes := 3, epc := 0x85000000_00000044#64 }
/-- Another run of the group repeats. -/
def repeating : Group := { grp with rep := { lanes := 4, active := true, next := 1 } }
theorem witness_WindowBaseAndRepeats :
    Issues sA foc grp ∧ grp.rep.active = false ∧ (24#11).toNat < grp.allot ∧ grp.allot ≤ (32#11).toNat ∧ Clear foc grp ∧
    repeating.rep.active = true ∧ repeating.rep.lanes ≠ repAt.lanes ∧
    (∀ g ∈ [grp, repeating], Issues (repState 0 g) repAt g ∧ hmode g = false ∧ Clear repAt g) ∧
    (Issues (repState 0 handling) repAt handling ∧ hmode handling = true ∧ Clear repAt handling) := by
  unfold Issues Clear; decide +kernel
/-- fmul.f32 v16, v0, s4, which is repeated by steps 1, 1 and 0, and misused past 127 by one of 4 of d and of b; nop, which is not
repeatable; movi v9, which has no a and no b; and cbld, of two words, which has no d. -/
theorem witness_RepStarts : ∀ g ∈ [grp, repeating],
    NextWords (repState 0x1040004B g) repAt g 0x1040004B 0 ∧ NextWords (repState 0x66000004 g) repAt g 0x66000004 0 ∧
    NextWords (repState 0x322417FD g) repAt g 0x322417FD 0 ∧
    NextWords (repState 0x01A3400F40004000 g) repAt g 0x40004000 0x01A3400F := by
  intro g hg
  simp only [List.mem_cons, List.not_mem_nil, or_false] at hg
  unfold NextWords
  rcases hg with rfl | rfl <;> decide +kernel
theorem witness_RepStarts_checks : ∀ g ∈ [grp, repeating],
    let p := ctxPart (groupCtx (repState 0x1040004B g) g)
    let dec := fun w v => decodeFor (repState 0x1040004B g) p w v
    let fm : Instr := .fmulVVS { sp := false, d := 16, a := 0, b := 4, ty := .f32 }
    dec 0x1040004B 0 = .ok fm ∧ repeatable 0x1040004B 0 = true ∧
      repMisuse { sp := false, cnt := 3, sd := 1, sa := 1, sb := 0 } 0x1040004B fm = false ∧
      127 < (0x1040004B : IWord).toNat / 2 ^ 18 % 128 + (31#5).toNat * repStep 3 ∧
      127 < (0x1040004B : IWord).toNat / 2 ^ 4 % 128 + (31#5).toNat * repStep 3 ∧
      127 < (0x1042004B : IWord).toNat / 2 ^ 11 % 128 + (31#5).toNat * repStep 3 ∧
    repeatable 0x66000004 0 = false ∧
    dec 0x322417FD 0 = .ok (.moviVecImm { sp := false, d := 9, ty := .i32, imm := 2045 }) ∧
      (stepFields (.moviVecImm { sp := false, d := 9, ty := .i32, imm := 2045 })).2 = (false, false) ∧
    (let cb : Instr := .cbld { sp := false, form := .s, neg := false, p := 0, d := 0, a := 8, b := 0, c := 0,
                               ty := .bf16, aux := 0, rnd := .dflt, sat := false, imm := 15 }
     dec 0x40004000 0x01A3400F = .ok cb ∧ (stepFields cb).1 = false) := by
  decide +kernel

/-- A window of lanes 0 and 1 with two instructions left. -/
def pend2 : Pend :=
  { id := 5, lanes := 3, active := 3, left := 2, dest := .vec 4, ty := .i32, pc := 60, words := 2, issued := true,
    atom := false, acq := none, vals := [], sram := false, fault := none, held := false }
theorem witness_RetireAdvances :
    (({ foc with iter := some ⟨2, 4, 72⟩ } : Focus).iter = some ⟨2, 4, 72⟩ ∧ 2 + 1 < 4) ∧
    (({ foc with iter := some ⟨3, 4, 72⟩ } : Focus).iter = some ⟨3, 4, 72⟩ ∧ 4 ≤ 3 + 1) ∧ foc.iter = none ∧
    pend2 ∈ ({ grp with pends := [pend2] } : Group).pends ∧ pend2.lanes &&& foc.lanes ≠ 0 ∧ pend2.held = false := by
  decide +kernel

theorem witness_WaitsAndExits :
    (let g := { grp with sregs := [(6, 1)] }
     Issues (at' 1 foc g) foc g ∧ pendsOf g foc.lanes = [] ∧
      (at' 1 foc g).clk.clock.toNat < (sGet (seen foc g) (6#7).toNat).toNat ∧
      (sGet (seen foc g) (5#7).toNat).toNat ≤ (at' 1 foc g).clk.clock.toNat ∧
      hmode g = false ∧ g.barriers = [] ∧ foc.lanes ||| g.exited ≠ 0xFFFFFFFF) ∧
    (Issues (at' 1 foc handling) foc handling ∧ hmode handling = true ∧
      handling.hlanes &&& ~~~(foc.lanes ||| handling.exited) = 0 ∧ foc.lanes ||| handling.exited ≠ 0xFFFFFFFF) ∧
    (let g := { grp with exited := 0xFFFFFFFC }
     Issues (at' 1 foc g) foc g ∧ g.barriers = [] ∧ foc.lanes ||| g.exited = 0xFFFFFFFF) ∧
    (runsOf sA 0 { grp with pcs := [(0, 64)] }).map (fun r => (r.lanes, r.rep)) = [(0xFFFFFFFE, false), (1, false)] ∧
    (let g := { grp with pends := [pend2] }
     Issues (at' 1 foc g) foc g ∧ pendsOf g foc.lanes ≠ []) := by
  unfold Issues; decide +kernel

/-! ### Witnesses: traps, special registers -/

theorem witness_TrapEntersHandler : mapFind sA.groups 0 = some grp ∧ hmode grp = false ∧ handlerOn grp = true ∧
    0xFF < 256 ∧ 2 ^ 56 - 1 < 2 ^ 56 := by decide +kernel
/-- The group with an event ring of 16 records at 0x20000, or with none. -/
def evented (k : Nat) (g : Group) (base : Word) : State :=
  { at' k foc g with
    ctxs := [(0, { ptbase := 0x10001 }), (1, { ptbase := 0x10001 })]
    parts := [(0, { started := true, masks := [(0, 1)], sevbase := base })] }
/-- Both places of a record, from a user context, and the supervisor's own context. -/
theorem witness_TrapWithoutHandlerStops :
    (mapFind (at' 1 foc handling).groups 0 = some handling ∧ hmode handling = true) ∧
    (let g := { grp with trapbase := 0 }
     mapFind (at' 1 foc g).groups 0 = some g ∧ hmode g = false ∧ handlerOn g = false ∧ foc.lanes &&& ~~~g.exited ≠ 0) ∧
    groupCtx (evented 1 handling 0x20004) handling = 1 ∧ (partAt (evented 1 handling 0x20004) 0).sevWait = [] ∧
    eventPlace (evented 1 handling 0x20004) 0 = .home 0x20000 ∧ eventPlace (evented 1 handling 0) 0 = .lost ∧
    groupCtx (evented 0 handling 0) handling = 0 := by decide +kernel
theorem witness_TrapAndBrkTrap : Issues sA foc grp ∧ Clear foc grp ∧ hmode grp = false :=
  ⟨issues_sA, clear_sA, by decide +kernel⟩
theorem witness_TretReturns : (Issues sA foc grp ∧ hmode (seen foc grp) = false ∧ Clear foc grp) ∧
    Issues (at' 1 foc handling) foc handling ∧ hmode (seen foc handling) = true := by unfold Issues Clear; decide +kernel
theorem witness_ScallStops : (Issues sA foc grp ∧ Clear foc grp ∧ foc.lanes &&& grp.exited = 0 ∧ hmode grp = false) ∧
    Issues (at' 1 foc handling) foc handling ∧ Clear foc handling ∧ foc.lanes &&& handling.exited = 0 ∧ hmode handling = true := by
  unfold Issues Clear; decide +kernel
theorem witness_SpecialRegisterAccesses : Issues sA foc grp ∧ InAllot (seen foc grp) [31] ∧ Clear foc grp ∧ feature sA 0 7 = true ∧
    feature State.reset 0 7 = false ∧
    (Issues (at' 1 foc handling) foc handling ∧ hmode (seen foc handling) = true) ∧ hmode (seen foc grp) = false ∧
    (0x0B#7).toNat ∉ [0x07, 0x08, 0x19, 0x1A, 0x20] := by unfold Issues InAllot Clear; decide +kernel
def isDone (r : CsrRes) : Bool :=
  match r with
  | .done _ => true
  | _ => false
theorem witness_ControlRegisterAccesses :
    (Issues sA foc grp ∧ Clear foc grp ∧ groupCtx sA grp % 256 ≠ 0 ∧
      csrRead sA (ctxPart (groupCtx sA grp)) (0x42#7).toNat = none ∧
      csrRead sA (ctxPart (groupCtx sA grp)) (0x7F#7).toNat ≠ none) ∧
    (let s := at' 0 foc grp
     Issues s foc grp ∧ groupCtx s grp % 256 = 0 ∧ csrRead s (ctxPart (groupCtx s grp)) (0x40#7).toNat = some 0 ∧
      isDone (csrWrite s (ctxPart (groupCtx s grp)) (foc.gid / 64 / 84) (0x40#7).toNat (sGet (seen foc grp) 6)) = true) := by
  unfold Issues Clear; decide +kernel

/-! ### Witnesses: memory -/

theorem noDirty_of (s : State) (h : ∀ e ∈ s.cores, e.2.l1 = []) : NoDirty s := by
  intro c y hy
  have key : ∀ m : SMap Core, (∀ e ∈ m, e.2.l1 = []) → (mapGet {} m c).l1 = [] := by
    intro m
    induction m with
    | nil => intro _; rfl
    | cons e m ih =>
      intro h
      simp only [mapGet, mapFind] at ih ⊢
      by_cases he : c = e.1
      · simpa [mapFind, he] using h e (by simp)
      · simpa [mapFind, he] using ih (fun e' he' => h e' (by simp [he']))
  rw [show (coreAt s c).l1 = [] from key _ h] at hy
  simp at hy

theorem noDirty_sA : NoDirty sA := noDirty_of _ (by decide +kernel)
theorem noEdits_sA : NoEdits sA grp := by unfold NoEdits; decide +kernel
theorem ready_sA (x : MArgs) : Ready x sA foc grp := by
  refine ⟨by decide +kernel, noEdits_sA, fun _ => ⟨?_, noDirty_sA⟩⟩
  cases x.sc <;> decide +kernel

/-- A 32-bit access of lane-register 31 or 7 at the address in v8 or s8. -/
def acc (form : Form) (ord : Order) : MArgs :=
  { sp := false, form, d := 31, a := 8, b := 7, look := 15, aop := 1, ty := .i32, ord, sc := .pkg, off := 0 }
theorem memFits_acc (form : Form) (ord : Order) (d b : Bool) : MemFits (acc form ord) (seen foc grp) d b := by
  unfold MemFits InAllot; cases form <;> cases ord <;> cases d <;> cases b <;> decide +kernel

theorem witness_GlobalAccessesIssue (form : Form) :
    Issues sA foc grp ∧ Ready { acc form .acq with ord := .rlx } sA foc grp ∧ Ready (acc form .ar) sA foc grp ∧
    MemFits (acc form .ar) (seen foc grp) true true ∧
    (∀ a ∈ accsOf (acc form .ar) (seen foc grp) foc.lanes foc.lanes,
      (globalCheck sA (gidCore foc.gid) (groupCtx sA grp) {} 4 a.addr 4).toOption = some (page0 1) ∧
      (globalCheck sA (gidCore foc.gid) (groupCtx sA grp) { write := true } 4 a.addr 4).toOption = some (page0 1) ∧
      (globalCheck sA (gidCore foc.gid) (groupCtx sA grp) { atom := true } 4 a.addr 4).toOption = some (page0 1)) ∧
    accSize .i32 = 4 ∧ (page0 1).attr.zero = false ∧
    TablesAwake sA foc grp (spans (accsOf (acc form .ar) (seen foc grp) foc.lanes foc.lanes) 4) ∧
    TablesAwake sA foc grp (spans (accsOf (acc form .ar) (seen foc grp) foc.lanes (guardLanes (acc form .ar) foc (seen foc grp))) 4) :=
  ⟨issues_sA, ready_sA _, ready_sA _, memFits_acc _ _ _ _, by cases form <;> decide +kernel, by decide, rfl,
    by unfold TablesAwake; cases form <;> decide +kernel, by unfold TablesAwake; cases form <;> decide +kernel⟩
/-- Page 6 is a ZERO page. -/
def tablesZ : SMap Byte := tables.filter (fun e => e.1 != 0x14032) |>.flatMap (fun e => if e.1 = 0x14030 then [e, (0x14037, 2)] else [e])
/-- The lanes hold addresses in page 6, or in an empty page. -/
def zeroG : Group := { grp with vregs := [(32 * 8, 0x60000), (32 * 8 + 1, 0x60004)], sregs := [(8, 0x60000)] }
/-- The pool of the context holds some frames. -/
def sZ (frames : Nat) : State :=
  { at' 1 foc zeroG with
    mem := { sA.mem with cellar := tablesZ }
    ctxs := [(1, { ptbase := 0x10001, pool := { logn := 4, base := 0x70000, en := true, tail := BitVec.ofNat 32 frames } })] }
def zeroTrans : Trans := (walk (sZ 0) 1 0x60000).getD (page0 1)
theorem witness_ZeroPagesIssue (form : Form) (n : Nat) (hn : n ∈ [0, 1]) :
    let x := acc form .rlx
    let s := sZ n
    Issues s foc zeroG ∧ Ready x s foc zeroG ∧ Clear foc zeroG ∧ MemFits x (seen foc zeroG) true true ∧
    (∀ c ∈ [(({ write := true } : Use), guardLanes x foc (seen foc zeroG)), ({ atom := true }, foc.lanes)],
      let accs := accsOf x (seen foc zeroG) foc.lanes c.2
      TablesAwake s foc zeroG (spans accs 4) ∧
      (∀ a ∈ accs, (globalCheck s 0 1 c.1 4 a.addr 4).toOption = some zeroTrans) ∧
      zeroPages s 1 (accs.map (fun a => (a, zeroTrans))) = [6] ∧ framesFree s 1 = n ∧ poolAsleep s 1 = none) := by
  simp only [List.mem_cons, List.not_mem_nil, or_false] at hn
  refine ⟨?_, ⟨?_, ?_, fun h => absurd (show ordRel .rlx = true from h) (by decide)⟩, ?_, ?_, ?_⟩
  · unfold Issues; rcases hn with rfl | rfl <;> decide +kernel
  · rcases hn with rfl | rfl <;> decide +kernel
  · unfold NoEdits; rcases hn with rfl | rfl <;> decide +kernel
  · unfold Clear; decide +kernel
  · unfold MemFits InAllot; cases form <;> decide +kernel
  · unfold TablesAwake; rcases hn with rfl | rfl <;> cases form <;> decide +kernel

/-- The accesses of lane-register 8 to the start of the scratchpad. -/
theorem witness_ScratchpadAccesses (form : Form) :
    Issues sA foc grp ∧ Ready (acc form .ar) sA foc grp ∧ MemFits (acc form .ar) (seen foc grp) true true ∧
    (∀ a ∈ accsOf (acc form .ar) (seen foc grp) foc.lanes foc.lanes, ∀ w : Bool,
      ((sramCheck sA (gidCore foc.gid) grp.team w a.addr 4).toOption.map (fun r =>
        !sramPoisoned sA (teamAt sA r.team) r.ob r.off 4)) = some true) ∧
    accSize .i32 ∈ [1, 2, 4, 8] ∧ (acc .s .ar).form = .s :=
  ⟨issues_sA, ready_sA _, memFits_acc _ _ _ _, by cases form <;> decide +kernel, by decide, rfl⟩

/-- Lane 0 is aligned, lane 1 is not. -/
theorem witness_MisalignedTraps :
    (let g := jumper 0x106
     let s := at' 1 foc g
     let x := acc .v .rlx
     Issues s foc g ∧ Clear foc g ∧ 0 < accSize x.ty ∧
      ∀ row ∈ accessRows x foc (seen foc g), openAcq s g foc.lanes = false ∧ TablesAwake s foc g [(0x100, 4), (0x106, 4)] ∧ NoEdits s g ∧ ordRel row.ready.ord = false ∧
        MemFits x (seen foc g) row.dest row.data ∧
        (accsOf x (seen foc g) foc.lanes row.lanes).map (fun a => (a.lane, a.addr)) = [(0, 0x100), (1, 0x106)] ∧
        (globalCheck s (gidCore foc.gid) (groupCtx s g) row.u (accSize x.ty) 0x100 (accSize x.ty)).toOption = some (page0 1)) := by
  unfold Issues Clear NoEdits MemFits InAllot TablesAwake; decide +kernel

/-- Line 4 of a MANUAL page of die 1 is held on die 0 in L1. -/
def sMan : State :=
  { sA with
    bins := [(0, { alloc := true, state := 0 }), (1152, { alloc := true, state := 0 })]
    parts := [(0, { started := true, feat := [(0, 0x3FF)], masks := [(0, 1), (16, 1)] })]
    out := { sA.out with binOwner := [(0, 0x80), (1152, 0x80)], sliceOwner := [(0, 0x80), (48, 0x80)] }
    cores := [(0, { bankrole := 0xAA55555500000000
                    tlb := [{ page0 1 with pa := 0x4800000000, attr := { w := true, manual := true } }]
                    l1 := [{ line := 0x90000004, gen := 0, tag := 1, data := List.replicate 128 9, mask := 1, manual := true }] })] }
def ranger : Group := { grp with sregs := [(8, 0x200), (7, 128)] }
theorem witness_FencesPrefetchesAndRanges :
    Issues sA foc grp ∧ Ready (acc .v .ar) sA foc grp ∧ MemFits (acc .v .ar) (seen foc grp) false false ∧
    (∀ l, l < 32 → (addrOf (acc .v .ar) (seen foc grp) l).toNat < 2 ^ 56) ∧
    loadsOpen sA grp foc.lanes = false ∧ (∀ r ∈ sA.reqs, r.stage = .accepted) ∧
    rangeCause sA (gidCore foc.gid) (groupCtx sA grp) 0x100 1 0x100 128 = none ∧
    (manualLines sMan foc ranger 1 0x200 128).map (·.1) = [0x200] ∧ rangeCause sMan (gidCore foc.gid) 1 0x200 128 0x200 128 = none ∧
    TablesAwake sMan foc ranger [(0x200, 128)] ∧ (∀ e ∈ sA.mem.proxies, e.2.mask = 0) ∧
    dirtyManual (drainL1 sMan (l1Cores sMan 0)) 0 0 = [0x90000004] ∧
    atHome (drainL1 sMan (l1Cores sMan 0)) 0 (128 * 0x90000004) = .ok :=
  ⟨issues_sA, ready_sA _, memFits_acc _ _ _ _, by decide +kernel, by decide +kernel, by decide +kernel, by decide +kernel,
    by decide +kernel, by decide +kernel, by unfold TablesAwake; decide +kernel, by decide +kernel, by decide +kernel, by decide +kernel⟩

/-- Window 3 of the context: 64 KiB at virtual address 0x70000. -/
def sW (g : Group) : State :=
  { at' 1 foc g with ctxs := [(1, { ptbase := 0x10001
                                    wins := [(3, { addr := 0x70000, len := 0x10000, ctl := 0, valid := true })] })] }
/-- s5 names window 3 with counter 2 and offset 0x40, s6 a local range, s7 its length. -/
def mover : Group := { grp with sregs := [(5, 0x0032000000000040), (6, 0x2000), (7, 128)] }
theorem witness_TransfersIssueAndCountersWait :
    Issues (sW mover) foc mover ∧ openAcq (sW mover) mover foc.lanes = false ∧ NoEdits (sW mover) mover ∧
    xferCause (sW mover) (gidCore foc.gid) (groupCtx (sW mover) mover) (sGet (seen foc mover) 5).toNat
      (sGet (seen foc mover) 6).toNat (sGet (seen foc mover) 7).toNat false = none ∧
    xferCause (sW mover) (gidCore foc.gid) (groupCtx (sW mover) mover) (sGet (seen foc mover) 5).toNat
      (sGet (seen foc mover) 6).toNat (sGet (seen foc mover) 7).toNat true = none ∧
    TablesAwake (sW mover) foc mover [((sGet (seen foc mover) 6).toNat, (sGet (seen foc mover) 7).toNat)] ∧
    (openAcq (sW mover) mover foc.lanes = false ∧ badName (sW mover) 1 (foc.gid / 64 / 84) 2 = false ∧
      (0 : Word).toNat ≤ (ctrValue (sW mover) 1 (foc.gid / 64 / 84) 2).toNat ∧
      (ctrValue (sW mover) 1 (foc.gid / 64 / 84) 2).toNat < (1 : Word).toNat ∧
      badName (sW mover) 1 (foc.gid / 64 / 84) (2 ^ 63 + 5) = true ∧ Clear foc mover) := by
  unfold Issues NoEdits Clear TablesAwake; decide +kernel

/-! ### Witnesses: requests, renaming, transfers, engines, transaction words -/

/-- A request of lane 0 to the four bytes at 0x200. -/
def rq (kind : ReqKind) (stage : Stage) : Req :=
  { id := 9, core := 0, gid := 0, uid := 7, team := 7, ctx := 1, lanes := 1, pend := 5, va := 0x200, pa := 0x200, size := 4, gen := 0,
    attr := { w := true }, kind, rel := false, stage, data := List.replicate 128 0, poison := false, fill := false,
    cover := 0, acq := false, tag := 0 }
def sR (r : Req) : State := { sA with reqs := [r] }
theorem witness_HomePerformsRequests (kind : ReqKind)
    (h : kind ∈ [.store [1, 2, 3, 4], .atom 1 .i32 5 0 0, .load]) :
    AtItsHome (sR (rq kind .queued)) (rq kind .queued) ∧ sA.mem.poison.contains (0x200 / 128) = false ∧
      (rq kind .queued).attr.shadow = false := by
  unfold AtItsHome
  simp only [List.mem_cons, List.not_mem_nil, or_false] at h
  rcases h with rfl | rfl | rfl <;> decide +kernel
/-- The same line of a SHADOW page, whose copy is kept. -/
theorem witness_HomePerformsRequests_shadow :
    let r := { rq .load .queued with attr := { shadow := true } }
    let s := { sR r with mem := { sA.mem with shadows := [(4, { line := 4, gen := 0, tag := 0, data := List.replicate 128 7, mask := 0 })] } }
    AtItsHome s r ∧ s.mem.poison.contains 4 = false ∧ (mapFind s.mem.shadows (r.pa / 128)).isSome = true := by
  unfold AtItsHome; decide +kernel
/-- Two lanes store to one byte through two mappings of its frame; and a load of a ZERO page behind such a store, which waits for
the page's frame. -/
theorem witness_HomePerformsRequests_twins :
    let r := { rq (.store [1, 2, 3, 4]) .queued with iid := 3 }
    let q := { rq (.store [5, 6, 7, 8]) .queued with id := 10, lanes := 2, iid := 3, va := 0x10200 }
    let s := { sA with reqs := [r, q], mem := { sA.mem with cellar := tables.map (fun e => if e.1 = 0x1400A then (e.1, 0) else e) } }
    AtItsHome s r ∧ s.mem.poison.contains 4 = false ∧ twins s r = [q] := by
  unfold AtItsHome; decide +kernel
theorem witness_ZeroPageLoads :
    let q := { rq (.store [1, 2, 3, 4]) .queued with attr := { zero := true, w := true } }
    let r := { rq .load .queued with id := 10, lanes := 2, attr := { zero := true, w := true } }
    let s : State := { sA with
      reqs := [q, r]
      mem := { sA.mem with cellar := tables.flatMap (fun e => if e.1 = 0x14000 then [e, (0x14007, 2)] else [e]) } }
    reqAt s r.id = some r ∧ r.stage = .queued ∧ reqBlocked s r = false ∧ reqRefused s r = false ∧ r.attr.zero = true ∧
    overlayQueue s r (List.replicate 128 0) ≠ List.replicate 128 0 ∧ (∀ p ∈ [r], p.id < r.id → isStore p = false) := by
  decide +kernel
theorem witness_RetranslationAndWalks :
    (let r := rq (.store [1, 2, 3, 4]) .refused
     reqAt (sR r) r.id = some r ∧ r.stage = .refused ∧ (recheck (sR r) r).toOption = some (page0 1) ∧
      (page0 1).attr.zero = false ∧ (page0 1).attr.manual = false) ∧
    (let r := { rq .load .refused with va := 0x8000000 }
     reqAt (sR r) r.id = some r ∧ r.stage = .refused ∧ r.kind = .load ∧
      (match recheck (sR r) r with | .error c => c | .ok _ => 0) = 0x40) ∧
    walk sA 1 0x10 = some (page0 1) ∧ tableAsleep sA 1 0x10 = none ∧ 335 < 336 ∧ 2 ^ 56 - 1 < 2 ^ 56 := by decide +kernel
theorem witness_ResponsesWriteRegisters (atom poison : Bool) :
    (∀ d ∈ ([.vec 4, .uni 9] : List Dest),
      let p := { pend2 with atom, dest := d }
      let g := { grp with pends := [p] }
      let r := { rq .load .accepted with poison, tag := 0xB1 }
      let s := { at' 1 foc g with reqs := [r] }
      pendAt s 5 = some (0, p) ∧ mapFind s.groups 0 = some g ∧ p ∈ g.pends ∧ p.fault = none ∧ p.sram = false ∧
        pendReqs s 5 = [r] ∧ r.stage = .accepted ∧ r.poison = poison ∧ (pendReqs s 5).Pairwise (fun a b => a.lanes &&& b.lanes = 0) ∧
        r.lanes.getLsbD 0 = true ∧ p.active.getLsbD 0 = true) := by
  cases atom <;> cases poison <;> decide +kernel
/-- A line with byte 0 dirty. -/
def dirtyLine (mask : BitVec 128) : Copy := { line := 4, gen := 0, tag := 1, data := List.replicate 128 9, mask }
/-- A state in which the slices of die 3 hold that line: the partition has none there. -/
def withProxy (m : BitVec 128) : State := { sA with mem := { sA.mem with proxies := [(195 * 2 ^ 45 + 4, dirtyLine m)] } }
theorem witness_AcknowledgementsAndEvictions :
    (reqAt (sR (rq (.store [1, 2, 3, 4]) .accepted)) 9 = some (rq (.store [1, 2, 3, 4]) .accepted) ∧
      isStore (rq (.store [1, 2, 3, 4]) .accepted) = true) ∧
    ((copyAt (coreAt { sA with cores := [(0, { l1 := [dirtyLine 1] })] } 0).l1 4).map (·.mask) = some 1 ∧
      (proxyAt { sA with cores := [(0, { l1 := [dirtyLine 1] })] } (0 / 84) 4).isNone = true) ∧
    ((proxyAt (withProxy 0) 3 4).map (·.mask) = some 0 ∧ (proxyAt (withProxy 1) 3 4).map (·.mask) = some 1 ∧
      ownerPart (withProxy 1).out.binOwner (binOf (128 * 4)) = some 0) := by
  refine ⟨by decide +kernel, by decide +kernel, by decide +kernel⟩
theorem witness_proxy_home : atHome (withProxy 1) 0 (128 * 4) = .ok := by decide +kernel

/-- Operands of the renaming instructions. -/
def renamer : Group :=
  { grp with sregs := [(10, 0x70000), (11, 0x10000), (12, 0x50000), (13, 0x10000), (14, 0x90000), (15, 0x40000), (16, 0x20000),
                       (17, 0x10000), (18, 2), (19, 1), (20, 0x51000), (21, 0xA0000)] }
def regs3 (d a b : BitVec 7) : MArgs :=
  { sp := false, form := .s, d, a, b, look := 0, aop := 1, ty := .i64, ord := .rlx, sc := .clu, off := 0 }
/-- The row of a renaming instruction, by its place in the list. -/
def mapRow (i : Nat) (x : MArgs) : Instr × Plan := (mapRows x (seen foc renamer)).getD i (.mapCat x, planDrop 0 0)
theorem witness_RenamingAccepted :
    Issues (at' 1 foc renamer) foc renamer ∧ openAcq (at' 1 foc renamer) renamer foc.lanes = false ∧
    ∀ e ∈ ([(0, regs3 10 12 0), (1, regs3 14 15 17), (2, regs3 15 12 13), (3, regs3 14 15 13), (4, regs3 0 15 13),
      (5, regs3 18 15 19)] : List (Nat × MArgs)),
      e.1 < (mapRows e.2 (seen foc renamer)).length ∧
      e.2.b.toNat + ((sGet (seen foc renamer) e.2.d.toNat).toNat + 3) / 4 ≤ (if e.1 = 5 then 128 else 2 ^ 64) ∧
      (∀ a ∈ (mapRow e.1 e.2).2.addrs, a < 2 ^ 56) ∧ (mapRow e.1 e.2).2.bad = false ∧ (mapRow e.1 e.2).2.seam = false ∧
      rangesBusy (at' 1 foc renamer) 1 (((mapRow e.1 e.2).2.mapped ++ (mapRow e.1 e.2).2.empty).map (fun a => (a, 65536)))
        (fun _ => true) = false ∧
      TablesAwake (at' 1 foc renamer) foc renamer ((mapRow e.1 e.2).2.pages.map (fun a => (a, 65536))) ∧
      mapCause (at' 1 foc renamer) 0 1 (mapRow e.1 e.2).2 = none ∧ (ctxAt (at' 1 foc renamer) 1).pool.heldFrames = [] ∧
      framesNeeded (at' 1 foc renamer) 1 (mapRow e.1 e.2).2 ≤ framesFree (at' 1 foc renamer) 1 := by
  refine ⟨by unfold Issues; decide +kernel, by decide +kernel, ?_⟩
  unfold TablesAwake
  decide +kernel
/-- A split inside a page needs one frame, which a pool has or not. -/
def sCut (n : Nat) : State :=
  { at' 1 foc renamer with
    ctxs := [(1, { ptbase := 0x10001, pool := { logn := 4, base := 0x70000, en := true, tail := BitVec.ofNat 32 n } })] }
theorem witness_RenamingAccepted_frame : ∀ n ∈ [0, 1],
    let p := planSplit 0x98000 0x40000 0x20000 0x8000
    p.bad = false ∧ p.seam = false ∧ mapCause (sCut n) 0 1 p = none ∧ framesNeeded (sCut n) 1 p = 1 ∧ framesFree (sCut n) 1 = n ∧
      (ctxAt (sCut n) 1).pool.heldFrames = [] ∧ poolAsleep (sCut n) 1 = none ∧ (sCut n).edits = [] := by decide +kernel
theorem witness_RenamingRefused :
    Clear foc renamer ∧ (mapRow 4 (regs3 0 15 0)).2.bad = true ∧
    (mapRow 0 (regs3 10 20 0)).2.bad = true ∧
    ((mapRow 0 (regs3 10 12 0)).2.bad = false) ∧
    ((mapRow 4 (regs3 0 21 13)).2.bad = false ∧ (mapRow 4 (regs3 0 21 13)).2.seam = false ∧
      (at' 1 foc renamer).edits = [] ∧ (mapRow 4 (regs3 0 21 13)).2.mapped = [0xA0000] ∧
      pageEntry (at' 1 foc renamer) 1 0xA0000 = none ∧ walkDead (at' 1 foc renamer) 1 0xA0000 = none ∧
      openAcq (at' 1 foc renamer) renamer foc.lanes = false ∧
      TablesAwake (at' 1 foc renamer) foc renamer ((mapRow 4 (regs3 0 21 13)).2.pages.map (fun a => (a, 65536)))) := by
  unfold Clear TablesAwake; decide +kernel
theorem witness_MapQueryReads : Issues sA foc grp ∧ NoEdits sA grp ∧ (sGet (seen foc grp) 8).toNat < 2 ^ 56 ∧
    walk sA (groupCtx sA grp) (sGet (seen foc grp) 8).toNat = some (page0 1) ∧ walk sA (groupCtx sA grp) 0xA0000 = none ∧
    (∀ va ∈ [0, 0xA0000], TablesAwake sA foc grp [(va, 1)] ∧ walkDead sA (groupCtx sA grp) va = none) :=
  ⟨issues_sA, noEdits_sA, by decide +kernel, by decide +kernel, by decide +kernel, by unfold TablesAwake; decide +kernel⟩

/-- The leaf entry of a page, as a computation. -/
def leafOf (s : State) (k va : Nat) : Option Nat :=
  match walkCtx s k va with
  | some (f, _) => if f.level = 0 ∧ tableMine s k f.slot = true then some f.slot else none
  | none => none
theorem leafSlot_iff {s : State} {k va slot : Nat} : LeafSlot s k va slot ↔ leafOf s k va = some slot := by
  unfold LeafSlot leafOf
  cases h : walkCtx s k va with
  | none => simp
  | some e =>
    obtain ⟨f, b⟩ := e
    constructor
    · rintro ⟨f', b', he, h0, rfl, hm⟩
      cases he
      simp [h0, hm]
    · intro h
      simp only at h
      split at h
      · rename_i hc
        cases h
        exact ⟨f, b, rfl, hc.1, rfl, hc.2⟩
      · cases h
/-- The entries on the way of a walk in a context. -/
def wayOf (s : State) (k va : Nat) : List Nat := entriesAbove s.mem va 4 (bitsOf (ctxAt s k).ptbase.toNat 11 41 * 2048)
/-- PagesApart as a computation. -/
def apart (s : State) (k : Nat) (pages : List Nat) : Bool :=
  pages.all (fun a => match leafOf s k a with
    | some slot => pages.all (fun c => !(wayOf s k c).contains slot && (decide (c = a) || decide (leafOf s k c ≠ some slot)))
    | none => false)
theorem pagesApart_of {s : State} {k : Nat} {pages : List Nat} (h : apart s k pages = true) : PagesApart s k pages := by
  intro a ha
  have h := List.all_eq_true.1 h a ha
  cases hs : leafOf s k a with
  | none => simp [hs] at h
  | some slot =>
    refine ⟨slot, leafSlot_iff.2 hs, fun c hc => ?_⟩
    simp only [hs] at h
    have h := List.all_eq_true.1 h c hc
    simp only [Bool.and_eq_true, Bool.or_eq_true, decide_eq_true_eq, Bool.not_eq_true', List.contains_eq_mem,
      decide_eq_false_iff_not] at h
    exact ⟨h.1, fun hne hl => (h.2.resolve_left hne) (leafSlot_iff.1 hl)⟩

/-- An edit of page 4 and 5, or the first write of a ZERO page. -/
def edit (op : EditOp) (committed : Bool) (upTo : Nat) : Edit :=
  { id := 9, ctx := 1, die := 0, core := 0, gid := 0, uid := 7, lanes := 3, scope := .clu, op, ranges := [(0x40000, 0x20000)],
    frames := [], waits := [], committed, upTo, pte := false }
def sE (e : Edit) : State := { sA with edits := [e], mem := { sA.mem with cellar := tablesZ } }
theorem witness_EditsCommit : ∀ op ∈ ([.xchg 0x40000 0x50000 0x10000, .drop 0x40000 0x20000, .perm 0x40000 [1, 0],
      .cat 0x90000 0 0x40000 0x10000, .split 0x40000 0x20000 0x10000 0x90000, .renameAlias 0x90000 0x40000 0x20000 true,
      .install 0x50000 65536 0x90007, .remove 0x40000 65536] : List EditOp),
    editAt (sE (edit op false 0)) 9 = some (edit op false 0) ∧ isZeroEdit (edit op false 0) = false ∧
      mayCommit (sE (edit op false 0)) (edit op false 0) = true ∧ editAsleep (sE (edit op false 0)) (edit op false 0) = [] ∧
      (edit op false 0).frames = [] := by decide +kernel
/-- The operands of two of them, and their pages: two apart, and an end of an exchange that is not its pages' end. -/
theorem witness_EditsCommit_pages :
    WholePages (sE (edit (.drop 0x40000 0x20000) false 0)) 1 (.drop 0x40000 0x20000) ∧
    WholePages (sE (edit (.xchg 0x40000 0x50000 0x10000) false 0)) 1 (.xchg 0x40000 0x50000 0x10000) ∧
    (∀ op ∈ ([.xchg 0x40000 0x50000 0x10000, .drop 0x40000 0x20000, .perm 0x40000 [1, 0]] : List EditOp),
      opPages op ⊆ [0x40000, 0x50000]) ∧
    PagesApart (sE (edit (.drop 0x40000 0x20000) false 0)) 1 [0x40000, 0x50000] := by
  refine ⟨⟨by decide, ?_⟩, ⟨by decide, ?_, ?_, by decide⟩, by decide +kernel, pagesApart_of (by decide +kernel)⟩
  all_goals
    intro i hi
    have : i < 2 := by omega
    interval_cases i <;> decide +kernel
theorem witness_EditsComplete_zero :
    let e : Edit := { edit (.zeroPage 0x60000) false 0 with ranges := [(0x60000, 0x10000)], frames := [0x90000] }
    let s := sE e
    (editAt s 9 = some e ∧ rangesBusy s e.ctx e.ranges (fun y => decide (y.id < e.id)) = false ∧
      zeroNeed s e.ctx [0x60000 / 65536] ≤ e.frames.length + framesFree s e.ctx ∧ tableAsleep s e.ctx 0x60000 = none ∧
      zeroWaits s e.ctx 0x60000 (e.frames.headD 0) = false ∧ (partAt s (ctxPart e.ctx)).sevWait = [] ∧
      pageEntry s e.ctx 0x60000 = some (0, 2 ^ 57 + 7) ∧ (pteAttr (2 ^ 57 + 7)).zero = true ∧
      (∀ q ∈ wayOf s 1 0x60000, q / 65536 ≠ 0x90000 / 65536)) ∧
    PagesApart s e.ctx [0x60000] ∧ (∀ slot, LeafSlot s e.ctx 0x60000 slot → slot / 65536 ≠ 0x90000 / 65536) := by
  refine ⟨by decide +kernel, pagesApart_of (by decide +kernel), fun slot h => ?_⟩
  have h' := leafSlot_iff.1 h
  have : leafOf (sE { edit (.zeroPage 0x60000) false 0 with ranges := [(0x60000, 0x10000)], frames := [0x90000] }) 1 0x60000 =
      some 0x14030 := by decide +kernel
  rw [show slot = 0x14030 from Option.some.inj (h'.symm.trans this)]
  decide
theorem witness_EditsComplete : ∀ u ∈ [0, 1, 2, 3],
    editAt (sE (edit (.drop 0x40000 0x20000) true u)) 9 = some (edit (.drop 0x40000 0x20000) true u) ∧
    returnWaits (sE (edit (.drop 0x40000 0x20000) true u)) (edit (.drop 0x40000 0x20000) true u) = false := by decide +kernel
/-- A granted page to return, and the host's mailbox ring with room for its message. -/
theorem witness_EditsComplete_back :
    let e : Edit := { edit (.remove 0x40000 65536) true 3 with back := [(0x40000, 0x500000, 0x40000)] }
    let s : State := { sE e with parts := [(0, { started := true, masks := [(0, 1)], mbxring := 4 })] }
    editAt s 9 = some e ∧ e.committed = true ∧ 3 ≤ e.upTo ∧ returnWaits s e = false ∧ e.back ≠ [] := by decide +kernel

/-- Frames 9 and 3 wait to be released; frame 3 is mapped again. -/
def sF : State :=
  { sA with
    mem := { sA.mem with releasing := [(1, 9), (1, 3)] }
    ctxs := [(1, { ptbase := 0x10001, pool := { logn := 4, base := 0x70000, en := true } })] }
theorem witness_FramesReturnToPool :
    sF.mem.releasing.find? (fun e => e.2 == 9) = some (1, 9) ∧ mapGet 0 sF.mem.counts 9 = 0 ∧
    ringRefuses (ctxAt sF 1).pool = false ∧ sF.edits = [] ∧
    atHome sF 0 (poolSlot (ctxAt sF 1).pool (ctxAt sF 1).pool.tail) = .ok ∧
    sF.mem.releasing.find? (fun e => e.2 == 3) = some (1, 3) ∧ mapGet 0 sF.mem.counts 3 ≠ 0 := by decide +kernel

def xfer (get : Bool) (stage : Nat) : Xfer :=
  { id := 9, get, core := 0, gid := 0, uid := 7, team := 7, ctx := 1, lanes := 3, win := 3, off := 0x40, loc := 0x2000, len := 4,
    ctr := 15, op := none, stage, waits := [], rel := none }
def sX (x : Xfer) : State := { sW mover with xfers := [x] }
theorem witness_TransfersRaiseCounters :
    (∀ e ∈ [(false, 0), (false, 1), (true, 0)], xferAt (sX (xfer e.1 e.2)) 9 = some (xfer e.1 e.2)) ∧
    (∀ g : Bool, xferSwitched (sX (xfer g 0)) (xfer g 0) = false) ∧
    (xferReady (sX (xfer false 0)) (xfer false 0) = true ∧ xferAsleep (sX (xfer false 0)) (xfer false 0) = [] ∧
      winKind (winAt (sX (xfer false 0)) 1 3) = 0 ∧
      (∀ va ∈ remoteVas (sX (xfer false 0)) (xfer false 0), needsFrame (sX (xfer false 0)) 1 va = false) ∧
      mapFind (ctxAt (sX (xfer false 0)) 1).wins 3 ≠ none) ∧
    (xferReady (sX (xfer true 0)) (xfer true 0) = true ∧ xferAsleep (sX (xfer true 0)) (xfer true 0) = [] ∧
      (∀ va ∈ localVas (xfer true 0), needsFrame (sX (xfer true 0)) 1 va = false) ∧
      (getPieces (xferStart (sX (xfer true 0)) (xfer true 0)) (xfer true 0)).2 = false ∧ (xfer true 0).ctx % 256 ≠ 0) := by
  refine ⟨by decide +kernel, by decide +kernel, by decide +kernel, by decide +kernel⟩
/-- A copy into a window whose page failed awaits its acknowledgement. -/
theorem witness_TransfersRaiseCounters_copy :
    let x := { xfer false 1 with op := some 8 }
    let o : EngOp := { id := 8, core := 0, gid := 0, uid := 7, team := 7, ctx := 1, press := false, kind := .s2g 0 0x20000 2, tx := none
                       txTeams := [], parts := [], block := 0, done := true, lost := [0x70000] }
    let s := { sX x with ops := [o] }
    xferAt s 9 = some x ∧ opAt s 8 = some o ∧ x.get = false ∧ x.stage = 1 ∧ o.lost ≠ [] ∧ mapFind s.groups o.gid = some mover ∧
      mover.uid = o.uid := by decide +kernel
theorem localByte_of {s : State} {x : Xfer} {va pa : Nat} (h : (match pieceCheck s x.ctx (coreDie x.core) { write := x.get } va with
    | .ok tr => !tr.attr.zero && !tr.attr.fmt && decide (transPa tr va = pa) && !remoteManual x.core tr.attr pa &&
        decide (atHome s (ctxPart x.ctx) pa = .ok)
    | .error _ => false) = true) : LocalByte s x va pa := by
  split at h
  · rename_i tr e; simp at h; exact ⟨tr, e, by simp [h]⟩
  · cases h
theorem windowByte_of {s : State} {x : Xfer} {va pa : Nat} (h : (winCheck s x.ctx (!x.get) va = none ∧
    (match walk s x.ctx va with
    | some tr => !tr.attr.zero && !tr.attr.fmt && decide (transPa tr va = pa) && decide (atHome s (ctxPart x.ctx) pa = .ok)
    | none => false) = true)) : WindowByte s x va pa := by
  refine ⟨h.1, ?_⟩
  have h := h.2
  split at h
  · rename_i tr e; simp at h; exact ⟨tr, e, by simp [h]⟩
  · cases h
/-- Both ways, the four bytes lie on pages 0 and 7, and the tables in frame 1. -/
theorem witness_TransfersRaiseCounters_bytes (get : Bool) : BytesApart (sX (xfer get 0)) (xfer get 0) := by
  refine ⟨fun i => 0x2000 + i, fun i => 0x70040 + i, fun i hi => ⟨localByte_of ?_, windowByte_of ?_, fun j hj => ?_⟩⟩
  · have hi : i < 4 := hi
    interval_cases i <;> cases get <;> decide +kernel
  · have hi : i < 4 := hi
    interval_cases i <;> cases get <;> decide +kernel
  · have hi : i < 4 := hi
    have hj : j < 4 := hj
    have key : ∀ va ∈ ([0x2000, 0x2001, 0x2002, 0x2003, 0x70040, 0x70041, 0x70042, 0x70043] : List Nat),
        (∀ q ∈ wayOf (sX (xfer get 0)) 1 va, 0x2004 ≤ q ∧ q + 8 ≤ 0x70040) ∧
          (leafOf (sX (xfer get 0)) 1 va).all (fun q => decide (0x2004 ≤ q ∧ q + 8 ≤ 0x70040)) = true := by
      cases get <;> decide +kernel
    have hw : winVa (winAt (sX (xfer get 0)) 1 (xfer get 0).win) (xfer get 0).off = 0x70040 := by
      cases get <;> decide +kernel
    simp only [hw, show (xfer get 0).get = get from rfl, show (xfer get 0).loc = 0x2000 from rfl,
      show (xfer get 0).ctx = 1 from rfl]
    refine ⟨by omega, by cases get <;> simp, fun va hva => ?_⟩
    obtain ⟨h1, h2⟩ := key va (by
      simp only [List.mem_cons, List.not_mem_nil, or_false] at hva ⊢
      omega)
    refine ⟨fun q hq => ?_, fun q hq => ?_⟩
    · have := h1 q hq
      cases get <;> simp <;> omega
    · rw [leafSlot_iff.1 hq] at h2
      have h2 : 0x2004 ≤ q ∧ q + 8 ≤ 0x70040 := by simpa using h2
      cases get <;> simp <;> omega

/-- s5 an offset in the team's space, s6 the global range at 0x20000, s7 a length of 256 bytes without a word, s9 a row
stride of 1,024. -/
def racker : Group := { grp with sregs := [(5, 0x1000), (6, 0x20000), (7, 256), (9, 1024), (10, 0x2001000)] }
def eng (d a b : BitVec 7) (param : BitVec 12) : EArgs :=
  { sp := false, d, a, b, handle := 0, shape := 0, cls := 0, param }
def sEng : State := at' 1 foc racker
/-- An engine instruction's plan passes, and its core has room. -/
def planGood (press : Bool) (p : EngPlan) : Bool :=
  p.fails.isEmpty && p.asleep.isEmpty && (walksAsleep sEng 0 1 p.vas).isNone && engineRoom sEng 0 press (p.locks.filter (fun l => !l.cont)).length
    (match p.tx with | some a => p.txTeams.map (fun t => (t, a)) | none => [])
theorem witness_EngineOpsRegister_copies : Issues sEng foc racker ∧ openAcq sEng racker foc.lanes = false ∧ NoEdits sEng racker ∧
    planGood false (planG2s (eng 5 6 7 0) sEng foc racker) = true ∧ planGood false (planS2g (eng 6 5 7 0) sEng foc racker) = true ∧
    planGood false (planS2s (eng 10 5 7 0) sEng foc racker) = true ∧ planGood false (planMc (eng 5 6 7 1) sEng foc racker) = true := by
  unfold Issues NoEdits; decide +kernel
theorem witness_EngineOpsRegister_press :
    planGood true (planMm (eng 0 5 5 0) sEng foc racker) = true ∧ planGood true (planMmLd (eng 0 5 9 0x00B) sEng foc racker) = true ∧
    planGood true (planMmSt (eng 0 5 9 0x00B) sEng foc racker) = true := by decide +kernel
/-- A misaligned scratchpad operand is cause 0x78; a page in a bin that is not allocated is cause 0x4A, to the supervisor. -/
theorem witness_EngineChecksTrap : Clear foc racker ∧ (planG2s (eng 7 7 7 0) sEng foc racker).asleep = [] ∧
    (planG2s (eng 9 11 11 0) sEng foc racker).fails ≠ [] ∧ TablesAwake sEng foc racker (planG2s (eng 9 11 11 0) sEng foc racker).vas ∧
    ∀ e ∈ (planG2s (eng 9 11 11 0) sEng foc racker).fails, e = (0x78, 0) := by unfold Clear TablesAwake; decide +kernel
theorem witness_EngineChecksTrap_bin :
    let s : State := { sEng with
      cores := [(0, { bankrole := 0xAA55555500000000, tlb := [{ page0 1 with va := 0x20000, pa := 0x50000000 }] })]
      out := { sEng.out with binOwner := [(0, 0x80), (5, 0x80)] } }
    let p := planG2s (eng 5 6 7 0) s foc racker
    Issues s foc racker ∧ openAcq s racker foc.lanes = false ∧ p.asleep = [] ∧ p.fails.map (·.1) = [0x4A] ∧
      TablesAwake s foc racker p.vas := by
  unfold Issues TablesAwake; decide +kernel

/-- A Press operation, and an operation with parts still to arrive. -/
def engOp (press : Bool) (kind : OpKind) (parts : List Part) (done : Bool) : EngOp :=
  { id := 9, core := 0, gid := 0, uid := 7, team := 7, ctx := 1, press, kind, tx := none, txTeams := [7], parts, block := 0, done }
def sO (o : EngOp) : State := { sA with ops := [o] }
def part (lo : Nat) : Part := { team := 7, lo, hi := lo + 16, len := 16, chunk := none }
/-- The first and the last block of an mm of K 32 or 64, a tile of the scratchpad, and a tile of C. -/
theorem witness_EngineOpsProceed_press :
    ∀ o ∈ [engOp true (.mm 0 0 32 false 0 0 0) [] false, { engOp true (.mm 0 0 64 true 0 0 0) [] false with block := 1 },
      engOp true (.mmLd 0 .bf16 false 0 1024 0) [] false,
      engOp true (.mmSt 0 .f32 .dflt false false 0 1024 0) [] false],
      opAt (sO o) o.id = some o ∧ o.press = true ∧ o.done = false ∧ (sO o).ops.any (fun e => entryWaits (sO o) e o) = false ∧
      switchHolds (sO o) o.ctx o.id (fun _ => (tileLocs o).map (locLines (sO o) o.ctx)) = false ∧
      (tileLocs o).filterMap (locAsleep (sO o) o.ctx) = [] := by decide +kernel
theorem witness_EngineOpsProceed_tile :
    ∀ l ∈ [Loc.glob 0x20000, Loc.glob (0x20000 + 1023 * 64), srcLoc sA 7 0 0], readLoc sA 1 0 { engine := true } l = some (0, false) ∧
      readLoc sA 1 0 { engine := true } (.glob 0x90000) = none := by decide +kernel
/-- Blocks with a NaN, with an infinity times zero, with infinities of both signs and of one, and with finite products alone. -/
theorem witness_EngineOpsProceed_blocks :
    let one := decodeF fmtF32 0x3F800000
    let inf := fun n => Val.inf n
    valIsNan (decodeF fmtF32 0x7FC00000) = true ∧
    (([(one, inf false), (one, inf true)] : List (Val × Val)).any (fun p => prodVal one p.1 one p.2 == .inf true) = true) ∧
    (([(one, inf false), (one, inf true)] : List (Val × Val)).any (fun p => prodVal one p.1 one p.2 == .inf false) = true) ∧
    (∀ n, prodNan one one one (inf n) = false ∧ prodVal one one one (inf n) = inf n) ∧
    prodNan one one one one = false ∧ (sumFrac [prodVal one one one one]).1 ≠ 0 ∧
    (sumFrac [prodVal one one one (.zero true)]).1 = 0 ∧ prodVal one one one (.zero true) = .zero true := by decide +kernel
/-- A part to a team, one of a put-back to global memory, and the message of a queue that sends. -/
def sNet : State :=
  { sA with parts := [(0, { started := true, feat := [(0, 0x3FF)], masks := [(0, 1)], queues := [(5, { ctl := 0x11 })] })] }
theorem witness_EngineOpsProceed_parts :
    (let o := engOp false (.s2s 0 0x2001000 32) [part 0x1000, part 0x1010] true
     opAt (sO o) 9 = some o ∧ o.parts[1]? = some (part 0x1010) ∧ partHeld (sO o) o = false ∧
      switchHolds (sO o) 1 9 (fun _ => (partLocs (sO o) o (part 0x1010)).map (locLines (sO o) 1)) = false ∧
      (partLocs (sO o) o (part 0x1010)).filterMap (locAsleep (sO o) 1) = [] ∧ partPages (sO o) o (part 0x1010) = []) ∧
    (let p : Part := { team := 0, lo := 0x20000, hi := 0x20002, len := 2, chunk := none }
     let o := engOp false (.s2g 0 0x20000 2) [p] true
     opAt (sO o) 9 = some o ∧ switchHolds (sO o) 1 9 (fun _ => (partLocs (sO o) o p).map (locLines (sO o) 1)) = false ∧
      (partLocs (sO o) o p).filterMap (locAsleep (sO o) 1) = [] ∧
      (∀ va ∈ partPages (sO o) o p, needsFrame (sO o) 1 va = false) ∧ (∀ l ∈ partReads (sO o) o p, locFabric (sO o) 1 l = none) ∧
      (partBytes (sO o) o p).map (·.1) = [0x20000, 0x20001] ∧ (mapFind (sO o).groups 0).map (·.uid) = some 7) ∧
    (let p : Part := { team := 0, lo := 0, hi := 2, len := 2, chunk := none }
     let o := engOp false (.net 0 5 2) [p] true
     let s := { sNet with ops := [o] }
     partHeld s o = false ∧ o.parts.length = 1 ∧ o.bad = [] ∧ switchHolds s 1 9 (fun _ => (partLocs s o p).map (locLines s 1)) = false ∧
      ∀ i ∈ [0, 1], (readLoc s 1 0 {} (srcLoc s 7 0 i)).map (·.2) = some false) ∧
    ((opAt (sO (engOp false (.s2s 0 0x2001000 32) [] true)) 9).map (fun o => (o.done, o.parts.length)) = some (true, 0)) := by
  refine ⟨by decide +kernel, by decide +kernel, by decide +kernel, by decide +kernel⟩
/-- What one team's part of a cp.mc has read serves the other's; a cp.net keeps the bytes of the part before its last. -/
theorem witness_EngineOpsProceed_read :
    (let o := { engOp false (.mc 0x20000 0x1000 2 3) [part 0x1000] true with read := [(1, some (5, false))] }
     ReadNow (sO o) o (0x1001, 0, 0, 1) = [some (5, false)] ∧ ReadNow (sO o) o (0x1000, 0, 0, 0) = [some (0, false)]) ∧
    (let o := { engOp false (.net 0 5 2) [{ team := 0, lo := 1, hi := 2, len := 1, chunk := none }] true with read := [(0, some (5, false))] }
     mapFind o.read 0 = some (some (5, false)) ∧ mapFind o.read 1 = none ∧
      (partBytes (sO o) o { team := 0, lo := 1, hi := 2, len := 1, chunk := none }).map (·.2.2.2) = [1]) := by
  unfold ReadNow; decide +kernel
/-- The put-back's two bytes have frames of their own, apart from the tables. -/
theorem witness_EngineOpsProceed_frames :
    let p : Part := { team := 0, lo := 0x20000, hi := 0x20002, len := 2, chunk := none }
    let o := engOp false (.s2g 0 0x20000 2) [p] true
    ∀ e ∈ [0x20000, 0x20001],
      (pieceCheck (sO o) 1 (coreDie 0) (kindUse o.kind true) e).toOption.map (fun tr => (tr.attr.zero, transPa tr e)) = some (false, e) ∧
      atHome (sO o) 0 e = .ok ∧ (∀ q ∈ wayOf (sO o) 1 e, q + 8 ≤ 0x20000) ∧ leafOf (sO o) 1 e = some 0x14010 := by decide +kernel
/-- A copy from a page that is not mapped moves no byte. -/
theorem witness_EngineOpsProceed_lost : ∀ b, ¬ Moved sA (engOp false (.g2s 0x90000 0x1000 32) [] true) (0x1000, 0, 0, 0) b := by
  rintro b ⟨-, bs, -, h⟩
  have h1 : (kindReads sA 7 (.g2s 0x90000 0x1000 32) 0 0 0).map (readLoc sA 1 (coreDie 0) (kindUse (.g2s 0x90000 0x1000 32) false)) = [none] := by
    decide +kernel
  have h : [none] = bs.map some := h1.symm.trans h
  cases bs <;> simp at h

/-- A transaction word at 0x200 of the team's scratchpad, live, in a state. -/
def word0 : SramRef := { team := 7, ob := false, off := 0x200 }
def txw (state arrived : Nat) : TxWord := { target := 4, arrived, gen := 1, state, flags := 0, infl := 0, base := 0, chunk := 5 }
/-- s8 names the word, s9 the operand, s10 and s11 a chunk mask, s12 a generation. -/
def txer : Group := { grp with sregs := [(8, 0x200), (9, 4), (10, 2), (12, 1), (13, 1)] }
def sTx (w : TxWord) : State := setLive (txWrite (at' 1 foc txer) word0 w) true (txGranule (at' 1 foc txer) word0)
theorem witness_TxWordsArmAndArrive :
    txRef (at' 1 foc txer) 7 false 0x200 = some word0 ∧ txRef (at' 1 foc txer) 7 true 0x200 = some word0 ∧
    txLocked (at' 1 foc txer) foc word0 = false ∧ txLive (at' 1 foc txer) word0 = false ∧
    (txLive (sTx (txw 2 4)) word0 = true ∧ (txRead (sTx (txw 2 4)) word0).state = 2) ∧
    ((txRead (sTx (txw 1 0)) word0).state = 1 ∧ (txRead (sTx (txw 1 0)) word0).arrived + 3 < (txRead (sTx (txw 1 0)) word0).target ∧
      (txRead (sTx (txw 1 0)) word0).arrived + 4 = (txRead (sTx (txw 1 0)) word0).target) ∧
    releaseWaits (sTx (txw 1 0)) 0 txer foc.lanes .clu = false := by decide +kernel
theorem witness_TxWaitsAndDrops :
    txRef (sTx (txw 1 0)) 7 false 0x200 = some word0 ∧ txLive (sTx (txw 1 0)) word0 = true ∧
    (txRead (sTx (txw 1 0)) word0).gen ≠ 2 ∧ Nat.land (txRead (sTx (txw 1 0)) word0).chunk 5 = 5 ∧
    Nat.land (txRead (sTx (txw 1 0)) word0).chunk 2 ≠ 2 ∧ (txRead (sTx (txw 1 0)) word0).gen = 1 ∧
    (txRead (sTx (txw 1 0)) word0).infl = 0 ∧ txLocked (sTx (txw 1 0)) foc word0 = false ∧
    (txRef (sTx (txw 1 0)) 7 false 0x210).isNone = true ∧ Clear foc txer := by unfold Clear; decide +kernel

/-! ### Witnesses: across lanes, the Trellis -/

theorem witness_CrossLaneCombinations : Issues sA foc grp ∧ InAllot (seen foc grp) [31, 8] ∧
    lanesOf (active foc (seen foc grp) false 0) = [0, 1] ∧ lanesOf (active foc (seen foc grp) true 0) = [] := ⟨issues_sA, by unfold InAllot; decide +kernel, by decide +kernel, by decide +kernel⟩
/-- Lists of codes: none, one, numbers, zeros, infinities of one and of both signs, and NaNs; and of integers. -/
theorem witness_CombinationsOfCodes :
    let v := decodeF fmtF32
    let one := 0x3F800000
    let inf := 0x7F800000
    (∀ cs ∈ ([[], [one], [one, 0xBF800000], [0x80000000, 0x80000000], [one, inf], [inf, 0xFF800000], [one, 0x7F800001, 0x7FC00000]] :
      List (List Nat)), ∀ c ∈ cs, c < 2 ^ tyWidth .f32) ∧
    tyIsFloat .f32 = true ∧ tyIsInt .i8 = true ∧ (∀ c ∈ [0, 127, 128, 255], c < 2 ^ tyWidth .i8) ∧
    v 0x80000000 = .zero true ∧ v inf = .inf false ∧ v 0xFF800000 = .inf true ∧ valIsNan (v one) = false ∧ valIsInf (v one) = false ∧
    valIsSnan (v 0x7F800001) = true ∧ valIsNan (v 0x7F800001) = true ∧ v inf ≠ .inf true ∧ v one ≠ .inf true := by decide +kernel
theorem witness_ShufflesAndCodebookMoves : Issues sA foc grp ∧ InAllot (seen foc grp) [31, 8, 6] ∧ InAllot (seen foc grp) [7] ∧
    Fits .v (seen foc grp) [31] [] := ⟨issues_sA, by unfold InAllot; decide +kernel, by unfold InAllot; decide +kernel,
      by unfold Fits InAllot; decide +kernel⟩

/-- s8 names a barrier, s9 holds a token. -/
def ridger (name tok : Word) : Group := { grp with sregs := [(8, name), (9, tok)] }
def sRidge (g : Group) : State :=
  { at' 1 foc g with
    teams := [(7, { uid := 7, node := 7, slots := [0]
                    bars := [(1, { members := [7], arrived := [7] }), (2, { members := [8] }), (3, { members := [7], leaving := [7] })
                             , (4, { members := [8], joining := [7] })] })] }
theorem witness_RidgeBarriers :
    (ridgeNameBad (sRidge (ridger 64 0)) (ridger 64 0) 64 = true ∧ Clear foc (ridger 64 0)) ∧
    (ridgeNameBad (sRidge (ridger 0 1)) (ridger 0 1) 0 = false ∧ (barAt (sRidge (ridger 0 1)) 7 0).members = [7] ∧
      (barAt (sRidge (ridger 0 1)) 7 0).arrived = [] ∧ (barAt (sRidge (ridger 0 1)) 7 0).gen ≠ 1 ∧
      releaseWaits (sRidge (ridger 0 1)) 0 (ridger 0 1) foc.lanes .team = false) ∧
    (barAt (sRidge (ridger 1 0)) 7 1).arrived = [7] ∧ (barAt (sRidge (ridger 1 0)) 7 1).leaving = [] ∧
    (barAt (sRidge (ridger 2 0)) 7 2).members = [8] ∧ (barAt (sRidge (ridger 2 0)) 7 2).joining = [] ∧
    (barAt (sRidge (ridger 0 0)) 7 0).gen = 0 ∧ (barAt (sRidge (ridger 0 0)) 7 0).leaving = [] ∧
    2 ^ 32 ≤ (0x100000000 : Word).toNat ∧ (0xFFFFFFFF : Word).toNat < 2 ^ 32 ∧
    ((barAt (sRidge (ridger 3 0)) 7 3).members = [7] ∧ (barAt (sRidge (ridger 3 0)) 7 3).leaving = [7] ∧
      (barAt (sRidge (ridger 3 0)) 7 3).joining = []) ∧ (barAt (sRidge (ridger 4 0)) 7 4).joining = [7] := by
  unfold Clear; decide +kernel
/-- The group of team 7 is at phase 1, its neighbour's, on core 1, at 0. -/
def stepper : Group := { grp with phase := 1 }
def sLead : State :=
  { at' 1 foc stepper with
    groups := [(0, stepper), (64, { uid := 8, team := 8, allot := 16 })]
    teams := [(7, { uid := 7, node := 7, slots := [0] }), (8, { uid := 8, node := 7, core := 1, rank := 1, slots := [0] })]
    nodes := [(7, { uid := 7, ctx := 1, started := true, desc := { eaves := true, lead := 1 }, hdr := { cw := 2 } })] }
theorem witness_LeadStepsRaisePhase_behind : Issues sLead foc stepper ∧ openAcq sLead stepper foc.lanes = false ∧ NoEdits sLead stepper ∧
    NoDirty sLead ∧ (nodeAt sLead (teamAt sLead stepper.team).node).desc.eaves = true ∧ releaseWaits sLead 0 stepper foc.lanes .clu = false ∧
    leadMet sLead (sSet { stepper with phase := stepper.phase + 1 } 9 (stepper.phase + 1)) = false ∧ (∀ e ∈ sLead.groups, e.2.blocks = []) :=
  ⟨by unfold Issues; decide +kernel, by decide +kernel, by unfold NoEdits; decide +kernel, noDirty_of _ (by decide +kernel), by decide +kernel,
    by decide +kernel, by decide +kernel, by decide +kernel⟩
theorem witness_LeadStepsRaisePhase :
    (nodeAt sA (teamAt sA grp.team).node).desc.eaves = false ∧
    (leadMet { sA with nodes := [(7, { uid := 7, ctx := 1, started := true, desc := { eaves := true, lead := 1 } })] }
      (sSet { grp with phase := grp.phase + 1 } 9 (grp.phase + 1)) = true) ∧
    (∀ e ∈ sA.groups, e.2.blocks = []) ∧ grp.blocks = [] ∧ releaseWaits sA 0 grp foc.lanes .clu = false := by decide +kernel

/-- A tasting grid of ten items, or of 8,192 items: its unit as given. -/
def sTaste (items : Nat) (u : Taste) (g : Group) : State :=
  { at' 1 foc g with
    nodes := [(7, { uid := 7, ctx := 1, started := true, desc := { taste := true, items }
                    hdr := { taste := some (0x4000000000000000, 0x3FF0000000000000, 2, false) }
                    taste := some u })] }
def tasteQ (items : Nat) : TasteParams := { items, key := 0, z := 0x4000000000000000, tol := 0x3FF0000000000000, nmin := 2 }
/-- Position 0 is outstanding; in the second, positions 1 to 4,096 have been handed out since. -/
def tasteU : Taste := { issued := 1, out := [(0, 0)] }
def tasteFar : Taste := { issued := 4096, out := [(0, 0)] }
/-- The lanes hold the tickets of positions 0 and 1, and the values 1 and 2. -/
def taster (a b : Word) : Group :=
  { grp with vregs := [(32 * 8, a), (32 * 8 + 1, b), (32 * 7, 0x3FF0000000000000), (32 * 7 + 1, 0x4000000000000000)], sregs := [(8, a)] }
/-- Room for one ticket and for two, past the last position, and none. -/
theorem witness_TastingInstructions :
    (tasteOf sA grp = none ∧ Clear foc grp ∧ InAllot (seen foc grp) [31, 8, 7]) ∧
    tasteOf (sTaste 10 tasteU grp) grp = some (7, tasteQ 10, tasteU) ∧ tasteU.waiters = [] ∧ openAcq (sTaste 10 tasteU grp) grp foc.lanes = false ∧
    tasteU.state = 0 ∧ (∀ k ∈ [1, 2], tasteU.issued + min k (10 - tasteU.issued) ≤ tasteH tasteU + 4096) ∧
    ({ tasteU with issued := 10 } : Taste).issued + min 2 (10 - 10) = 10 ∧
    tasteOf (sTaste 10 { tasteU with state := 1 } grp) grp = some (7, tasteQ 10, { tasteU with state := 1 }) ∧
    tasteOf (sTaste 8192 tasteFar grp) grp = some (7, tasteQ 8192, tasteFar) ∧
    (∀ k ∈ [1, 2], ¬ (min k (8192 - tasteFar.issued) = 0 ∨ tasteFar.issued + min k (8192 - tasteFar.issued) ≤ tasteH tasteFar + 4096)) ∧
    (6 : BitVec 7).toNat = 6 ∧ 7 ≤ (7 : BitVec 7).toNat := by unfold Clear InAllot; decide +kernel
theorem witness_TastingInstructions_add :
    let u : Taste := { issued := 2, out := [(0, 0), (1, 1)] }
    let g := taster (ticketAt (tasteQ 10) 0) (ticketAt (tasteQ 10) 1)
    Issues (sTaste 10 u g) foc g ∧ Clear foc g ∧ openAcq (sTaste 10 u g) g foc.lanes = false ∧ tasteOf (sTaste 10 u g) g = some (7, tasteQ 10, u) ∧
      InAllot (seen foc g) [8, 7] ∧
      ticketsOk (tasteQ 10) u [] ((lanesOf foc.lanes).map (fun l => vGet (seen foc g) (vReg (seen foc g) 8) l)) = true ∧
      ticketsOk (tasteQ 10) u [] [sGet (seen foc g) 8] = true ∧
      -- the same ticket twice, and one not handed out
      ticketsOk (tasteQ 10) u [] [ticketAt (tasteQ 10) 0, ticketAt (tasteQ 10) 0] = false ∧
      ticketsOk (tasteQ 10) u [] [ticketAt (tasteQ 10) 2] = false ∧
      (u.state = 0 ∧ u.ordered = false ∧ finiteF64 0x7FF0000000000000 = false ∧ ({ u with state := 2 } : Taste).state ≠ 0) := by
  unfold Issues Clear InAllot; decide +kernel

theorem witness_TileInstructions : Issues sA foc grp ∧ NoDirty sA ∧ Clear foc grp ∧ openAcq sA grp foc.lanes = false ∧
    (1 ≤ 4095 ∧ 4095 < 4096 ∧ 1 < 2 ∧ 2 ≤ 2) ∧ releaseWaits sA 0 grp foc.lanes .pkg = false :=
  ⟨issues_sA, noDirty_sA, clear_sA, by decide +kernel, by decide, by decide +kernel⟩

/-- A page of 1 GiB; in it a descriptor at 0x60000 of one team of the kernel at 0x61000, whose header asks for one group of 16 registers. -/
def sSpawn : State :=
  { sA with
    mem := { sA.mem with cellar :=
      [(0x10000, 1), (0x10001, 0x10), (0x10002, 1), (0x11000, 1), (0x11001, 0x20), (0x11002, 1), (0x12000, 7), (0x60001, 0x10),
       (0x60002, 0x06), (0x60010, 1), (0x61000, 0x10), (0x61001, 0x01), (0x61002, 0x9E), (0x61003, 0xCA), (0x61005, 2),
       (0x6100D, 0x10), (0x61010, 0x40)] } }
theorem witness_TaskSpawnAddsNode :
    (match loadNode sSpawn 1 (coreChk sSpawn 0 1) 0x60000 with
      | .ok d h => some (d.teams, h.allot)
      | _ => none) = some (1, 16) := by decide +kernel

/-! ### Witnesses: images and the Trellis's events -/

/-- The supervisor's group: s8 the address of an image, s9 the locator of slot 1 of core 0, s10 that of no group. -/
def saver : Group := { grp with sregs := [(8, 0x20000), (9, 512)] }
/-- A stopped group in slot 1. -/
def halted : Group := { uid := 8, team := 7, groupId := 1, allot := 16, stopped := some { cont := false, lanes := 3 } }
/-- The 44 lines of an image of a group of 16 lane-registers, in L1: the word at 0x178 says 16. -/
def imageLines : List Copy :=
  (List.range 44).map (fun i =>
    { line := 0x400 + i, gen := 0, tag := 0, mask := 0
      data := if i = 2 then List.replicate 120 0 ++ [2, 0, 1, 0, 0, 0, 0, 0] else List.replicate 128 0 })
/-- The page of the image. -/
def imagePage : Trans := { ctx := 0, va := 0x20000, size := 65536, pa := 0x20000, attr := { w := true }, gen := 0 }
def sI' (h : Group) : State :=
  { at' 0 foc saver with
    groups := [(0, saver), (1, h)]
    cores := [(0, { bankrole := 0xAA55555500000000, l1 := imageLines, tlb := [page0 0, imagePage] })] }
def sI : State := sI' halted
/-- A stopped group of another allotment than the image's. -/
def halted8 : Group := { halted with allot := 8 }
theorem witness_ImagesSavedAndRestored_user : Issues sA foc grp ∧ Clear foc grp ∧ groupCtx sA grp % 256 ≠ 0 ∧
    stoppedAt sI 0 1024 = none := by unfold Issues Clear; decide +kernel
theorem passed_image (h : Group) (hh : h ∈ [halted, halted8]) (w : Bool) :
    ∃ a, passed (imageChecks (sI' h) foc saver w 0x20000 (imageSize h)) = [(a, imagePage)] := by
  have hm : (passed (imageChecks (sI' h) foc saver w 0x20000 (imageSize h))).map (·.2) = [imagePage] := by
    simp only [List.mem_cons, List.not_mem_nil, or_false] at hh
    rcases hh with rfl | rfl <;> cases w <;> decide +kernel
  obtain ⟨e, he, hp⟩ := List.map_eq_singleton_iff.1 hm
  exact ⟨e.1, by rw [he, ← hp]⟩
theorem covers_image (i : Nat) (h : i < 65536) : transCovers imagePage 0 (0x20000 + i) = true := by
  simp only [transCovers, imagePage]; simp; omega
theorem witness_ImagesSavedAndRestored_save : Issues sI foc saver ∧ Clear foc saver ∧ groupCtx sI saver % 256 = 0 ∧
    stoppedAt sI 0 (sGet (seen foc saver) 9).toNat = some (1, halted) ∧ pendsOf halted 0xFFFFFFFF = [] ∧
    openAcq sI saver foc.lanes = false ∧ sI.edits = [] ∧ halted.allot < 8192 ∧ TablesAwake sI foc saver [(0x20000, imageSize halted)] ∧
    failures (imageChecks sI foc saver true 0x20000 (imageSize halted)) = [] ∧
    zeroPages sI 0 (passed (imageChecks sI foc saver true 0x20000 (imageSize halted))) = [] ∧
    ∀ i, i < imageSize halted → ∃ e ∈ passed (imageChecks sI foc saver true 0x20000 (imageSize halted)),
      transCovers e.2 0 (0x20000 + i) = true := by
  refine ⟨by unfold Issues; decide +kernel, by unfold Clear; decide +kernel, by decide +kernel, by decide +kernel, by decide +kernel,
    by decide +kernel, by decide +kernel, by decide, by unfold TablesAwake; decide +kernel, by decide +kernel, by decide +kernel,
    fun i hi => ?_⟩
  obtain ⟨a, ha⟩ := passed_image halted (by simp) true
  have : imageSize halted = 5632 := by decide
  exact ⟨(a, imagePage), by rw [show sI = sI' halted from rfl, ha]; simp, covers_image i (by omega)⟩
/-- The image as the statement reads it. -/
def imageBytes (h : Group) : List PByte := (List.range (imageSize h)).map (fun i => coreByte (sI' h) foc.gid 0 imagePage (0x20000 + i))
theorem witness_ImagesSavedAndRestored_reads (h : Group) (hh : h ∈ [halted, halted8]) (i : Nat) (hi : i < imageSize h) :
    ∃ e, (passed (imageChecks (sI' h) foc saver false 0x20000 (imageSize h))).find?
        (fun e => transCovers e.2 0 (0x20000 + i)) = some e ∧
      (imageBytes h)[i]? = some (coreByte (sI' h) foc.gid 0 e.2 (0x20000 + i)) := by
  have hs : imageSize h ≤ 5632 := by
    simp only [List.mem_cons, List.not_mem_nil, or_false] at hh
    rcases hh with rfl | rfl <;> decide
  obtain ⟨a, ha⟩ := passed_image h hh false
  refine ⟨(a, imagePage), ?_, ?_⟩
  · rw [ha]
    simp [covers_image i (by omega)]
  · simp [imageBytes, hi]
theorem witness_ImagesSavedAndRestored_restore :
    (∀ h ∈ [halted, halted8], failures (imageChecks (sI' h) foc saver false 0x20000 (imageSize h)) = [] ∧
      stoppedAt (sI' h) 0 (sGet (seen foc saver) 9).toNat = some (1, h) ∧ (sI' h).reqs = [] ∧
      ((piecesOf 0x20000 (imageSize h)).map (·.1)).filterMap (pieceAsleep (sI' h) 0) = [] ∧
      TablesAwake (sI' h) foc saver [(0x20000, imageSize h)] ∧
      (imageBytes h).all (fun b => !b.2) = true) ∧
    8 * (fieldOf ((imageBytes halted).map (·.1)) 0x178 8 % 1024) = halted.allot ∧
    8 * (fieldOf ((imageBytes halted8).map (·.1)) 0x178 8 % 1024) ≠ halted8.allot := by
  unfold TablesAwake; decide +kernel

/-- The first writable pages, backed from physical address 0, of one node of one 1 x 1 team that has not started; core 0 is
free. -/
def waiting : Node := { uid := 9, ctx := 1, seq := 1, desc := { kernel := 0x1000, prio := 7 }, hdr := { allot := 16 } }
def sP : State := { sA with groups := [], teams := [], nodes := [(9, waiting)] }
/-- The team of node 7 of priority 0 on core 0 holds every group slot; context 1 has a save area of 64 KiB at 0x20000. -/
def sV : State :=
  { sA with
    groups := (List.range 64).map (fun i => (i, { uid := 100 + i, team := 7, groupId := i, base := 8 * i, allot := 8 }))
    teams := [(7, { uid := 7, node := 7, slots := List.range 64, bases := (List.range 64).map (· * 8) })]
    nodes := [(7, { uid := 7, ctx := 1, started := true }), (9, waiting)]
    ctxs := [(1, { ptbase := 0x10001, savebase := 0x20010 })] }
/-- Its only cluster has been saved, with one group. -/
def begun : Node := { waiting with started := true, nextCluster := 1, hdr := { allot := 16, groups := 1 } }
def savedTeam : SavedTeam :=
  { uid := 20, team := { uid := 20, node := 9 }, groups := [{ uid := 21, team := 20, allot := 16 }], scratch := [(5, 9)], opbuf := []
    poison := [], tags := [], ops := [], locks := [], place := 0, room := 0 }
def sQ : State := { sP with nodes := [(9, begun)], saved := [savedTeam] }
theorem witness_TeamsPlacedAndSaved_placement :
    mapFind sP.nodes 9 = some waiting ∧ partChoice sP 0 = some (waiting, .fresh 0, 0) ∧ sP.teams = [] ∧
    (mapFind sQ.nodes 9 = some begun ∧ partChoice sQ 0 = some (begun, .saved 0, 0) ∧
      savedOf sQ 9 0 = [savedTeam] ∧ savedTeam.team.rank < (rectCores begun.hdr.cw begun.hdr.ch 0).length ∧
      (∀ g ∈ savedTeam.groups, g.groupId < begun.hdr.groups)) ∧
    (let s : State := { sA with ctxs := [(1, { waitFor := some (9, 0) })], clk := { ns := 50000 } }
     (ctxAt s 1).waitFor = some (9, 0) ∧ 0 + 50000 ≤ s.clk.ns ∧ mapFind (ctxAt s 1).sectors 9 = none ∧
      coreOwned s (ctxPart 1) 0 = true) := by decide +kernel
/-- Room in the save area, and none beside the clusters of team 20, saved over all of it. -/
def sFull : State := { sV with saved := [{ savedTeam with team := { uid := 20, node := 7, cluster := 1 }, room := 65536 }] }
theorem witness_TeamsPlacedAndSaved_preemption :
    (∀ s ∈ [sV, sFull], mapFind s.nodes 9 = some waiting ∧ mapOrdered s.teams = true ∧
      (victimsOf s waiting).map (fun vs => vs.map (·.node)) = some [7]) ∧
    (victimsOf sV waiting).map (noSeat sV) = some [] ∧ (victimsOf sFull waiting).map (fun vs => (noSeat sFull vs).map (·.node)) = some [7] ∧
    (victimsOf sFull waiting).map (fun vs => vs.map (fun v => saveSeats sFull (nodeAt sFull v.node).ctx (victimTeams sFull v)
       (savePlaces sFull (nodeAt sFull v.node).ctx))) = some [none] := by decide +kernel
/-- A node of 64 groups needs the release of two teams of 32; the save area of 128 KiB has room for one. -/
def wait2 : Node := { waiting with hdr := { allot := 8, groups := 64 } }
def sV2 : State :=
  { sV with
    groups := (List.range 64).map (fun i => (i, { uid := 100 + i, team := 7 + i / 32, groupId := i % 32, base := 8 * i, allot := 8 }))
    teams := [(7, { uid := 7, node := 7, slots := List.range 32, bases := (List.range 32).map (· * 8) })
              , (8, { uid := 8, node := 8, slots := (List.range 32).map (· + 32), bases := (List.range 32).map (fun i => 256 + i * 8) })]
    nodes := [(7, { uid := 7, ctx := 1, started := true, hdr := { allot := 8, groups := 32 } })
              , (8, { uid := 8, ctx := 1, started := true, hdr := { allot := 8, groups := 32 } }), (9, wait2)]
    ctxs := [(1, { ptbase := 0x10001, savebase := 0x20011 })] }
theorem witness_TeamsPlacedAndSaved_two :
    (victimsOf sV2 wait2).map (fun vs => vs.map (·.node)) = some [7, 8] ∧
    (victimsOf sV2 wait2).map (fun vs => (noSeat sV2 vs).map (·.node)) = some [8] ∧ mapOrdered sV2.teams = true ∧
    mapFind sV2.nodes 9 = some wait2 := by decide +kernel
/-- Team 7 is asked to leave; its group's only lane stands in a handler, or runs on. -/
def sS (g : Group) : State :=
  { sV with
    groups := [(0, g)], clk := { ns := 20000 }
    teams := [(7, { uid := 7, node := 7, slots := [0], preemptAt := some 0 })]
    nodes := [(7, { uid := 7, ctx := 1, started := true, hdr := { allot := 16 } })] }
theorem witness_TeamsPlacedAndSaved_save :
    (∀ g ∈ [handling, grp], pendingSave (sS g) 7 = some (1, [7], 0) ∧
      (saveVas (sS g) [7]).filterMap (pieceAsleep (sS g) 1) = [] ∧
      ∀ va ∈ saveVas (sS g) [7], needsFrame (sS g) 1 va = false) ∧
    clusterSafe (sS handling) [7] = true ∧ clusterSafe (sS grp) [7] = false ∧ 0 + 20000 ≤ (sS grp).clk.ns := by
  decide +kernel

/-- A node that names tile 5 as input. -/
def reads5 : Node :=
  { uid := 7, ctx := 1, desc := { tbind := [5] }, hdr := { roles := [1] }, budget := 1, ran := 1000, nextCluster := 1 }
/-- The node has no record, one at 0x20040, or a failed input. -/
theorem witness_NodesAndGroupsEnd_nodes :
    (∀ r ∈ [0, 0x20040], let n := { reads5 with started := true, desc := { reads5.desc with result := r } }
     let s := { sA with groups := [], teams := [], nodes := [(7, n)] }
     mapFind s.nodes 7 = some n ∧ nodeLeft s n = true ∧ nodeQuiet s n = true ∧ (ctxAt s 1).kill = none ∧ n.desc.taste = false ∧
      n.desc.result % 64 = 0 ∧ winCheck s 1 true n.desc.result = none ∧ tableAsleep s 1 n.desc.result = none ∧
      (walk s 1 n.desc.result).map (fun tr => (tr.attr.zero, atHome s 0 (transPa tr n.desc.result))) = some (false, .ok)) ∧
    (let s := { State.reset with nodes := [(7, reads5)], ctxs := [(1, { tiles := [(5, { full := true, fail := true })] })] }
     failInput s reads5 = true ∧ eligible s reads5 = true ∧ reads5.failed = false ∧ reads5.desc.result = 0 ∧
      (ctxAt s 1).kill = none ∧ boxFull s 0 = false) ∧
    (let n := { reads5 with started := true }
     let s := { sA with nodes := [(7, n)] }
     n.expiredAt = none ∧ 1000 * n.budget ≤ n.ran ∧ mapOrdered s.groups = true ∧ (teamAt s grp.team).node = 7) ∧
    (let s : State := { sA with nodes := [(7, { reads5 with started := true, expiredAt := some 0 })], clk := { ns := 1000000 } }
     0 + 1000000 ≤ s.clk.ns ∧ s.groups.any (fun e => (teamAt s e.2.team).node == 7) = true) ∧
    (let s := { State.reset with ctxs := [(1, { kill := some 0x91 })] }
     (ctxAt s 1).kill = some 0x91 ∧ s.teams = [] ∧ s.ops = [] ∧ s.reqs = []) := by decide +kernel
/-- Three runs: the one at 192 has waited 4,096 issues. -/
def split3 : Group :=
  { grp with pcs := [(0, 64), (1, 128), (2, 192)], exited := 0xFFFFFFF8, ages := [(2, 4096)] }
def sleeper : Group :=
  { grp with blocks := [{ lanes := 1, pc := 0, npc := 4, why := .clk 0 }] }
def gone : Group := { grp with exited := 0xFFFFFFFF }
theorem witness_NodesAndGroupsEnd_groups :
    (hmode split3 = false ∧ ((runsOf (at' 1 foc split3) 0 split3).drop 2).map (fun r => (r.lanes, runAge split3 r)) = [(4, 4096)]) ∧
    (sleeper.blocks = [{ lanes := 1, pc := 0, npc := 4, why := .clk 0 }] ∧ (0 : Word).toNat ≤ sA.clk.clock.toNat) ∧
    (gone.exited = 0xFFFFFFFF ∧ gone.pends = [] ∧ sA.reqs = [] ∧ sA.xfers = [] ∧ sA.edits = [] ∧ gone.stopped = none) := by
  decide +kernel
/-- Two causes latched: the lower one is taken by the lowest run, or by the blocked run; in the handler a supervisor's. -/
def latchedG (g : Group) : Group := { g with latched := [{ code := 0x90, info := 0 }, { code := 0x47, info := 5, sup := true }] }
def asleep : Group := { sleeper with exited := 0xFFFFFFFE }
theorem witness_NodesAndGroupsEnd_latched :
    (∀ g ∈ [latchedG split3, latchedG { handling with exited := 0xFFFFFFFC }], g.stopped = none ∧ pendsOf g 1 = [] ∧
      ((runsOf (at' 1 foc g) 0 g).head?.map (fun r => meets r.lanes 1)) = some true) ∧
    ({ split3 with latched := [{ code := 0x90, info := 0 }] } : Group).latched ≠ [] ∧ handlerOn split3 = true ∧
    (runsOf (at' 1 foc asleep) 0 asleep = [] ∧ meets 1 (0xFFFFFFFF &&& ~~~asleep.exited) = true ∧ asleep.blocks.length = 1) ∧
    -- a run whose held request has been performed
    (let g := { latchedG asleep with blocks := [{ lanes := 1, pc := 0, npc := 4, why := .held }] }
     ∀ b ∈ g.blocks, b.why = .held ∧ blockHolds (at' 1 foc g) 0 g b = false) := by
  decide +kernel

/-! ### Witnesses: errors, the memory system's control, the host, the links -/

/-- Every place of an error: the first and the last of its kind. -/
theorem witness_ErrorsCountOrPoison :
    (∀ e ∈ ([.line (2 ^ 33 - 1), .sram 335 32767, .group 0 31, .engine 1] : List ErrPlace), errPossible sA e = true) ∧
    (∀ m ∈ [0, 1], let s : State := { sA with cores := [(0, { l1 := [dirtyLine (BitVec.ofNat 128 m)] })] }
      errPossible s (.l1 0 4) = true) ∧
    errPossible (withProxy 1) (.proxy 3 4) = true ∧ (proxyAt (withProxy 1) 3 4).map (·.line) = some 4 ∧
    errPossible { sA with mem := { sA.mem with shadowed := [(0, 1)] } } (.shadow 4) = true ∧
    errPossible { sA with mem := { sA.mem with views := [{ part := 0, win := 0, off := 128, slot := 0, data := [], poison := false }] } }
      (.view 0 0 1) = true ∧
    (grp.stopped = none ∧ grp.exited ≠ 0xFFFFFFFF ∧ (ctxAt sA 1).kill = none) ∧
    (partAt (evented 1 grp 0x20004) (ctxPart 1)).sevWait = [] := by
  decide +kernel

/-- Partition 0 switches, writes a range back and empties a key slot; frame 0 has a dirty byte. -/
def sC : State :=
  { sA with
    parts := [(0, { started := true, masks := [(0, 1)], staged := [(0, 3)], switching := true, slwb := some (0, 512) })]
    mem := { sA.mem with dirty := [(5, 1)] }
    out := { sA.out with slots := [(3, { emptying := true, owner := some 0x80 })] } }
theorem witness_SlicesSlotsAndViewLines_slices :
    (partAt sC 0).switching = true ∧ mapOrdered (partAt sC 0).staged = true ∧ linesAsleep sC ((dirtyLines sC.mem).filter (moves sC 0)) = [] ∧
    (partAt sC 0).slwb = some (0, 512) ∧ sC.mem.wf = true ∧
    linesAsleep sC ((dirtyLines sC.mem).filter (fun l => decide (0 ≤ l ∧ l < 0 + 512))) = [] ∧
    (mapGet {} sC.out.slots 3).emptying = true ∧ (mapGet {} sC.out.slots 3).owner = some 0x80 := by decide +kernel
/-- A load waits for line 0 of the view of window 0, which stores one frame at 0 under slot 0. -/
def viewReq : Req :=
  { id := 4, core := 0, gid := 0, uid := 7, team := 7, ctx := 1, lanes := 1, pend := 0, va := 0, pa := viewBase, size := 4, gen := 0
    attr := { fmt := true }, kind := .load, rel := false, stage := .queued, data := [], poison := false, fill := false
    cover := 0, acq := false, tag := 0 }
def sVw : State :=
  { sA with
    reqs := [viewReq]
    parts := [(0, { started := true, masks := [(0, 1)], fwins := [(0, { len := 0x10000, valid := true })] })]
    out := { sA.out with slots := [(0, { key := some 5 })] } }
/-- The fill succeeds, or fails for want of the key. -/
theorem witness_SlicesSlotsAndViewLines_view : ∀ s ∈ [sVw, { sVw with out := { sVw.out with slots := [] } }],
    viewReq ∈ s.reqs ∧ viewReq.stage = .queued ∧ viewReq.attr.fmt = true ∧ ctxPart viewReq.ctx = 0 ∧
      lineOf viewReq.pa = lineOf (viewPa 0 (128 * 0)) ∧ isPref viewReq = false ∧
    viewAt s 0 0 (128 * 0) = none ∧ viewAsleep s 0 0 (128 * 0) = none ∧
    (viewFill s 0 0 (128 * 0)).2 = if s.out.slots = [] then some 0xB4 else none := by decide +kernel

/-- Only a prefetch waits for a line that cannot be filled. -/
theorem witness_SlicesSlotsAndViewLines_pref :
    let q := { viewReq with kind := .pref true }
    let s : State := { sVw with reqs := [q], out := { sVw.out with slots := [] } }
    q ∈ s.reqs ∧ q.stage = .queued ∧ q.attr.fmt = true ∧ ctxPart q.ctx = 0 ∧ lineOf q.pa = lineOf (viewPa 0 (128 * 0)) ∧
    (∀ r ∈ s.reqs, isPref r = true) ∧ viewAt s 0 0 (128 * 0) = none ∧ viewAsleep s 0 0 (128 * 0) = none ∧
    (viewFill s 0 0 (128 * 0)).2 = some 0xB4 := by decide +kernel

/-- Bin 5 in a state of its own; a value of BWPHASE is on its way. -/
def sB (b : Bin) (w : Word) : State :=
  { sA with
    bins := [(0, { alloc := true, state := 0 }), (5, b)], clk := { ns := 1000000 }
    parts := [(0, { started := true, feat := [(0, 0x3FF)], masks := [(0, 1)], bwSent := [(0, w)] })]
    out := { sA.out with binOwner := [(0, 0x80), (5, 0x80)] } }
theorem witness_BinsChangeState :
    mayStandby (sB { alloc := true, state := 0, last := 999000 } 8) 5 = true ∧
    mayRetain (sB { alloc := true, state := 1, last := 0 } 8) 5 = true ∧
    (∀ c : Bool, (binAt (sB { alloc := true, state := 3, clear := c, wake := some (0, 1000000) } 8) 5).wake = some (0, 1000000)) ∧
    1000000 ≤ (sB {} 8).clk.ns ∧ (binAt (sB { falling := true } 8) 5).falling = true ∧
    ownerPart (sB {} 8).out.binOwner 5 = some 0 ∧ (partAt (sB {} 8) 0).sevWait = [] := by decide +kernel
/-- Levels 0, 4 and 7 of set 1, and 1 and 3, to a bin of the set that rests, or wakes to S or to A. -/
theorem witness_BinsChangeState_phases :
    (∀ w ∈ [8, 9, 11, 12, 15], (partAt (sB {} (BitVec.ofNat 64 w)) 0).bwSent = [(0, BitVec.ofNat 64 w)] ∧
      (BitVec.ofNat 64 w : Word).toNat / 8 % 8 = 1) ∧
    binOwned (sB {} 8) 0 5 = true ∧ feature (sB {} 8) 0 7 = true ∧
    ∀ k ∈ [none, some (1, 1000500), some (0, 1000020)],
      let b := binAt (sB { sets := 2, alloc := true, state := 2, wake := k } 12) 5
      b.sets.getLsbD 1 = true ∧ b.alloc = true ∧ b.state = 2 ∧ b.wake = k := by decide +kernel

/-- Window 3 as given; the pool of context 0 with room; the supervisor's group and a stopped one; format window 0 of one frame. -/
def sReg (w : Win) : State :=
  { sI with
    ctxs := [(0, { ptbase := 0x10001, wtsel := 3, wins := [(3, w)], pool := { logn := 4, base := 0x40000, en := true }
                   pteva := 0x90000, pteval := 0x90007 })]
    parts := [(0, { started := true, feat := [(0, 0x3FF)], masks := [(0, 1)], fwins := [(0, { store := 0x80000, len := 0x10000 })] })] }
theorem witness_RegisterWriteEvents_done :
    ∀ r ∈ ([(0x6B, 0), (0x6C, 1), (0x53, 1), (0x53, 0), (0x58, 1), (0x5A, 0), (0x67, 1), (0x56, 1), (0x56, 3), (0x56, 5),
        (0x63, 0x100000000000200), (0x63, 0x200000000000200), (0x63, 0x300000000000200), (0x66, 1), (0x71, 1), (0x72, 1),
        (0x76, 0), (0x74, 0), (0x74, 4), (0x7C, 1), (0x7C, 0), (0x6A, 0x1FF)] : List (Nat × Word)),
      isDone (csrWrite (sReg {}) 0 0 r.1 r.2) = true := by decide +kernel
/-- Cores with and without a team, role codes 2 and 3; windows of 128 bytes, of none and registered. -/
theorem witness_RegisterWritesTakeEffect_coresAndWindows :
    coreMine (sReg {}) 0 = true ∧ selCore (sReg {}) 0 = 0 ∧ (coreMine sP 0 = true ∧ sP.teams = []) ∧
    (sReg {}).teams.any (fun e => e.2.core == 0) = true ∧ (∀ i < 32, (0xAAAAAAAAAAAAAAAA : Word).toNat / 4 ^ i % 4 ≠ 3) ∧
    (0xC000000000000000 : Word).toNat / 4 ^ 31 % 4 = 3 ∧
    (ctxAt (sReg {}) (selCtx (sReg {}) 0)).wtsel = 3 ∧ (winAt (sReg { len := 128 }) 0 3).valid = false ∧
    winOk (sReg { len := 128 }) 0 (winAt (sReg { len := 128 }) 0 3) (0 ||| 1) = true ∧
    winOk (sReg {}) 0 (winAt (sReg {}) 0 3) (0 ||| 1) = false ∧ (winAt (sReg { valid := true }) 0 3).valid = true ∧
    (sReg {}).xfers = [] := by decide +kernel
/-- Pools, page tables, stopped groups. -/
theorem witness_RegisterWritesTakeEffect_poolsAndGroups :
    let s := sReg {}
    (ctxAt s 0).pool.en = true ∧ (ctxAt sI 0).pool.en = false ∧
    inAllocated s 0 ((0xFFF0000 : Word).toNat / 2 ^ 16 % 2 ^ 36 * 65536) 65536 = true ∧
    inAllocated s 0 ((0x10000000 : Word).toNat / 2 ^ 16 % 2 ^ 36 * 65536) 65536 = false ∧ ringRefuses (ctxAt s 0).pool = false ∧
    ringRefuses { (ctxAt s 0).pool with tail := 16 } = true ∧
    atHome s 0 (poolSlot (ctxAt s 0).pool (ctxAt s 0).pool.tail) = .ok ∧
    (liveNodes { s with nodes := [] } 0 = [] ∧ liveNodes s 0 ≠ [] ∧ inAllocated s 0 ((0x80001 : Word).toNat / 2 ^ 11 % 2 ^ 41 * 2048) 2048 = true ∧
      mapGet 0 s.mem.counts (0x80000 / 65536) = 0 ∧ mapGet 0 s.mem.counts (0x10000 / 65536) ≠ 0) ∧
    (stoppedAt s 0 ((512 : Word).toNat % 2 ^ 15) = some (1, halted) ∧ halted.stopped = some { cont := false, lanes := 3 } ∧
      s.reqs = [] ∧ handlerOn { halted with trapbase := 0x1001 } = true ∧ hmode { halted with trapbase := 0x1001 } = false ∧
      handlerOn halted = false) := by decide +kernel
/-- A frame of the tables that the boot mapping of bin 0 has, and one below them. -/
theorem witness_RegisterWritesTakeEffect_boot :
    let s : State := { sReg {} with ctxs := [(0, { ptbase := 0xFE00001, pool := { logn := 4, base := 0x40000, en := true } })] }
    let root := (ctxAt s 0).ptbase.toNat / 2 ^ 11 % 2 ^ 41 * 2048
    selCtx s 0 = 0 ∧ (ctxAt s (256 * 0)).ptbase.getLsbD 0 = true ∧ root % 2 ^ 28 = 0xFE00000 ∧
    (0xFFF0000 : Word).toNat / 2 ^ 16 % 2 ^ 36 * 65536 / 2 ^ 21 = root / 2 ^ 21 ∧
    (0xFDF0000 : Word).toNat / 2 ^ 16 % 2 ^ 36 * 65536 / 2 ^ 21 ≠ root / 2 ^ 21 := by decide +kernel
theorem witness_RegisterWritesTakeEffect_tables :
    let s := sReg {}
    (ctxAt s 0).pteBusy = false ∧ pteSize (ctxAt s 0).pteva = some 65536 ∧ 0x90000 % 65536 = 0 ∧
    (∀ va ∈ [0x90000, 0x50000], rangesBusy s 0 [(va, 65536)] (fun _ => true) = false ∧ sizeClash s 0 va 65536 = false ∧
      walkCtx s 0 va ≠ none) ∧
    installOk s 0 65536 0x90007 = true ∧ poolAsleep s 0 = none ∧
    (∀ va ∈ [0x90000, 0x50000], tableAsleep s 0 va = none ∧ walkDead s 0 va = none) ∧
    tablesNeeded s 0 (editChgs s 0 (.install 0x90000 65536 0x90007) 0) ≤ framesFree s 0 ∧
    pageEntry s 0 0x50000 ≠ none ∧ tablesNeeded s 0 (editChgs s 0 (.remove 0x50000 65536) 0) ≤ framesFree s 0 ∧
    (walkCtx s 0 0x50000).map (fun e => (e.1.level, e.2)) = some (pteLevel 65536, true) ∧
    (walkCtx s 0 0x90000).map (·.2) = some false := by decide +kernel
/-- Slices, bins and format windows, with what their checks accept and refuse. -/
theorem witness_RegisterWritesTakeEffect_memory :
    let s := sReg {}
    selDom s 0 = some 0 ∧ goOk s 0 = true ∧ goOk sC 0 = false ∧ (partAt s 0).switching = false ∧ (partAt s 0).slwb = none ∧
    (let n := (0xFFF0000000000000 : Word).toNat / 2 ^ 52 % 4096
     n ≠ 0 ∧ inAllocated s 0 0 (65536 * n) = true ∧ inAllocated s 0 65536 (65536 * (n + 1)) = false) ∧
    (binMine s 0 = true ∧ (binAt s (selBin s 0)).alloc = true) ∧ binMine { s with bins := [] } 0 = true ∧
    fwOk s 0 (fwinAt s 0) = true ∧ fwOk s 0 { fwinAt s 0 with len := 0 } = false ∧ coreOwned s 0 0 = true := by decide +kernel

theorem witness_HostEvents :
    (let s : State := { State.reset with out := { powered := true } }
     s.out.powered = true ∧ s.out.ready = false ∧ s.out.recovery = false) ∧
    (Open sA ∧ There sA 0 ∧ (partAt { sA with parts := [] } 0).started = false ∧ ¬ Open State.reset) ∧ 16 ≤ 16 ∧ 16 < 17 ∧
    (335 < unitCount .core ∧ 191 < unitCount .slice ∧ 255 < unitCount .slot ∧ 4607 < unitCount .bin) ∧
    (Idle sP .core 0 ∧ ¬ Idle sA .core 0 ∧ Idle sA .slot 0 ∧ Idle sA .bin 1 ∧ ¬ Idle sA .bin 0) ∧
    (let s := { sA with out := { sA.out with slots := [(0, { key := some 5 })] } }
     (mapGet ({} : KeySlot) s.out.slots 0).key ≠ none ∧ (0 : BitVec 8) &&& 0x8F ≠ mapGet 0 s.out.slotOwner 0) := by
  unfold Open There Open Idle; decide +kernel
theorem witness_HostEvents_slices : Idle sA .slice 1 ∧ ¬ Idle sA .slice 0 := by
  have hp : sA.parts = [(0, { started := true, feat := [(0, 0x3FF)], masks := [(0, 1)] })] := rfl
  constructor
  · intro e he _ m hm _
    rw [hp] at he
    simp only [List.mem_singleton] at he
    subst he
    simp only [List.mem_singleton] at hm
    subst hm
    decide
  · intro h
    have := h (0, { started := true, feat := [(0, 0x3FF)], masks := [(0, 1)] }) (by rw [hp]; simp) (by decide +kernel) (0, 1) (by simp) rfl
    exact absurd this (by decide)
/-- A reply to each kind of open message, at the last and the first tag. -/
def msg0 : Msg := { kind := 1, ctx := 1, tag := 0, va := 0, d0 := 0, d1 := 0 }
def sMsg : State :=
  { sA with parts := [(0, { asked := [{ msg0 with kind := 3, tag := 65535 }, { msg0 with kind := 2, tag := 0, ctx := 255 }] })] }
theorem witness_HostEvents_posts :
    There sMsg 0 ∧ (1 : Word).getLsbD 0 = true ∧ (0 : Word).getLsbD 0 = false ∧
    (∀ tag ∈ [0, 65535], ((partAt sMsg 0).asked.filter (fun m => m.tag == tag)).length = 1) ∧
    ((0x10000 : Word).toNat / 65536 % 4 = 1 ∧ (0x10000 : Word).toNat % 65536 = 0) ∧
    (∀ m ∈ (partAt sMsg 0).asked, m.tag ≠ 1) ∧
    ((0 : Nat) + 1000000 ≤ ({ ns := 1000000, temps := [25, 25, 25, 105] } : Clk).ns ∧ (∃ x ∈ [25, 25, 25, 105], 105 ≤ x) ∧
      max 1000 (2500 - 100) ≠ 2500) ∧
    (∃ x ∈ ({ temps := [25, 25, 25, 115] } : Clk).temps, 115 ≤ x) ∧ sA.out.down = false := by
  unfold There Open; decide +kernel
/-- A session of function 1 with all measurements, and key slot 0 empty, full or emptying. -/
def sSpdm (k : KeySlot) (all : Bool) : State :=
  { sA with out := { sA.out with spdm := [(1, { phase := 3, sessions := [{ id := 1, all, up := true }] })], slots := [(0, k)] } }
theorem witness_MailboxAndSpdmEvents :
    (let s : State := { State.reset with parts := [(0, { msgs := [msg0], mbxring := 4 })] }
     (partAt s 0).absent = false ∧ (partAt s 0).msgs = [msg0] ∧ ringReady (partAt s 0) = true) ∧
    (∀ k ∈ [0, 1], let s : State := { State.reset with parts := [(0, { busy := true, postFrom := some (k, 0, false) })] }
     (partAt s 0).busy = true ∧ (partAt s 0).postFrom = some (k, 0, false) ∧ (partAt s 0).started = false ∧
      (partAt s 0).bootlen.toNat % 2 ^ 28 = 0) ∧
    fnThere sA 0 = true ∧ fnThere sA 1 = true ∧ (spdmAt sA 1).phase = 0 ∧ (spdmAt sA 1).sessions = [] ∧
    (∀ p ∈ [1, 2, 3], (spdmAt { sA with out := { sA.out with spdm := [(1, { phase := p })] } } 1).phase = p) ∧
    (∀ a : Bool, (spdmAt (sSpdm {} a) 1).sessions = [{ id := 1, all := a, up := true }]) ∧
    (slotOwned (sSpdm {} true) (1 - 1) 0 = true ∧ slotOwned (sSpdm {} true) (1 - 1) 1 = false) ∧
    ((mapGet {} (sSpdm {} true).out.slots 0).key = none ∧ (mapGet {} (sSpdm { key := some 5 } true).out.slots 0).key ≠ none ∧
      (mapGet {} (sSpdm { key := some 5, emptying := true } true).out.slots 0).emptying = true) := by decide +kernel

/-- A post to context 1 of a started partition, which may run it or not. -/
def sPost (en halted : Bool) (ns : SMap Node) (va : Nat) : State :=
  { sSpawn with
    nodes := ns
    parts := [(0, { started := true, halted, feat := [(0, 0x3FF)], masks := [(0, 1)], busy := true, postFrom := some (1, va, en) })] }
/-- The descriptor of such a post is good, or lies at no descriptor. -/
def postGood (s : State) (va : Nat) : Bool :=
  match loadNode s 1 (postChk s 1) va with
  | .ok d h => d.teams == 1 && h.allot == 16
  | _ => false
theorem witness_PostsChecked (en halted : Bool) (ns : SMap Node) (hn : ns = [] ∨ ns = [(9, waiting)]) :
    (partAt (sPost en halted ns 0x60000) 0).postFrom = some (1, 0x60000, en) ∧ (partAt (sPost en halted ns 0x60000) 0).absent = false ∧
      (partAt (sPost en halted ns 0x60000) 0).busy = true ∧ (liveNodes (sPost en halted ns 0x60000) 1).isEmpty = ns.isEmpty := by
  rcases hn with rfl | rfl <;> cases en <;> cases halted <;>
    exact ⟨by decide +kernel, by decide +kernel, by decide +kernel, by decide +kernel⟩
theorem witness_PostsChecked_good : postGood (sPost true false [] 0x60000) 0x60000 = true := by decide +kernel
theorem witness_PostsChecked_other : postGood (sPost false true [(9, waiting)] 0x60000) 0x60000 = true := by decide +kernel
theorem witness_PostsChecked_bad : postGood (sPost true false [] 0x61000) 0x61000 = false := by decide +kernel
/-- A post to context 0 of a partition that owns core 3, two slices of die 0 and bins 2 and 7, with an image of 300 bytes: of any
contents, or a descriptor at 0 and its kernel at 0x80. -/
def sBoot (mem : SMap Byte) : State :=
  { State.reset with
    parts := [(0, { busy := true, postFrom := some (0, 0, false), bootlen := 300, bootsrc := 0x30000 })]
    out := { State.reset.out with
      powered := true, ready := true, numVfs := 1, mem
      coreOwner := [(3, 0x80)], sliceOwner := [(1, 0x80), (5, 0x80)], binOwner := [(2, 0x80), (7, 0x80)] } }
theorem witness_PostsChecked_boot : ∀ mem ∈ ([[], [(0x30000, 1)]] : List (SMap Byte)), let s := sBoot mem
    (partAt s 0).absent = false ∧ (partAt s 0).busy = true ∧ (partAt s 0).postFrom = some (0, 0, false) ∧
    (partAt s 0).started = false ∧ s.mem.wf = true ∧ binOwned s 0 2 = true ∧ (∀ e < 2, binOwned s 0 e = false) ∧
    coreOwned s 0 3 = true ∧ sliceOwned s 0 (48 * (2 / 1152) + 5) = true ∧ 0 < (partAt s 0).bootlen.toNat % 2 ^ 28 ∧
    (partAt s 0).bootlen.toNat % 2 ^ 28 ≤ 254 * 2 ^ 20 ∧ liveNodes s 0 = [] ∧ (partAt s 0).halted = false := by decide +kernel
/-- A session that FINISH has not established yet; other requests of it are refused, as FINISH of an established one is. -/
theorem witness_SpdmAnswers :
    let s : State := { sA with out := { sA.out with spdm := [(1, { phase := 3, sessions := [{ id := 1, all := true, up := false }] })] } }
    fnThere s 1 = true ∧ 3 ≤ (spdmAt s 1).phase ∧ (spdmAt s 1).sessions = [{ id := 1, all := true, up := false }] ∧
    (∀ y ∈ (spdmAt s 1).sessions, y.id = 2 → y.up = true) ∧ (∀ y ∈ (spdmAt (sSpdm {} true) 1).sessions, y.id = 1 → y.up = true) := by
  decide +kernel

/-- A flit of a type from device 0x21 with number 0, its CRC right, whose first payload byte is as given. -/
def flitOf (typ : BitVec 8) (b : Nat) : Flit :=
  sealFlit { typ, len := 8, src := 0x21, dst := 0, seq := 0, window := 3, offset := 0, payload := leBytes 8 b, poison := 0, crc := 0 }
theorem flitGood_flitOf (t : BitVec 8) (b : Nat) : flitGood sA 17 (flitOf t b) = true := by
  have h : flitCrcOk (flitOf t b) = true := by simp [flitCrcOk, flitOf, sealFlit, flitBytes]
  have h' : (portAt sA 17).rxSeq = 0 := by decide +kernel
  have h2 : (flitOf t b).seq = 0 := rfl
  simp [flitGood, h, h', h2]
/-- Every type, a reserved one with them; with another device's number it is not for this one. -/
theorem witness_FlitsPortsAndPackets_good : ∀ t ∈ [0, 1, 2, 3, 4, 5, 6, 255],
    flitGood sA 17 (flitOf (BitVec.ofNat 8 t) 1) = true ∧ (flitOf (BitVec.ofNat 8 t) 1).typ = BitVec.ofNat 8 t ∧
      (flitOf (BitVec.ofNat 8 t) 1).dst = sA.out.thdev ∧
      (flitOf (BitVec.ofNat 8 t) 1).dst ≠ { sA.out with thdev := 0x22 }.thdev ∧ mapOrdered sA.ctxs = true :=
  fun t _ => ⟨flitGood_flitOf _ 1, rfl, rfl, by simp [flitOf, sealFlit], by decide +kernel⟩
/-- The same with number 1 is not the expected one. -/
theorem witness_FlitsPortsAndPackets_bad (t : BitVec 8) : flitGood sA 17 { flitOf t 1 with seq := 1 } = false := by
  have h : (portAt sA 17).rxSeq = 0 := by decide +kernel
  simp [flitGood, h]
/-- Window 3 of context 1 lies at 0x70000, or is not there; a put of this device waits at device 0x21. -/
def sPeer : State :=
  { sA with
    ctxs := [(1, { ptbase := 0x10001
                   wins := [(3, { addr := 0x70000, len := 0x10000, ctl := 0, valid := true })
                            , (4, { len := 0x10000, ctl := 0x0021003000000040, valid := true })] })]
    xfers := [{ xfer false 2 with win := 4, off := 0 }] }
theorem witness_FlitsPortsAndPackets_flits :
    sA.out.ready = true ∧ 17 < 18 ∧ (portAt sA 17).up = true ∧ portAt sPeer 17 = portAt sA 17 ∧
    (∀ t ∈ [1, 2], inWindow sA (flitOf t 1).window.toNat (flitOf t 1).offset.toNat (flitPayload (flitOf t 1)).length = none ∧
      inWindow sA (flitOf t 1).window.toNat (flitOf t 1).offset.toNat (leNat ((flitOf t 1).payload.take 8)) = none ∧
      (inWindow sPeer (flitOf t 1).window.toNat (flitOf t 1).offset.toNat (leNat ((flitOf t 1).payload.take 8))).map (·.1) = some 1 ∧
      (inWindow sPeer (flitOf t 1).window.toNat (flitOf t 1).offset.toNat (flitPayload (flitOf t 1)).length).map (·.1) = some 1) ∧
    incomingAsleep sPeer 3 0 8 = [] ∧ (∀ q ∈ piecesOf 0x70000 8, needsFrame sPeer 1 q.1 = false) ∧
    ackedPut sA (flitOf 3 1) = none ∧ (ackedPut sPeer (flitOf 3 1)).map (fun x => (x.id, x.op, x.ctx % 256)) = some (9, none, 1) ∧
    (flitOf 3 1).payload.headD 0 = 1 ∧ (flitOf 3 0).payload.headD 0 ≠ 1 := by decide +kernel
/-- The eight bytes of such a put have places of their own off the tables. -/
theorem witness_FlitsPortsAndPackets_places : ∀ i < 8,
    winCheck sPeer 1 true (0x70000 + i) = none ∧
      (walk sPeer 1 (0x70000 + i)).map (fun tr => (tr.attr.zero, transPa tr (0x70000 + i))) = some (false, 0x70000 + i) ∧
      atHome sPeer 0 (0x70000 + i) = .ok ∧ (∀ q ∈ wayOf sPeer 1 (0x70000 + i), q + 8 ≤ 0x70000) ∧
      leafOf sPeer 1 (0x70000 + i) = some 0x14038 := by decide +kernel
def sPort (l : SMap Port) : State := { sA with out := { sA.out with ports := l } }
/-- Every port but the last is down. -/
def lastUp : SMap Port := (List.range 17).map (fun i => (i, { up := false })) ++ [(17, { failed := 17 })]
/-- A put into window 3, whose peer is reached by Ethernet. -/
def uePutX : Xfer := { xfer false 2 with win := 3 }
def sUe : State := { sA with xfers := [uePutX], ctxs := [(1, { wins := [(3, { ctl := 0x80, valid := true })] })] }
theorem witness_FlitsPortsAndPackets_ports :
    ((portAt (sPort [(17, { failed := 17 })]) 17).up = true ∧ 16 < (portAt (sPort [(17, { failed := 17 })]) 17).failed ∧
      (portAt (sPort [(17, { failed := 17 })]) 0).up = true) ∧
    ((portAt (sPort lastUp) 17).up = true ∧ 16 < (portAt (sPort lastUp) 17).failed ∧
      ∀ j < 18, j ≠ 17 → (portAt (sPort lastUp) j).up = false) ∧
    (portAt (sPort [(17, { up := false })]) 17).up = false ∧
    (sUe.out.ready = true ∧ uePut sUe 9 = some uePutX ∧ uePutX.op = none ∧ uePutX.ctx % 256 ≠ 0) ∧
    (inWindow sA 3 0 4096 = none ∧ (inWindow sPeer 3 0 4096).map (·.1) = some 1 ∧ incomingAsleep sPeer 3 0 4096 = []) := by
  decide +kernel

/-! ### Witnesses: encoding and the step -/

/-- add.i32 s1, s2, s3. -/
def addS : Instr := .addSSS { sp := false, d := 1, a := 2, b := 3, ty := .i32 }
theorem witness_EncodeThenDecode : addS.WellFormed ∧
    Instr.WellFormed (.ffma { sp := false, form := .v, neg := false, p := 3, d := 9, a := 8, b := 7, c := 6, ty := .f32, aux := 0
                              rnd := .rz, sat := true, imm := 0 }) := by decide +kernel
theorem witness_DecodeThenEncode : decode 0x06041032 0 = .ok addS := by decide +kernel
theorem witness_DecodeRejects :
    (∀ m ∈ [0x00, 0x2F, 0x39, 0x3A, 0x3B, 0x3C, 0x3D, 0x3E, 0x3F],
      ((BitVec.ofNat 32 (m * 2 ^ 25)).extractLsb' 25 6).toNat = m) ∧
    (∀ m ∈ [0x1E, 0x1F, 0x20], ((BitVec.ofNat 32 (m * 2 ^ 25 + 8) : IWord).extractLsb' 25 6).toNat = m ∧
      (BitVec.ofNat 32 (m * 2 ^ 25 + 8) : IWord).extractLsb' 0 4 = 0b1000#4) ∧
    ((0x66000014 : IWord).extractLsb' 25 6).toNat = 0x33 ∧ (0x66000014 : IWord).extractLsb' 0 4 = 4#4 ∧
    (0x66000014 : IWord).extractLsb' 4 21 ≠ 0 ∧ decode 0x66000014 0 = .reject 0x02 := by decide +kernel
/-- nop at 0, about to issue. -/
def sN : State :=
  { at' 1 foc grp with
    focus := none, agenda := [.issue 0, .tick], mem := { State.reset.mem with cellar := [(0, 4), (3, 0x66)] } }
def nop : Instr := .nop { sp := false, d := 0, a := 0, b := 0 }
theorem witness_StepRunsDecoded :
    sN.out.down = false ∧ mapFind sN.groups 0 = some grp ∧ grp.stopped = none ∧ groupHalted sN grp = false ∧
    latchDue grp = false ∧ grp.blocks = [] ∧ grp.pends = [] ∧ (teamAt sN grp.team).preemptAt = none ∧
    (ctxAt sN (groupCtx sN grp)).bkptc = [] ∧
    (let s1 := putGroup { sN with agenda := [.tick] } 0 { grp with yielded := false, raised := 0 }
     runsOf s1 0 { grp with yielded := false, raised := 0 } = [{ lanes := 0xFFFFFFFF, pc := 0, rep := false }] ∧
      fetchWord s1 (gidCore 0) (groupCtx sN grp) 0 = .word 0x66000004 ∧ hasSecond 0x66000004 = false ∧
      decode 0x66000004 0 = .ok nop ∧ featureCause s1 (ctxPart (groupCtx sN grp)) 0x66000004 0 = none ∧
      (groupAt (nextOf (exec nop { s1 with focus := some { gid := 0, lanes := 0xFFFFFFFF, pc := 0, npc := 4 } })) 0).blocks = []) := by
  decide +kernel
theorem witness_StepRunsEvents : sN.out.down = false ∧ ({ sN with agenda := [.tick] } : State).agenda = .tick :: [] ∧
    ({ sN with agenda := [.event (.perstDeassert)] } : State).agenda = .event .perstDeassert :: [] ∧
    sN.clk.clock.toNat * 1000 + sN.clk.rem + sN.clk.mhz < 2 ^ 64 * 1000 := by
  refine ⟨by decide +kernel, rfl, rfl, by decide +kernel⟩
/-- The reset state has the invariant, and the passing of a nanosecond is a step from it. -/
theorem witness_GoodKept : Good { State.reset with agenda := [.tick] } ∧
    (nextOf (step { State.reset with agenda := [.tick] })).clk.ns = 1 := by
  unfold Good; decide +kernel

/-! ### Decoding: the words that the manual writes out -/

/-- Whether words decode to what they stand for. -/
def reads (l : List (IWord × IWord × Instr)) : Bool := l.all (fun e => decide (decode e.1 e.2.1 = .ok e.2.2))
/-- From the table at the end of 05. -/
theorem test_words_encoding_1 : reads
  [(0x02041032, 0x0, .addVVV { sp := false, d := 1, a := 2, b := 3, ty := .i32 }),
   (0x04041032, 0x0, .addVVS { sp := false, d := 1, a := 2, b := 3, ty := .i32 }),
   (0x06041032, 0x0, .addSSS { sp := false, d := 1, a := 2, b := 3, ty := .i32 }),
   (0x3C102860, 0x0102C0C0, .faddX { sp := false, form := .v, neg := false, p := 0, d := 4, a := 5, b := 6, c := 0,
                                     ty := .f32, aux := 0, rnd := .rz, sat := false, imm := 0 }),
   (0x461C2003, 0x001AC040, .ld { sp := false, form := .v, d := 7, a := 4, b := 0, look := 3, aop := 0, ty := .n32,
                                  ord := .acq, sc := .die, off := 64 }),
   (0x322417FD, 0x0, .moviVecImm { sp := false, d := 9, ty := .i32, imm := 2045 }),
   (0x36085800, 0x3F400000, .moviVecIword { sp := false, d := 2, ty := .f32, imm := 0x3F400000 }),
   (0x60000000, 0xFFFFFFFA, .bra { sp := false, imm := 0xFFFFFFFA })] = true := by
  decide +kernel
/-- From the table at the end of 05. -/
theorem test_words_encoding_2 : reads
  [(0x681A8000, 0x0, .rep { sp := false, cnt := 3, sd := 1, sa := 1, sb := 0 }),
   (0x1040004B, 0x0, .fmulVVS { sp := false, d := 16, a := 0, b := 4, ty := .f32 }),
   (0x82041032, 0x0, .addVVV { sp := true, d := 1, a := 2, b := 3, ty := .i32 })] = true := by
  decide +kernel
/-- From the table of 07. -/
theorem test_words_vector_1 : reads
  [(0x3C041030, 0x00B88410, .cmp { sp := false, form := .v, neg := false, p := 0, d := 1, a := 2, b := 3, c := 0,
                                   ty := .i32, aux := 2, rnd := .dflt, sat := false, imm := 16 }),
   (0x3E143070, 0x10208020, .mad { sp := false, form := .m, neg := false, p := 0, d := 5, a := 6, b := 7, c := 8,
                                   ty := .i32, aux := 0, rnd := .dflt, sat := true, imm := 0 }),
   (0x3C0C1000, 0x014396E1, .cvt { sp := false, form := .v, neg := false, p := 0, d := 3, a := 2, b := 0, c := 0,
                                   ty := .e4m3, aux := 11, rnd := .rz, sat := true, imm := 1 }),
   (0x400C2000, 0x0182C100, .sqrt { sp := false, form := .s, neg := false, p := 0, d := 3, a := 4, b := 0, c := 0,
                                    ty := .f32, aux := 0, rnd := .rp, sat := false, imm := 0 }),
   (0x40004000, 0x01A3400F, .cbld { sp := false, form := .s, neg := false, p := 0, d := 0, a := 8, b := 0, c := 0,
                                    ty := .bf16, aux := 0, rnd := .dflt, sat := false, imm := 15 }),
   (0x3E244020, 0x01C2C003, .shfl { sp := false, form := .m, neg := false, p := 0, d := 9, a := 8, b := 2, c := 0,
                                    ty := .f32, aux := 0, rnd := .dflt, sat := false, imm := 3 }),
   (0x3E000050, 0x03D04000, .ballot { sp := false, form := .m, neg := false, p := 0, d := 0, a := 0, b := 5, c := 1,
                                      ty := .n64, aux := 0, rnd := .dflt, sat := false, imm := 0 }),
   (0x3C182000, 0x01E0C008, .gscan { sp := false, form := .v, neg := false, p := 0, d := 6, a := 4, b := 0, c := 0,
                                     ty := .n32, aux := 0, rnd := .dflt, sat := false, imm := 8 })] = true := by
  decide +kernel
/-- From the table of 07. -/
theorem test_words_vector_2 : reads
  [(0x42140000, 0x0, .rdsrVector { sp := false, d := 5, n := 0 }),
   (0x44004871, 0x0, .wrsr { sp := false, a := 9, n := 7 })] = true := by
  decide +kernel
/-- From the table of 09. -/
theorem test_words_control_1 : reads
  [(0x60000000, 0x0, .bra { sp := false, imm := 0 }),
   (0x62000801, 0x0, .brp { sp := false, p := 1, neg := true, imm := 0 }),
   (0x64500000, 0x0, .call { sp := false, d := 20, u := false, imm := 0 }),
   (0x66002810, 0x0, .jmpi { sp := false, d := 0, a := 5, b := 1 }),
   (0x6600A001, 0x0, .ret { sp := false, d := 0, a := 20, b := 0 }),
   (0x66000002, 0x0, .exit { sp := false, d := 0, a := 0, b := 0 }),
   (0x66000003, 0x0, .yield { sp := false, d := 0, a := 0, b := 0 }),
   (0x66000004, 0x0, .nop { sp := false, d := 0, a := 0, b := 0 })] = true := by
  decide +kernel
/-- From the table of 09. -/
theorem test_words_control_2 : reads
  [(0x66001805, 0x0, .gsync { sp := false, d := 0, a := 3, b := 0 }),
   (0x66003816, 0x0, .waitClk { sp := false, d := 0, a := 7, b := 1 }),
   (0x6A000080, 0x0, .win { sp := false, imm := 128 }),
   (0x6C000021, 0x0, .trap { sp := false, imm := 33 }),
   (0x6E000005, 0x0, .brk { sp := false, imm := 5 })] = true := by
  decide +kernel
/-- From the table of 11. -/
theorem test_words_memory : reads
  [(0x481C1002, 0x00080000, .ld { sp := false, form := .m, d := 7, a := 2, b := 0, look := 2, aop := 0, ty := .n64,
                                  ord := .rlx, sc := .grp, off := 0 }),
   (0x46042090, 0x10180008, .st { sp := false, form := .v, d := 1, a := 4, b := 9, look := 0, aop := 0, ty := .n32,
                                  ord := .rlx, sc := .grp, off := 8 }),
   (0x46302801, 0x20680100, .lds { sp := false, form := .v, d := 12, a := 5, b := 0, look := 1, aop := 0, ty := .bf16,
                                   ord := .rlx, sc := .grp, off := 256 }),
   (0x460C4090, 0x511CC000, .atom { sp := false, form := .v, d := 3, a := 8, b := 9, look := 0, aop := 1, ty := .n32,
                                    ord := .rel, sc := .die, off := 0 }),
   (0x4A000000, 0x80070000, .fence { sp := false, form := .s, d := 0, a := 0, b := 0, look := 0, aop := 0, ty := .i64,
                                     ord := .ar, sc := .pkg, off := 0 }),
   (0x4A001030, 0xA0050000, .wbr { sp := false, form := .s, d := 0, a := 2, b := 3, look := 0, aop := 0, ty := .i64,
                                   ord := .rel, sc := .pkg, off := 0 }),
   (0x4C103070, 0x00050000, .put { sp := false, form := .s, d := 4, a := 6, b := 7, look := 0, aop := 0, ty := .i64,
                                   ord := .rel, sc := .pkg, off := 0 }),
   (0x4C2450B0, 0x20030000, .ctrw { sp := false, form := .s, d := 9, a := 10, b := 11, look := 0, aop := 0, ty := .i64,
                                    ord := .acq, sc := .pkg, off := 0 })] = true := by
  decide +kernel
/-- From the table of 17. -/
theorem test_words_renaming : reads
  [(0x4E50B000, 0x0000C000, .mapCat { sp := false, form := .s, d := 20, a := 22, b := 0, look := 0, aop := 0, ty := .i64,
                                      ord := .rlx, sc := .die, off := 0 }),
   (0x4E202060, 0x10010000, .mapSplit { sp := false, form := .s, d := 8, a := 4, b := 6, look := 0, aop := 0, ty := .i64,
                                        ord := .rlx, sc := .pkg, off := 0 }),
   (0x4E041100, 0x20014000, .mapPerm { sp := false, form := .s, d := 1, a := 2, b := 16, look := 0, aop := 0, ty := .i64,
                                       ord := .rlx, sc := .sys, off := 0 }),
   (0x4E081840, 0x3000C000, .mapXchg { sp := false, form := .s, d := 2, a := 3, b := 4, look := 0, aop := 0, ty := .i64,
                                       ord := .rlx, sc := .die, off := 0 }),
   (0x4E2858C0, 0x4000C000, .mapAlias { sp := false, form := .s, d := 10, a := 11, b := 12, look := 0, aop := 0,
                                        ty := .i64, ord := .rlx, sc := .die, off := 0 }),
   (0x4E2858C0, 0x4100C000, .mapAlias { sp := false, form := .s, d := 10, a := 11, b := 12, look := 0, aop := 1,
                                        ty := .i64, ord := .rlx, sc := .die, off := 0 }),
   (0x4E002860, 0x50010000, .mapDrop { sp := false, form := .s, d := 0, a := 5, b := 6, look := 0, aop := 0, ty := .i64,
                                       ord := .rlx, sc := .pkg, off := 0 }),
   (0x4E1C4800, 0x60000000, .mapQuery { sp := false, form := .s, d := 7, a := 9, b := 0, look := 0, aop := 0, ty := .i64,
                                        ord := .rlx, sc := .grp, off := 0 })] = true := by
  decide +kernel
/-- From the table of 19. -/
theorem test_words_engines_1 : reads
  [(0x54002050, 0x0, .txInit { sp := false, d := 0, a := 4, b := 5 }),
   (0x54002092, 0x0, .txArrive { sp := false, d := 0, a := 4, b := 9 }),
   (0x54182083, 0x0, .txWait { sp := false, d := 6, a := 4, b := 8 }),
   (0x54002005, 0x0, .txDrop { sp := false, d := 0, a := 4, b := 0 }),
   (0x502858C0, 0x00000000, .cpG2s { sp := false, d := 10, a := 11, b := 12, handle := 0, shape := 0, cls := 0, param := 0 }),
   (0x502858C1, 0x00000001, .cpS2g { sp := false, d := 10, a := 11, b := 12, handle := 0, shape := 0, cls := 0, param := 1 }),
   (0x502858C3, 0x00000003, .cpMc { sp := false, d := 10, a := 11, b := 12, handle := 0, shape := 0, cls := 0, param := 3 }),
   (0x522858C1, 0x0070000D, .cpxQ4r { sp := false, d := 10, a := 11, b := 12, handle := 7, shape := 0, cls := 0, param := 13 })] = true := by
  decide +kernel
/-- From the table of 19. -/
theorem test_words_engines_2 : reads
  [(0x5650A960, 0x00011081, .mm { sp := false, d := 20, a := 21, b := 22, handle := 0, shape := 1, cls := 1, param := 129 }),
   (0x5650C192, 0x0001080D, .mmSt { sp := false, d := 20, a := 24, b := 25, handle := 0, shape := 1, cls := 0, param := 2061 })] = true := by
  decide +kernel
/-- From the table of 21. -/
theorem test_words_traps : reads
  [(0x70000000, 0x0, .tret { sp := false, d := 0, a := 0, b := 0 }),
   (0x70140621, 0x0, .csrr { sp := false, d := 5, n := 98 }),
   (0x70003632, 0x0, .csrw { sp := false, a := 6, n := 99 }),
   (0x70004093, 0x0, .gsave { sp := false, d := 0, a := 8, b := 9 }),
   (0x70004094, 0x0, .grest { sp := false, d := 0, a := 8, b := 9 }),
   (0x70003805, 0x0, .scall { sp := false, d := 0, a := 7, b := 0 })] = true := by
  decide +kernel
/-- From the table of 23. -/
theorem test_words_trellis_1 : reads
  [(0x58142000, 0x0, .taskSpawn { sp := false, d := 5, a := 4, b := 0 }),
   (0x58003071, 0x0, .tileSet { sp := false, d := 0, a := 6, b := 7 }),
   (0x58203002, 0x0, .tileGet { sp := false, d := 8, a := 6, b := 0 }),
   (0x5A245000, 0x0, .ridgeArrive { sp := false, d := 9, a := 10, b := 0 }),
   (0x5A005091, 0x0, .ridgeWait { sp := false, d := 0, a := 10, b := 9 }),
   (0x5A245002, 0x0, .ridgeJoin { sp := false, d := 9, a := 10, b := 0 }),
   (0x5A005003, 0x0, .ridgeLeave { sp := false, d := 0, a := 10, b := 0 }),
   (0x5A2C0004, 0x0, .leadStep { sp := false, d := 11, a := 0, b := 0 })] = true := by
  decide +kernel
/-- From the table of 23. -/
theorem test_words_trellis_2 : reads
  [(0x5C0C0000, 0x0, .tasteNext { sp := false, d := 3, a := 0, b := 0 }),
   (0x5C0C0800, 0x0, .tasteNext { sp := false, d := 3, a := 1, b := 0 }),
   (0x5C041841, 0x0, .tasteAdd { sp := false, d := 1, a := 3, b := 4 }),
   (0x5C300012, 0x0, .tasteStat { sp := false, d := 12, a := 0, b := 1 })] = true := by
  decide +kernel

/-! ### Well-formedness: what it refuses -/

/-- Whether well-formedness refuses each term, with the cause given (R68). -/
def refuses (l : List (BitVec 8 × Instr)) : Bool := l.all (fun e => e.2.causes.contains e.1 && decide (¬ e.2.WellFormed))
def xa : XArgs :=
  { sp := false, form := .v, neg := false, p := 0, d := 1, a := 2, b := 3, c := 0, ty := .i32, aux := 0, rnd := .dflt
    sat := false, imm := 0 }
def xf : XArgs := { xa with ty := .f32 }
def xs : XArgs := { xa with form := .s }
def ma : MArgs :=
  { sp := false, form := .s, d := 0, a := 2, b := 0, look := 0, aop := 0, ty := .i64, ord := .rlx, sc := .grp, off := 0 }
def ea : EArgs := { sp := false, d := 1, a := 2, b := 3, handle := 0, shape := 0, cls := 0, param := 0 }
def za : R3L := { sp := false, d := 0, a := 0, b := 0 }
/-- An integer operation on a float type, c4 as a short type, not on floats, bits above the element in an I-word. -/
theorem test_wf_short : refuses
  [(3, .addVVV { sp := false, d := 1, a := 2, b := 3, ty := .f32 }), (3, .faddSSS { sp := false, d := 1, a := 2, b := 3, ty := .c4 }),
   (3, .notVV { sp := false, d := 1, a := 2, ty := .f32 }), (3, .moviVecImm { sp := false, d := 1, ty := .e2m1, imm := 0 }),
   (2, .moviUniIword { sp := false, d := 1, ty := .i8, imm := 256 })] = true := by decide +kernel
/-- The fields of an extended instruction: guard 0b1000, a guard in the uniform form, unused b and c, rounding, saturation,
aux, type. -/
theorem test_wf_extended : refuses
  [(1, .addX { xa with neg := true }), (2, .addX { xs with p := 1 }), (2, .absX xa), (2, .addX { xa with c := 1 }),
   (2, .addX { xa with rnd := .rz }), (2, .mulhi { xa with sat := true }), (2, .addX { xa with aux := 1 }),
   (3, .addX { xa with ty := .f32 }), (3, .faddX xa), (2, .fminX { xf with rnd := .rz }), (2, .sel { xa with c := 8 }),
   (3, .dot4 xa), (3, .sad xa), (3, .sin { xf with ty := .f64, b := 0 }), (2, .sin { xf with rnd := .rz, b := 0 }),
   (2, .frnd { xf with b := 0, sat := true })] = true := by decide +kernel
/-- Compare conditions and destinations, conversion parts and source types, pack and unpack. -/
theorem test_wf_compare_convert : refuses
  [(1, .cmp { xa with aux := 6 }), (2, .cmp { xa with imm := 1 }), (2, .cmp { xa with imm := 16, d := 0 }),
   (2, .cmp { xa with imm := 18 }), (2, .cvt { xf with b := 0, aux := 0x0E, imm := 4 }), (3, .cvt { xf with b := 0, aux := 0x14 }),
   (3, .pack { xf with aux := 0x0B }), (1, .unpack { xf with form := .m, b := 0, aux := 0x0D }),
   (2, .unpack { xf with d := 127, b := 0, aux := 0x0D })] = true := by decide +kernel
/-- The codebook and cross-lane instructions. -/
theorem test_wf_lanes : refuses
  [(2, .cbld { xs with d := 0, b := 0, ty := .bf16 }), (2, .cbld { xs with d := 0, a := 126, b := 0, ty := .bf16, imm := 4 }),
   (2, .cbrd { xs with a := 0, b := 0, ty := .bf16, imm := 4 }), (3, .cbq { xf with b := 0, ty := .c4 }),
   (3, .shfl { xa with ty := .c4 }), (1, .shfl xs), (2, .shfl { xa with imm := 4 }), (3, .bcast { xa with form := .m, d := 0 }),
   (2, .ballot { xa with a := 0, b := 3, ty := .n64 }), (1, .vote { xa with a := 0, b := 0, ty := .n64, aux := 6 }),
   (1, .gscan { xa with b := 0, imm := 6 }), (2, .gred { xa with b := 0, imm := 8 }), (3, .gred { xf with b := 0, imm := 3 }),
   (2, .matchEq { xa with b := 0, imm := 2 })] = true := by decide +kernel
/-- The fields of an M-word. -/
theorem test_wf_memory : refuses
  [(3, .ld { ma with ty := .i4 }), (1, .ld { ma with ord := .rel }), (1, .lds { ma with sc := .pkg }), (2, .ld { ma with b := 1 }),
   (2, .ld { ma with aop := 1 }), (1, .st { ma with form := .v, d := 8 }), (2, .st { ma with form := .v, d := 16 }),
   (2, .st { ma with d := 1 }), (2, .st { ma with look := 1 }), (1, .atom ma), (3, .atom { ma with aop := 4, ty := .f32 }),
   (3, .atoms { ma with aop := 1, ty := .i16 }), (1, .pref { ma with sc := .pkg }), (1, .fence { ma with a := 0 }),
   (1, .fence { ma with a := 0, form := .v, ord := .ar }), (2, .fenceEng ma), (1, .wbr { ma with ord := .acq, sc := .pkg }),
   (1, .invr { ma with sc := .die }), (1, .put ma), (2, .get { ma with sc := .die, off := 8 }), (1, .ctrw { ma with ord := .rel, sc := .die }),
   (2, .mapCat { ma with b := 1 }), (2, .mapSplit { ma with a := 127 }), (1, .mapAlias { ma with aop := 2 }),
   (2, .mapDrop { ma with d := 1 }), (2, .mapQuery { ma with sc := .die })] = true := by decide +kernel
/-- The fields of an E-word, and of the register-only formats. -/
theorem test_wf_engines_system : refuses
  [(2, .cpG2s { ea with param := 1 }), (2, .cpS2g { ea with param := 2 }), (2, .cpG2s { ea with handle := 1 }),
   (3, .cpxQ4r { ea with param := 2 }), (3, .cpxDq { ea with param := 0x14 }), (1, .mm { ea with shape := 4 }),
   (1, .mm { ea with cls := 7 }), (1, .mmSt { ea with param := 0xCB }), (3, .mmLd { ea with param := 0 }),
   (2, .txInit { za with d := 1 }), (2, .txWait { za with b := 127 }), (2, .txDrop { za with b := 1 }), (2, .taskSpawn { za with b := 1 }),
   (2, .tileSet { za with d := 1 }), (2, .ridgeLeave { za with b := 1 }), (2, .leadStep { za with a := 1 }),
   (2, .tasteNext { za with a := 2 }), (2, .tasteAdd { za with d := 2 }), (2, .jmpi { za with b := 2 }), (2, .exit { za with a := 1 }),
   (2, .gsync { za with b := 1 }), (2, .waitClk za), (2, .win { sp := false, imm := 4 }), (2, .trap { sp := false, imm := 256 }),
   (1, .rdsrVector { sp := false, d := 1, n := 0x0D }), (1, .rdsrUniform { sp := false, d := 1, n := 0 }),
   (1, .wrsr { sp := false, a := 1, n := 0 }), (2, .tret { za with a := 1 }), (2, .gsave { za with d := 1 }),
   (2, .scall { za with b := 1 })] = true := by decide +kernel
/-- An event is no instruction of the map. -/
theorem test_wf_events : ¬ Instr.WellFormed (.switchPoint 0) ∧ ¬ Instr.WellFormed .trainingDone := by decide +kernel

/-! ### Single steps: results worked out in the manual, or by hand from its rules -/

/-- Lanes 0 to 4 issue with some registers. -/
def foc5 : Focus := { foc with lanes := 31 }
def with' (v s : SMap Word) (p : SMap LaneMask) : Group := { grp with vregs := v, sregs := s, preds := p }
def run5 (g : Group) (i : Instr) : Group := groupOf (exec i (at' 1 foc5 g))

/-- 0x7FFFFFFF + 1 and 0xFFFFFFFF + 1 wrap, and no flag is set (R93). -/
theorem test_add_i32_wraps :
    let g := run5 (with' [(64, 0x7FFFFFFFFFFFFFFF), (96, 0x0000000100000001)] [] [])
      (.addVVV { sp := false, d := 1, a := 2, b := 3, ty := .i32 })
    vGet g 1 0 = 0x8000000000000000 ∧ g.sticky = 0 ∧ pcGet g 0 = 68 := by decide +kernel
/-- 2^31 - 1 + 1 saturates with .sat, and SAT is set (R38, R93). -/
theorem test_add_i32_sat :
    let g := run5 (with' [(64, 0x7FFFFFFF), (96, 1)] [] []) (.addX { xa with sat := true })
    vGet g 1 0 = 0x7FFFFFFF ∧ g.sticky = 0x20 := by decide +kernel
/-- 1 + (2^-24 + 2^-47) toward zero is 1, inexact; to nearest it is the next value above 1 (R36, R99). -/
theorem test_fadd_f32_rz :
    let g := run5 (with' [(64, 0x3F800000), (96, 0x33800001)] [] []) (.faddX { xf with rnd := .rz })
    vGet g 1 0 = 0x3F800000 ∧ g.sticky = 0x10 := by decide +kernel
theorem test_fadd_f32_nearest :
    vGet (run5 (with' [(64, 0x3F800000), (96, 0x33800001)] [] []) (.faddX xf)) 1 0 = 0x3F800001 := by decide +kernel
/-- The square root of 2 rounded up (R105). -/
theorem test_sqrt_f32_rp :
    let g := run5 (with' [] [(4, 0x40000000)] []) (.sqrt { xs with d := 3, a := 4, b := 0, ty := .f32, rnd := .rp })
    sGet g 3 = 0x3FB504F4 ∧ g.sticky = 0x10 := by decide +kernel
/-- A source that is also the destination is read before it is written: v2 := v2 - v2 (R88). -/
theorem test_sub_same_register :
    vGet (run5 (with' [(64, 7)] [] []) (.subVVV { sp := false, d := 2, a := 2, b := 2, ty := .i64 })) 2 0 = 0 := by decide +kernel
/-- A shift by the element's width gives zero (R95). -/
theorem test_shl_by_width :
    vGet (run5 (with' [(64, 0xFFFFFFFF), (96, 32)] [] []) (.shlVVV { sp := false, d := 1, a := 2, b := 3, w := 0b01 })) 1 0 = 0 := by
  decide +kernel
/-- 1000 becomes 448 with .sat, 0.5 is 0x30, SAT and NX are set; part 1 of e4m3 holds elements 2 and 3 and the others stay (R102, R103). -/
theorem test_cvt_e4m3_part :
    let g := run5 (with' [(64, 0x3F000000447A0000), (96, 0x1122334455667788)] [] [])
      (.cvt { xa with d := 3, b := 0, ty := .e4m3, aux := 0x0B, rnd := .rz, sat := true, imm := 1 })
    vGet g 3 0 = 0x11223344307E7788 ∧ g.sticky = 0x30 := by decide +kernel
/-- The guarded exclusive scan of 08: lanes 0, 2 and 4 are active. -/
theorem test_gscan_guarded :
    let v : SMap Word := (List.range 5).map (fun l => (128 + l, 0x0000000200000001))
    let g := run5 (with' (v ++ [(193, 9)]) [] [(1, 0x55555555)])
      (.gscan { xa with p := 1, d := 6, a := 4, b := 0, ty := .n32, imm := 8 })
    vGet g 6 0 = 0x0000000100000000 ∧ vGet g 6 1 = 9 ∧ vGet g 6 2 = 0x0000000400000003 ∧ vGet g 6 4 = 0x0000000700000006 := by
  decide +kernel
/-- The codebook pass of 08: −8 to 7, then the nearest entries of 2.5, −0.4, 9.0 and a NaN. -/
def cbRegs : SMap Word :=
  [(8, 0xC0A0C0C0C0E0C100), (9, 0xBF80C000C040C080), (10, 0x404040003F800000), (11, 0x40E040C040A04080)]
def cbGroup : Group := run5 (with' [(32, 0xBECCCCCD40200000), (33, 0x7FC0000041100000)] cbRegs [])
    (.cbld { xs with d := 0, a := 8, b := 0, ty := .bf16, imm := 15 })
theorem test_cbld : cbList cbGroup = [0xC100, 0xC0E0, 0xC0C0, 0xC0A0, 0xC080, 0xC040, 0xC000, 0xBF80, 0, 0x3F80, 0x4000,
    0x4040, 0x4080, 0x40A0, 0x40C0, 0x40E0] := by decide +kernel
theorem test_cbq :
    let g := run5 cbGroup (.cbq { xf with d := 2, a := 1, b := 0 })
    vGet g 2 0 = 0x0000000040000000 ∧ vGet g 2 1 = 0xC100000040E00000 ∧ g.sticky = 1 := by decide +kernel
theorem test_cvt_c4 :
    let g := run5 cbGroup (.cvt { xa with d := 3, a := 1, b := 0, ty := .c4, aux := 0x0B })
    vGet g 3 0 = 0x8A ∧ vGet g 3 1 = 0x0F ∧ g.sticky = 1 := by decide +kernel
/-- The codebook searches of 04. -/
theorem test_cbNearest :
    let cb := [0x0000, 0x3F80, 0x4000, 0x7FC1, 0xBF80] ++ List.replicate 11 0x4080
    (cbNearest cb (decodeF fmtF32 0x3FC00000), cbNearest cb (decodeF fmtF32 0x80000000), cbNearest cb (decodeF fmtF32 0x7FC00000),
      cbNearest cb (decodeF fmtF32 0x7F800000), cbNearest cb (decodeF fmtF32 0x40800000)) =
    ((1, 0), (0, 0), (3, 0), (0, 0), (5, 0)) := by decide +kernel
/-- The Q4R block of 04: 1.5, −0.3125, 2.75 and 0.046875 with row scale 0.5. -/
theorem test_quantQ4R :
    let q := quantQ4R ([0x3FC00000, 0xBEA00000, 0x40300000, 0x3D400000].map (decodeF fmtF32) ++
      List.replicate 60 (.zero false)) (decodeF fmtBf16 0x3F00)
    q.1 = 0x77 ∧ q.2.1.take 5 = [5, 9, 7, 0, 0] := by decide +kernel
/-- The Press block of 04: 2^24 + 1 − 2^24 is 1 exactly, and C = 2^24 loses it. -/
theorem test_press_block :
    let one := decodeF fmtBf16 0x3F80
    let b := blockValue one one ([0x4B80, 0x3F80, 0xCB80].map (fun c => (one, decodeF fmtBf16 c)) ++
      List.replicate 29 (one, .zero false))
    b = 0x3F800000 ∧ accAdd 0x4B800000 b = 0x4B800000 := by decide +kernel
/-- The conversions to f32 and back of 04. -/
theorem test_cvtToF32 : cvtToF32 fmtBf16 0x8000 = 0x80000000 ∧ cvtToF32 fmtBf16 0x7F81 = 0x7F810000 ∧
    cvtToF32 fmtE5m2 0x7D = 0x7FA00000 ∧ cvtToF32 fmtE4m3 0xFF = 0xFFF00000 := by decide +kernel
/-- The order of the tasting grid of 24: 24 items, KEY 0x0006000300010005, positions 0 to 15. -/
theorem test_taste_order : (List.range 16).map (tastePerm 24 0x0006000300010005) =
    [14, 11, 1, 0, 7, 4, 20, 6, 19, 22, 3, 8, 15, 23, 10, 2] := by decide +kernel

/-- trap 0x21 is cause 0x10 with the next address; targets of brp and call are PC + 4 × I-word; call's link is behind its two
words (R123-R127, R139, R288). -/
theorem test_trap :
    let g := run5 grp (.trap { sp := false, imm := 0x21 })
    g.cause = 0x2110 ∧ g.epc = 68 ∧ pcGet g 0 = 0x1000 ∧ hmode g = true := by decide +kernel
theorem test_brp :
    let g := groupOf (exec (.brp { sp := false, p := 1, neg := true, imm := 5 })
      (at' 1 { foc5 with npc := 72 } (with' [] [] [(1, 0b01010)])))
    pcGet g 0 = 84 ∧ pcGet g 1 = 72 ∧ pcGet g 2 = 84 := by decide +kernel
theorem test_call_link :
    let g := groupOf (exec (.call { sp := false, d := 20, u := false, imm := 0xFFFFFFFF }) (at' 1 { foc5 with npc := 72 } grp))
    vGet g 20 4 = 72 ∧ pcGet g 4 = 60 := by decide +kernel
/-- rdsr LANEID gives each lane its number (R117). -/
theorem test_rdsr_laneid :
    let g := run5 grp (.rdsrVector { sp := false, d := 5, n := 0 })
    vGet g 5 0 = 0 ∧ vGet g 5 4 = 4 := by decide +kernel
/-- ballot counts the lanes whose predicate is set (R114). -/
theorem test_ballot :
    sGet (run5 (with' [] [] [(1, 0b11010)]) (.ballot { xa with form := .m, d := 0, a := 0, b := 5, c := 1, ty := .n64 })) 5 =
      0b11010 := by decide +kernel
/-- The manual's lds that meets a copy's locked destination 0x1000-0x1FFF: CAUSE 0x00100072 (22). -/
theorem test_lds_conflict :
    let s := at' 1 { foc with lanes := 1 } (with' [(160, 0x1000)] [] [])
    let t := { s with cores := [(0, { bankrole := 0xAA55555500000000, tlb := [page0 1]
                                      locks := [{ op := 9, dest := true, space := 1, owner := 7, lo := 0x1000, hi := 0x2000 }] })] }
    (groupOf (exec (.lds { ma with form := .v, d := 12, a := 5, ty := .bf16 }) t)).cause = 0x00100072 := by decide +kernel
/-- tile.set then tile.get: FULL without producers (R311, R312). -/
theorem test_tile_set_get :
    let s := nextOf (exec (.tileSet { za with a := 6, b := 7 }) (at' 1 foc (with' [] [(6, 9), (7, 1)] [])))
    sGet (groupOf (exec (.tileGet { za with d := 8, a := 6 }) { s with focus := some foc })) 8 = 1 := by decide +kernel
/-- An unmapped load is cause 0x40 with its address (R170). -/
theorem test_ld_unmapped :
    (groupOf (exec (.ld { ma with form := .s, d := 7, a := 2, ty := .n64 }) (at' 1 foc (with' [] [(2, 0x90000)] [])))).cause =
      0x00090000_40 := by decide +kernel

end Sys2Proof.Tests
end

section
/-! PROOFS. A vector register outside the allotment: every shape of instruction makes the same check first, so that one
lemma about the check and one about each shape say what all the rows do (R21, R68). -/

open Host Sys2Proof Sys2Proof.Machine Sys2Proof.Claims

namespace Sys2Proof.Machine

/-! ### A vector register outside the allotment (R21, R68) -/

/-- The check of the allotment looks for the register that the statement names. -/
theorem outside_eq_firstOutside (v : Group) (ns : List (BitVec 7)) : outside v ns = firstOutside v ns := rfl

section Outside
variable {s : State} {f : Focus} {g : Group} {j : Nat}

theorem withRegs_outside_traps {ns : List (BitVec 7)} (k : Result) (hi : Issues s f g) (hc : Clear f g)
    (ho : firstOutside (seen f g) ns = some j) : Traps s f 0x06 j (withRegs f g ns s k) := by
  obtain ⟨hquiet, hpends⟩ := hc
  unfold withRegs
  rw [outside_eq_firstOutside, ho]
  exact trap_taken 0x06 j hi.2 hquiet hpends

theorem regOp_outside_traps {x : Sel} (fn : Group → Nat → Opnds → Res) (hi : Issues s f g) (hc : Clear f g)
    (ho : firstOutside (seen f g) x.vecs = some j) : Traps s f 0x06 j (regOp x fn s) := by
  have hform : x.form ≠ .s := by
    intro h
    simp [Sel.vecs, h, firstOutside] at ho
  unfold regOp
  rw [issuer_focus _ hi.1 hi.2]
  simp only [hform, if_false]
  exact withRegs_outside_traps _ hi hc ho

end Outside

/-! ### The vector registers that each shape of instruction names -/

theorem vecs_selR3 (form : Form) (x : R3) : (selR3 form x).vecs = named form x.d x.a x.b := by
  cases form <;> rfl
theorem vecs_selR3L (form : Form) (x : R3L) : (selR3L form x).vecs = named form x.d x.a x.b := by
  cases form <;> rfl
theorem vecs_selR3W (form : Form) (x : R3W) : (selR3W form x).vecs = named form x.d x.a x.b := by
  cases form <;> rfl
theorem vecs_selR2 (form : Form) (x : R2) :
    (selR2 form x).vecs = if form = .s then [] else if form = .v then [x.d, x.a] else [x.d] := by
  cases form <;> rfl
theorem vecs_selX_two (x : XArgs) : (selX true false x).vecs = named x.form x.d x.a x.b := by
  cases h : x.form <;> simp [Sel.vecs, selX, named, h]
theorem vecs_selX_one (x : XArgs) : (selX false false x).vecs = if x.form = .s then [] else [x.d, x.a] := by
  cases h : x.form <;> simp [Sel.vecs, selX, h]
theorem vecs_selX_three (x : XArgs) :
    (selX true true x).vecs = named x.form x.d x.a x.b ++ if x.form = .s then [] else [x.c] := by
  cases h : x.form <;> simp [Sel.vecs, selX, named, h]
theorem memVecs_eq (x : MArgs) (dest data : Bool) :
    memVecs x dest data = if x.form = .s then []
      else (if dest then [x.d] else []) ++ (if x.form = .v then [x.a] else []) ++ (if data then [x.b] else []) := by
  cases h : x.form <;> simp [memVecs, h]

/-! ### The meaning of each row -/

theorem exec_shortIntRow {row} (h : row ∈ shortIntRows) (x : R3) (s : State) :
    exec (row.2.1 x) s = shortInt row.1 x row.2.2 s := by
  fin_cases h <;> rfl
theorem exec_shortFltRow {row} (h : row ∈ shortFltRows) (x : R3) (s : State) :
    exec (row.2.1 x) s = shortFlt row.1 x row.2.2 s := by
  fin_cases h <;> rfl
theorem exec_shortLogicRow {row} (h : row ∈ shortLogicRows) (x : R3L) (s : State) :
    exec (row.2.1 x) s = shortLogic row.1 x row.2.2 s := by
  fin_cases h <;> rfl
theorem exec_shortShiftRow {row} (h : row ∈ shortShiftRows) (x : R3W) (s : State) :
    exec (row.2.1 x) s = shortShift row.1 x row.2.2 s := by
  fin_cases h <;> rfl
theorem exec_shortUnaryRow {row} (h : row ∈ shortUnaryRows) (x : R2) (s : State) :
    exec (row.2.1 x) s = shortUnary row.1 x row.2.2 s := by
  fin_cases h <;> rfl
theorem exec_extRow {row} (h : row ∈ extRows) (x : XArgs) (s : State) :
    exec (row.1 x) s = ext2 x (row.2 x) s := by
  fin_cases h <;> rfl
theorem exec_extUnaryRow {row} (h : row ∈ extUnaryRows) (x : XArgs) (s : State) :
    exec (row.1 x) s = ext1 x (row.2 x) s := by
  fin_cases h <;> rfl
theorem exec_extThreeRow {row} (h : row ∈ extThreeRows) (x : XArgs) (s : State) :
    exec (row.1 x) s = ext3 x (row.2 x) s := by
  fin_cases h <;> rfl

/-- A memory instruction begins with the check of the vector registers that it names. -/
theorem exec_memRow {x : MArgs} {row : Instr × Bool × Bool} (h : row ∈ memRows x) (s : State) :
    ∃ k : Focus → Group → Result,
      exec row.1 s = issuer s fun f g => withRegs f g (memVecs x row.2.1 row.2.2) s (k f g) := by
  fin_cases h <;> exact ⟨_, rfl⟩

/-- Settles O7: every instruction checks the registers that it names before anything else. -/
theorem outsideAllotmentTraps : Obligations.OutsideAllotmentTraps := by
  intro s f g j hi hc out hit
  have regs {ns} (k : Result) (h : out ns) : Traps s f 0x06 j (withRegs f g ns s k) := withRegs_outside_traps k hi hc h
  have op {x : Sel} (fn) (h : out x.vecs) : Traps s f 0x06 j (regOp x fn s) := regOp_outside_traps fn hi hc h
  have issue (k : Focus → Group → Result) : issuer s k = k f g := issuer_focus k hi.1 hi.2
  refine ⟨?shortInt, ?shortFlt, ?shortLogic, ?shortShift, ?shortUnary, ?moviImm, ?moviWord, ?extTwo,
    ?extOne, ?extThree, ?rdsr, ?call, ?gsyncJumps, ?memory⟩
  case shortInt =>
    intro row hr x h
    simp only [hit, exec_shortIntRow hr]
    exact op _ (vecs_selR3 row.1 x ▸ h)
  case shortFlt =>
    intro row hr x h
    simp only [hit, exec_shortFltRow hr]
    exact op _ (vecs_selR3 row.1 x ▸ h)
  case shortLogic =>
    intro row hr x h
    simp only [hit, exec_shortLogicRow hr]
    exact op _ (vecs_selR3L row.1 x ▸ h)
  case shortShift =>
    intro row hr x h
    simp only [hit, exec_shortShiftRow hr]
    exact op _ (vecs_selR3W row.1 x ▸ h)
  case shortUnary =>
    intro row hr x h
    simp only [hit, exec_shortUnaryRow hr]
    exact op _ (vecs_selR2 row.1 x ▸ h)
  case moviImm =>
    intro x h
    simp only [hit, exec_moviVecImm, execMoviVecImm]
    exact op _ h
  case moviWord =>
    intro x h
    simp only [hit, exec_moviVecIword, execMoviVecIword]
    exact op _ h
  case extTwo =>
    intro row hr x h
    simp only [hit, exec_extRow hr]
    exact op _ (vecs_selX_two x ▸ h)
  case extOne =>
    intro row hr x h
    simp only [hit, exec_extUnaryRow hr]
    exact op _ (vecs_selX_one x ▸ h)
  case extThree =>
    intro row hr x h
    simp only [hit, exec_extThreeRow hr]
    exact op _ (vecs_selX_three x ▸ h)
  case rdsr =>
    intro x h
    simp only [hit, exec_rdsrVector, execRdsrVector, issue]
    exact regs _ h
  case call =>
    intro x hu h
    simp only [hit, exec_call, execCall, issue, hu]
    exact regs _ h
  case gsyncJumps =>
    intro x h
    refine ⟨?_, fun hb => ⟨?_, ?_⟩⟩
    · simp only [hit, exec_gsync, execGsync, issue]
      exact regs _ h
    · simp only [hit, exec_jmpi, execJmpi, jumpOp, issue, hb]
      exact regs _ h
    · simp only [hit, exec_ret, execRet, jumpOp, issue, hb]
      exact regs _ h
  case memory =>
    intro x row hr h
    obtain ⟨k, hk⟩ := exec_memRow hr s
    simp only [hit, hk, issue]
    exact regs _ (memVecs_eq x row.2.1 row.2.2 ▸ h)

end Sys2Proof.Machine
end

section
/-! PROOFS. One clock of a group with one run that nothing holds up: what the port does for it is the meaning of the
instruction that the fetched words decode to (R15, R55, R120). -/

open Host Sys2Proof Sys2Proof.Machine

namespace Sys2Proof.Machine

/-! ### A group that nothing holds up -/

theorem blockTrapDue_of_no_blocks {g : Group} (h : g.blocks = []) : blockTrapDue g = none := by
  simp [blockTrapDue, h]

theorem wakeRuns_of_no_blocks (s : State) (gid : Nat) {g : Group} (h : g.blocks = []) : wakeRuns s gid g = g := by
  simp only [wakeRuns, h, List.filter_nil, List.foldl_nil]
  rw [← h]

theorem pendsOf_of_no_pends {g : Group} (lanes : LaneMask) (h : g.pends = []) : pendsOf g lanes = [] := by
  simp [pendsOf, h]

theorem dueFault_of_no_pends {g : Group} (lanes : LaneMask) (closing : Bool) (h : g.pends = []) :
    dueFault g lanes closing = none := by
  simp [dueFault, h, leastBy]

theorem windowMisuse_of_no_pends (s : State) (k : Nat) {g : Group} (v : Group) (lanes : LaneMask) (i : Instr)
    (h : g.pends = []) : windowMisuse s k g v lanes i = false := by
  simp [windowMisuse, h]

theorem bkptHit_of_no_bkpts {s : State} {k : Nat} (pc : Pc) (iter : Option Nat) (h : (ctxAt s k).bkptc = []) :
    bkptHit s k pc iter = none := by
  simp [bkptHit, h, mapGet, mapFind]

theorem promotedRun_single (g : Group) (r : Run) : promotedRun g [r] = none := by
  simp [promotedRun, leastBy]

theorem stepWord_zero (w : IWord) : stepWord w 0 0 0 0 = w := by simp [stepWord]

/-! ### Fetch and port -/

/-- The words at a counter are the instruction that they decode to (R55, R68, R355). -/
theorem fetchInstr_decodes {s : State} {gid k : Nat} {pc : Pc} {w x : IWord} {i : Instr}
    (hw : fetchWord s (gidCore gid) k pc.toNat = .word w)
    (hx : hasSecond w = true → fetchWord s (gidCore gid) k (pcPlus pc 1).toNat = .word x)
    (hx0 : hasSecond w = false → x = 0) (hd : decode w x = .ok i) (hf : featureCause s (ctxPart k) w x = none) :
    fetchInstr s gid k pc 0 0 0 0 = .instr i w := by
  have hdf : decodeFor s (ctxPart k) w x = .ok i := by simp [decodeFor, hd, hf]
  simp only [fetchInstr, hw, stepWord_zero]
  cases h2 : hasSecond w with
  | true => simp [hx h2, hdf]
  | false =>
    obtain rfl := hx0 h2
    simp only [Bool.false_eq_true, if_false, hdf]

/-- What the fetch of an instruction reaches at its homes. -/
def fetchVisits (s : State) (gid k : Nat) (pc : Pc) (w : IWord) (t : State) : State :=
  (fetchPas s (gidCore gid) k ([pc.toNat, pc.toNat] ++ (if hasSecond w = true then [(pcPlus pc 1).toNat] else []))).foldl
    (visitHome (ctxPart k)) t

/-- What a port that has run an instruction hands on: the outcome that stops the machine, or the next state, with the fetch's
visits where the run has issued. -/
def portOf (s : State) (f : Focus) (w : IWord) (r : Result) : PortRes :=
  match r with
  | .next t =>
    match (portOut f t).issued, (portOut f t).out with
    | true, .next u => didIssue (fetchVisits s f.gid (groupCtx s (groupAt s f.gid)) f.pc w u)
    | _, _ => portOut f t
  | r => { out := r, issued := true }

/-- A port that nothing holds up runs the instruction. -/
theorem portRun_free {s : State} {f : Focus} (v : Group) (i : Instr) (w : IWord) (hp : (groupAt s f.gid).pends = [])
    (hb : (ctxAt s (groupCtx s (groupAt s f.gid))).bkptc = []) :
    portRun s f v (.instr i w) none f.pc false = portOf s f w (exec i { s with focus := some f }) := by
  simp only [portRun, pendsOf_of_no_pends f.lanes hp, dueFault_of_no_pends f.lanes _ hp,
    windowMisuse_of_no_pends s _ v f.lanes i hp, bkptHit_of_no_bkpts f.pc none hb]
  simp only [List.isEmpty_nil, Bool.not_true, Bool.and_false, Bool.false_eq_true, if_false, List.any_nil, ite_self,
    Bool.false_and]
  rfl

/-- A run that waits neither softly nor for its windows has issued, and its fetch has reached its homes. -/
theorem portOf_next {s t : State} {f : Focus} (w : IWord)
    (hb : ∀ b ∈ (groupAt t f.gid).blocks, whySoft b.why = false ∧ b.why ≠ .closing ∧ b.why ≠ .misuse) :
    portOf s f w (.next t) = didIssue (fetchVisits s f.gid (groupCtx s (groupAt s f.gid)) f.pc w t) := by
  have hsoft : (groupAt t f.gid).blocks.any (fun b => whySoft b.why && meets b.lanes f.lanes) = false := by
    rw [List.any_eq_false]
    intro b hm
    simp [(hb b hm).1]
  have hclose : (groupAt t f.gid).blocks.any
      (fun b => (b.why == .closing || b.why == .misuse) && meets b.lanes f.lanes) = false := by
    rw [List.any_eq_false]
    intro b hm
    obtain ⟨-, hc, hm⟩ := hb b hm
    simp [hc, hm]
  have hout : portOut f t = didIssue t := by simp [portOut, hsoft, hclose, didIssue]
  simp [portOf, hout, didIssue]

/-! ### The clock -/

/-- A group as its clock starts: what the clock shows of flags, yields and BWPHASE (log entry 9). -/
def clockStart (s : State) (g : Group) : Group :=
  { g with yielded := false, raised := 0, bwSeen := (partAt s (ctxPart (groupCtx s g))).bwphase }

/-- The end of a clock in which the only run has issued: ages and the place in the selection (R15, R122). -/
def clockEnd (gid : Nat) (r : Run) (t : State) : State :=
  { (match mapFind t.groups gid with
      | some g' => putGroup t gid { ageRuns g' [r] [r] with lastSel := t.fresh, sel := t.fresh, promoted := 0 }
      | none => t) with fresh := t.fresh + 1 }

/-- What such a clock answers where the port's outcome is out. -/
def clockOut (gid : Nat) (r : Run) (out : Result) : Result :=
  match out with
  | .next t => .next (clockEnd gid r t)
  | out => out

section Single
variable {s : State} {gid : Nat} {g : Group} {r : Run}

/-- The clock of a group with one run that issues is that port's issue. -/
theorem clockOf_single (hg : mapFind s.groups gid = some g) (hstop : g.stopped = none) (hhalt : groupHalted s g = false)
    (hlatch : latchDue g = false) (hblocks : g.blocks = [])
    (hruns : runsOf (putGroup s gid (clockStart s g)) gid (clockStart s g) = [r]) {out : Result}
    (hport : portIssue (putGroup s gid (clockStart s g)) gid r none false = { out, issued := true }) :
    clockOf s gid = some (clockOut gid r out) := by
  have hgo : (g.stopped.isSome || groupHalted s g) = false := by simp [hstop, hhalt]
  have hmove : portMove (putGroup s gid (clockStart s g)) { out, issued := true } = none := rfl
  unfold clockStart at *
  simp only [clockOf, hg, hgo, hlatch, blockTrapDue_of_no_blocks hblocks, wakeRuns_of_no_blocks s gid hblocks, hruns,
    promotedRun_single, hport, hmove, Option.isSome_none, Bool.false_eq_true, if_false, Option.filter_none,
    List.head?_nil, Option.map_none, Option.bind_none, Bool.true_or, Bool.not_true]
  cases out with
  | next t => cases h : mapFind t.groups gid <;> simp [clockOut, clockEnd, h]
  | fault e => rfl
  | refused e => rfl

/-- What a port does for a run outside a repeat whose words decode to i, with nothing pending and no breakpoint. -/
theorem portIssue_decodes {w : IWord} {i : Instr} (hr : r.rep = false)
    (hpre : (teamAt s (groupAt s gid).team).preemptAt = none) (hpends : (groupAt s gid).pends = [])
    (hbk : (ctxAt s (groupCtx s (groupAt s gid))).bkptc = [])
    (hfetch : fetchInstr s gid (groupCtx s (groupAt s gid)) r.pc 0 0 0 0 = .instr i w) :
    let f : Focus := { gid, lanes := r.lanes, pc := r.pc, npc := pcPlus r.pc (wordsOf w) }
    portIssue s gid r none false = portOf s f w (exec i { s with focus := some f }) := by
  intro f
  simp only [portIssue, hr, hpre, portPlain, hfetch, Bool.false_eq_true, if_false, Option.isSome_none, Bool.false_and]
  exact portRun_free (f := f) _ i w hpends hbk

end Single

/-- Settles O56: the clock's only run issues through the first port, which nothing holds up. -/
theorem stepRunsDecoded : Obligations.StepRunsDecoded := by
  intro s gid rest g r w x i hdown hag hg hstop hhalt hlatch hblocks hpends hpre hbk g1 s1 k f visited hruns hrep
    hw hx hx0 hd hfeat
  have hg1 : groupAt s1 gid = g1 := by simp [s1, groupAt, mapGet, mapFind_put_self]
  have hfetch : fetchInstr s1 gid k r.pc 0 0 0 0 = .instr i w := fetchInstr_decodes hw hx hx0 hd hfeat
  have hport : portIssue s1 gid r none false = portOf s1 f w (exec i { s1 with focus := some f }) := by
    refine portIssue_decodes hrep ?_ ?_ ?_ ?_ <;> rw [hg1]
    · exact hpre
    · exact hpends
    · exact hbk
    · exact hfetch
  have hstep {out : Result} (h : portOf s1 f w (exec i { s1 with focus := some f }) = { out, issued := true }) :
      step s = clockOut gid r out := by
    have := clockOf_single (s := { s with agenda := rest }) hg hstop hhalt hlatch hblocks hruns (hport.trans h)
    simp only [step, hdown, hag, runTodo, this, Bool.false_eq_true, if_false, Option.getD_some]
  refine ⟨?fault, ?refused, ?next⟩
  case fault => exact fun e he => hstep (out := .fault e) (by rw [he]; rfl)
  case refused => exact fun e he => hstep (out := .refused e) (by rw [he]; rfl)
  case next =>
    intro t' ht hb t
    refine hstep (out := .next t) ?_
    rw [ht, portOf_next w hb, hg1]
    rfl

end Sys2Proof.Machine
end

section
/-! PROOFS. Three statements about events of a partition fail at one point. A record for the supervisor raises counter 15 of the
supervisor context (R296), and a run of the supervisor's that waits in ctrw for that counter goes on (R169): its group changes
in the same step. The statements say that the groups concerned stay as they are. Two states show it, each with such a run. -/

open Host Sys2Proof Sys2Proof.Machine Sys2Proof.Claims

namespace Sys2Proof.Machine

/-- A group of a supervisor whose one run waits in ctrw, with destination s5, until the counter of its event ring reaches 1. -/
def eventWaiter (base : Nat) : Group :=
  { uid := 10, team := 1, allot := 16, base
    blocks := [{ lanes := 0xFFFFFFFF, pc := 64, npc := 72, why := .ctrw 0 15 1 5 false }] }

/-- What shows of a group that its ctrw is over: the waits that are left and s5. -/
def waitState (g : Group) : List Block × Word := (g.blocks, sGet g 5)

/-! ### A kill that has frames to give back (R232, R305) -/

/-- A stopped group of context 1. -/
def stoppedGroup : Group :=
  { uid := 11, team := 2, allot := 16, base := 16, stopped := some { cont := false, lanes := 0xFFFFFFFF } }

/-- The grid of context 1, whose budget expired at time 0. -/
def expiredGrid : Node := { uid := 2, ctx := 1, started := true, failed := true, expiredAt := some 0 }

/-- Context 1 a millisecond after its grid's budget has expired: an edit that has not committed has a frame of the pool reserved,
and the ring has been filled again, so that the graft unit must report the frame with 0x55 when the edit is undone. -/
def editWithFullRing : State :=
  { clk := { ns := 1000000 }
    groups := [(0, eventWaiter 0), (1, stoppedGroup)]
    teams := [(1, { uid := 1, node := 1, slots := [0] }), (2, { uid := 2, node := 2, slots := [1] })]
    nodes := [(1, { uid := 1, started := true }), (2, expiredGrid)]
    ctxs := [(1, { pool := { en := true, logn := 4, tail := 16 } })]
    edits := [{ id := 1, ctx := 1, die := 0, core := 0, gid := 1, uid := 11, lanes := 0xFFFFFFFF, scope := .team
                op := .drop 0x10000 0x10000, ranges := [(0x10000, 0x10000)], frames := [0x50000], waits := []
                committed := false, upTo := 0, pte := false }] }

/-- After the kill only the supervisor's group is there, and its run has passed the ctrw. -/
theorem killContext_wakes_eventWaiter (cause : Word) :
    (killContext editWithFullRing 1 cause).groups.map (fun e => (e.1, waitState e.2)) = [(0, [], 1)] := by
  have hwoken : (killContext editWithFullRing 1 0).groups.map (fun e => (e.1, waitState e.2)) = [(0, [], 1)] := by
    decide +kernel
  exact hwoken

/-- A kill of context 1 does not leave the group of the other context as it was. -/
theorem not_killed_editWithFullRing (cause : Word) :
    ¬ Killed editWithFullRing (killContext editWithFullRing 1 cause) 1 cause := by
  intro h
  obtain ⟨-, -, hgroups, -⟩ := h
  have hstays : (0, eventWaiter 0) ∈ (killContext editWithFullRing 1 cause).groups := by
    refine (hgroups _).mpr ⟨List.mem_cons_self .., ?_⟩
    rintro ⟨n, hn, hctx⟩
    cases hn
    exact absurd hctx (by decide)
  have hwait := List.mem_map_of_mem (f := fun e => (e.1, waitState e.2)) hstays
  rw [killContext_wakes_eventWaiter] at hwait
  exact absurd hwait (by decide)

/-- The watchdog's kill of the overdue grid is such a kill. -/
theorem not_budgetsAndKills : ¬ BudgetsAndKills := by
  rintro ⟨hgrids, -⟩
  obtain ⟨-, hwatchdog⟩ := hgrids editWithFullRing 2 expiredGrid rfl
  obtain ⟨t, ht, hkilled⟩ := hwatchdog 0 rfl (by decide) ⟨(1, stoppedGroup), by decide, rfl⟩
  cases ht
  exact not_killed_editWithFullRing _ hkilled

/-- So is the kill that a supervisor asks for with GCTL, where the locator names slot 1 of core 0. -/
theorem not_groupWrites : ¬ GroupWrites := by
  intro h
  obtain ⟨hstopped, -⟩ := h editWithFullRing 0 0x200
  obtain ⟨-, -, -, t, ht, hkilled⟩ := hstopped 1 stoppedGroup _ rfl rfl
  cases ht
  exact not_killed_editWithFullRing _ hkilled

/-! ### A pre-emption that is abandoned (R317) -/

/-- A node of priority 3 that fits only on a core without other groups. -/
def fullCoreAsker : Node := { uid := 3, ctx := 1, seq := 1, desc := { prio := 3 }, hdr := { allot := 16 } }

/-- The partition's one core holds the group of a node of priority 0 and a group of the supervisor's, and has no lane-registers
left for the node that asks. The save area has 64 KiB, too few for the group of the lower priority. -/
def fullCore : State :=
  { groups := [(0, eventWaiter 2032), (1, { uid := 11, team := 2, allot := 2032 })]
    teams := [(1, { uid := 1, node := 1, slots := [0], bases := [2032] }),
      (2, { uid := 2, node := 2, slots := [1], bases := [0] })]
    nodes := [(1, { uid := 1, started := true, nextCluster := 1, hdr := { allot := 16 } }),
      (2, { uid := 2, ctx := 1, started := true, nextCluster := 1, hdr := { allot := 2032 } }), (3, fullCoreAsker)]
    ctxs := [(1, { savebase := 16 })]
    out := { coreOwner := [(0, 0x80)] } }

/-- The cluster that stands in the way. -/
def fullCoreVictim : Victim := { node := 2, cluster := 0, prio := 0, placedAt := 0 }

theorem victimsOf_fullCore : victimsOf fullCore fullCoreAsker = some [fullCoreVictim] := by decide +kernel
theorem noSeat_fullCore : noSeat fullCore [fullCoreVictim] = [fullCoreVictim] := by decide +kernel

theorem exec_preemption_fullCore : exec (.preemption 3) fullCore = .next (askVictims fullCore [fullCoreVictim]) := by
  have hfind : mapFind fullCore.nodes 3 = some fullCoreAsker := rfl
  simp only [exec_preemption, execPreemption, hfind, victimsOf_fullCore]

/-- The report that no room was found wakes the supervisor's run. -/
theorem askVictims_wakes_eventWaiter :
    waitState (groupAt (askVictims fullCore [fullCoreVictim]) 0) = ([], 1) := by decide +kernel

theorem not_preemptionAsks : ¬ PreemptionAsks := by
  intro h
  obtain ⟨t, ht, -, hnoRoom, -⟩ := h fullCore 3 fullCoreAsker [fullCoreVictim] rfl victimsOf_fullCore rfl
  obtain ⟨hgroups, -⟩ := hnoRoom (by simp [noSeat_fullCore])
  rw [exec_preemption_fullCore] at ht
  cases ht
  have hwait := askVictims_wakes_eventWaiter
  rw [groupAt, hgroups] at hwait
  exact absurd hwait (by decide)

/-! ### The statements -/

/-- Refutes O42: PreemptionAsks says that a pre-emption that finds no room leaves every group as it is, but its report 0x97
wakes a run of the supervisor's that waits for the counter of its event ring. -/
theorem not_teamsPlacedAndSaved : ¬ Obligations.TeamsPlacedAndSaved := by
  rintro ⟨-, -, hpreemption, -⟩
  exact not_preemptionAsks hpreemption

/-- Refutes O43: Killed says that a watchdog's kill leaves the groups of other contexts as they are, but the report 0x55 of a frame
that it cannot give back wakes a run of the supervisor's that waits for the counter of its event ring. -/
theorem not_nodesAndGroupsEnd : ¬ Obligations.NodesAndGroupsEnd := by
  rintro ⟨-, hbudgets, -⟩
  exact not_budgetsAndKills hbudgets

/-- Refutes O48: the kill of a stopped group's context through GCTL is the kill of O43, with the same report. -/
theorem not_registerWritesTakeEffect : ¬ Obligations.RegisterWritesTakeEffect := by
  rintro ⟨-, -, -, -, hgroupWrites, -⟩
  exact not_groupWrites hgroupWrites

end Sys2Proof.Machine
end

section
/-! PROOFS. The arrival of a part of a cpx.zbc writes whole lines only (R270). PartsArrive says that every byte of a part that can be
moved is written, of any operation in any state: also of a cpx.zbc in which a byte counts as read and not found, although only a
cp.mc and a cp.net ever note the bytes that they have read (R254, R262). Such a byte breaks its line, and the line's other bytes,
which can be moved, are not written either. -/

open Host Sys2Proof Sys2Proof.Machine Sys2Proof.Claims

namespace Sys2Proof.Machine

/-- Context 1's page of 1 GiB at address 0, backed from physical address 0: two tables lead to its leaf. -/
def lineTables : SMap Byte :=
  [(0x10000, 1), (0x10001, 0x10), (0x10002, 1), (0x11000, 1), (0x11001, 0x20), (0x11002, 1), (0x12000, 7)]

/-- The line at 0x20000. -/
def linePart : Part := { team := 0, lo := 0x20000, hi := 0x20080, len := 128, chunk := none }

/-- A cpx.zbc of one line, every byte of which counts as read: byte 64 as not found, the others as fives. -/
def lineOp : EngOp :=
  { id := 9, core := 0, gid := 0, uid := 7, team := 7, ctx := 1, press := false, kind := .zbc 0 0x20000 128, tx := none
    txTeams := [7], parts := [linePart], block := 0, done := true, read := (List.range 128).map (fun i => (i, if i = 64 then none else some (5, false))) }

/-- Partition 0 owns core 0, slice 0 and bin 0, and the operation's group is there. -/
def lineState : State :=
  { groups := [(0, { uid := 7, team := 7 })]
    ctxs := [(1, { ptbase := 0x10001 })]
    parts := [(0, { masks := [(0, 1)] })]
    bins := [(0, { alloc := true, state := 0 })]
    mem := { cellar := lineTables }
    ops := [lineOp]
    out := { coreOwner := [(0, 0x80)], sliceOwner := [(0, 0x80)], binOwner := [(0, 0x80)] } }

/-- The translation of every byte of the line. -/
def lineTrans : Trans := { ctx := 1, va := 0, size := 2 ^ 30, pa := 0, attr := { w := true }, gen := 0 }

theorem partBytes_lineOp :
    partBytes lineState lineOp linePart = (List.range 128).map (fun i => (0x20000 + i, 0, 0, i)) := by decide +kernel

theorem partReady_lineOp : PartReady lineState lineOp 0 linePart := by unfold PartReady; decide +kernel

/-- Each byte of the line passes the checks and lies in the frame at its own address. -/
theorem line_checks : ∀ i < 128, pieceCheck lineState 1 0 (kindUse lineOp.kind true) (0x20000 + i) = .ok lineTrans ∧
    atHome lineState 0 (0x20000 + i) = .ok := by decide +kernel

theorem frameByte_lineOp_iff {i pa : Nat} (h : i < 128) : FrameByte lineState lineOp (0x20000 + i) pa ↔ pa = 0x20000 + i := by
  obtain ⟨hcheck, hhome⟩ := line_checks i h
  have hpa : transPa lineTrans (0x20000 + i) = 0x20000 + i := by simp [transPa, lineTrans]
  constructor
  · rintro ⟨tr, htr, -, rfl, -⟩
    cases hcheck.symm.trans htr
    exact hpa
  · rintro rfl
    exact ⟨lineTrans, hcheck, rfl, hpa, hhome⟩

/-- The tables lie below the line, and the leaf is no entry of a leaf table. -/
theorem line_tables : ∀ i < 128, (∀ q ∈ entriesAbove lineState.mem (0x20000 + i) 4 0x10000, q + 8 ≤ 0x20000) ∧
    (walkCtx lineState 1 (0x20000 + i)).map (fun e => e.1.level) = some 2 := by decide +kernel

theorem not_leafSlot_lineState {i q : Nat} (h : i < 128) : ¬ LeafSlot lineState 1 (0x20000 + i) q := by
  rintro ⟨f, b, hf, hlevel, -⟩
  have := (line_tables i h).2
  simp [hf, hlevel] at this

/-- Byte 0 can be moved. -/
theorem moved_lineOp : Moved lineState lineOp (0x20000, 0, 0, 0) 5 := ⟨rfl, [(5, false)], rfl, rfl⟩

/-- The line's bytes lie in frame bytes of their own, apart from the tables. -/
theorem line_apart : ∀ e ∈ partBytes lineState lineOp linePart, ∃ pa, FrameByte lineState lineOp e.1 pa ∧
    ∀ d ∈ partBytes lineState lineOp linePart, (d ≠ e → ¬ FrameByte lineState lineOp d.1 pa) ∧
      (∀ q ∈ entriesAbove lineState.mem d.1 4 0x10000, pa < q ∨ q + 8 ≤ pa) ∧
      ∀ q, LeafSlot lineState 1 d.1 q → pa < q ∨ q + 8 ≤ pa := by
  simp only [partBytes_lineOp, List.forall_mem_map, List.mem_range]
  intro i hi
  refine ⟨0x20000 + i, (frameByte_lineOp_iff hi).2 rfl, fun j hj => ⟨fun hne hframe => hne ?_, fun q hq => ?_, fun q hq => ?_⟩⟩
  · have := (frameByte_lineOp_iff hj).1 hframe
    obtain rfl : i = j := by omega
    rfl
  · have := (line_tables j hj).1 q hq
    omega
  · exact (not_leafSlot_lineState hj hq).elim

/-- The byte of physical memory after a step. -/
def byteAfter (r : Result) (a : Nat) : Option Byte :=
  match r with
  | .next t => some (homeByte t.mem a)
  | _ => none

/-- The part arrives, and the line is not written. -/
theorem line_not_written : byteAfter (exec (.enginePartArrival 9 0) lineState) 0x20000 = some 0 := by decide +kernel

theorem not_partsArrive : ¬ PartsArrive := by
  intro h
  obtain ⟨t, ht, -, -, -, -, hmem, -⟩ := h lineState lineOp 0 linePart partReady_lineOp
  obtain ⟨-, hglobal⟩ := hmem ⟨_, rfl, rfl⟩ (by decide +kernel)
  have hlines : ∀ x y z, lineOp.kind = .zbc x y z →
      y % 128 = 0 ∧ z % 128 = 0 ∧ linePart.lo % 128 = 0 ∧ linePart.hi % 128 = 0 ∧ lineOp.lost = [] := by
    rintro x y z ⟨⟩
    decide
  obtain ⟨hwritten, -⟩ := hglobal rfl (by rintro ⟨a, q, n, ⟨⟩⟩) hlines line_apart
  have hfive := hwritten (0x20000, 0, 0, 0) (by simp [partBytes_lineOp]) 5 0x20000 moved_lineOp
    ((frameByte_lineOp_iff (i := 0) (by decide)).2 rfl)
  have hzero : byteAfter (.next t) 0x20000 = some 0 := ht ▸ line_not_written
  rw [byteAfter, hfive] at hzero
  exact absurd hzero (by decide)

/-- Refutes O34: PartsArrive speaks of every operation in every state, and fails of a cpx.zbc one of whose bytes counts as read and
not found: of its line no byte is written, not even one that can be moved. -/
theorem not_engineOpsProceed : ¬ Obligations.EngineOpsProceed := by
  rintro ⟨-, -, -, -, hparts, -⟩
  exact not_partsArrive hparts

end Sys2Proof.Machine
end

section
/-! PROOFS. The elements of a register: what a register of elements holds at each place, and which flags an operation on every
element raises (R28, R46). -/

open Host Sys2Proof Sys2Proof.Machine Sys2Proof.Claims

namespace Sys2Proof.Machine

/-! ### Widths (R28) -/

theorem tyWidth_pos (t : Ty) : 0 < tyWidth t := by cases t <;> decide
theorem width_mul_count_le (t : Ty) : tyWidth t * tyCount t ≤ 64 := Nat.mul_div_le 64 (tyWidth t)

theorem tyFmt_mem {t : Ty} (h : tyIsFloat t = true) : tyFmt t ∈ fltFmts := by
  cases t <;> revert h <;> decide
theorem tyWidth_of_float {t : Ty} (h : tyIsFloat t = true) : tyWidth t = 1 + (tyFmt t).eb + (tyFmt t).m := by
  cases t <;> revert h <;> decide
theorem not_c4_of_float {t : Ty} (h : tyIsFloat t = true) : t ≠ .c4 := by
  rintro rfl
  exact absurd h (by decide)
theorem not_int_of_float {t : Ty} (h : tyIsFloat t = true) : tyIsInt t = false := by
  cases t <;> revert h <;> decide

theorem elemN_lt (t : Ty) (x : Word) (k : Nat) : elemN t x k < 2 ^ tyWidth t := Nat.mod_lt _ (by positivity)

/-! ### Registers of elements (R28) -/

theorem packNat_lt (w : Nat) (cs : List Nat) : packNat w cs < 2 ^ (w * cs.length) := by
  induction cs with
  | nil => simp [packNat]
  | cons c cs ih =>
    have hc : c % 2 ^ w < 2 ^ w := Nat.mod_lt _ (by positivity)
    calc packNat w (c :: cs) = c % 2 ^ w + 2 ^ w * packNat w cs := rfl
      _ < 2 ^ w + 2 ^ w * packNat w cs := by omega
      _ = 2 ^ w * (packNat w cs + 1) := by ring
      _ ≤ 2 ^ w * 2 ^ (w * cs.length) := Nat.mul_le_mul_left _ ih
      _ = 2 ^ (w * (c :: cs).length) := by rw [← pow_add, List.length_cons]; ring_nf

theorem packNat_div_mod (w : Nat) (cs : List Nat) (k : Nat) :
    packNat w cs / 2 ^ (w * k) % 2 ^ w = cs.getD k 0 % 2 ^ w := by
  induction cs generalizing k with
  | nil => simp [packNat]
  | cons c cs ih =>
    have hc : c % 2 ^ w < 2 ^ w := Nat.mod_lt _ (by positivity)
    cases k with
    | zero => simp [packNat]
    | succ k =>
      have hpow : 2 ^ (w * (k + 1)) = 2 ^ w * 2 ^ (w * k) := by rw [← pow_add]; ring_nf
      rw [packNat, hpow, ← Nat.div_div_eq_div_mul, Nat.add_mul_div_left _ _ (by positivity), Nat.div_eq_of_lt hc, zero_add,
        ih k, List.getD_cons_succ]

/-- A register of elements holds the codes, as many bits of each as the type has. -/
theorem elemN_packElems (t : Ty) {cs : List Nat} (k : Nat) (h : cs.length ≤ tyCount t) :
    elemN t (packElems t cs) k = cs.getD k 0 % 2 ^ tyWidth t := by
  have hlt : packNat (tyWidth t) cs < 2 ^ 64 :=
    (packNat_lt _ cs).trans_le (Nat.pow_le_pow_right (by decide) ((Nat.mul_le_mul_left _ h).trans (width_mul_count_le t)))
  rw [elemN, elemOf, elemW, packElems, BitVec.toNat_ofNat, Nat.mod_eq_of_lt hlt, packNat_div_mod]

theorem elemN_eachElem (t : Ty) (fn : Nat → Nat × Flags) {k : Nat} (h : k < tyCount t) :
    elemN t (eachElem t fn).1 k = (fn k).1 % 2 ^ tyWidth t := by
  rw [eachElem, elemN_packElems t k (by simp)]
  simp [List.getD_eq_getElem?_getD, h]

/-! ### Flags (R46) -/

theorem foldl_or_getLsbD (rs : List (Nat × Flags)) (f : Flags) (i : Nat) :
    (rs.foldl (fun f r => f ||| r.2) f).getLsbD i = true ↔ f.getLsbD i = true ∨ ∃ r ∈ rs, r.2.getLsbD i = true := by
  induction rs generalizing f with
  | nil => simp
  | cons r rs ih => simp [ih, or_assoc]

/-- An operation raises a flag where one of its elements does. -/
theorem flag_eachElem (t : Ty) (fn : Nat → Nat × Flags) (i : Nat) :
    (eachElem t fn).2.getLsbD i = true ↔ ∃ k < tyCount t, (fn k).2.getLsbD i = true := by
  simp [eachElem, flagsOf, foldl_or_getLsbD]

theorem flag_of_elem {t : Ty} {fn : Nat → Nat × Flags} {i k : Nat} (hk : k < tyCount t) (h : (fn k).2.getLsbD i = true) :
    (eachElem t fn).2.getLsbD i = true := (flag_eachElem t fn i).2 ⟨k, hk, h⟩

theorem eachElem_flags_zero {t : Ty} {fn : Nat → Nat × Flags} (h : ∀ k, (fn k).2 = 0) : (eachElem t fn).2 = 0 := by
  refine BitVec.eq_of_getLsbD_eq fun i _ => ?_
  rw [Bool.eq_iff_iff, flag_eachElem]
  simp [h]

end Sys2Proof.Machine
end

section
/-! PROOFS. Arithmetic of integer elements: wrapping, saturation, order, fields and sums (R28, R29, R38, R91, R93, R94, R96, R97),
and the parts of a register that a conversion writes (R102, R103). -/

open Host Sys2Proof Sys2Proof.Machine Sys2Proof.Claims

namespace Sys2Proof.Machine

/-! ### Integers of a width -/

theorem wrapInt_cast (w : Nat) (i : ℤ) : (wrapInt w i : ℤ) = i % 2 ^ w :=
  Int.toNat_of_nonneg (Int.emod_nonneg _ (by positivity))

theorem wrapInt_lt (w : Nat) (i : ℤ) : wrapInt w i < 2 ^ w := by
  have := Int.emod_lt_of_pos i (b := 2 ^ w) (by positivity)
  zify [wrapInt_cast]
  simpa [wrapInt_cast] using this

@[simp] theorem wrapInt_mod (w : Nat) (i : ℤ) : wrapInt w i % 2 ^ w = wrapInt w i := Nat.mod_eq_of_lt (wrapInt_lt w i)

/-- A code is the value of its width that is congruent to the integer it stands for. -/
theorem intVal_emod (signed : Bool) (w c : Nat) : intVal signed w c % 2 ^ w = (c : ℤ) % 2 ^ w := by
  unfold intVal
  dsimp only
  split <;> simp

theorem half_add_half {w : Nat} (h : 0 < w) : (2 : ℤ) ^ w = 2 ^ (w - 1) + 2 ^ (w - 1) := by
  obtain ⟨n, rfl⟩ := Nat.exists_eq_succ_of_ne_zero h.ne'
  rw [Nat.succ_sub_one, pow_succ]
  ring

theorem intVal_range (signed : Bool) {w : Nat} (hw : 0 < w) (c : Nat) :
    intMin signed w ≤ intVal signed w c ∧ intVal signed w c ≤ intMax signed w := by
  have hlt : ((c % 2 ^ w : Nat) : ℤ) < 2 ^ w := by exact_mod_cast Nat.mod_lt _ (by positivity)
  have hhalf := half_add_half hw
  have hcast : 2 ^ (w - 1) ≤ c % 2 ^ w ↔ (2 : ℤ) ^ (w - 1) ≤ (c % 2 ^ w : Nat) := by norm_cast
  unfold intVal intMin intMax
  cases signed with
  | false =>
    simp only [Bool.false_and, Bool.false_eq_true, if_false]
    omega
  | true =>
    simp only [Bool.true_and, decide_eq_true_eq, if_true, hcast]
    split <;> omega

/-- An integer in the range of a type is the value of its own code. -/
theorem intVal_wrapInt (signed : Bool) {w : Nat} (hw : 0 < w) {i : ℤ} (hlo : intMin signed w ≤ i) (hhi : i ≤ intMax signed w) :
    intVal signed w (wrapInt w i) = i := by
  have hcong : intVal signed w (wrapInt w i) % 2 ^ w = i % 2 ^ w := by
    rw [intVal_emod, wrapInt_cast, Int.emod_emod_of_dvd _ dvd_rfl]
  obtain ⟨hlo', hhi'⟩ := intVal_range signed hw (wrapInt w i)
  have hspan : intMax signed w - intMin signed w < 2 ^ w := by
    have := half_add_half hw
    cases signed <;> simp only [intMin, intMax, if_true, Bool.false_eq_true, if_false] <;> omega
  obtain ⟨q, hq⟩ : (2 : ℤ) ^ w ∣ intVal signed w (wrapInt w i) - i := Int.ModEq.dvd hcong.symm
  have hpos : (0 : ℤ) < 2 ^ w := by positivity
  have : q = 0 := by
    by_contra hne
    rcases lt_or_gt_of_ne hne with h | h
    · nlinarith
    · nlinarith
  rw [this, mul_zero] at hq
  omega

theorem satInt_eq (signed : Bool) (w : Nat) (hw : 0 < w) (i : ℤ) :
    (satInt signed w i).1 = max (intMin signed w) (min (intMax signed w) i) := by
  have hle : intMin signed w ≤ intMax signed w := (intVal_range signed hw 0).1.trans (intVal_range signed hw 0).2
  unfold satInt
  split
  · omega
  · split <;> omega

theorem satInt_flags (signed : Bool) (w : Nat) (i : ℤ) :
    (satInt signed w i).2 = if i < intMin signed w ∨ intMax signed w < i then flSAT else 0 := by
  unfold satInt
  split
  · simp [*]
  · split <;> simp [*]

/-- The code of an exact result, clamped with .sat (R38, R94). -/
theorem narrowInt_eq (sat signed : Bool) {w : Nat} (hw : 0 < w) (i : ℤ) :
    (narrowInt sat signed w i).1 = wrapInt w (if sat then max (intMin signed w) (min (intMax signed w) i) else i) := by
  cases sat <;> simp [narrowInt, satInt_eq, hw]

@[simp] theorem narrowInt_mod (sat signed : Bool) (w : Nat) (i : ℤ) :
    (narrowInt sat signed w i).1 % 2 ^ w = (narrowInt sat signed w i).1 := by
  cases sat <;> simp [narrowInt]

theorem elemI_range (t : Ty) (x : Word) (k : Nat) :
    intMin (tySigned t) (tyWidth t) ≤ elemI t x k ∧ elemI t x k ≤ intMax (tySigned t) (tyWidth t) :=
  intVal_range _ (tyWidth_pos t) _

/-- The element of an exact result. -/
theorem elemN_intBin (t : Ty) (sat : Bool) (op : ℤ → ℤ → ℤ) (a b : Word) {k : Nat} (hk : k < tyCount t) :
    elemN t (intBin t sat op a b).1 k = (narrowInt sat (tySigned t) (tyWidth t) (op (elemI t a k) (elemI t b k))).1 := by
  rw [intBin, elemN_eachElem t _ hk, narrowInt_mod]

theorem intBin_flags (t : Ty) (op : ℤ → ℤ → ℤ) (a b : Word) : (intBin t false op a b).2 = 0 :=
  eachElem_flags_zero fun _ => rfl

/-- An element of a wrapping operation is congruent to the operation of the operands' codes. -/
theorem elemN_wrapping (t : Ty) {op : ℤ → ℤ → ℤ} (a b : Word) {k : Nat} (hk : k < tyCount t)
    (hop : ∀ x y, op (x % 2 ^ tyWidth t) (y % 2 ^ tyWidth t) % 2 ^ tyWidth t = op x y % 2 ^ tyWidth t) :
    (elemN t (intBin t false op a b).1 k : ℤ) = op (elemN t a k) (elemN t b k) % 2 ^ tyWidth t := by
  rw [elemN_intBin t false op a b hk, narrowInt_eq _ _ (tyWidth_pos t), if_neg (by decide), wrapInt_cast, ← hop, elemI,
    intVal_emod, elemI, intVal_emod, hop]
  rfl

theorem integerElementsWrap : IntegerElementsWrap := by
  intro t a b k _ hk
  refine ⟨?add, ?sub, ?mul, intBin_flags .., intBin_flags .., intBin_flags ..⟩
  case add =>
    zify
    exact elemN_wrapping t a b hk fun x y => (Int.add_emod x y _).symm
  case sub =>
    have hle : elemN t b k ≤ elemN t a k + 2 ^ tyWidth t := (elemN_lt t b k).le.trans (Nat.le_add_left _ _)
    zify [hle]
    rw [show (elemN t a k : ℤ) + 2 ^ tyWidth t - elemN t b k = elemN t a k - elemN t b k + 2 ^ tyWidth t by ring,
      Int.add_emod_right]
    exact elemN_wrapping t a b hk fun x y => (Int.sub_emod x y _).symm
  case mul =>
    zify
    exact elemN_wrapping t a b hk fun x y => (Int.mul_emod x y _).symm

/-- The value of an element of a result that has been brought into the range of its type. -/
theorem elemI_of_range {t : Ty} {x : Word} {k : Nat} {i : ℤ} (h : elemN t x k = wrapInt (tyWidth t) i)
    (hlo : intMin (tySigned t) (tyWidth t) ≤ i) (hhi : i ≤ intMax (tySigned t) (tyWidth t)) : elemI t x k = i := by
  have : elemOf t x k = wrapInt (tyWidth t) i := h
  rw [elemI, this, intVal_wrapInt _ (tyWidth_pos t) hlo hhi]

theorem elemI_saturating (t : Ty) (op : ℤ → ℤ → ℤ) (a b : Word) {k : Nat} (hk : k < tyCount t) :
    elemI t (intBin t true op a b).1 k =
      max (intMin (tySigned t) (tyWidth t)) (min (intMax (tySigned t) (tyWidth t)) (op (elemI t a k) (elemI t b k))) := by
  have hrange := elemI_range t 0 0
  refine elemI_of_range ?_ (by omega) (by omega)
  rw [elemN_intBin t true op a b hk, narrowInt_eq _ _ (tyWidth_pos t), if_pos rfl]

/-- An operation that picks one of its operands needs no clamping. -/
theorem elemI_picking (t : Ty) {op : ℤ → ℤ → ℤ} (hop : ∀ x y, op x y = x ∨ op x y = y) (a b : Word) {k : Nat}
    (hk : k < tyCount t) : elemI t (intBin t false op a b).1 k = op (elemI t a k) (elemI t b k) := by
  have ha := elemI_range t a k
  have hb := elemI_range t b k
  have hcode : elemN t (intBin t false op a b).1 k = wrapInt (tyWidth t) (op (elemI t a k) (elemI t b k)) := by
    rw [elemN_intBin t false op a b hk, narrowInt_eq _ _ (tyWidth_pos t), if_neg (by decide)]
  rcases hop (elemI t a k) (elemI t b k) with h | h
  · exact elemI_of_range hcode (by rw [h]; exact ha.1) (by rw [h]; exact ha.2)
  · exact elemI_of_range hcode (by rw [h]; exact hb.1) (by rw [h]; exact hb.2)

theorem saturationAndOrder : SaturationAndOrder := by
  intro t a b k _ hk
  exact ⟨elemI_saturating t _ a b hk, elemI_saturating t _ a b hk, elemI_saturating t _ a b hk,
    elemI_picking t min_choice a b hk, elemI_picking t max_choice a b hk⟩

/-! ### Fields (R96) -/

/-- The bits of an integer's code: above the field that gives it, its sign. -/
theorem testBit_wrapInt_intVal (signed : Bool) {w len c i : Nat} (hlen : 0 < len) (hc : c < 2 ^ len) (hle : len ≤ w) (hi : i < w) :
    (wrapInt w (intVal signed len c)).testBit i = if i < len then c.testBit i else signed && c.testBit (len - 1) := by
  have htop : c.testBit (len - 1) = decide (2 ^ (len - 1) ≤ c) := by
    obtain ⟨n, rfl⟩ := Nat.exists_eq_succ_of_ne_zero hlen.ne'
    rw [Nat.succ_sub_one, Nat.testBit_eq_decide_div_mod_eq]
    have hlt : c / 2 ^ n < 2 := Nat.div_lt_of_lt_mul (by rwa [← pow_succ])
    have hle : 2 ^ n ≤ c ↔ 1 ≤ c / 2 ^ n := by rw [Nat.le_div_iff_mul_le (by positivity), one_mul]
    rw [decide_eq_decide, hle]
    generalize c / 2 ^ n = q at hlt ⊢
    omega
  have hpow : (2 : ℤ) ^ len ≤ 2 ^ w := pow_le_pow_right₀ (by norm_num) hle
  have hcz : (c : ℤ) < 2 ^ len := by exact_mod_cast hc
  rw [htop]
  unfold intVal
  dsimp only
  rw [Nat.mod_eq_of_lt hc]
  split
  · next hneg =>
    -- the code is c with ones above the field: c - 2^len + 2^w
    have hsum : wrapInt w ((c : ℤ) - 2 ^ len) = c + 2 ^ len * (2 ^ (w - len) - 1) := by
      have hsub : 1 ≤ 2 ^ (w - len) := Nat.one_le_two_pow
      zify [wrapInt_cast, hsub]
      rw [← Int.add_emod_right, Int.emod_eq_of_lt (by omega) (by omega), mul_sub, ← pow_add, Nat.add_sub_cancel' hle]
      ring
    rw [hsum, Nat.add_comm, Nat.testBit_two_pow_mul_add _ hc]
    split
    · rfl
    · rw [Nat.testBit_two_pow_sub_one, hneg]
      exact decide_eq_true (by omega)
  · next hpos =>
    have hsum : wrapInt w (c : ℤ) = c := by
      zify [wrapInt_cast]
      exact Int.emod_eq_of_lt (by omega) (by omega)
    rw [hsum, eq_false_of_ne_true hpos]
    split
    · rfl
    · exact Nat.testBit_lt_two_pow (hc.trans_le (Nat.pow_le_pow_right (by decide) (by omega)))

theorem testBit_field (x pos len i : Nat) :
    (x / 2 ^ pos % 2 ^ len).testBit i = (decide (i < len) && x.testBit (pos + i)) := by
  rw [Nat.testBit_mod_two_pow, Nat.testBit_div_two_pow]
  rw [Nat.add_comm]

theorem bfx_bit (t : Ty) (a b c : Word) {k i : Nat} (hk : k < tyCount t) (hi : i < tyWidth t) :
    let pos := elemN t b k
    let len := min (elemN t c k) (tyWidth t - pos)
    (elemN t (bfxOp t a b c).1 k).testBit i =
      (if len = 0 then false else if i < len then (elemN t a k).testBit (pos + i)
        else tySigned t && (elemN t a k).testBit (pos + len - 1)) := by
  intro pos len
  rw [bfxOp, elemN_eachElem t _ hk]
  dsimp only
  by_cases h0 : tyWidth t ≤ pos ∨ elemN t c k = 0
  · rw [if_pos h0, if_pos (show len = 0 by omega)]
    simp
  · rw [if_neg h0, if_neg (show len ≠ 0 by omega), wrapInt_mod,
      testBit_wrapInt_intVal _ (by omega) (Nat.mod_lt _ (by positivity)) (by omega) hi, testBit_field, testBit_field]
    have hlast : len - 1 < len := by omega
    have hsum : pos + (len - 1) = pos + len - 1 := by omega
    simp only [len, pos] at hlast hsum ⊢
    simp only [hlast, hsum, decide_true, Bool.true_and]
    split <;> simp [*]

theorem bfi_bit (t : Ty) (o a b c : Word) {k i : Nat} (hk : k < tyCount t) (hi : i < tyWidth t) :
    let pos := elemN t b k
    let len := min (elemN t c k) (tyWidth t - pos)
    (elemN t (bfiOp t o a b c).1 k).testBit i =
      (if pos ≤ i ∧ i < pos + len then (elemN t a k).testBit (i - pos) else (elemN t o k).testBit i) := by
  intro pos len
  rw [bfiOp, elemN_eachElem t _ hk]
  dsimp only
  by_cases h0 : tyWidth t ≤ pos ∨ elemN t c k = 0
  · rw [if_pos h0, if_neg (show ¬ (pos ≤ i ∧ i < pos + len) by omega), Nat.mod_eq_of_lt (elemN_lt t o k)]
  · have hshape : ∀ x y : Nat, x % 2 ^ pos + y % 2 ^ len * 2 ^ pos + x / 2 ^ (pos + len) * 2 ^ (pos + len) =
        2 ^ pos * (2 ^ len * (x / 2 ^ (pos + len)) + y % 2 ^ len) + x % 2 ^ pos := by
      intro x y
      rw [pow_add]
      ring
    rw [if_neg h0, Nat.testBit_mod_two_pow, hshape, Nat.testBit_two_pow_mul_add _ (Nat.mod_lt _ (by positivity)),
      Nat.testBit_two_pow_mul_add _ (Nat.mod_lt _ (by positivity)), Nat.testBit_div_two_pow, Nat.testBit_mod_two_pow,
      Nat.testBit_mod_two_pow, decide_eq_true hi, Bool.true_and]
    by_cases hlow : i < pos
    · simp [hlow, show ¬ pos ≤ i by omega]
    · by_cases hmid : i - pos < len
      · simp [hlow, hmid, show pos ≤ i by omega, show i < pos + len by omega]
      · simp [hlow, hmid, show ¬ i < pos + len by omega, show i - pos - len + (pos + len) = i by omega]

/-! ### Sums (R97) -/

theorem foldl_range_add (n : Nat) (term : Nat → ℤ) (z : ℤ) :
    (List.range n).foldl (fun z j => z + term j) z = z + (Finset.range n).sum term := by
  induction n with
  | zero => simp
  | succ n ih => rw [List.range_succ, List.foldl_append, ih, Finset.sum_range_succ]; simp [add_assoc]

theorem accTy_count (t : Ty) : tyCount (accTy t) = 2 := by unfold accTy; split <;> rfl
theorem accTy_width (t : Ty) : tyWidth (accTy t) = 32 := by unfold accTy; split <;> rfl

theorem elemN_sumOp (t : Ty) (sat : Bool) (term : ℤ → ℤ → ℤ) (a b c : Word) {k : Nat} (hk : k < 2) :
    elemN (accTy t) (sumOp t sat term a b c).1 k = (narrowInt sat (tySigned t) 32 (elemI (accTy t) c k +
      (Finset.range (32 / tyWidth t)).sum (fun j =>
        term (elemI t a (32 / tyWidth t * k + j)) (elemI t b (32 / tyWidth t * k + j))))).1 := by
  rw [sumOp, elemN_eachElem _ _ (accTy_count t ▸ hk), accTy_width, narrowInt_mod, foldl_range_add]

theorem fieldsAndSums : FieldsAndSums := by
  intro t o a b c k _ w fit
  have fit_eq (signed sat : Bool) {w : Nat} (hw : 0 < w) (i : ℤ) : ((narrowInt sat signed w i).1 : ℤ) = fit signed sat w i := by
    rw [narrowInt_eq _ _ hw, wrapInt_cast]
    rfl
  refine ⟨fun hk => ⟨fun sat => ?mad, fun i hi => ⟨bfx_bit t a b c hk hi, bfi_bit t o a b c hk hi⟩⟩,
    fun hk sat => ⟨fun _ => ?dot4, fun _ => ?sad⟩⟩
  case mad =>
    rw [madOp, elemN_eachElem t _ hk, narrowInt_mod]
    exact fit_eq _ _ (tyWidth_pos t) _
  case dot4 => exact (congrArg Nat.cast (elemN_sumOp t sat _ a b c hk)).trans (fit_eq _ _ (by decide) _)
  case sad =>
    refine (congrArg Nat.cast (elemN_sumOp t sat _ a b c hk)).trans ?_
    simp only [Int.natCast_natAbs]
    exact fit_eq _ _ (by decide) _

/-! ### Parts of a conversion (R102, R103) -/

theorem codesOf_getD (t : Ty) (x : Word) {k : Nat} (h : k < tyCount t) : (codesOf t x).getD k 0 = elemN t x k := by
  simp [codesOf, List.getD_eq_getElem?_getD, h]

/-- The codes of a register of which cnt from lo on are replaced. -/
theorem getD_splice {old new : List Nat} {lo k : Nat} (hlo : lo + new.length ≤ old.length) :
    (old.take lo ++ new ++ old.drop (lo + new.length)).getD k 0 =
      if lo ≤ k ∧ k < lo + new.length then new.getD (k - lo) 0 else old.getD k 0 := by
  simp only [List.getD_eq_getElem?_getD, List.append_assoc, List.getElem?_append, List.length_take,
    Nat.min_eq_left (show lo ≤ old.length by omega), List.getElem?_take, List.getElem?_drop]
  by_cases h1 : k < lo
  · simp [h1, show ¬ lo ≤ k by omega]
  · by_cases h2 : k - lo < new.length
    · simp [h1, h2, show lo ≤ k by omega, show k < lo + new.length by omega]
    · simp [h1, h2, show ¬ k < lo + new.length by omega, show lo + new.length + (k - lo - new.length) = k by omega]

theorem elemN_splice (t : Ty) (x : Word) {new : List Nat} {lo n k : Nat} (hn : new.length = n) (hlo : lo + n ≤ tyCount t)
    (hk : k < tyCount t) :
    elemN t (packElems t ((codesOf t x).take lo ++ new ++ (codesOf t x).drop (lo + n))) k =
      if lo ≤ k ∧ k < lo + n then new.getD (k - lo) 0 % 2 ^ tyWidth t else elemN t x k := by
  subst hn
  have hlen : (codesOf t x).length = tyCount t := by simp [codesOf]
  rw [elemN_packElems, getD_splice (by omega), codesOf_getD t x hk]
  · split
    · rfl
    · exact Nat.mod_eq_of_lt (elemN_lt t x k)
  · simp only [List.length_append, List.length_take, List.length_drop]
    omega

theorem getD_map_range (f : Nat → Nat) {n k : Nat} (h : k < n) : ((List.range n).map f).getD k 0 = f k := by
  simp [List.getD_eq_getElem?_getD, h]

theorem partsConvert : PartsConvert := by
  intro cb t u rnd sat h old a k hk m top conv hpart
  have hm : m = min (tyCount t) (tyCount u) := rfl
  have htop : top = min (h * m + m) (max (tyCount t) (tyCount u)) := rfl
  unfold cvtPart partSpan
  simp only [← hm, ← htop, List.map_map, decide_eq_true_eq]
  clear_value m top
  by_cases hnarrow : tyCount u < tyCount t
  · simp only [hnarrow, if_true]
    rw [elemN_splice t old (by simp) (by omega) hk, show h * m + (top - h * m) = top by omega]
    split
    · rw [getD_map_range _ (by omega)]
      rfl
    · rfl
  · simp only [hnarrow, if_false]
    rw [elemN_splice t old (by simp) (by omega) hk]
    simp only [Nat.zero_le, true_and, Nat.zero_add, Nat.sub_zero, show k < top - h * m ↔ h * m + k < top by omega]
    split
    · rw [getD_map_range _ (by omega)]
      rfl
    · rfl

end Sys2Proof.Machine
end

section
/-! PROOFS. The exact arithmetic of the model's fractions as rational numbers: powers of two, the exponent of a magnitude, rounding
to an integer in each mode, sums and order (R36, R37, R41, R100). -/

open Host Sys2Proof Sys2Proof.Machine Sys2Proof.Claims

namespace Sys2Proof.Machine

/-! ### Powers of two -/

theorem pow2_pos (e : ℤ) : 0 < (pow2 e).1 ∧ 0 < (pow2 e).2 := by
  unfold pow2
  split <;> simp

theorem two_zpow_pos (e : ℤ) : (0 : ℚ) < 2 ^ e := by positivity

theorem pow2_cast (e : ℤ) : ((pow2 e).1 : ℚ) = 2 ^ e * (pow2 e).2 := by
  unfold pow2
  split
  · next h => rw [Nat.cast_one, mul_one, Nat.cast_pow, ← zpow_natCast, Int.toNat_of_nonneg h]; rfl
  · next h =>
    rw [Nat.cast_one, Nat.cast_pow, ← zpow_natCast, Int.toNat_of_nonneg (by omega), Nat.cast_ofNat,
      ← zpow_add₀ (by norm_num)]
    simp

theorem pow2_div (e : ℤ) : ((pow2 e).1 : ℚ) / (pow2 e).2 = 2 ^ e := by
  rw [pow2_cast, mul_div_cancel_right₀]
  exact_mod_cast (pow2_pos e).2.ne'

theorem log_eq_of_bounds {r : ℚ} {e : ℤ} (hlo : 2 ^ e ≤ r) (hhi : r < 2 ^ (e + 1)) : Int.log 2 r = e := by
  have hr : 0 < r := (two_zpow_pos e).trans_le hlo
  have h1 := (Int.zpow_le_iff_le_log (b := 2) (by decide) hr).1 (by exact_mod_cast hlo)
  have h2 := (Int.lt_zpow_iff_log_lt (b := 2) (by decide) hr).1 (by exact_mod_cast hhi)
  omega

theorem log_bounds {r : ℚ} (hr : 0 < r) : 2 ^ Int.log 2 r ≤ r ∧ r < 2 ^ (Int.log 2 r + 1) := by
  have h1 := Int.zpow_log_le_self (b := 2) (by decide) hr
  have h2 := Int.lt_zpow_succ_log_self (b := 2) (by decide) r
  exact ⟨by exact_mod_cast h1, by exact_mod_cast h2⟩

theorem log2_bounds {n : Nat} (h : 0 < n) : (2 : ℚ) ^ (Nat.log2 n : ℤ) ≤ n ∧ (n : ℚ) < 2 ^ ((Nat.log2 n : ℤ) + 1) := by
  constructor
  · exact_mod_cast Nat.log2_self_le h.ne'
  · have := Nat.lt_log2_self (n := n)
    exact_mod_cast this

/-- The exponent of a positive fraction. -/
theorem floorLog2_eq {num den : Nat} (hn : 0 < num) (hd : 0 < den) : floorLog2 num den = Int.log 2 ((num : ℚ) / den) := by
  obtain ⟨hn1, hn2⟩ := log2_bounds hn
  obtain ⟨hd1, hd2⟩ := log2_bounds hd
  have hdQ : (0 : ℚ) < den := by exact_mod_cast hd
  unfold floorLog2
  dsimp only
  generalize (Nat.log2 num : ℤ) = a at *
  generalize (Nat.log2 den : ℤ) = b at *
  have hp2 : (0 : ℚ) < (pow2 (a - b)).2 := by exact_mod_cast (pow2_pos (a - b)).2
  have hcond : (pow2 (a - b)).1 * den ≤ num * (pow2 (a - b)).2 ↔ (2 : ℚ) ^ (a - b) ≤ num / den := by
    rw [le_div_iff₀ hdQ, ← mul_le_mul_iff_left₀ hp2, mul_right_comm, ← pow2_cast]
    exact_mod_cast Iff.rfl
  have hupper : (num : ℚ) / den < 2 ^ (a - b + 1) := by
    rw [div_lt_iff₀ hdQ]
    calc (num : ℚ) < 2 ^ (a + 1) := hn2
      _ = 2 ^ (a - b + 1) * 2 ^ b := by rw [← zpow_add₀ (by norm_num)]; ring_nf
      _ ≤ 2 ^ (a - b + 1) * den := by gcongr
  have hlower : (2 : ℚ) ^ (a - b - 1) ≤ num / den := by
    rw [le_div_iff₀ hdQ]
    calc (2 : ℚ) ^ (a - b - 1) * den ≤ 2 ^ (a - b - 1) * 2 ^ (b + 1) := by gcongr
      _ = 2 ^ a := by rw [← zpow_add₀ (by norm_num)]; ring_nf
      _ ≤ num := hn1
  split
  · next h => exact (log_eq_of_bounds (hcond.1 h) hupper).symm
  · next h =>
    rw [hcond, not_le] at h
    exact (log_eq_of_bounds hlower (by simpa using h)).symm

/-! ### Rounding to an integer (R37) -/

/-- The sign of a value as a factor. -/
def signQ (neg : Bool) : ℚ := if neg then -1 else 1

@[simp] theorem signQ_false : signQ false = 1 := rfl
@[simp] theorem signQ_true : signQ true = -1 := rfl
theorem signQ_mul_self (neg : Bool) : signQ neg * signQ neg = 1 := by cases neg <;> norm_num
theorem signQ_ne_zero (neg : Bool) : signQ neg ≠ 0 := by cases neg <;> norm_num
@[simp] theorem abs_signQ (neg : Bool) : |signQ neg| = 1 := by cases neg <;> norm_num

theorem valQ_fin (neg : Bool) (num den : Nat) : valQ (.fin neg num den) = signQ neg * (num / den) := by
  rw [valQ, signQ, mul_div_assoc]

/-- Whether a magnitude k + f, with f below 1, rounds away from zero. -/
def upQ (mode : Rnd) (neg : Bool) (k : Nat) (f : ℚ) : Prop :=
  match mode with
  | .dflt | .rn => 1 / 2 < f ∨ (f = 1 / 2 ∧ k % 2 = 1)
  | .rna => 1 / 2 ≤ f
  | .rz => False
  | .rp => 0 < f ∧ neg = false
  | .rm => 0 < f ∧ neg = true

theorem roundsUp_iff (mode : Rnd) (neg : Bool) (k r : Nat) {d : Nat} (hd : 0 < d) :
    roundsUp mode neg k r d = true ↔ upQ mode neg k ((r : ℚ) / d) := by
  have hdQ : (0 : ℚ) < d := by exact_mod_cast hd
  have hlt : d < 2 * r ↔ (1 : ℚ) / 2 < r / d := by
    rw [lt_div_iff₀ hdQ, div_mul_eq_mul_div, one_mul, div_lt_iff₀ two_pos, mul_comm (r : ℚ)]
    exact_mod_cast Iff.rfl
  have hle : d ≤ 2 * r ↔ (1 : ℚ) / 2 ≤ r / d := by
    rw [le_div_iff₀ hdQ, div_mul_eq_mul_div, one_mul, div_le_iff₀ two_pos, mul_comm (r : ℚ)]
    exact_mod_cast Iff.rfl
  have heq : 2 * r = d ↔ (r : ℚ) / d = 1 / 2 := by
    rw [div_eq_div_iff hdQ.ne' two_ne_zero, one_mul, mul_comm (r : ℚ)]
    exact_mod_cast Iff.rfl
  have hpos : 0 < r ↔ (0 : ℚ) < r / d := by
    rw [lt_div_iff₀ hdQ, zero_mul]
    exact_mod_cast Iff.rfl
  cases mode <;> simp [roundsUp, upQ, hlt, hle, heq, hpos]

theorem floor_add_fract {k : ℤ} {f : ℚ} (h0 : 0 ≤ f) (h1 : f < 1) : ⌊(k : ℚ) + f⌋ = k :=
  Int.floor_eq_iff.2 ⟨by linarith, by linarith⟩

theorem ceil_add_fract {k : ℤ} {f : ℚ} (h0 : 0 ≤ f) (h1 : f < 1) : ⌈(k : ℚ) + f⌉ = if 0 < f then k + 1 else k := by
  rw [Int.ceil_eq_iff]
  split <;> push_cast <;> constructor <;> linarith

theorem floor_add_half {k : ℤ} {f : ℚ} (h0 : 0 ≤ f) (h1 : f < 1) :
    ⌊(k : ℚ) + f + 1 / 2⌋ = if 1 / 2 ≤ f then k + 1 else k := by
  rw [Int.floor_eq_iff]
  split <;> push_cast <;> constructor <;> linarith

theorem floor_neg_add_half {k : ℤ} {f : ℚ} (h0 : 0 ≤ f) (h1 : f < 1) :
    ⌊-((k : ℚ) + f) + 1 / 2⌋ = if 1 / 2 < f then -k - 1 else -k := by
  rw [Int.floor_eq_iff]
  split <;> push_cast <;> constructor <;> linarith

/-- Rounding to nearest, ties to even, of a magnitude k + f that is positive. -/
theorem roundQ_nearest_pos {mode : Rnd} (hm : mode = .dflt ∨ mode = .rn) (k : Nat) {f : ℚ} (h0 : 0 ≤ f) (h1 : f < 1) :
    roundQ mode (k + f) = if 1 / 2 < f ∨ (f = 1 / 2 ∧ k % 2 = 1) then (k : ℤ) + 1 else k := by
  have hdef : roundQ mode (k + f) = if (k : ℚ) + f - ⌊(k : ℚ) + f⌋ = 1 / 2 then
      (if ⌊(k : ℚ) + f⌋ % 2 = 0 then ⌊(k : ℚ) + f⌋ else ⌊(k : ℚ) + f⌋ + 1) else ⌊(k : ℚ) + f + 1 / 2⌋ := by
    rcases hm with rfl | rfl <;> rfl
  rw [hdef, ← Int.cast_natCast (R := ℚ) k, floor_add_fract h0 h1, floor_add_half h0 h1, add_sub_cancel_left]
  by_cases hhalf : f = 1 / 2
  · subst hhalf
    simp only [lt_irrefl, false_or, if_true, true_and]
    split <;> split <;> omega
  · have : 1 / 2 ≤ f ↔ 1 / 2 < f := ⟨fun h => lt_of_le_of_ne h (Ne.symm hhalf), le_of_lt⟩
    simp only [hhalf, if_false, false_and, or_false, this]

/-- The same of one that is negative: its distance to the integer below is 1 - f. -/
theorem roundQ_nearest_neg {mode : Rnd} (hm : mode = .dflt ∨ mode = .rn) (k : Nat) {f : ℚ} (h0 : 0 ≤ f) (h1 : f < 1) :
    roundQ mode (-(k + f)) = -(if 1 / 2 < f ∨ (f = 1 / 2 ∧ k % 2 = 1) then (k : ℤ) + 1 else k) := by
  have hdef : roundQ mode (-(k + f)) = if -((k : ℚ) + f) - ⌊-((k : ℚ) + f)⌋ = 1 / 2 then
      (if ⌊-((k : ℚ) + f)⌋ % 2 = 0 then ⌊-((k : ℚ) + f)⌋ else ⌊-((k : ℚ) + f)⌋ + 1) else ⌊-((k : ℚ) + f) + 1 / 2⌋ := by
    rcases hm with rfl | rfl <;> rfl
  rw [hdef, ← Int.cast_natCast (R := ℚ) k, Int.floor_neg, ceil_add_fract h0 h1, floor_neg_add_half h0 h1]
  rcases h0.eq_or_lt with rfl | hpos
  · norm_num
  · rw [if_pos hpos]
    have htie : -((k : ℤ) + f : ℚ) - ((-((k : ℤ) + 1) : ℤ) : ℚ) = 1 / 2 ↔ f = 1 / 2 := by
      push_cast
      constructor <;> intro h <;> linarith
    simp only [htie]
    by_cases hhalf : f = 1 / 2
    · subst hhalf
      simp only [lt_irrefl, false_or, if_true, true_and]
      split <;> split <;> omega
    · simp only [hhalf, if_false, false_and, or_false]
      split <;> omega

theorem roundQ_away_neg {y : ℚ} (h : 0 ≤ y) : roundQ .rna (-y) = -⌊y + 1 / 2⌋ := by
  unfold roundQ
  dsimp only
  split
  · next hle =>
    obtain rfl : y = 0 := by linarith
    norm_num
  · rw [← Int.ceil_neg]
    congr 1
    ring

theorem roundQ_zero_neg {y : ℚ} (h : 0 ≤ y) : roundQ .rz (-y) = -⌊y⌋ := by
  unfold roundQ
  dsimp only
  split
  · next hle =>
    obtain rfl : y = 0 := by linarith
    norm_num
  · rw [← Int.ceil_neg]

theorem ite_succ_of_iff {P : Prop} [Decidable P] {up : Bool} (h : up = true ↔ P) (k : Nat) :
    (if P then (k : ℤ) + 1 else k) = ((if up then k + 1 else k : Nat) : ℤ) := by
  by_cases hP : P
  · rw [if_pos hP, if_pos (h.2 hP), Nat.cast_succ]
  · rw [if_neg hP, if_neg (mt h.1 hP)]

/-- Rounding a magnitude k + f with a sign (R37). -/
theorem roundQ_signed (mode : Rnd) (neg : Bool) (k : Nat) {f : ℚ} (h0 : 0 ≤ f) (h1 : f < 1) {up : Bool}
    (hup : up = true ↔ upQ mode neg k f) :
    roundQ mode (signQ neg * (k + f)) = (if neg then -1 else 1) * ((if up then k + 1 else k : Nat) : ℤ) := by
  have hk0 : (0 : ℚ) ≤ k + f := by positivity
  have hfloor : ⌊(k : ℚ) + f⌋ = k := by exact_mod_cast floor_add_fract (k := k) h0 h1
  have hceil : ⌈(k : ℚ) + f⌉ = if 0 < f then (k : ℤ) + 1 else k := by exact_mod_cast ceil_add_fract (k := k) h0 h1
  have hhalf : ⌊(k : ℚ) + f + 1 / 2⌋ = if 1 / 2 ≤ f then (k : ℤ) + 1 else k := by
    exact_mod_cast floor_add_half (k := k) h0 h1
  cases neg with
  | false =>
    simp only [signQ_false, one_mul, Bool.false_eq_true, if_false]
    cases mode with
    | dflt => exact (roundQ_nearest_pos (.inl rfl) k h0 h1).trans (ite_succ_of_iff (P := 1 / 2 < f ∨ (f = 1 / 2 ∧ k % 2 = 1)) hup k)
    | rn => exact (roundQ_nearest_pos (.inr rfl) k h0 h1).trans (ite_succ_of_iff (P := 1 / 2 < f ∨ (f = 1 / 2 ∧ k % 2 = 1)) hup k)
    | rna => rw [roundQ, if_pos hk0, hhalf, ite_succ_of_iff (P := 1 / 2 ≤ f) hup]
    | rz => rw [roundQ, if_pos hk0, hfloor, if_neg (mt hup.1 id)]
    | rp => rw [roundQ, hceil, ite_succ_of_iff (hup.trans (and_iff_left rfl))]
    | rm => rw [roundQ, hfloor, if_neg (mt hup.1 (by simp [upQ]))]
  | true =>
    simp only [signQ_true, neg_one_mul, if_true]
    cases mode with
    | dflt =>
      exact (roundQ_nearest_neg (.inl rfl) k h0 h1).trans
        (congrArg Neg.neg (ite_succ_of_iff (P := 1 / 2 < f ∨ (f = 1 / 2 ∧ k % 2 = 1)) hup k))
    | rn =>
      exact (roundQ_nearest_neg (.inr rfl) k h0 h1).trans
        (congrArg Neg.neg (ite_succ_of_iff (P := 1 / 2 < f ∨ (f = 1 / 2 ∧ k % 2 = 1)) hup k))
    | rna => rw [roundQ_away_neg hk0, hhalf, ite_succ_of_iff (P := 1 / 2 ≤ f) hup]
    | rz => rw [roundQ_zero_neg hk0, hfloor, if_neg (mt hup.1 id)]
    | rp => rw [roundQ, Int.ceil_neg, hfloor, if_neg (mt hup.1 (by simp [upQ]))]
    | rm => rw [roundQ, Int.floor_neg, hceil, ite_succ_of_iff (hup.trans (and_iff_left rfl))]

/-- RoundInt of a signed fraction is the rounded magnitude with the sign. -/
theorem roundQ_signed_mag (mode : Rnd) (neg : Bool) (num : Nat) {den : Nat} (hd : 0 < den) :
    roundQ mode (signQ neg * (num / den)) = (if neg then -1 else 1) * (roundMag mode neg num den : ℤ) := by
  have hdQ : (0 : ℚ) < den := by exact_mod_cast hd
  have hsplit : (num : ℚ) / den = (num / den : Nat) + (num % den : Nat) / den := by
    rw [eq_comm, ← mul_left_inj' hdQ.ne', add_mul, div_mul_cancel₀ _ hdQ.ne', div_mul_cancel₀ _ hdQ.ne', mul_comm]
    exact_mod_cast Nat.div_add_mod num den
  have hlt : ((num % den : Nat) : ℚ) / den < 1 := (div_lt_one hdQ).2 (by exact_mod_cast Nat.mod_lt _ hd)
  rw [hsplit, roundQ_signed mode neg _ (by positivity) hlt (roundsUp_iff mode neg _ _ hd), roundMag]

theorem roundQ_intCast (mode : Rnd) (i : ℤ) : roundQ mode (i : ℚ) = i := by
  have hnat : ∀ n : Nat, roundMag mode (decide (i < 0)) n 1 = n := by
    intro n
    cases mode <;> simp [roundMag, roundsUp, Nat.mod_one]
  have h := roundQ_signed_mag mode (decide (i < 0)) i.natAbs (den := 1) one_pos
  rw [hnat] at h
  have hsign : (if decide (i < 0) = true then -1 else 1) * (i.natAbs : ℤ) = i := by
    split
    · next hneg =>
      have := of_decide_eq_true hneg
      omega
    · next hneg =>
      have := of_decide_eq_false (eq_false_of_ne_true hneg)
      omega
  have hsignQ : signQ (decide (i < 0)) * ((i.natAbs : ℚ) / (1 : Nat)) = i := by
    rw [Nat.cast_one, div_one]
    have := congrArg (Int.cast (R := ℚ)) hsign
    push_cast at this
    simpa [signQ] using this
  rw [hsignQ, hsign] at h
  exact h

/-- To nearest, the result is at most a half away. -/
theorem roundQ_near (u : ℚ) : |(roundQ .rn u : ℚ) - u| ≤ 1 / 2 := by
  have h0 := Int.floor_le u
  have h1 := Int.lt_floor_add_one u
  unfold roundQ
  dsimp only
  split
  · next htie =>
    split
    · rw [abs_le]
      constructor <;> linarith
    · push_cast
      rw [abs_le]
      constructor <;> linarith
  · have h2 := Int.floor_le (u + 1 / 2)
    have h3 := Int.lt_floor_add_one (u + 1 / 2)
    rw [abs_le]
    constructor <;> linarith

/-! ### Fractions (R41, R100) -/

/-- The rational that a signed numerator and a denominator stand for. -/
def fracQ (x : ℤ × Nat) : ℚ := x.1 / x.2

theorem fracQ_fracAdd {a b : ℤ × Nat} (ha : 0 < a.2) (hb : 0 < b.2) :
    fracQ (fracAdd a b) = fracQ a + fracQ b ∧ 0 < (fracAdd a b).2 := by
  have haQ : (a.2 : ℚ) ≠ 0 := by exact_mod_cast ha.ne'
  have hbQ : (b.2 : ℚ) ≠ 0 := by exact_mod_cast hb.ne'
  unfold fracAdd fracQ
  split
  · next h =>
    obtain ⟨q, hq⟩ := Nat.dvd_of_mod_eq_zero h
    have hqQ : (b.2 : ℚ) = a.2 * q := by exact_mod_cast hq
    refine ⟨?_, hb⟩
    dsimp only
    rw [hq, Nat.mul_div_cancel_left q ha, ← hq]
    push_cast
    rw [div_add_div _ _ haQ hbQ, div_eq_div_iff hbQ (mul_ne_zero haQ hbQ), hqQ]
    ring
  · split
    · next h =>
      obtain ⟨q, hq⟩ := Nat.dvd_of_mod_eq_zero h
      have hqQ : (a.2 : ℚ) = b.2 * q := by exact_mod_cast hq
      refine ⟨?_, ha⟩
      dsimp only
      rw [hq, Nat.mul_div_cancel_left q hb, ← hq]
      push_cast
      rw [div_add_div _ _ haQ hbQ, div_eq_div_iff haQ (mul_ne_zero haQ hbQ), hqQ]
      ring
    · refine ⟨?_, Nat.mul_pos ha hb⟩
      dsimp only
      push_cast
      rw [div_add_div _ _ haQ hbQ]
      ring

theorem fracLt_iff {a b : ℤ × Nat} (ha : 0 < a.2) (hb : 0 < b.2) : fracLt a b = true ↔ fracQ a < fracQ b := by
  have haQ : (0 : ℚ) < a.2 := by exact_mod_cast ha
  have hbQ : (0 : ℚ) < b.2 := by exact_mod_cast hb
  rw [fracLt, decide_eq_true_eq, fracQ, fracQ, div_lt_div_iff₀ haQ hbQ]
  exact_mod_cast Iff.rfl

/-- A magnitude's numerator and denominator are positive. -/
def ValOk : Val → Prop
  | .fin _ num den => 0 < num ∧ 0 < den
  | _ => True

theorem fracQ_valFrac {v : Val} (h : ValOk v) : fracQ (valFrac v) = valQ v ∧ 0 < (valFrac v).2 := by
  cases v with
  | fin neg num den =>
    refine ⟨?_, h.2⟩
    cases neg <;> simp [fracQ, valFrac, valQ]
  | _ => simp [fracQ, valFrac, valQ]

theorem ofFrac_zero (z : Bool) (d : Nat) : ofFrac z 0 d = .zero z := rfl
theorem ofFrac_ne_zero (z : Bool) {n : ℤ} (d : Nat) (h : n ≠ 0) : ofFrac z n d = .fin (decide (n < 0)) n.natAbs d := if_neg h

theorem valQ_fin_natAbs (n : ℤ) (d : Nat) : valQ (.fin (decide (n < 0)) n.natAbs d) = n / d := by
  have hcast : (n.natAbs : ℚ) = |(n : ℚ)| := by rw [Nat.cast_natAbs, Int.cast_abs]
  rw [valQ_fin, hcast, ← mul_div_assoc]
  congr 1
  rcases lt_or_ge n 0 with h | h
  · rw [decide_eq_true h, abs_of_neg (by exact_mod_cast h)]
    simp
  · rw [decide_eq_false (by omega), abs_of_nonneg (by exact_mod_cast h)]
    simp

theorem valQ_ofFrac (z : Bool) (n : ℤ) (d : Nat) : valQ (ofFrac z n d) = n / d := by
  by_cases h : n = 0
  · simp [h, ofFrac_zero, valQ]
  · rw [ofFrac_ne_zero z d h, valQ_fin_natAbs]

theorem valOk_ofFrac (z : Bool) (n : ℤ) {d : Nat} (hd : 0 < d) : ValOk (ofFrac z n d) := by
  by_cases h : n = 0
  · simp [h, ofFrac_zero, ValOk]
  · rw [ofFrac_ne_zero z d h]
    exact ⟨Int.natAbs_pos.2 h, hd⟩

theorem valQ_fin_ne_zero {neg : Bool} {num den : Nat} (hn : 0 < num) (hd : 0 < den) : valQ (.fin neg num den) ≠ 0 := by
  rw [valQ_fin]
  exact mul_ne_zero (signQ_ne_zero neg) (by positivity)

theorem abs_valQ_fin (neg : Bool) (num den : Nat) : |valQ (.fin neg num den)| = num / den := by
  rw [valQ_fin, abs_mul, abs_signQ, one_mul, abs_of_nonneg (by positivity)]

end Sys2Proof.Machine
end

section
/-! PROOFS. Codes and the numbers they stand for. A magnitude's code counts the numbers of its format from zero on, so that codes and
values have one order (R30, R31), and rounding a value to the precision of the format is the same as finding its code (R37, R39). -/

open Host Sys2Proof Sys2Proof.Machine Sys2Proof.Claims

namespace Sys2Proof.Machine

/-! ### The formats (R30) -/

/-- What the formats of the floating-point types have in common: where the codes of numbers end. -/
structure FmtOk (f : Fmt) : Prop where
  signed : f.signed = true
  mant : 0 < f.m
  expo : 2 ≤ f.eb
  top : (f.nan = .ieee ∧ f.inf = true ∧ f.max + 1 = (2 ^ f.eb - 1) * 2 ^ f.m) ∨
    (f.nan = .e4m3 ∧ f.inf = false ∧ f.eb = 4 ∧ f.m = 3 ∧ f.max = 0x7E) ∨
    (f.nan = .none ∧ f.inf = false ∧ f.max + 1 = 2 ^ (f.eb + f.m))

theorem fmtOk {f : Fmt} (h : f ∈ fltFmts) : FmtOk f := by
  have : ∀ f ∈ fltFmts, f.signed = true ∧ 0 < f.m ∧ 2 ≤ f.eb ∧
      ((f.nan = .ieee ∧ f.inf = true ∧ f.max + 1 = (2 ^ f.eb - 1) * 2 ^ f.m) ∨
        (f.nan = .e4m3 ∧ f.inf = false ∧ f.eb = 4 ∧ f.m = 3 ∧ f.max = 0x7E) ∨
        (f.nan = .none ∧ f.inf = false ∧ f.max + 1 = 2 ^ (f.eb + f.m))) := by decide
  obtain ⟨hs, hm, he, ht⟩ := this f h
  exact ⟨hs, hm, he, ht⟩

theorem FmtOk.max_lt {f : Fmt} (h : FmtOk f) : f.max < 2 ^ (f.eb + f.m) := by
  rcases h.top with ⟨-, -, hmax⟩ | ⟨-, -, he, hm, hmax⟩ | ⟨-, -, hmax⟩
  · have : (2 ^ f.eb - 1) * 2 ^ f.m ≤ 2 ^ (f.eb + f.m) := by
      rw [pow_add]
      exact Nat.mul_le_mul_right _ (Nat.sub_le _ _)
    omega
  · rw [he, hm, hmax]
    decide
  · omega

/-- The sign bit of a code. -/
def signBit (f : Fmt) (neg : Bool) : Nat := if neg then 2 ^ (f.eb + f.m) else 0

theorem fmtSign_eq {f : Fmt} (h : FmtOk f) (neg : Bool) : fmtSign f neg = signBit f neg := by
  simp [fmtSign, signBit, h.signed]

theorem signBit_div {f : Fmt} {mag : Nat} (neg : Bool) (h : mag < 2 ^ (f.eb + f.m)) :
    (mag + signBit f neg) % 2 ^ (f.eb + f.m) = mag ∧ (mag + signBit f neg) / 2 ^ (f.eb + f.m) % 2 = if neg then 1 else 0 := by
  have hpos : 0 < 2 ^ (f.eb + f.m) := by positivity
  cases neg with
  | false => simp [signBit, Nat.mod_eq_of_lt h, Nat.div_eq_of_lt h]
  | true => simp [signBit, Nat.mod_eq_of_lt h, Nat.div_eq_of_lt h, Nat.add_div_right _ hpos]

theorem add_signBit_lt {f : Fmt} {mag : Nat} (neg : Bool) (h : mag < 2 ^ (f.eb + f.m)) :
    mag + signBit f neg < 2 ^ (1 + f.eb + f.m) := by
  have : 2 ^ (1 + f.eb + f.m) = 2 ^ (f.eb + f.m) + 2 ^ (f.eb + f.m) := by rw [add_assoc, pow_add]; ring
  unfold signBit
  split <;> omega

/-- A code is a magnitude with a sign bit. -/
theorem code_split (f : Fmt) {c : Nat} (h : c < 2 ^ (1 + f.eb + f.m)) :
    c % 2 ^ (f.eb + f.m) + signBit f (decide (c / 2 ^ (f.eb + f.m) % 2 = 1)) = c := by
  have hlt : c / 2 ^ (f.eb + f.m) < 2 := Nat.div_lt_of_lt_mul (by rwa [add_assoc, pow_add, mul_comm] at h)
  have hdiv := Nat.div_add_mod c (2 ^ (f.eb + f.m))
  have hcases : c / 2 ^ (f.eb + f.m) = 0 ∨ c / 2 ^ (f.eb + f.m) = 1 := by
    generalize c / 2 ^ (f.eb + f.m) = q at hlt
    omega
  rcases hcases with hq | hq <;> rw [hq] at hdiv ⊢ <;> simp only [signBit] <;> simp <;> omega

/-! ### Magnitudes (R31) -/

/-- The exponent of the numbers that share a magnitude's exponent field; the field 0 shares that of 1. -/
def magExp (f : Fmt) (c : Nat) : ℤ := (max (c / 2 ^ f.m) 1 : Nat) - f.bias
/-- The mantissa of a magnitude with its leading bit. -/
def magMant (f : Fmt) (c : Nat) : Nat := c - (max (c / 2 ^ f.m) 1 - 1) * 2 ^ f.m
/-- The rational that a magnitude stands for. -/
def magQ (f : Fmt) (c : Nat) : ℚ := magMant f c * 2 ^ (magExp f c - f.m)

theorem magMant_zero_field {f : Fmt} {c : Nat} (h : c / 2 ^ f.m = 0) : magMant f c = c % 2 ^ f.m ∧ magExp f c = 1 - f.bias := by
  have hlt : c < 2 ^ f.m := (Nat.div_eq_zero_iff.1 h).resolve_left (by positivity)
  simp [magMant, magExp, h, Nat.mod_eq_of_lt hlt]

theorem magMant_field {f : Fmt} {c : Nat} (h : c / 2 ^ f.m ≠ 0) :
    magMant f c = 2 ^ f.m + c % 2 ^ f.m ∧ magExp f c = (c / 2 ^ f.m : Nat) - f.bias := by
  have hmax : max (c / 2 ^ f.m) 1 = c / 2 ^ f.m := max_eq_left (Nat.one_le_iff_ne_zero.2 h)
  refine ⟨?_, by rw [magExp, hmax]⟩
  rw [magMant, hmax, Nat.sub_one_mul, mul_comm]
  have hdiv := Nat.div_add_mod c (2 ^ f.m)
  have : 2 ^ f.m ≤ 2 ^ f.m * (c / 2 ^ f.m) := Nat.le_mul_of_pos_right _ (Nat.pos_of_ne_zero h)
  omega

/-- The mantissa has its leading bit except at the lowest exponent. -/
theorem magMant_bounds (f : Fmt) (c : Nat) : magMant f c < 2 * 2 ^ f.m ∧ 1 - f.bias ≤ magExp f c ∧
    (2 ^ f.m ≤ magMant f c ∨ magExp f c = 1 - f.bias) := by
  have hmod : c % 2 ^ f.m < 2 ^ f.m := Nat.mod_lt _ (by positivity)
  by_cases h : c / 2 ^ f.m = 0
  · obtain ⟨hm, he⟩ := magMant_zero_field h
    omega
  · obtain ⟨hm, he⟩ := magMant_field h
    have : 1 ≤ ((c / 2 ^ f.m : Nat) : ℤ) := by exact_mod_cast Nat.one_le_iff_ne_zero.2 h
    omega

theorem magQ_zero (f : Fmt) : magQ f 0 = 0 := by simp [magQ, magMant]

/-- The rational of a magnitude with exponent field q and mantissa field r. -/
theorem magQ_fields (f : Fmt) (q : Nat) {r : Nat} (hr : r < 2 ^ f.m) :
    magQ f (q * 2 ^ f.m + r) = (if q = 0 then (r : ℚ) else 2 ^ f.m + r) * 2 ^ ((max q 1 : Nat) - f.bias - f.m) := by
  have hdiv : (q * 2 ^ f.m + r) / 2 ^ f.m = q := by
    rw [mul_comm, Nat.mul_add_div (by positivity), Nat.div_eq_of_lt hr, add_zero]
  have hmod : (q * 2 ^ f.m + r) % 2 ^ f.m = r := by rw [mul_comm, Nat.mul_add_mod, Nat.mod_eq_of_lt hr]
  unfold magQ
  by_cases h : q = 0
  · obtain ⟨hm, he⟩ := magMant_zero_field (hdiv.trans h)
    rw [hm, he, hmod, if_pos h, h]
    rfl
  · obtain ⟨hm, he⟩ := magMant_field (hdiv.trans_ne h)
    rw [hm, he, hmod, hdiv, if_neg h, max_eq_left (Nat.one_le_iff_ne_zero.2 h)]
    push_cast
    rfl

/-- The next code is the next number: one unit in the last place further. -/
theorem magQ_succ (f : Fmt) (c : Nat) : magQ f (c + 1) = magQ f c + 2 ^ (magExp f c - f.m) := by
  obtain ⟨q, r, hr, rfl⟩ : ∃ q r, r < 2 ^ f.m ∧ c = q * 2 ^ f.m + r :=
    ⟨c / 2 ^ f.m, c % 2 ^ f.m, Nat.mod_lt _ (by positivity), (Nat.div_add_mod' c _).symm⟩
  have hexp : magExp f (q * 2 ^ f.m + r) = (max q 1 : Nat) - f.bias := by
    rw [magExp, mul_comm, Nat.mul_add_div (by positivity), Nat.div_eq_of_lt hr, add_zero]
  rw [hexp, magQ_fields f q hr]
  by_cases hcarry : r + 1 < 2 ^ f.m
  · rw [add_assoc, magQ_fields f q hcarry]
    split <;> push_cast <;> ring
  · have hrQ : (r : ℚ) = 2 ^ f.m - 1 := by
      have : r + 1 = 2 ^ f.m := by omega
      rw [eq_sub_iff_add_eq]
      exact_mod_cast this
    have hnext : q * 2 ^ f.m + r + 1 = (q + 1) * 2 ^ f.m + 0 := by
      rw [add_mul, one_mul]
      omega
    rw [hnext, magQ_fields f (q + 1) (by positivity), if_neg (Nat.succ_ne_zero q), hrQ]
    by_cases h : q = 0
    · subst h
      simp only [if_true, zero_add, max_self, Nat.zero_max]
      push_cast
      ring
    · have hdouble : (2 : ℚ) ^ (((q + 1 : Nat) : ℤ) - f.bias - f.m) = 2 * 2 ^ ((q : ℤ) - f.bias - f.m) := by
        rw [← zpow_one_add₀ (by norm_num)]
        congr 1
        push_cast
        ring
      rw [if_neg h, max_eq_left (by omega), max_eq_left (by omega), hdouble]
      push_cast
      ring

theorem magQ_strictMono (f : Fmt) : StrictMono (magQ f) :=
  strictMono_nat_of_lt_succ fun c => by
    rw [magQ_succ]
    exact lt_add_of_pos_right _ (two_zpow_pos _)

theorem magQ_nonneg (f : Fmt) (c : Nat) : 0 ≤ magQ f c := by
  unfold magQ
  positivity

/-- The code of a mantissa at an exponent, as an encoder puts it together; a mantissa that has been rounded up to the next power of
two carries into the exponent. -/
def codeOf (f : Fmt) (e : ℤ) (k : Nat) : Nat := if k < 2 ^ f.m then k else (e + f.bias).toNat * 2 ^ f.m + (k - 2 ^ f.m)

theorem magQ_codeOf {f : Fmt} {e : ℤ} {k : Nat} (he : 1 - f.bias ≤ e) (hk : k ≤ 2 * 2 ^ f.m) (hlow : k < 2 ^ f.m → e = 1 - f.bias) :
    magQ f (codeOf f e k) = k * 2 ^ (e - f.m) := by
  unfold codeOf
  by_cases hsmall : k < 2 ^ f.m
  · have h := magQ_fields f 0 hsmall
    rw [if_pos hsmall, hlow hsmall]
    simpa using h
  · obtain ⟨q, hq⟩ : ∃ q : Nat, (e + f.bias).toNat = q + 1 := ⟨(e + f.bias).toNat - 1, by omega⟩
    have he' : e = (q + 1 : Nat) - f.bias := by omega
    rw [if_neg hsmall, hq]
    by_cases hcarry : k < 2 * 2 ^ f.m
    · have hsub : k = 2 ^ f.m + (k - 2 ^ f.m) := by omega
      rw [magQ_fields f (q + 1) (by omega), if_neg (Nat.succ_ne_zero q), max_eq_left (by omega), ← he']
      congr 1
      exact_mod_cast hsub.symm
    · have hk2 : k = 2 * 2 ^ f.m := by omega
      have hnext : (q + 1) * 2 ^ f.m + (k - 2 ^ f.m) = (q + 2) * 2 ^ f.m + 0 := by
        rw [hk2]
        ring_nf
        omega
      have hdouble : (2 : ℚ) ^ (((q + 2 : Nat) : ℤ) - f.bias - f.m) = 2 * 2 ^ (e - f.m) := by
        rw [← zpow_one_add₀ (by norm_num), he']
        congr 1
        push_cast
        ring
      rw [hnext, magQ_fields f (q + 2) (by positivity), if_neg (Nat.succ_ne_zero _), max_eq_left (by omega), hdouble, hk2]
      push_cast
      ring

/-! ### Decoding (R31, R32) -/

/-- The sign and the magnitude of a code. -/
def codeNeg (f : Fmt) (c : Nat) : Bool := decide (c / 2 ^ (f.eb + f.m) % 2 = 1)
def codeMag (f : Fmt) (c : Nat) : Nat := c % 2 ^ (f.eb + f.m)

/-- What a code whose magnitude is no NaN and no infinity stands for. -/
def numberOf (f : Fmt) (neg : Bool) (mag : Nat) : Val :=
  if mag = 0 then .zero neg
  else .fin neg (magMant f mag * (pow2 (magExp f mag - f.m)).1) (pow2 (magExp f mag - f.m)).2

theorem numberOf_eq_fields (f : Fmt) (neg : Bool) (mag : Nat) :
    (if mag = 0 then .zero neg
      else if mag / 2 ^ f.m = 0 then
        .fin neg (mag % 2 ^ f.m * (pow2 (1 - f.bias - f.m)).1) (pow2 (1 - f.bias - f.m)).2
      else .fin neg ((2 ^ f.m + mag % 2 ^ f.m) * (pow2 ((mag / 2 ^ f.m : Nat) - f.bias - f.m)).1)
        (pow2 ((mag / 2 ^ f.m : Nat) - f.bias - f.m)).2) = numberOf f neg mag := by
  unfold numberOf
  by_cases h : mag / 2 ^ f.m = 0
  · obtain ⟨hm, he⟩ := magMant_zero_field h
    rw [if_pos h, hm, he]
  · obtain ⟨hm, he⟩ := magMant_field h
    rw [if_neg h, hm, he]

theorem decodeF_number {f : Fmt} (hf : FmtOk f) {c : Nat} (h : codeMag f c ≤ f.max) :
    decodeF f c = numberOf f (codeNeg f c) (codeMag f c) := by
  rw [← numberOf_eq_fields]
  unfold decodeF
  simp only [hf.signed, Bool.true_and]
  rw [← codeMag, ← codeNeg]
  rcases hf.top with ⟨hnan, -, hmax⟩ | ⟨hnan, -, he, hm, hmax⟩ | ⟨hnan, -, -⟩
  · have hne : codeMag f c / 2 ^ f.m ≠ 2 ^ f.eb - 1 := by
      refine (Nat.div_lt_of_lt_mul ?_).ne
      rw [mul_comm]
      omega
    simp [hnan, hne]
  · have hne : ¬ (codeMag f c / 2 ^ f.m = 2 ^ f.eb - 1 ∧ codeMag f c % 2 ^ f.m = 7) := by
      rw [he, hm]
      omega
    rw [hnan]
    simp only [decide_eq_true_eq, hne, true_and, if_false, reduceCtorEq, false_and]
  · simp [hnan]

theorem valQ_numberOf (f : Fmt) (neg : Bool) (mag : Nat) : valQ (numberOf f neg mag) = signQ neg * magQ f mag := by
  unfold numberOf
  split
  · next h => simp [h, magQ_zero, valQ]
  · rw [valQ_fin, magQ, Nat.cast_mul, mul_div_assoc, pow2_div]

@[simp] theorem valNeg_numberOf (f : Fmt) (neg : Bool) (mag : Nat) : valNeg (numberOf f neg mag) = neg := by
  unfold numberOf
  split <;> rfl

theorem isFinite_numberOf (f : Fmt) (neg : Bool) (mag : Nat) : IsFinite (numberOf f neg mag) := by
  unfold numberOf
  split <;> exact ⟨rfl, rfl⟩

theorem magQ_pos {f : Fmt} {mag : Nat} (h : 0 < mag) : 0 < magQ f mag := by
  rw [← magQ_zero f]
  exact magQ_strictMono f h

theorem magMant_pos {f : Fmt} {mag : Nat} (h : 0 < mag) : 0 < magMant f mag := by
  have := magQ_pos (f := f) h
  by_contra h0
  rw [magQ, show magMant f mag = 0 by omega] at this
  simp at this

theorem valOk_numberOf (f : Fmt) (neg : Bool) (mag : Nat) : ValOk (numberOf f neg mag) := by
  unfold numberOf
  split
  · trivial
  · next h => exact ⟨Nat.mul_pos (magMant_pos (Nat.pos_of_ne_zero h)) (pow2_pos _).1, (pow2_pos _).2⟩

/-- What a code can stand for. -/
inductive Decoded (f : Fmt) (c : Nat) : Val → Prop
  | number (h : codeMag f c ≤ f.max) : Decoded f c (numberOf f (codeNeg f c) (codeMag f c))
  | inf (hbig : ¬ codeMag f c ≤ f.max) (hk : f.nan = .ieee) (h : codeMag f c = (2 ^ f.eb - 1) * 2 ^ f.m) :
    Decoded f c (.inf (codeNeg f c))
  | nan (hbig : ¬ codeMag f c ≤ f.max) (mant : Nat) (sig : Bool) (hk : f.nan ≠ .none)
    (h : codeMag f c = (2 ^ f.eb - 1) * 2 ^ f.m + mant) (hpos : 0 < mant) (hlt : mant < 2 ^ f.m) : Decoded f c (.nan (codeNeg f c) mant f.m sig)

theorem decoded {f : Fmt} (hf : FmtOk f) (c : Nat) : Decoded f c (decodeF f c) := by
  by_cases h : codeMag f c ≤ f.max
  · rw [decodeF_number hf h]
    exact .number h
  have hlt : codeMag f c < 2 ^ (f.eb + f.m) := Nat.mod_lt _ (by positivity)
  have hdef : decodeF f c = decodeF f c := rfl
  conv_rhs at hdef => unfold decodeF
  simp only [hf.signed, Bool.true_and] at hdef
  rw [← codeMag, ← codeNeg] at hdef
  rcases hf.top with ⟨hnan, -, hmax⟩ | ⟨hnan, -, he, hm, hmax⟩ | ⟨hnan, -, hmax⟩
  · have htop : codeMag f c / 2 ^ f.m = 2 ^ f.eb - 1 := by
      refine le_antisymm (Nat.le_sub_one_of_lt (Nat.div_lt_of_lt_mul (by rwa [mul_comm, ← pow_add]))) ?_
      rw [Nat.le_div_iff_mul_le (by positivity)]
      omega
    have hsplit : codeMag f c = (2 ^ f.eb - 1) * 2 ^ f.m + codeMag f c % 2 ^ f.m := by
      rw [← htop]
      exact (Nat.div_add_mod' _ _).symm
    by_cases h0 : codeMag f c % 2 ^ f.m = 0
    · rw [hdef, hnan]
      simp only [htop, h0, decide_true]
      exact .inf h hnan (by rw [hsplit, h0, add_zero])
    · rw [hdef, hnan]
      simp only [htop, h0, decide_true, decide_false]
      exact .nan h _ _ (by simp [hnan]) hsplit (Nat.pos_of_ne_zero h0) (Nat.mod_lt _ (by positivity))
  · have hmag : codeMag f c = 0x7F := by
      rw [he, hm] at hlt
      omega
    rw [hdef, hnan, hmag]
    simp only [he, hm]
    have hcase := Decoded.nan (f := f) (c := c) h 7 false (by simp [hnan]) (by rw [hmag, he, hm]; rfl) (by decide) (by rw [hm]; decide)
    rw [hm] at hcase
    exact hcase
  · omega

/-! ### The code of a value (R37) -/

theorem roundMag_bounds (mode : Rnd) (neg : Bool) (num den : Nat) :
    num / den ≤ roundMag mode neg num den ∧ roundMag mode neg num den ≤ num / den + 1 := by
  unfold roundMag
  dsimp only
  split <;> omega

/-- The exponent to which a value is rounded. -/
def roundExp (f : Fmt) (num den : Nat) : ℤ := max (floorLog2 num den) (1 - f.bias)
/-- The rounded mantissa. -/
def roundMant (f : Fmt) (mode : Rnd) (neg : Bool) (num den : Nat) : Nat :=
  roundMag mode neg (num * (pow2 (f.m - roundExp f num den)).1) (den * (pow2 (f.m - roundExp f num den)).2)

theorem roundCode_eq (f : Fmt) (mode : Rnd) (neg : Bool) (num den : Nat) :
    (roundCode f mode neg num den).1 = codeOf f (roundExp f num den) (roundMant f mode neg num den) := rfl

section Rounding
variable {f : Fmt} {num den : Nat} (hn : 0 < num) (hd : 0 < den)

/-- The magnitude in units of the last place. -/
theorem scaled_eq (e : ℤ) : ((num * (pow2 (f.m - e)).1 : Nat) : ℚ) / (den * (pow2 (f.m - e)).2 : Nat) = num / den / 2 ^ (e - f.m) := by
  push_cast
  rw [mul_div_mul_comm, pow2_div, div_eq_mul_inv ((num : ℚ) / den), ← zpow_neg, neg_sub]

include hn hd

theorem scaled_bounds : (num : ℚ) / den / 2 ^ (roundExp f num den - f.m) < 2 * 2 ^ f.m ∧
    (roundExp f num den ≠ 1 - f.bias → (2 : ℚ) ^ f.m ≤ num / den / 2 ^ (roundExp f num den - f.m)) := by
  have hx : (0 : ℚ) < num / den := by positivity
  obtain ⟨hlo, hhi⟩ := log_bounds hx
  have hle : Int.log 2 ((num : ℚ) / den) ≤ roundExp f num den := by
    rw [← floorLog2_eq hn hd]
    exact le_max_left _ _
  constructor
  · rw [div_lt_iff₀ (two_zpow_pos _), ← zpow_natCast, ← zpow_one_add₀ (by norm_num), ← zpow_add₀ (by norm_num)]
    refine hhi.trans_le (zpow_le_zpow_right₀ (by norm_num) ?_)
    omega
  · intro hne
    have heq : roundExp f num den = Int.log 2 ((num : ℚ) / den) := by
      rw [← floorLog2_eq hn hd]
      exact max_eq_left (by unfold roundExp at hne; omega)
    rw [le_div_iff₀ (two_zpow_pos _), ← zpow_natCast, ← zpow_add₀ (by norm_num), heq]
    simpa using hlo

theorem roundMant_bounds (mode : Rnd) (neg : Bool) : roundMant f mode neg num den ≤ 2 * 2 ^ f.m ∧
    (roundMant f mode neg num den < 2 ^ f.m → roundExp f num den = 1 - f.bias) := by
  have hp := pow2_pos (f.m - roundExp f num den)
  have hden : (0 : ℚ) < (den * (pow2 (f.m - roundExp f num den)).2 : Nat) := by exact_mod_cast Nat.mul_pos hd hp.2
  obtain ⟨hlow, hhigh⟩ := roundMag_bounds mode neg (num * (pow2 (f.m - roundExp f num den)).1)
    (den * (pow2 (f.m - roundExp f num den)).2)
  obtain ⟨hlt, hge⟩ := scaled_bounds (f := f) hn hd
  rw [← scaled_eq] at hlt hge
  constructor
  · have : (num * (pow2 (f.m - roundExp f num den)).1) / (den * (pow2 (f.m - roundExp f num den)).2) < 2 * 2 ^ f.m := by
      refine Nat.div_lt_of_lt_mul ?_
      rw [div_lt_iff₀ hden] at hlt
      have hnat : num * (pow2 (f.m - roundExp f num den)).1 < 2 * 2 ^ f.m * (den * (pow2 (f.m - roundExp f num den)).2) := by
        exact_mod_cast hlt
      exact hnat.trans_eq (mul_comm _ _)
    unfold roundMant
    omega
  · intro hsmall
    by_contra hne
    have := hge hne
    rw [le_div_iff₀ hden] at this
    have : 2 ^ f.m ≤ (num * (pow2 (f.m - roundExp f num den)).1) / (den * (pow2 (f.m - roundExp f num den)).2) := by
      rw [Nat.le_div_iff_mul_le (Nat.mul_pos hd hp.2)]
      exact_mod_cast this
    unfold roundMant at hsmall
    omega

/-- The rounded value is the number of the code. -/
theorem roundTo_eq (mode : Rnd) (neg : Bool) :
    roundTo f mode (valQ (.fin neg num den)) = signQ neg * magQ f (roundCode f mode neg num den).1 := by
  have hp := pow2_pos (f.m - roundExp f num den)
  obtain ⟨hle, hlow⟩ := roundMant_bounds (f := f) hn hd mode neg
  have hexp : max (Int.log 2 |valQ (.fin neg num den)|) (1 - f.bias) = roundExp f num den := by
    rw [abs_valQ_fin, roundExp, floorLog2_eq hn hd]
  have hround : (roundQ mode (valQ (.fin neg num den) / 2 ^ (roundExp f num den - f.m)) : ℚ) =
      signQ neg * roundMant f mode neg num den := by
    rw [valQ_fin, mul_div_assoc, ← scaled_eq, roundQ_signed_mag mode neg _ (Nat.mul_pos hd hp.2)]
    cases neg <;> simp [roundMant]
  rw [roundCode_eq, magQ_codeOf (e := roundExp f num den) (le_max_right _ _) hle hlow, ← mul_assoc, ← hround, roundTo, hexp]

/-- The flags of rounding: NX where it changes the value, UF where the value is below the normal numbers too (R37). -/
theorem roundCode_flags (mode : Rnd) (neg : Bool) :
    (roundCode f mode neg num den).2 = if roundTo f mode (valQ (.fin neg num den)) = valQ (.fin neg num den) then 0
      else if |valQ (.fin neg num den)| < 2 ^ (1 - f.bias) then flNX ||| flUF else flNX := by
  have hp := pow2_pos (f.m - roundExp f num den)
  have hden : ((den * (pow2 (f.m - roundExp f num den)).2 : Nat) : ℚ) ≠ 0 := by
    exact_mod_cast (Nat.mul_pos hd hp.2).ne'
  obtain ⟨hle, hlow⟩ := roundMant_bounds (f := f) hn hd mode neg
  have hexact : roundMant f mode neg num den * (den * (pow2 (f.m - roundExp f num den)).2) =
      num * (pow2 (f.m - roundExp f num den)).1 ↔ roundTo f mode (valQ (.fin neg num den)) = valQ (.fin neg num den) := by
    rw [roundTo_eq hn hd, roundCode_eq, magQ_codeOf (e := roundExp f num den) (le_max_right _ _) hle hlow, valQ_fin,
      mul_right_inj' (signQ_ne_zero neg), ← eq_div_iff (two_zpow_pos _).ne', ← scaled_eq, eq_div_iff hden]
    exact_mod_cast Iff.rfl
  have hsmall : floorLog2 num den < 1 - f.bias ↔ |valQ (.fin neg num den)| < 2 ^ (1 - f.bias) := by
    rw [floorLog2_eq hn hd, abs_valQ_fin]
    have h := Int.lt_zpow_iff_log_lt (b := 2) (by decide) (x := 1 - f.bias) (r := (num : ℚ) / den) (by positivity)
    exact_mod_cast h.symm
  have hdef : (roundCode f mode neg num den).2 =
      flagIf (!decide (roundMant f mode neg num den * (den * (pow2 (f.m - roundExp f num den)).2) =
        num * (pow2 (f.m - roundExp f num den)).1)) flNX |||
      flagIf (!decide (roundMant f mode neg num den * (den * (pow2 (f.m - roundExp f num den)).2) =
        num * (pow2 (f.m - roundExp f num den)).1) && decide (floorLog2 num den < 1 - f.bias)) flUF := rfl
  rw [hdef]
  simp only [hexact, hsmall]
  split
  · next h => simp [h, flagIf]
  · next h => split <;> simp [*, flagIf]

end Rounding

end Sys2Proof.Machine
end

section
/-! PROOFS. Encode of a value rounds it once (R39), its codes have the width of the format, and a code comes back from what it stands
for (R31, R39, R45). -/

open Host Sys2Proof Sys2Proof.Machine Sys2Proof.Claims

namespace Sys2Proof.Machine

/-! ### Encoding a number (R39) -/

theorem codeMag_add {f : Fmt} {mag : Nat} (neg : Bool) (h : mag < 2 ^ (f.eb + f.m)) : codeMag f (mag + signBit f neg) = mag :=
  (signBit_div neg h).1
theorem codeNeg_add {f : Fmt} {mag : Nat} (neg : Bool) (h : mag < 2 ^ (f.eb + f.m)) : codeNeg f (mag + signBit f neg) = neg := by
  rw [codeNeg, (signBit_div neg h).2]
  cases neg <;> rfl

theorem encodeF_fin_of_gt {f : Fmt} {mode : Rnd} (sat : Bool) {neg : Bool} {num den : Nat}
    (h : ¬ (roundCode f mode neg num den).1 ≤ f.max) :
    encodeF f mode sat (.fin neg num den) = encodeBig f mode sat neg false (roundCode f mode neg num den).2 := if_neg h

section Format
variable {f : Fmt} (hf : FmtOk f)
include hf

theorem FmtOk.leading_le_max : 2 ^ f.m ≤ f.max := by
  have hpos : 0 < 2 ^ f.m := by positivity
  have hfour : 4 ≤ 2 ^ f.eb := Nat.pow_le_pow_right (n := 2) (by decide) hf.expo
  rcases hf.top with ⟨-, -, hmax⟩ | ⟨-, -, -, hm, hmax⟩ | ⟨-, -, hmax⟩
  · have : 3 * 2 ^ f.m ≤ (2 ^ f.eb - 1) * 2 ^ f.m := Nat.mul_le_mul_right _ (by omega)
    omega
  · rw [hm, hmax]
    decide
  · have : 4 * 2 ^ f.m ≤ 2 ^ f.eb * 2 ^ f.m := Nat.mul_le_mul_right _ hfour
    rw [pow_add] at hmax
    omega

theorem decodeF_add_sign {mag : Nat} (neg : Bool) (h : mag ≤ f.max) : decodeF f (mag + signBit f neg) = numberOf f neg mag := by
  have hlt := h.trans_lt hf.max_lt
  rw [decodeF_number hf (by rwa [codeMag_add neg hlt]), codeMag_add neg hlt, codeNeg_add neg hlt]

theorem valQ_decodeF_max : valQ (decodeF f f.max) = magQ f f.max := by
  have h := decodeF_add_sign hf false le_rfl
  rw [signBit, if_neg (by decide), add_zero] at h
  rw [h, valQ_numberOf, signQ_false, one_mul]

theorem encodeF_fin_of_le {mode : Rnd} (sat : Bool) {neg : Bool} {num den : Nat} (h : (roundCode f mode neg num den).1 ≤ f.max) :
    encodeF f mode sat (.fin neg num den) = ((roundCode f mode neg num den).1 + signBit f neg, (roundCode f mode neg num den).2) := by
  rw [← fmtSign_eq hf]
  exact if_pos h

/-- A magnitude below the normal numbers is never rounded beyond the first of them. -/
theorem roundCode_le_max_of_small {mode : Rnd} {neg : Bool} {num den : Nat} (hn : 0 < num) (hd : 0 < den)
    (h : |valQ (.fin neg num den)| < 2 ^ (1 - f.bias)) : (roundCode f mode neg num den).1 ≤ f.max := by
  have hp := pow2_pos (f.m - roundExp f num den)
  have hexp : roundExp f num den = 1 - f.bias := by
    rw [abs_valQ_fin] at h
    have hlog := (Int.lt_zpow_iff_log_lt (b := 2) (by decide) (x := 1 - f.bias) (r := (num : ℚ) / den) (by positivity)).1
      (by exact_mod_cast h)
    rw [roundExp, floorLog2_eq hn hd]
    exact max_eq_right hlog.le
  have hmant : roundMant f mode neg num den ≤ 2 ^ f.m := by
    have hq : (num * (pow2 (f.m - roundExp f num den)).1) / (den * (pow2 (f.m - roundExp f num den)).2) < 2 ^ f.m := by
      refine Nat.div_lt_of_lt_mul ?_
      have hdenQ : (0 : ℚ) < (den * (pow2 (f.m - roundExp f num den)).2 : Nat) := by exact_mod_cast Nat.mul_pos hd hp.2
      have hscaled : ((num * (pow2 (f.m - roundExp f num den)).1 : Nat) : ℚ) /
          (den * (pow2 (f.m - roundExp f num den)).2 : Nat) < 2 ^ f.m := by
        rw [scaled_eq, div_lt_iff₀ (two_zpow_pos _), ← zpow_natCast, ← zpow_add₀ (by norm_num), ← abs_valQ_fin neg, hexp]
        simpa using h
      rw [div_lt_iff₀ hdenQ, mul_comm ((2 : ℚ) ^ f.m)] at hscaled
      exact_mod_cast hscaled
    have := (roundMag_bounds mode neg (num * (pow2 (f.m - roundExp f num den)).1) (den * (pow2 (f.m - roundExp f num den)).2)).2
    unfold roundMant
    omega
  rw [roundCode_eq, codeOf, hexp]
  have := hf.leading_le_max
  split
  · omega
  · rw [show (1 - f.bias + f.bias).toNat = 1 by omega]
    omega

/-- Beyond the range a value is inexact or a number of a greater format, and never below the normal numbers. -/
theorem roundCode_flags_of_gt {mode : Rnd} {neg : Bool} {num den : Nat} (hn : 0 < num) (hd : 0 < den)
    (h : ¬ (roundCode f mode neg num den).1 ≤ f.max) :
    (roundCode f mode neg num den).2 = 0 ∨ (roundCode f mode neg num den).2 = flNX := by
  rw [roundCode_flags hn hd]
  split
  · exact .inl rfl
  · rw [if_neg (mt (roundCode_le_max_of_small hf hn hd) h)]
    exact .inr rfl

theorem roundCode_le_max_iff {mode : Rnd} {neg : Bool} {num den : Nat} (hn : 0 < num) (hd : 0 < den) :
    |roundTo f mode (valQ (.fin neg num den))| ≤ valQ (decodeF f f.max) ↔ (roundCode f mode neg num den).1 ≤ f.max := by
  rw [roundTo_eq hn hd, abs_mul, abs_signQ, one_mul, abs_of_nonneg (magQ_nonneg f _), valQ_decodeF_max hf,
    (magQ_strictMono f).le_iff_le]

/-- The end of the range with .sat (R38, R39). -/
theorem encodeBig_sat (mode : Rnd) (neg isInf : Bool) (fl : Flags) :
    encodeBig f mode true neg isInf fl = (f.max + signBit f neg, fl ||| flagIf (!isInf) flNX ||| flSAT) := by
  rw [encodeBig.eq_def, fmtSign_eq hf]
  simp [hf.signed]

/-- An infinity without .sat, in a format that has them. -/
theorem encodeBig_inf (mode : Rnd) (neg : Bool) (h : f.inf = true) :
    encodeBig f mode false neg true 0 = ((2 ^ f.eb - 1) * 2 ^ f.m + signBit f neg, 0) := by
  rw [encodeBig.eq_def, infCode, fmtSign_eq hf]
  simp [h, flagIf]

end Format

/-- Whether the mode takes a value beyond the range away from zero (R39). -/
def goesOut (mode : Rnd) (neg : Bool) : Bool :=
  match mode with
  | .rz => false
  | .rp => !neg
  | .rm => neg
  | _ => true

theorem e4m3_iff {f : Fmt} (h : f ∈ fltFmts) : f.nan = .e4m3 ↔ f = fmtE4m3 := by
  have : ∀ f ∈ fltFmts, f.nan = .e4m3 ↔ f = fmtE4m3 := by decide
  exact this f h

/-- A number beyond the range without .sat (R39). -/
theorem encodeBig_overflow {f : Fmt} (h : f ∈ fltFmts) (mode : Rnd) (neg : Bool) (fl : Flags) :
    encodeBig f mode false neg false fl =
      ((if goesOut mode neg = true ∧ f.inf = true then (2 ^ f.eb - 1) * 2 ^ f.m
        else if goesOut mode neg = true ∧ f = fmtE4m3 then 0x7F else f.max) + signBit f neg, fl ||| (flOF ||| flNX)) := by
  have hdef : encodeBig f mode false neg false fl =
      if (!goesOut mode neg) = true then (f.max + fmtSign f neg, fl ||| (flOF ||| flNX))
      else if f.inf = true then (infCode f neg, fl ||| (flOF ||| flNX))
      else if f.nan = .e4m3 then (0x7F + fmtSign f neg, fl ||| (flOF ||| flNX) ||| 0)
      else (f.max + fmtSign f neg, fl ||| (flOF ||| flNX) ||| 0) := by cases mode <;> rfl
  simp only [hdef, infCode, fmtSign_eq (fmtOk h), e4m3_iff h]
  cases goesOut mode neg with
  | false => simp
  | true => split_ifs <;> simp_all

theorem encodeRounds : EncodeRounds := by
  intro f hmem mode sat neg num den hn hd x y r big sign out
  have hf := fmtOk hmem
  have hle : |y| ≤ big ↔ (roundCode f mode neg num den).1 ≤ f.max := roundCode_le_max_iff hf hn hd
  refine ⟨fun h => ?inRange, fun h hsat => ?saturated, fun h hsat => ?overflow⟩
  case inRange =>
    have hcode := hle.1 h
    have hr : r = _ := encodeF_fin_of_le hf sat hcode
    have hdec := decodeF_add_sign hf neg hcode
    rw [hr]
    refine ⟨add_signBit_lt neg (hcode.trans_lt hf.max_lt), ?_, ?_, ?_, roundCode_flags hn hd mode neg⟩
    · rw [hdec, valQ_numberOf]
      exact (roundTo_eq hn hd mode neg).symm
    · rw [hdec, valNeg_numberOf]
    · rw [hdec]
      exact isFinite_numberOf f neg _
  case saturated =>
    have hcode := mt hle.2 (not_le.2 h)
    have hr : r = _ := encodeF_fin_of_gt sat hcode
    rw [hr, hsat, encodeBig_sat hf]
    rcases roundCode_flags_of_gt hf hn hd hcode with hfl | hfl <;> rw [hfl] <;> exact ⟨rfl, rfl⟩
  case overflow =>
    have hcode := mt hle.2 (not_le.2 h)
    have hr : r = _ := encodeF_fin_of_gt sat hcode
    rw [hr, hsat, encodeBig_overflow hmem]
    have hout : goesOut mode neg = out := by cases mode <;> rfl
    rw [hout]
    rcases roundCode_flags_of_gt hf hn hd hcode with hfl | hfl <;> rw [hfl] <;> exact ⟨rfl, rfl⟩

/-! ### Values that a format holds exactly (R37, R39) -/

theorem roundTo_eq_self {f : Fmt} {mode : Rnd} {x : ℚ} {i : ℤ} {z : ℤ} (hx : x = i * 2 ^ z)
    (hz : max (Int.log 2 |x|) (1 - f.bias) - f.m ≤ z) : roundTo f mode x = x := by
  unfold roundTo
  dsimp only
  generalize max (Int.log 2 |x|) (1 - f.bias) - (f.m : ℤ) = e at hz
  obtain ⟨n, rfl⟩ : ∃ n : Nat, z = e + n := ⟨(z - e).toNat, by omega⟩
  have hint : x / 2 ^ e = ((i * 2 ^ n : ℤ) : ℚ) := by
    rw [hx, zpow_add₀ (by norm_num), mul_comm ((2 : ℚ) ^ e), ← mul_assoc, mul_div_cancel_right₀ _ (two_zpow_pos e).ne']
    push_cast
    rfl
  rw [hint, roundQ_intCast, ← hint, div_mul_cancel₀ _ (two_zpow_pos e).ne']

theorem log_magQ_le {f : Fmt} {mag : Nat} (h : 0 < mag) : Int.log 2 (magQ f mag) ≤ magExp f mag := by
  have hlt : magQ f mag < 2 ^ (magExp f mag + 1) := by
    have hm : (magMant f mag : ℚ) < 2 * 2 ^ f.m := by exact_mod_cast (magMant_bounds f mag).1
    calc magQ f mag < 2 * 2 ^ f.m * 2 ^ (magExp f mag - f.m) := by
          unfold magQ
          gcongr
      _ = 2 ^ (magExp f mag + 1) := by
          rw [← zpow_natCast, ← zpow_one_add₀ (by norm_num), ← zpow_add₀ (by norm_num)]
          congr 1
          ring
  have := (Int.lt_zpow_iff_log_lt (b := 2) (by decide) (magQ_pos (f := f) h)).1 (by exact_mod_cast hlt)
  omega

/-- A number of one format whose unit in the last place another format has too is exact in the other. -/
theorem roundTo_number {f g : Fmt} {mode : Rnd} {neg : Bool} {mag : Nat} (h : 0 < mag) (hm : f.m ≤ g.m)
    (hlow : 1 - g.bias - g.m ≤ magExp f mag - f.m) : roundTo g mode (signQ neg * magQ f mag) = signQ neg * magQ f mag := by
  have hlog := log_magQ_le (f := f) h
  refine roundTo_eq_self (i := (if neg then -1 else 1) * magMant f mag) (z := magExp f mag - f.m) ?_ ?_
  · cases neg <;> simp [magQ]
  · rw [abs_mul, abs_signQ, one_mul, abs_of_nonneg (magQ_nonneg f mag)]
    omega

theorem roundTo_own (f : Fmt) (mode : Rnd) (neg : Bool) {mag : Nat} (h : 0 < mag) :
    roundTo f mode (signQ neg * magQ f mag) = signQ neg * magQ f mag :=
  roundTo_number h le_rfl (by have := (magMant_bounds f mag).2.1; omega)

section Format
variable {f : Fmt} (hf : FmtOk f)
include hf

/-- A number of the format is encoded as its own code, without a flag. -/
theorem encodeF_number (mode : Rnd) (sat : Bool) {neg : Bool} {num den mag : Nat} (hn : 0 < num) (hd : 0 < den)
    (hmag : mag ≤ f.max) (h : valQ (.fin neg num den) = signQ neg * magQ f mag) :
    encodeF f mode sat (.fin neg num den) = (mag + signBit f neg, 0) := by
  have hpos : 0 < mag := by
    by_contra h0
    rw [show mag = 0 by omega, magQ_zero, mul_zero] at h
    exact valQ_fin_ne_zero hn hd h
  have hround : roundTo f mode (valQ (.fin neg num den)) = valQ (.fin neg num den) := by rw [h, roundTo_own f mode neg hpos]
  have hcode : (roundCode f mode neg num den).1 = mag := by
    refine (magQ_strictMono f).injective (mul_left_cancel₀ (signQ_ne_zero neg) ?_)
    rw [← roundTo_eq hn hd, hround, h]
  rw [encodeF_fin_of_le hf sat (hcode.trans_le hmag), hcode, roundCode_flags hn hd, if_pos hround]

@[simp] theorem encodeF_zero (mode : Rnd) (sat neg : Bool) : encodeF f mode sat (.zero neg) = (signBit f neg, 0) := by
  rw [← fmtSign_eq hf]
  rfl

theorem encodeF_numberOf (mode : Rnd) (sat neg : Bool) {mag : Nat} (hmag : mag ≤ f.max) :
    encodeF f mode sat (numberOf f neg mag) = (mag + signBit f neg, 0) := by
  have hok := valOk_numberOf f neg mag
  have hval := valQ_numberOf f neg mag
  unfold numberOf at *
  split
  · next h => rw [encodeF_zero hf, h, zero_add]
  · next h =>
    rw [if_neg h] at hok hval
    exact encodeF_number hf mode sat hok.1 hok.2 hmag hval

/-- A NaN of the format is encoded as its own code (R39). -/
theorem encodeF_own_nan (mode : Rnd) (sat neg : Bool) {mant : Nat} (sig : Bool) (hk : f.nan ≠ .none) (he : f.nan = .e4m3 → mant = 7) :
    encodeF f mode sat (.nan neg mant f.m sig) = ((2 ^ f.eb - 1) * 2 ^ f.m + mant + signBit f neg, 0) := by
  have hdef : encodeF f mode sat (.nan neg mant f.m sig) = nanTo f neg mant f.m := rfl
  rw [hdef, nanTo.eq_def, fmtSign_eq hf]
  rcases hf.top with ⟨hnan, -, -⟩ | ⟨hnan, -, heb, hm, -⟩ | ⟨hnan, -, -⟩
  · simp [hnan]
  · simp [hnan, heb, hm, he hnan]
  · exact absurd hnan hk

theorem encodeF_own_inf (mode : Rnd) (neg : Bool) (hk : f.nan = .ieee) :
    encodeF f mode false (.inf neg) = ((2 ^ f.eb - 1) * 2 ^ f.m + signBit f neg, 0) := by
  have hinf : f.inf = true := by
    rcases hf.top with ⟨-, hi, -⟩ | ⟨hnan, -, -⟩ | ⟨hnan, -, -⟩
    · exact hi
    · simp [hk] at hnan
    · simp [hk] at hnan
  exact encodeBig_inf hf mode neg hinf

/-- The mantissa of E4M3's NaN. -/
theorem nan_mant_e4m3 {c mant : Nat} (hnan : f.nan = .e4m3) (h : codeMag f c = (2 ^ f.eb - 1) * 2 ^ f.m + mant)
    (hbig : ¬ codeMag f c ≤ f.max) (hlt : mant < 2 ^ f.m) : mant = 7 := by
  rcases hf.top with ⟨hk, -⟩ | ⟨-, -, he, hm, hmax⟩ | ⟨hk, -⟩
  · simp [hnan] at hk
  · rw [he, hm] at h
    rw [hm] at hlt
    omega
  · simp [hnan] at hk

/-- A code comes back from what it stands for. -/
theorem encodeF_decodeF (mode : Rnd) {c : Nat} (hc : c < 2 ^ (1 + f.eb + f.m)) : encodeF f mode false (decodeF f c) = (c, 0) := by
  have hsplit : codeMag f c + signBit f (codeNeg f c) = c := code_split f hc
  have hcase := decoded hf c
  generalize decodeF f c = v at hcase
  cases hcase with
  | number h => rw [encodeF_numberOf hf mode false _ h, hsplit]
  | inf hbig hk h => rw [encodeF_own_inf hf mode _ hk, ← h, hsplit]
  | nan hbig mant sig hk h hpos hlt =>
    rw [encodeF_own_nan hf mode false _ sig hk (fun he => nan_mant_e4m3 hf he h hbig hlt), ← h, hsplit]

theorem encodeF_decodeF_nan (mode : Rnd) (sat : Bool) {c : Nat} (hc : c < 2 ^ (1 + f.eb + f.m)) (h : valIsNan (decodeF f c) = true) :
    encodeF f mode sat (decodeF f c) = (c, 0) := by
  rw [← encodeF_decodeF hf mode hc]
  generalize decodeF f c = v at h
  cases v with
  | dnan => rfl
  | nan => rfl
  | _ => simp [valIsNan] at h

theorem valOk_decodeF (c : Nat) : ValOk (decodeF f c) := by
  have hcase := decoded hf c
  generalize decodeF f c = v at hcase
  cases hcase with
  | number => exact valOk_numberOf f _ _
  | inf => trivial
  | nan => trivial

end Format

/-! ### Exact results (R39, R41, R42) -/

theorem topCode_lt {f : Fmt} : (2 ^ f.eb - 1) * 2 ^ f.m < 2 ^ (f.eb + f.m) := by
  rw [pow_add]
  exact Nat.mul_lt_mul_of_pos_right (Nat.sub_lt (by positivity) one_pos) (by positivity)

theorem encodeF_fin_lt {f : Fmt} (hmem : f ∈ fltFmts) (mode : Rnd) (sat neg : Bool) (num den : Nat) :
    (encodeF f mode sat (.fin neg num den)).1 < 2 ^ (1 + f.eb + f.m) := by
  have hf := fmtOk hmem
  by_cases h : (roundCode f mode neg num den).1 ≤ f.max
  · rw [encodeF_fin_of_le hf sat h]
    exact add_signBit_lt neg (h.trans_lt hf.max_lt)
  · rw [encodeF_fin_of_gt sat h]
    cases sat with
    | true =>
      rw [encodeBig_sat hf]
      exact add_signBit_lt neg hf.max_lt
    | false =>
      rw [encodeBig_overflow hmem]
      refine add_signBit_lt neg ?_
      split
      · exact topCode_lt
      · split
        · next he =>
          rw [he.2]
          decide
        · exact hf.max_lt

theorem encodeF_ofFrac_lt {f : Fmt} (hmem : f ∈ fltFmts) (mode : Rnd) (sat z : Bool) (n : ℤ) (d : Nat) :
    (encodeF f mode sat (ofFrac z n d)).1 < 2 ^ (1 + f.eb + f.m) := by
  by_cases h : n = 0
  · rw [h, ofFrac_zero, encodeF_zero (fmtOk hmem), ← zero_add (signBit f z)]
    exact add_signBit_lt z (by positivity)
  · rw [ofFrac_ne_zero z d h]
    exact encodeF_fin_lt hmem mode sat _ _ _

/-- The code of a fraction is Encode of the rational that it stands for. -/
theorem exactly_ofFrac {f : Fmt} (hf : FmtOk f) (mode : Rnd) (sat z : Bool) {n : ℤ} {d : Nat} (hd : 0 < d) {q : ℚ}
    (hq : (n : ℚ) / d = q) : Exactly f mode sat q z (encodeF f mode sat (ofFrac z n d)).1 := by
  have hdQ : (d : ℚ) ≠ 0 := by exact_mod_cast hd.ne'
  constructor
  · intro h0
    have hn : n = 0 := by
      rw [h0, div_eq_zero_iff] at hq
      exact_mod_cast hq.resolve_right hdQ
    rw [hn, ofFrac_zero, encodeF_zero hf]
    rfl
  · intro h0
    have hn : n ≠ 0 := by
      rintro rfl
      exact h0 (by rw [← hq, Int.cast_zero, zero_div])
    rw [ofFrac_ne_zero z d hn]
    exact ⟨_, _, _, Int.natAbs_pos.2 hn, hd, (valQ_fin_natAbs n d).trans hq, rfl⟩

theorem exactly_fin {f : Fmt} {mode : Rnd} {sat z : Bool} {neg : Bool} {num den : Nat} (hn : 0 < num) (hd : 0 < den) {q : ℚ}
    (hq : valQ (.fin neg num den) = q) : Exactly f mode sat q z (encodeF f mode sat (.fin neg num den)).1 :=
  ⟨fun h0 => absurd (hq.trans h0) (valQ_fin_ne_zero hn hd), fun _ => ⟨neg, num, den, hn, hd, hq, rfl⟩⟩

end Sys2Proof.Machine
end

section
/-! PROOFS. Floating-point arithmetic of elements: sums, differences, products and fused sums of finite operands are exact and encoded
once; NaNs, infinities and flags (R41-R43, R100). -/

open Host Sys2Proof Sys2Proof.Machine Sys2Proof.Claims

namespace Sys2Proof.Machine

/-! ### Operations on values (R41, R43) -/

theorem isFinite_cases {v : Val} (h : IsFinite v) : (∃ n, v = .zero n) ∨ ∃ n a b, v = .fin n a b := by
  cases v with
  | dnan => exact absurd h.1 (by decide)
  | nan => exact absurd h.1 (by simp [valIsNan])
  | inf => exact absurd h.2 (by simp [valIsInf])
  | zero n => exact .inl ⟨n, rfl⟩
  | fin n a b => exact .inr ⟨n, a, b, rfl⟩

theorem zeroSumNeg_eq (mode : Rnd) (a b : Val) :
    zeroSumNeg mode a b = (decide (a = .zero true ∧ b = .zero true) || decide (mode = .rm)) := by
  have hrm : (mode == .rm) = decide (mode = .rm) := rfl
  unfold zeroSumNeg
  split
  · simp
  · next h =>
    have : ¬ (a = .zero true ∧ b = .zero true) := fun hab => h hab.1 hab.2
    simp [this, hrm]

theorem firstNan_none {vs : List Val} (h : ∀ v ∈ vs, valIsNan v = false) : firstNan vs = none := by
  induction vs with
  | nil => rfl
  | cons v vs ih =>
    rw [firstNan, h v (List.mem_cons_self ..), if_neg (by decide)]
    exact ih fun u hu => h u (List.mem_cons_of_mem v hu)

/-- The sum of finite operands: the exact fraction, a zero with the sign of R41. -/
theorem sumVal_finite (mode : Rnd) {a b : Val} (ha : IsFinite a) (hb : IsFinite b) (hoa : ValOk a) (hob : ValOk b) :
    ∃ (n : ℤ) (d : Nat), 0 < d ∧ (n : ℚ) / d = valQ a + valQ b ∧ sumVal mode a b = (ofFrac (zeroSumNeg mode a b) n d, 0) := by
  obtain ⟨hqa, hda⟩ := fracQ_valFrac hoa
  obtain ⟨hqb, hdb⟩ := fracQ_valFrac hob
  obtain ⟨hq, hd⟩ := fracQ_fracAdd hda hdb
  refine ⟨(fracAdd (valFrac a) (valFrac b)).1, _, hd, hq.trans (by rw [hqa, hqb]), ?_⟩
  rcases isFinite_cases ha with ⟨_, rfl⟩ | ⟨_, _, _, rfl⟩ <;> rcases isFinite_cases hb with ⟨_, rfl⟩ | ⟨_, _, _, rfl⟩ <;> rfl

/-- The product of finite operands: the exact fraction, with the product of the signs. -/
theorem mulVal_finite {a b : Val} (ha : IsFinite a) (hb : IsFinite b) (hoa : ValOk a) (hob : ValOk b) :
    ∃ (n : ℤ) (d : Nat), 0 < d ∧ (n : ℚ) / d = valQ a * valQ b ∧ mulVal a b = (ofFrac (valNeg a != valNeg b) n d, 0) := by
  obtain ⟨hqa, hda⟩ := fracQ_valFrac hoa
  obtain ⟨hqb, hdb⟩ := fracQ_valFrac hob
  refine ⟨(valFrac a).1 * (valFrac b).1, (valFrac a).2 * (valFrac b).2, Nat.mul_pos hda hdb, ?_, ?_⟩
  · rw [← hqa, ← hqb, fracQ, fracQ, div_mul_div_comm]
    push_cast
    rfl
  · rcases isFinite_cases ha with ⟨_, rfl⟩ | ⟨_, _, _, rfl⟩ <;> rcases isFinite_cases hb with ⟨_, rfl⟩ | ⟨_, _, _, rfl⟩ <;>
      simp [mulVal, valFrac, ofFrac]

@[simp] theorem valQ_negVal (v : Val) : valQ (negVal v) = -valQ v := by
  cases v with
  | fin neg num den => cases neg <;> simp [negVal, valQ, neg_div]
  | _ => simp [negVal, valQ]

theorem isFinite_negVal {v : Val} (h : IsFinite v) : IsFinite (negVal v) := by cases v <;> exact h
theorem valOk_negVal {v : Val} (h : ValOk v) : ValOk (negVal v) := by cases v <;> exact h

theorem diffVal_finite (mode : Rnd) {a b : Val} (ha : IsFinite a) (hb : IsFinite b) (hoa : ValOk a) (hob : ValOk b) :
    ∃ (n : ℤ) (d : Nat), 0 < d ∧ (n : ℚ) / d = valQ a - valQ b ∧ diffVal mode a b = (ofFrac (decide (mode = .rm)) n d, 0) := by
  obtain ⟨n, d, hd, hq, hsum⟩ := sumVal_finite mode ha (isFinite_negVal hb) hoa (valOk_negVal hob)
  refine ⟨n, d, hd, hq.trans (by rw [valQ_negVal, sub_eq_add_neg]), ?_⟩
  rw [diffVal, hsum]
  by_cases hn : n = 0
  · rw [hn, ofFrac_zero, ofFrac_zero]
    rfl
  · rw [ofFrac_ne_zero _ d hn, ofFrac_ne_zero _ d hn]

theorem ffmaVal_finite (mode : Rnd) {a b c : Val} (ha : IsFinite a) (hb : IsFinite b) (hc : IsFinite c) (hoa : ValOk a)
    (hob : ValOk b) (hoc : ValOk c) :
    ∃ (n : ℤ) (d : Nat), 0 < d ∧ (n : ℚ) / d = valQ a * valQ b + valQ c ∧
      ffmaVal mode a b c = (ofFrac (decide (valQ a * valQ b = 0 ∧ valNeg a ≠ valNeg b ∧ c = .zero true) || decide (mode = .rm)) n d, 0) := by
  obtain ⟨n1, d1, hd1, hq1, hprod⟩ := mulVal_finite ha hb hoa hob
  have hpfin : IsFinite (ofFrac (valNeg a != valNeg b) n1 d1) := by
    by_cases h : n1 = 0
    · rw [h]
      exact ⟨rfl, rfl⟩
    · rw [ofFrac_ne_zero _ _ h]
      exact ⟨rfl, rfl⟩
  obtain ⟨n, d, hd, hq, hsum⟩ := sumVal_finite mode hpfin hc (valOk_ofFrac _ n1 hd1) hoc
  have hzero : ofFrac (valNeg a != valNeg b) n1 d1 = .zero true ↔ valQ a * valQ b = 0 ∧ valNeg a ≠ valNeg b := by
    have hd1Q : (d1 : ℚ) ≠ 0 := by exact_mod_cast hd1.ne'
    rw [← hq1, div_eq_zero_iff, or_iff_left hd1Q, Int.cast_eq_zero]
    by_cases h : n1 = 0
    · simp [h, ofFrac_zero]
    · simp [h, ofFrac_ne_zero]
  refine ⟨n, d, hd, hq.trans (by rw [valQ_ofFrac, hq1]), ?_⟩
  have hnone : firstNan [a, b, c] = none := firstNan_none (by simp [ha.1, hb.1, hc.1])
  rw [ffmaVal, hnone]
  simp only [hprod, hpfin.1, Bool.false_eq_true, if_false, hsum, zeroSumNeg_eq, hzero, and_assoc]

/-! ### NaNs (R43) -/

theorem nan_of_snan {v : Val} (h : valIsSnan v = true) : valIsNan v = true := by
  cases v <;> simp [valIsSnan, valIsNan] at h ⊢

theorem snanFlag_of_mem {vs : List Val} {v : Val} (hv : v ∈ vs) (h : valIsSnan v = true) : snanFlag vs = flNV := by
  have : vs.any valIsSnan = true := List.any_eq_true.2 ⟨v, hv, h⟩
  simp [snanFlag, this, flagIf]

theorem faddVal_finite (mode : Rnd) {a b : Val} (ha : IsFinite a) (hb : IsFinite b) : faddVal mode a b = sumVal mode a b := by
  rw [faddVal, firstNan_none (by simp [ha.1, hb.1])]
theorem fsubVal_finite (mode : Rnd) {a b : Val} (ha : IsFinite a) (hb : IsFinite b) : fsubVal mode a b = diffVal mode a b := by
  rw [fsubVal, firstNan_none (by simp [ha.1, hb.1])]
theorem fmulVal_finite {a b : Val} (ha : IsFinite a) (hb : IsFinite b) : fmulVal a b = mulVal a b := by
  rw [fmulVal, firstNan_none (by simp [ha.1, hb.1])]

theorem firstNan_left {a : Val} (vs : List Val) (ha : valIsNan a = true) : firstNan (a :: vs) = some a := if_pos ha
theorem firstNan_right {a b : Val} (vs : List Val) (ha : valIsNan a = false) (hb : valIsNan b = true) :
    firstNan (a :: b :: vs) = some b := by
  rw [firstNan, ha, if_neg (by decide), firstNan, if_pos hb]

/-- With a NaN among two operands the result is the first of them. -/
theorem nanResult {a b v : Val} (mode : Rnd) (h : firstNan [a, b] = some v) :
    faddVal mode a b = (v, snanFlag [a, b]) ∧ fsubVal mode a b = (v, snanFlag [a, b]) ∧ fmulVal a b = (v, snanFlag [a, b]) := by
  rw [faddVal, fsubVal, fmulVal, h]
  exact ⟨rfl, rfl, rfl⟩

theorem ffmaVal_nan {a b c v : Val} (mode : Rnd) (h : firstNan [a, b, c] = some v) :
    ffmaVal mode a b c = (v, snanFlag [a, b, c] ||| if valIsNan a || valIsNan b then 0 else (mulVal a b).2) := by
  rw [ffmaVal, h]

/-! ### Elements of a floating-point type (R91, R100) -/

section Element
variable {t : Ty} (ht : tyIsFloat t = true) (cb : List Nat)
include ht

theorem elemV_float (x : Word) (k : Nat) : elemV cb t x k = decodeF (tyFmt t) (elemN t x k) := if_neg (not_c4_of_float ht)

theorem encodeTy_float (mode : Rnd) (sat : Bool) (v : Val) : encodeTy cb t mode sat v = encodeF (tyFmt t) mode sat v :=
  if_neg (not_c4_of_float ht)

theorem elemN_lt_code (x : Word) (k : Nat) : elemN t x k < 2 ^ (1 + (tyFmt t).eb + (tyFmt t).m) := by
  rw [← tyWidth_of_float ht]
  exact elemN_lt t x k

/-- An element of the encoded results. -/
theorem elemN_encodeRes (mode : Rnd) (sat : Bool) (op : Nat → Val × Flags) {k c : Nat} (hk : k < tyCount t) {r : Val × Flags}
    (hr : op k = r) (h : (encodeF (tyFmt t) mode sat r.1).1 = c) (hc : c < 2 ^ (1 + (tyFmt t).eb + (tyFmt t).m)) :
    elemN t (eachElem t (fun k => encodeRes cb t mode sat (op k))).1 k = c := by
  rw [elemN_eachElem t _ hk, encodeRes, encodeTy_float ht, hr, h, tyWidth_of_float ht, Nat.mod_eq_of_lt hc]

theorem elemN_encodeRes_frac (mode : Rnd) (sat : Bool) (op : Nat → Val × Flags) {k : Nat} (hk : k < tyCount t) {z : Bool} {n : ℤ} {d : Nat}
    {q : ℚ} (hd : 0 < d) (hq : (n : ℚ) / d = q) (h : op k = (ofFrac z n d, 0)) :
    Exactly (tyFmt t) mode sat q z (elemN t (eachElem t (fun k => encodeRes cb t mode sat (op k))).1 k) := by
  rw [elemN_encodeRes ht cb mode sat op hk h rfl (encodeF_ofFrac_lt (tyFmt_mem ht) mode sat z n d)]
  exact exactly_ofFrac (fmtOk (tyFmt_mem ht)) mode sat z hd hq

/-- A NaN operand that is the result comes back as its own code. -/
theorem elemN_encodeRes_nan (mode : Rnd) (sat : Bool) (op : Nat → Val × Flags) {k : Nat} (hk : k < tyCount t) {x : Word}
    (hx : valIsNan (decodeF (tyFmt t) (elemN t x k)) = true)  {fl : Flags} (h : op k = (decodeF (tyFmt t) (elemN t x k), fl)) :
    elemN t (eachElem t (fun k => encodeRes cb t mode sat (op k))).1 k = elemN t x k := by
  refine elemN_encodeRes ht cb mode sat op hk h ?_ (elemN_lt_code ht x k)
  rw [encodeF_decodeF_nan (fmtOk (tyFmt_mem ht)) mode sat (elemN_lt_code ht x k) hx]

omit ht in
theorem flag_encodeRes (mode : Rnd) (sat : Bool) (op : Nat → Val × Flags) {k i : Nat} (hk : k < tyCount t)
    {r : Val × Flags} (hr : op k = r) (h : r.2.getLsbD i = true) : (eachElem t (fun k => encodeRes cb t mode sat (op k))).2.getLsbD i = true := by
  refine flag_of_elem hk ?_
  simp [encodeRes, hr, h]

theorem defaultNan_lt : defaultNan (tyFmt t) < 2 ^ (1 + (tyFmt t).eb + (tyFmt t).m) := by
  have : ∀ f ∈ fltFmts, defaultNan f < 2 ^ (1 + f.eb + f.m) := by decide
  exact this _ (tyFmt_mem ht)

theorem elemN_encodeRes_dnan (mode : Rnd) (sat : Bool) (op : Nat → Val × Flags) {k : Nat} (hk : k < tyCount t)
    (h : op k = (.dnan, flNV)) :
    elemN t (eachElem t (fun k => encodeRes cb t mode sat (op k))).1 k = defaultNan (tyFmt t) ∧
      (eachElem t (fun k => encodeRes cb t mode sat (op k))).2.getLsbD 0 = true :=
  ⟨elemN_encodeRes ht cb mode sat op hk h rfl (defaultNan_lt ht),
    flag_encodeRes cb mode sat op hk h rfl⟩

end Element

/-- What fsub makes of an infinity less a finite value. -/
theorem infinite_sums (mode : Rnd) (n : Bool) {y : Val} (hy : IsFinite y) :
    faddVal mode (.inf n) y = (.inf n, 0) ∧ fsubVal mode (.inf n) y = (.inf n, 0) := by
  rcases isFinite_cases hy with ⟨_, rfl⟩ | ⟨_, _, _, rfl⟩ <;> exact ⟨rfl, rfl⟩

theorem floatElements : FloatElements := by
  intro cb t rnd sat a b c k ht hk f m x y z rm sum dif prod fma
  have hx : elemV cb t a k = x := elemV_float ht cb a k
  have hy : elemV cb t b k = y := elemV_float ht cb b k
  have hz : elemV cb t c k = z := elemV_float ht cb c k
  have hf : FmtOk f := fmtOk (tyFmt_mem ht)
  have hox : ValOk x := valOk_decodeF hf _
  have hoy : ValOk y := valOk_decodeF hf _
  have hoz : ValOk z := valOk_decodeF hf _
  have hsum : faddVal m (elemV cb t a k) (elemV cb t b k) = faddVal m x y := by rw [hx, hy]
  have hdif : fsubVal m (elemV cb t a k) (elemV cb t b k) = fsubVal m x y := by rw [hx, hy]
  have hprod : fmulVal (elemV cb t a k) (elemV cb t b k) = fmulVal x y := by rw [hx, hy]
  have hfma : ffmaVal m (elemV cb t a k) (elemV cb t b k) (elemV cb t c k) = ffmaVal m x y z := by rw [hx, hy, hz]
  refine ⟨fun hfx hfy => ⟨?sum, ?dif, ?prod, fun hfz => ?fma⟩, fun hnx => ?nanA, fun hnx hny => ?nanB, fun hnx hny hnz => ?nanC,
    fun hs => ?snan, fun n hn => ⟨fun hopp => ?opposite, fun hsame => ?same, fun w hzero => ?zero, fun hfy hsat => ?finite⟩⟩
  case sum =>
    obtain ⟨n, d, hd, hq, hv⟩ := sumVal_finite m hfx hfy hox hoy
    rw [zeroSumNeg_eq, ← faddVal_finite m hfx hfy] at hv
    exact elemN_encodeRes_frac ht cb m sat _ hk hd hq (hsum.trans hv)
  case dif =>
    obtain ⟨n, d, hd, hq, hv⟩ := diffVal_finite m hfx hfy hox hoy
    rw [← fsubVal_finite m hfx hfy] at hv
    exact elemN_encodeRes_frac ht cb m sat _ hk hd hq (hdif.trans hv)
  case prod =>
    obtain ⟨n, d, hd, hq, hv⟩ := mulVal_finite hfx hfy hox hoy
    rw [← fmulVal_finite hfx hfy] at hv
    exact elemN_encodeRes_frac ht cb m sat _ hk hd hq (hprod.trans hv)
  case fma =>
    obtain ⟨n, d, hd, hq, hv⟩ := ffmaVal_finite m hfx hfy hfz hox hoy hoz
    exact elemN_encodeRes_frac ht cb m sat _ hk hd hq (hfma.trans hv)
  case nanA =>
    obtain ⟨hs, hd, hp⟩ := nanResult m (firstNan_left [y] hnx)
    have hm := ffmaVal_nan m (firstNan_left [y, z] hnx)
    exact ⟨elemN_encodeRes_nan ht cb m sat _ hk hnx (hsum.trans hs),
      elemN_encodeRes_nan ht cb m sat _ hk hnx (hdif.trans hd),
      elemN_encodeRes_nan ht cb m sat _ hk hnx (hprod.trans hp),
      elemN_encodeRes_nan ht cb m sat _ hk hnx (hfma.trans hm)⟩
  case nanB =>
    obtain ⟨hs, hd, hp⟩ := nanResult m (firstNan_right [] hnx hny)
    have hm := ffmaVal_nan m (firstNan_right [z] hnx hny)
    exact ⟨elemN_encodeRes_nan ht cb m sat _ hk hny (hsum.trans hs),
      elemN_encodeRes_nan ht cb m sat _ hk hny (hdif.trans hd),
      elemN_encodeRes_nan ht cb m sat _ hk hny (hprod.trans hp),
      elemN_encodeRes_nan ht cb m sat _ hk hny (hfma.trans hm)⟩
  case nanC =>
    have hfirst : firstNan [x, y, z] = some z := by
      rw [firstNan, hnx, if_neg (by decide), firstNan_right [] hny hnz]
    exact elemN_encodeRes_nan ht cb m sat _ hk hnz (hfma.trans (ffmaVal_nan m hfirst))
  case snan =>
    obtain ⟨v, w, h2, h3, hNV2, hNV3⟩ : ∃ v w, firstNan [x, y] = some v ∧ firstNan [x, y, z] = some w ∧
        snanFlag [x, y] = flNV ∧ snanFlag [x, y, z] = flNV := by
      by_cases hnx : valIsNan x = true
      · refine ⟨x, x, firstNan_left _ hnx, firstNan_left _ hnx, ?_⟩
        rcases hs with hs | hs <;> exact ⟨snanFlag_of_mem (by simp) hs, snanFlag_of_mem (by simp) hs⟩
      · have hsy := hs.resolve_left (mt nan_of_snan hnx)
        have hnx' := eq_false_of_ne_true hnx
        exact ⟨y, y, firstNan_right _ hnx' (nan_of_snan hsy), firstNan_right _ hnx' (nan_of_snan hsy),
          snanFlag_of_mem (by simp) hsy, snanFlag_of_mem (by simp) hsy⟩
    obtain ⟨hs2, hd2, hp2⟩ := nanResult m h2
    have hm3 := ffmaVal_nan m h3
    rw [hNV2] at hs2 hd2 hp2
    rw [hNV3] at hm3
    exact ⟨flag_encodeRes cb m sat _ hk (hsum.trans hs2) (by simp), flag_encodeRes cb m sat _ hk (hdif.trans hd2) (by simp),
      flag_encodeRes cb m sat _ hk (hprod.trans hp2) (by simp), flag_encodeRes cb m sat _ hk (hfma.trans hm3) (by simp)⟩
  case opposite =>
    have hv : faddVal m x y = (.dnan, flNV) := by
      rw [hn, hopp]
      cases n <;> rfl
    exact elemN_encodeRes_dnan ht cb m sat _ hk (hsum.trans hv)
  case same =>
    have hv : fsubVal m x y = (.dnan, flNV) := by
      rw [hn, hsame]
      cases n <;> rfl
    exact elemN_encodeRes_dnan ht cb m sat _ hk (hdif.trans hv)
  case zero =>
    have hv : fmulVal x y = (.dnan, flNV) := by
      rw [hn, hzero]
      rfl
    have hm : (ffmaVal m x y z).2.getLsbD 0 = true := by
      rw [hn, hzero]
      by_cases hnz : valIsNan z = true
      · have hfirst : firstNan [.inf n, .zero w, z] = some z := firstNan_right [] rfl hnz
        rw [ffmaVal_nan m hfirst]
        simp [valIsNan, mulVal]
      · have hfirst : firstNan [.inf n, .zero w, z] = none := firstNan_none (by simp [valIsNan] at hnz ⊢; exact hnz)
        rw [ffmaVal, hfirst]
        simp [mulVal, valIsNan]
    obtain ⟨hcode, hflag⟩ := elemN_encodeRes_dnan ht cb m sat (fun k => fmulVal (elemV cb t a k) (elemV cb t b k)) hk
      (hprod.trans hv)
    exact ⟨hcode, hflag, flag_encodeRes cb m sat _ hk hfma hm⟩
  case finite =>
    have hcode : (encodeF f m sat (.inf n)).1 = elemN t a k := by
      rw [← hn, hsat, encodeF_decodeF hf m (elemN_lt_code ht a k)]
    obtain ⟨hs, hd⟩ := infinite_sums m n hfy
    rw [hn] at hsum hdif
    exact ⟨elemN_encodeRes ht cb m sat _ hk (hsum.trans hs) hcode (elemN_lt_code ht a k),
      elemN_encodeRes ht cb m sat _ hk (hdif.trans hd) hcode (elemN_lt_code ht a k)⟩

end Sys2Proof.Machine
end

section
/-! PROOFS. The order of codes and of what they stand for (R43, R61, R100), and rounding of elements to integers (R101). -/

open Host Sys2Proof Sys2Proof.Machine Sys2Proof.Claims

namespace Sys2Proof.Machine

/-! ### Signed magnitudes -/

/-- The rational of a signed magnitude. -/
def oddQ (f : Fmt) (i : ℤ) : ℚ := if 0 ≤ i then magQ f i.toNat else -magQ f (-i).toNat

theorem oddQ_strictMono (f : Fmt) : StrictMono (oddQ f) := by
  intro i j hij
  have hmono := magQ_strictMono f
  unfold oddQ
  by_cases hi : 0 ≤ i
  · rw [if_pos hi, if_pos (by omega)]
    exact hmono (by omega)
  · rw [if_neg hi]
    have hneg : -magQ f (-i).toNat < 0 := neg_lt_zero.2 (magQ_pos (by omega))
    split
    · exact hneg.trans_le (magQ_nonneg f _)
    · exact neg_lt_neg (hmono (by omega))

theorem numOrder_eq (f : Fmt) (c : Nat) : numOrder f c = if codeNeg f c = true then -(codeMag f c : ℤ) else codeMag f c := by
  simp only [numOrder, codeNeg, codeMag, decide_eq_true_eq]
  push_cast
  rfl
theorem codeOrder_eq (f : Fmt) (c : Nat) : codeOrder f c = if codeNeg f c = true then -(codeMag f c : ℤ) - 1 else codeMag f c := by
  simp only [codeOrder, codeNeg, codeMag, decide_eq_true_eq]
  push_cast
  rfl

theorem oddQ_numOrder (f : Fmt) (c : Nat) : oddQ f (numOrder f c) = signQ (codeNeg f c) * magQ f (codeMag f c) := by
  rw [numOrder_eq, oddQ]
  cases codeNeg f c with
  | false => simp
  | true =>
    by_cases h : codeMag f c = 0
    · simp [h, magQ_zero]
    · rw [if_pos rfl, if_neg (by omega)]
      simp

/-! ### Order of values (R100) -/

theorem valLt_finite {a b : Val} (ha : IsFinite a) (hb : IsFinite b) (hoa : ValOk a) (hob : ValOk b) :
    valLt a b = true ↔ valQ a < valQ b := by
  obtain ⟨hqa, hda⟩ := fracQ_valFrac hoa
  obtain ⟨hqb, hdb⟩ := fracQ_valFrac hob
  have hdef : valLt a b = fracLt (valFrac a) (valFrac b) := by
    rcases isFinite_cases ha with ⟨_, rfl⟩ | ⟨_, _, _, rfl⟩ <;> rcases isFinite_cases hb with ⟨_, rfl⟩ | ⟨_, _, _, rfl⟩ <;> rfl
  rw [hdef, fracLt_iff hda hdb, hqa, hqb]

theorem valLt_neg_inf {b : Val} (hb : b ≠ .inf true) : valLt (.inf true) b = true := by
  cases b with
  | inf n => cases n with
    | true => exact absurd rfl hb
    | false => rfl
  | _ => rfl
theorem valLt_pos_inf (b : Val) : valLt (.inf false) b = false := by
  cases b with
  | inf n => cases n <;> rfl
  | _ => rfl
theorem finite_valLt_inf {a : Val} (ha : IsFinite a) (n : Bool) : valLt a (.inf n) = !n := by
  rcases isFinite_cases ha with ⟨_, rfl⟩ | ⟨_, _, _, rfl⟩ <;> cases n <;> rfl

section Codes
variable {f : Fmt} (hf : FmtOk f) {a b : Nat} (ha : valIsNan (decodeF f a) = false) (hb : valIsNan (decodeF f b) = false)
include hf ha hb

/-- Codes of numbers and infinities have the order of what they stand for, -0 equal to +0. -/
theorem valLt_iff_numOrder : valLt (decodeF f a) (decodeF f b) = true ↔ numOrder f a < numOrder f b := by
  have hca := decoded hf a
  have hcb := decoded hf b
  have hna := numOrder_eq f a
  have hnb := numOrder_eq f b
  have hoa := oddQ_numOrder f a
  have hob := oddQ_numOrder f b
  generalize decodeF f a = x at *
  generalize decodeF f b = y at *
  cases hca with
  | nan => simp [valIsNan] at ha
  | number h =>
    have hfin := isFinite_numberOf f (codeNeg f a) (codeMag f a)
    cases hcb with
    | nan => simp [valIsNan] at hb
    | number h' =>
      rw [valLt_finite hfin (isFinite_numberOf f _ _) (valOk_numberOf f _ _) (valOk_numberOf f _ _), valQ_numberOf, valQ_numberOf,
        ← hoa, ← hob, (oddQ_strictMono f).lt_iff_lt]
    | inf hbig =>
      rw [finite_valLt_inf hfin]
      cases hn : codeNeg f b <;> simp only [hn, if_true, Bool.false_eq_true, if_false] at hnb <;> split at hna <;> simp <;> omega
  | inf hbig hk hmag =>
    cases hcb with
    | nan => simp [valIsNan] at hb
    | number h' =>
      cases hn : codeNeg f a with
      | false =>
        simp only [hn, Bool.false_eq_true, if_false] at hna
        rw [valLt_pos_inf]
        split at hnb <;> simp <;> omega
      | true =>
        simp only [hn, if_true] at hna
        rw [valLt_neg_inf (by unfold numberOf; split <;> simp)]
        split at hnb <;> simp <;> omega
    | inf hbig' hk' hmag' =>
      rw [hmag] at hna
      rw [hmag'] at hnb
      rw [hna, hnb]
      have hpos : 0 < (2 ^ f.eb - 1) * 2 ^ f.m := by
        rw [hmag] at hbig
        omega
      generalize (2 ^ f.eb - 1) * 2 ^ f.m = top at hpos
      cases codeNeg f a <;> cases codeNeg f b <;> simp [valLt]
      omega

theorem valEq_eq_numOrder : valEq (decodeF f a) (decodeF f b) = decide (numOrder f a = numOrder f b) := by
  have h1 := valLt_iff_numOrder hf ha hb
  have h2 := valLt_iff_numOrder hf hb ha
  rw [Bool.eq_iff_iff, valEq, Bool.and_eq_true, Bool.not_eq_true', Bool.not_eq_true', decide_eq_true_eq, ← Bool.not_eq_true,
    ← Bool.not_eq_true, h1, h2]
  omega

omit ha hb in
/-- A zero is a code of magnitude 0. -/
theorem decodeF_eq_zero_iff (n : Bool) : decodeF f a = .zero n ↔ codeMag f a = 0 ∧ codeNeg f a = n := by
  have hca := decoded hf a
  generalize decodeF f a = x at *
  cases hca with
  | number h =>
    unfold numberOf
    split <;> simp [*]
  | inf hbig =>
    simp only [reduceCtorEq, false_iff]
    omega
  | nan hbig =>
    simp only [reduceCtorEq, false_iff]
    omega

theorem valBelow_iff_codeOrder : valBelow (decodeF f a) (decodeF f b) = true ↔ codeOrder f a < codeOrder f b := by
  have hlt := valLt_iff_numOrder hf ha hb
  have hza := decodeF_eq_zero_iff (a := a) hf
  have hzb := decodeF_eq_zero_iff (a := b) hf
  rw [numOrder_eq, numOrder_eq] at hlt
  rw [codeOrder_eq, codeOrder_eq]
  unfold valBelow
  split
  · next hx hy =>
    obtain ⟨hma, hna⟩ := (hza true).1 hx
    obtain ⟨hmb, hnb⟩ := (hzb false).1 hy
    simp [hma, hna, hmb, hnb]
  · next hx hy =>
    obtain ⟨hma, hna⟩ := (hza false).1 hx
    obtain ⟨hmb, hnb⟩ := (hzb true).1 hy
    simp [hma, hna, hmb, hnb]
  · next h1 h2 =>
    have h1' : ¬ ((codeMag f a = 0 ∧ codeNeg f a = true) ∧ codeMag f b = 0 ∧ codeNeg f b = false) := by
      rintro ⟨hx, hy⟩
      exact h1 ((hza true).2 hx) ((hzb false).2 hy)
    rw [hlt]
    cases hna : codeNeg f a <;> cases hnb : codeNeg f b <;>
      simp only [hna, hnb, if_true, Bool.false_eq_true, if_false, and_true] at h1' ⊢ <;> omega

end Codes

/-! ### fmin, fmax and fcmp (R43, R61, R100) -/

section Element
variable {t : Ty} (ht : tyIsFloat t = true) (cb : List Nat)
include ht

theorem elemN_fminOp (mx : Bool) (a b : Word) {k : Nat} (hk : k < tyCount t) :
    elemN t (fminOp cb t mx a b).1 k =
      if minPicksA mx (decodeF (tyFmt t) (elemN t a k)) (decodeF (tyFmt t) (elemN t b k)) = true then elemN t a k else elemN t b k := by
  have hx : decodeTy cb t (elemN t a k) = decodeF (tyFmt t) (elemN t a k) := elemV_float ht cb a k
  have hy : decodeTy cb t (elemN t b k) = decodeF (tyFmt t) (elemN t b k) := elemV_float ht cb b k
  rw [fminOp, elemN_eachElem t _ hk, fminCode, if_neg (not_c4_of_float ht), hx, hy]
  dsimp only
  split <;> exact Nat.mod_eq_of_lt (elemN_lt t _ k)

end Element

theorem condF_eq (code : Nat) (x y : Val) : (condF code x y).2 = if valIsSnan x = true ∨ valIsSnan y = true then flNV else 0 := by
  have hflag : (condF code x y).2 = snanFlag [x, y] := by
    unfold condF
    dsimp only
    split <;> rfl
  rw [hflag, snanFlag, flagIf]
  simp

theorem minPicksA_number {x y : Val} (hx : valIsNan x = false) (hy : valIsNan y = false) (mx : Bool) :
    minPicksA mx x y = if mx then !valBelow x y else !valBelow y x := by
  rw [minPicksA, hx, hy]
  rfl

theorem floatOrder : FloatOrder := by
  intro cb t a b k ht hk f x y lo hi holds u v
  have hf : FmtOk f := fmtOk (tyFmt_mem ht)
  have hx : elemV cb t a k = x := elemV_float ht cb a k
  have hy : elemV cb t b k = y := elemV_float ht cb b k
  have hlo : lo = _ := elemN_fminOp ht cb false a b hk
  have hhi : hi = _ := elemN_fminOp ht cb true a b hk
  simp only [holds, hx, hy]
  rw [hlo, hhi]
  refine ⟨fun hnx hny => ?numbers, fun hny => ?nanB, fun hnx hny => ?nanA, fun hnan code hcode => ?conditions,
    fun code => condF_eq code x y⟩
  case numbers =>
    have hba : valBelow x y = decide (codeOrder f (elemN t a k) < codeOrder f (elemN t b k)) := by
      rw [Bool.eq_iff_iff, decide_eq_true_eq]
      exact valBelow_iff_codeOrder hf hnx hny
    have hab : valBelow y x = decide (codeOrder f (elemN t b k) < codeOrder f (elemN t a k)) := by
      rw [Bool.eq_iff_iff, decide_eq_true_eq]
      exact valBelow_iff_codeOrder hf hny hnx
    have hlt : valLt x y = decide (u < v) := by
      rw [Bool.eq_iff_iff, decide_eq_true_eq]
      exact valLt_iff_numOrder hf hnx hny
    have hgt : valLt y x = decide (v < u) := by
      rw [Bool.eq_iff_iff, decide_eq_true_eq]
      exact valLt_iff_numOrder hf hny hnx
    have heq : valEq x y = decide (u = v) := valEq_eq_numOrder hf hnx hny
    have hcond (code : Nat) : condF code x y = ((match code with
        | 0 => valEq x y
        | 1 => !valEq x y
        | 2 => valLt x y
        | 3 => !valLt y x
        | 4 => valLt y x
        | 5 => !valLt x y
        | 6 => false
        | _ => true), snanFlag [x, y]) := by
      unfold condF
      simp only [hnx, hny]
      rfl
    rw [minPicksA_number hnx hny, minPicksA_number hnx hny, hba, hab, hcond, hcond, hcond, hcond, hcond, hcond, hcond, hcond]
    simp only [heq, hlt, hgt, Bool.false_eq_true, if_false, if_true, Bool.not_eq_true', decide_eq_false_iff_not, not_lt]
    refine ⟨?_, ?_, ?_, ?_, trivial, ?_, trivial, ?_, trivial, ?_, trivial, trivial⟩
    · exact (em _).imp (fun h => if_pos h) (fun h => if_neg h)
    · exact (em _).imp (fun h => if_pos h) (fun h => if_neg h)
    · split
      · next h => exact (min_eq_left h).symm
      · next h => exact (min_eq_right (le_of_not_ge h)).symm
    · split
      · next h => exact (max_eq_left h).symm
      · next h => exact (max_eq_right (le_of_not_ge h)).symm
    all_goals simp only [ne_eq, decide_not, ← not_lt]
  case nanB =>
    have hpick (mx : Bool) : minPicksA mx x y = true := by
      unfold minPicksA
      rw [if_pos hny]
      exact ite_eq_right_iff.2 fun _ => hny
    exact ⟨if_pos (hpick false), if_pos (hpick true)⟩
  case nanA =>
    have hpick (mx : Bool) : ¬ minPicksA mx x y = true := by rw [minPicksA, if_pos hnx, hny, Bool.false_eq_true]; exact id
    exact ⟨if_neg (hpick false), if_neg (hpick true)⟩
  case conditions =>
    have hcond : condF code x y = (code == 1 || code == 6, snanFlag [x, y]) := if_pos (by simpa using hnan)
    rw [hcond, Bool.decide_or]
    rfl

/-! ### frnd (R101) -/

/-- An integer as a value that keeps the sign of a zero. -/
def signedInt (neg : Bool) (k : Nat) : Val := if k = 0 then .zero neg else .fin neg k 1

theorem exactly_signedInt {f : Fmt} (hf : FmtOk f) (mode : Rnd) (sat neg : Bool) (k : Nat) {q : ℚ} (hq : signQ neg * k = q) :
    Exactly f mode sat q neg (encodeF f mode sat (signedInt neg k)).1 := by
  subst hq
  unfold signedInt
  split
  · next h =>
    rw [h, encodeF_zero hf, Nat.cast_zero, mul_zero]
    exact ⟨fun _ => rfl, fun h0 => absurd rfl h0⟩
  · next h => exact exactly_fin (Nat.pos_of_ne_zero h) one_pos (by rw [valQ_fin, Nat.cast_one, div_one])

theorem encodeF_signedInt_lt {f : Fmt} (hmem : f ∈ fltFmts) (mode : Rnd) (sat neg : Bool) (k : Nat) :
    (encodeF f mode sat (signedInt neg k)).1 < 2 ^ (1 + f.eb + f.m) := by
  unfold signedInt
  split
  · rw [encodeF_zero (fmtOk hmem), ← Nat.zero_add (signBit f neg)]
    exact add_signBit_lt neg (by positivity)
  · exact encodeF_fin_lt hmem mode sat neg k 1

theorem frndVal_fin (mode : Rnd) (neg : Bool) (num den : Nat) :
    frndVal mode (.fin neg num den) = (signedInt neg (roundMag mode neg num den), 0) := rfl

theorem frndVal_of_not_fin (mode : Rnd) {v : Val} (h : ∀ neg num den, v ≠ .fin neg num den) : ∃ fl, frndVal mode v = (v, fl) := by
  cases v with
  | fin neg num den => exact absurd rfl (h neg num den)
  | _ => exact ⟨_, rfl⟩

theorem roundToInteger : RoundToInteger := by
  intro cb t rnd a k ht hk f m x
  have hmem : f ∈ fltFmts := tyFmt_mem ht
  have hf : FmtOk f := fmtOk hmem
  have hx : elemV cb t a k = x := elemV_float ht cb a k
  constructor
  · intro neg num den hfin
    have hok : ValOk x := valOk_decodeF hf _
    rw [hfin] at hx hok ⊢
    have hround : frndVal m (elemV cb t a k) = (signedInt neg (roundMag m neg num den), 0) := by rw [hx, frndVal_fin]
    have hcode : elemN t (frndOp cb t rnd a).1 k = _ := elemN_encodeRes ht cb m false (fun k => frndVal m (elemV cb t a k)) hk hround rfl
      (encodeF_signedInt_lt hmem m false neg _)
    rw [hcode]
    refine exactly_signedInt hf m false neg _ ?_
    rw [valQ_fin, roundQ_signed_mag m neg num hok.2, Int.cast_mul, Int.cast_natCast]
    cases neg <;> norm_num
  · intro hfin
    obtain ⟨fl, hround⟩ := frndVal_of_not_fin m hfin
    refine elemN_encodeRes ht cb m false (fun k => frndVal m (elemV cb t a k)) hk (r := (x, fl)) (by rw [hx, hround]) ?_ (elemN_lt_code ht a k)
    rw [encodeF_decodeF hf m (elemN_lt_code ht a k)]

end Sys2Proof.Machine
end

section
/-! PROOFS. Conversions of one element (R40, R44, R102), and codes that come back from f32 (R45). -/

open Host Sys2Proof Sys2Proof.Machine Sys2Proof.Claims

namespace Sys2Proof.Machine

/-! ### To integers (R38, R44) -/

theorem narrowInt_flags (signed : Bool) (w : Nat) (i : ℤ) :
    (narrowInt true signed w i).2 = if i < intMin signed w ∨ intMax signed w < i then flSAT else 0 := satInt_flags signed w i

/-- The integer of a finite value, clamped to its type. -/
theorem floatToInt_fin (signed : Bool) {w : Nat} (hw : 0 < w) (mode : Rnd) (neg : Bool) (num : Nat) {den : Nat} (hd : 0 < den) :
    let n := roundQ (if mode = .dflt then .rz else mode) (valQ (.fin neg num den))
    floatToInt signed w mode (.fin neg num den) = (wrapInt w (max (intMin signed w) (min (intMax signed w) n)),
      if n < intMin signed w ∨ intMax signed w < n then flNV else if (n : ℚ) = valQ (.fin neg num den) then 0 else flNX) := by
  have hle : intMin signed w ≤ intMax signed w := (intVal_range signed hw 0).1.trans (intVal_range signed hw 0).2
  have hdQ : (den : ℚ) ≠ 0 := by exact_mod_cast hd.ne'
  simp only [floatToInt]
  generalize (if mode = .dflt then Rnd.rz else mode) = m
  have hsigned : (if neg then -(roundMag m neg num den : ℤ) else roundMag m neg num den) = roundQ m (valQ (.fin neg num den)) := by
    rw [valQ_fin, roundQ_signed_mag m neg num hd]
    cases neg <;> simp
  have hexact : ((roundQ m (valQ (.fin neg num den)) : ℤ) : ℚ) = valQ (.fin neg num den) ↔ roundMag m neg num den * den = num := by
    have hcast : ((if neg then -1 else 1 : ℤ) : ℚ) = signQ neg := by cases neg <;> norm_num
    rw [valQ_fin, roundQ_signed_mag m neg num hd, Int.cast_mul, hcast, Int.cast_natCast, mul_right_inj' (signQ_ne_zero neg), eq_div_iff hdQ]
    norm_cast
  rw [hsigned]
  generalize roundQ m (valQ (.fin neg num den)) = n at hexact
  by_cases hlow : n < intMin signed w
  · rw [if_pos hlow, if_pos (.inl hlow), max_eq_left (by omega)]
  by_cases hhigh : intMax signed w < n
  · rw [if_neg hlow, if_pos hhigh, if_pos (.inr hhigh), min_eq_left hhigh.le, max_eq_right hle]
  rw [if_neg hlow, if_neg hhigh, if_neg (by omega), min_eq_right (by omega), max_eq_right (by omega)]
  simp only [hexact, flagIf, decide_eq_true_eq, ite_not]

theorem floatToInt_zero (signed : Bool) (w : Nat) (mode : Rnd) (neg : Bool) : floatToInt signed w mode (.zero neg) = (0, 0) := rfl

theorem floatToInt_nan (signed : Bool) (w : Nat) (mode : Rnd) {v : Val} (h : valIsNan v = true) : floatToInt signed w mode v = (0, flNV) := by
  cases v with
  | dnan => rfl
  | nan => rfl
  | _ => simp [valIsNan] at h

theorem floatToInt_inf (signed : Bool) (w : Nat) (mode : Rnd) (neg : Bool) :
    floatToInt signed w mode (.inf neg) = (wrapInt w (if neg then intMin signed w else intMax signed w), flNV) := rfl

/-! ### NaNs of another format (R39) -/

/-- A code past the infinity is a NaN of its sign. -/
theorem decodeF_past_inf {f : Fmt} (hf : FmtOk f) {mag : Nat} (neg : Bool) (hlt : mag < 2 ^ (f.eb + f.m)) (hmax : f.max < mag)
    (hinf : f.nan = .ieee → mag ≠ (2 ^ f.eb - 1) * 2 ^ f.m) :
    valIsNan (decodeF f (mag + signBit f neg)) = true ∧ valNeg (decodeF f (mag + signBit f neg)) = neg := by
  have hm : codeMag f (mag + signBit f neg) = mag := codeMag_add neg hlt
  have hn : codeNeg f (mag + signBit f neg) = neg := codeNeg_add neg hlt
  have hcase := decoded hf (mag + signBit f neg)
  generalize decodeF f (mag + signBit f neg) = v at *
  cases hcase with
  | number h => omega
  | inf hbig hk h => exact absurd (hm.symm.trans h) (hinf hk)
  | nan => exact ⟨rfl, hn⟩

/-- The mantissa field of a NaN never becomes 0. -/
def nanMant (f : Fmt) (mant ms : Nat) : Nat :=
  if ms ≤ f.m then mant * 2 ^ (f.m - ms) else if mant / 2 ^ (ms - f.m) = 0 then 1 else mant / 2 ^ (ms - f.m)

theorem nanMant_bounds {f : Fmt} (hf : FmtOk f) {mant ms : Nat} (hpos : 0 < mant) (hlt : mant < 2 ^ ms) :
    0 < nanMant f mant ms ∧ nanMant f mant ms < 2 ^ f.m := by
  unfold nanMant
  split
  · next h =>
    refine ⟨by positivity, ?_⟩
    calc mant * 2 ^ (f.m - ms) < 2 ^ ms * 2 ^ (f.m - ms) := Nat.mul_lt_mul_of_pos_right hlt (by positivity)
      _ = 2 ^ f.m := by rw [← pow_add, Nat.add_sub_cancel' h]
  · next h =>
    split
    · exact ⟨one_pos, Nat.one_lt_two_pow hf.mant.ne'⟩
    · next h0 =>
      refine ⟨Nat.pos_of_ne_zero h0, Nat.div_lt_of_lt_mul ?_⟩
      rwa [← pow_add, Nat.sub_add_cancel (by omega)]

theorem top_add_lt {f : Fmt} {mn : Nat} (h : mn < 2 ^ f.m) : (2 ^ f.eb - 1) * 2 ^ f.m + mn < 2 ^ (f.eb + f.m) := by
  have hpos : 0 < 2 ^ f.eb := by positivity
  calc (2 ^ f.eb - 1) * 2 ^ f.m + mn < (2 ^ f.eb - 1) * 2 ^ f.m + 2 ^ f.m := by omega
    _ = (2 ^ f.eb - 1 + 1) * 2 ^ f.m := by ring
    _ = 2 ^ (f.eb + f.m) := by rw [Nat.sub_add_cancel hpos, pow_add]

/-- A NaN that is converted stays a NaN of its sign, in a format that has NaNs. -/
theorem nanTo_isNan {f : Fmt} (hf : FmtOk f) (neg : Bool) {mant ms : Nat} (hpos : 0 < mant) (hlt : mant < 2 ^ ms) (hk : f.nan ≠ .none) :
    valIsNan (decodeF f (nanTo f neg mant ms).1) = true ∧ (nanTo f neg mant ms).2 = 0 ∧
      valNeg (decodeF f (nanTo f neg mant ms).1) = neg := by
  rw [nanTo.eq_def, fmtSign_eq hf]
  rcases hf.top with ⟨hnan, -, hmax⟩ | ⟨hnan, -, he, hm, hmax⟩ | ⟨hnan, -, -⟩
  · obtain ⟨h0, h1⟩ := nanMant_bounds hf hpos hlt
    simp only [hnan]
    obtain ⟨h2, h3⟩ := decodeF_past_inf hf neg (top_add_lt h1) (by omega) (by omega)
    exact ⟨h2, trivial, h3⟩
  · simp only [hnan]
    obtain ⟨h2, h3⟩ := decodeF_past_inf (mag := 0x7F) hf neg (by rw [he, hm]; decide) (by omega) (by simp [hnan])
    exact ⟨h2, trivial, h3⟩
  · exact absurd hnan hk

theorem nanTo_of_none {f : Fmt} (hf : FmtOk f) (neg : Bool) (mant ms : Nat) (hk : f.nan = .none) :
    nanTo f neg mant ms = (f.max + signBit f neg, flNV) := by
  rw [nanTo.eq_def, fmtSign_eq hf, hk]

/-- A NaN of a format carries a mantissa of that format's width. -/
theorem decodeF_nan {f : Fmt} (hf : FmtOk f) {c : Nat} (h : valIsNan (decodeF f c) = true) :
    ∃ neg mant sig, decodeF f c = .nan neg mant f.m sig ∧ 0 < mant ∧ mant < 2 ^ f.m := by
  have hcase := decoded hf c
  generalize decodeF f c = v at *
  cases hcase with
  | number =>
    have := (isFinite_numberOf f (codeNeg f c) (codeMag f c)).1
    rw [h] at this
    contradiction
  | inf => simp [valIsNan] at h
  | nan hbig mant sig hk hmag hpos hlt => exact ⟨_, mant, sig, rfl, hpos, hlt⟩

/-! ### Conversions of one element -/

/-- Encode of a finite operand. -/
theorem exactly_finite {f : Fmt} (hf : FmtOk f) (mode : Rnd) (sat : Bool) {v : Val} (hfin : IsFinite v) (hok : ValOk v) :
    Exactly f mode sat (valQ v) (valNeg v) (encodeF f mode sat v).1 := by
  rcases isFinite_cases hfin with ⟨n, rfl⟩ | ⟨n, num, den, rfl⟩
  · rw [encodeF_zero hf]
    exact ⟨fun _ => rfl, fun h => absurd rfl h⟩
  · exact exactly_fin hok.1 hok.2 rfl

theorem elementsConvert : ElementsConvert := by
  intro cb t u rnd sat code hcode r i x lo hi
  have hlo : lo = intMin (tySigned t) (tyWidth t) := rfl
  have hhi : hi = intMax (tySigned t) (tyWidth t) := rfl
  have hw : 0 < tyWidth t := tyWidth_pos t
  clear_value lo hi
  refine ⟨fun hu ht => ?intInt, fun hu ht => ?intFloat, fun hu ht => ?floatInt, fun hu ht => ?floatFloat⟩
  case intInt =>
    have hr : r = narrowInt sat (tySigned t) (tyWidth t) i := by
      simp only [r, convCode, if_pos hu, if_pos ht]
      cases sat <;> rfl
    rw [hr, narrowInt_eq sat _ hw, wrapInt_cast, ← hlo, ← hhi]
    refine ⟨rfl, ?_⟩
    cases sat with
    | false => rfl
    | true => simp [narrowInt_flags, hlo, hhi]
  case intFloat =>
    have hr : r = encodeF (tyFmt t) rnd sat (ofFrac false i 1) := by
      simp only [r, convCode, if_pos hu, if_neg (ne_true_of_eq_false (not_int_of_float ht))]
      exact encodeTy_float ht cb rnd sat _
    rw [hr]
    exact exactly_ofFrac (fmtOk (tyFmt_mem ht)) rnd sat false one_pos (by rw [Nat.cast_one, div_one])
  case floatInt =>
    have hr : r = floatToInt (tySigned t) (tyWidth t) rnd x := by
      simp only [r, convCode, if_neg (ne_true_of_eq_false (not_int_of_float hu)), if_pos ht]
      rw [decodeTy, if_neg (not_c4_of_float hu)]
    have hok : ValOk x := valOk_decodeF (fmtOk (tyFmt_mem hu)) code
    rw [hr]
    clear_value x
    refine ⟨fun hfin => ?_, fun n hinf => ?_, fun hnan => floatToInt_nan _ _ _ hnan⟩
    · rcases isFinite_cases hfin with ⟨n, rfl⟩ | ⟨n, num, den, rfl⟩
      · have hround : roundQ (if rnd = .dflt then .rz else rnd) (valQ (.zero n)) = 0 := roundQ_intCast _ 0
        have hrange := intVal_range (tySigned t) hw 0
        have hzero : intVal (tySigned t) (tyWidth t) 0 = 0 := by simp [intVal]
        rw [hzero, ← hlo, ← hhi] at hrange
        simp only [hround, floatToInt_zero]
        rw [min_eq_right hrange.2, max_eq_right hrange.1, if_neg (by omega)]
        simp [valQ]
      · simp only [floatToInt_fin _ hw rnd n num hok.2, ← hlo, ← hhi]
        exact ⟨wrapInt_cast _ _, trivial⟩
    · rw [hinf, floatToInt_inf, ← hlo, ← hhi]
      exact ⟨wrapInt_cast _ _, rfl⟩
  case floatFloat =>
    have hf : FmtOk (tyFmt t) := fmtOk (tyFmt_mem ht)
    have hfu : FmtOk (tyFmt u) := fmtOk (tyFmt_mem hu)
    have hr : r = encodeF (tyFmt t) rnd sat x := by
      simp only [r, convCode, if_neg (ne_true_of_eq_false (not_int_of_float hu)), if_neg (ne_true_of_eq_false (not_int_of_float ht))]
      rw [encodeTy_float ht, decodeTy, if_neg (not_c4_of_float hu)]
    have hok : ValOk x := valOk_decodeF hfu code
    rw [hr]
    refine ⟨fun hfin => exactly_finite hf rnd sat hfin hok, fun n hinf hsat hhas => ?_, fun hnan hk => ?_, fun hnan hk => ?_⟩
    · rw [hinf, hsat]
      exact encodeBig_inf hf rnd n hhas
    · obtain ⟨neg, mant, sig, hx, hpos, hlt⟩ := decodeF_nan hfu hnan
      rw [show x = _ from hx]
      exact nanTo_isNan hf neg hpos hlt hk
    · obtain ⟨neg, mant, sig, hx, -, -⟩ := decodeF_nan hfu hnan
      rw [show x = _ from hx]
      exact nanTo_of_none hf neg mant _ hk

/-! ### Back from f32 (R45) -/

/-- The formats of at most 16 bits. -/
def narrowFmts : List Fmt := [fmtF16, fmtBf16, fmtE4m3, fmtE5m2, fmtE3m2, fmtE2m3, fmtE2m1]

theorem f32_mem : fmtF32 ∈ fltFmts := by decide
theorem f32_ok : FmtOk fmtF32 := fmtOk f32_mem

/-- f32 holds every number of a narrow format. -/
theorem narrow_in_f32 {f : Fmt} (h : f ∈ narrowFmts) : f ∈ fltFmts ∧ f.m < 23 ∧ 1 - fmtF32.bias - fmtF32.m ≤ 1 - f.bias - f.m := by
  revert f
  decide

theorem narrow_max_le {f : Fmt} (h : f ∈ narrowFmts) : magQ f f.max ≤ magQ fmtF32 fmtF32.max := by
  fin_cases h <;> norm_num [magQ, magMant, magExp, fmtF32, fmtF16, fmtBf16, fmtE4m3, fmtE5m2, fmtE3m2, fmtE2m3, fmtE2m1]

theorem decodeF_infCode {f : Fmt} (hf : FmtOk f) (hk : f.nan = .ieee) (neg : Bool) :
    decodeF f ((2 ^ f.eb - 1) * 2 ^ f.m + signBit f neg) = .inf neg := by
  have hlt : (2 ^ f.eb - 1) * 2 ^ f.m < 2 ^ (f.eb + f.m) := topCode_lt
  have hm := codeMag_add neg hlt
  have hn := codeNeg_add neg hlt
  have hcase := decoded hf ((2 ^ f.eb - 1) * 2 ^ f.m + signBit f neg)
  generalize decodeF f ((2 ^ f.eb - 1) * 2 ^ f.m + signBit f neg) = v at *
  cases hcase with
  | number h =>
    rcases hf.top with ⟨-, -, hmax⟩ | ⟨hnan, -⟩ | ⟨hnan, -⟩
    · omega
    · simp [hk] at hnan
    · simp [hk] at hnan
  | inf => rw [hn]
  | nan hbig mant sig hk' h hpos => omega

theorem decodeF_nanCode {f : Fmt} (hf : FmtOk f) (hk : f.nan = .ieee) (neg : Bool) {mant : Nat} (hpos : 0 < mant) (hlt : mant < 2 ^ f.m) :
    ∃ sig, decodeF f ((2 ^ f.eb - 1) * 2 ^ f.m + mant + signBit f neg) = .nan neg mant f.m sig := by
  have hm := codeMag_add neg (top_add_lt hlt)
  have hn := codeNeg_add neg (top_add_lt hlt)
  have hcase := decoded hf ((2 ^ f.eb - 1) * 2 ^ f.m + mant + signBit f neg)
  generalize decodeF f ((2 ^ f.eb - 1) * 2 ^ f.m + mant + signBit f neg) = v at *
  cases hcase with
  | number h =>
    rcases hf.top with ⟨-, -, hmax⟩ | ⟨hnan, -⟩ | ⟨hnan, -⟩
    · omega
    · simp [hk] at hnan
    · simp [hk] at hnan
  | inf hbig hk' h => omega
  | nan hbig mant' sig hk' h hpos' hlt' =>
    have hmant : mant' = mant := by omega
    exact ⟨sig, by rw [hn, hmant]⟩

section Narrow
variable {f : Fmt} (h : f ∈ narrowFmts)
include h

/-- The numbers of a narrow format pass through f32. -/
theorem number_through_f32 (neg : Bool) {mag : Nat} (hmag : mag ≤ f.max) :
    encodeF f .rn false (decodeF fmtF32 (encodeF fmtF32 .rn false (numberOf f neg mag)).1) = (mag + signBit f neg, 0) := by
  obtain ⟨hmem, hm, he⟩ := narrow_in_f32 h
  have hf := fmtOk hmem
  have hok := valOk_numberOf f neg mag
  have hval := valQ_numberOf f neg mag
  by_cases h0 : mag = 0
  · subst h0
    have hzero : (encodeF fmtF32 .rn false (numberOf f neg 0)).1 = signBit fmtF32 neg := congrArg Prod.fst (encodeF_zero f32_ok .rn false neg)
    have hdec : decodeF fmtF32 (signBit fmtF32 neg) = .zero neg := by
      rw [← Nat.zero_add (signBit fmtF32 neg)]
      exact decodeF_add_sign f32_ok neg (Nat.zero_le _)
    rw [hzero, hdec, encodeF_zero hf, Nat.zero_add]
  · have hpos : 0 < mag := Nat.pos_of_ne_zero h0
    obtain ⟨num, den, hnum⟩ : ∃ num den, numberOf f neg mag = .fin neg num den := ⟨_, _, if_neg h0⟩
    rw [hnum] at hok hval ⊢
    have hround : roundTo fmtF32 .rn (valQ (.fin neg num den)) = valQ (.fin neg num den) := by
      rw [hval]
      exact roundTo_number hpos hm.le (by have := (magMant_bounds f mag).2.1; simp only [fmtF32] at *; omega)
    have hbound : |roundTo fmtF32 .rn (valQ (.fin neg num den))| ≤ valQ (decodeF fmtF32 fmtF32.max) := by
      rw [hround, hval, abs_mul, abs_signQ, one_mul, abs_of_nonneg (magQ_nonneg f _), valQ_decodeF_max f32_ok]
      exact ((magQ_strictMono f).monotone hmag).trans (narrow_max_le h)
    obtain ⟨-, hsame, hneg, hfin, -⟩ := (encodeRounds fmtF32 f32_mem .rn false neg num den hok.1 hok.2).1 hbound
    have hok' := valOk_decodeF f32_ok (encodeF fmtF32 .rn false (.fin neg num den)).1
    rw [hround, hval] at hsame
    generalize decodeF fmtF32 (encodeF fmtF32 .rn false (.fin neg num den)).1 = w at *
    rcases isFinite_cases hfin with ⟨n, rfl⟩ | ⟨n, a, b, rfl⟩
    · exact absurd hsame.symm (mul_ne_zero (signQ_ne_zero neg) (magQ_pos hpos).ne')
    · rw [show n = neg from hneg] at hsame ⊢
      exact encodeF_number hf .rn false hok'.1 hok'.2 hmag hsame

/-- The NaNs of a narrow format pass through f32, which widens the mantissa and narrows it again. -/
theorem nan_through_f32 (neg : Bool) {mant : Nat} (sig : Bool) (hpos : 0 < mant) (hlt : mant < 2 ^ f.m) (he : f.nan = .e4m3 → mant = 7)
    (hk : f.nan ≠ .none) :
    encodeF f .rn false (decodeF fmtF32 (encodeF fmtF32 .rn false (.nan neg mant f.m sig)).1) =
      ((2 ^ f.eb - 1) * 2 ^ f.m + mant + signBit f neg, 0) := by
  obtain ⟨hmem, hm, -⟩ := narrow_in_f32 h
  have hf := fmtOk hmem
  have hwide : (encodeF fmtF32 .rn false (.nan neg mant f.m sig)).1 =
      (2 ^ fmtF32.eb - 1) * 2 ^ fmtF32.m + mant * 2 ^ (23 - f.m) + signBit fmtF32 neg := by
    rw [← fmtSign_eq f32_ok]
    exact congrArg (fun mn => (2 ^ fmtF32.eb - 1) * 2 ^ fmtF32.m + mn + fmtSign fmtF32 neg) (if_pos hm.le)
  have hwlt : mant * 2 ^ (23 - f.m) < 2 ^ fmtF32.m := by
    calc mant * 2 ^ (23 - f.m) < 2 ^ f.m * 2 ^ (23 - f.m) := Nat.mul_lt_mul_of_pos_right hlt (by positivity)
      _ = 2 ^ 23 := by rw [← pow_add, Nat.add_sub_cancel' hm.le]
  obtain ⟨sig', hdec⟩ := decodeF_nanCode f32_ok rfl neg (by positivity) hwlt
  rw [hwide, hdec, ← encodeF_own_nan hf .rn false neg sig hk he]
  have hback : mant * 2 ^ (23 - f.m) / 2 ^ (23 - f.m) = mant := Nat.mul_div_cancel _ (by positivity)
  have hsame : nanTo f neg (mant * 2 ^ (23 - f.m)) 23 = nanTo f neg mant f.m := by
    rw [nanTo.eq_def, nanTo.eq_def]
    simp [hback, hpos.ne', Nat.not_le.2 hm]
  exact hsame

end Narrow

theorem codesComeBack : CodesComeBack := by
  intro f h code hcode
  have h : f ∈ narrowFmts := h
  have hf := fmtOk (narrow_in_f32 h).1
  have hsplit : codeMag f code + signBit f (codeNeg f code) = code := code_split f hcode
  have hcase := decoded hf code
  generalize decodeF f code = v at hcase
  cases hcase with
  | number hmag => rw [number_through_f32 h _ hmag, hsplit]
  | inf hbig hk hmag =>
    rw [encodeF_own_inf f32_ok .rn _ rfl, decodeF_infCode f32_ok rfl, encodeF_own_inf hf .rn _ hk, ← hmag, hsplit]
  | nan hbig mant sig hk hmag hpos hlt =>
    rw [nan_through_f32 h _ sig hpos hlt (fun he => nan_mant_e4m3 hf he hmag hbig hlt) hk, ← hmag, hsplit]

end Sys2Proof.Machine
end

section
/-! PROOFS. The codebook's search (R35, R49). -/

open Host Sys2Proof Sys2Proof.Machine Sys2Proof.Claims

namespace Sys2Proof.Machine

/-! ### The distance (R49) -/

/-- The code of infinity in f32, as a number past the largest, stands for 2^128. -/
theorem magQ_f32_inf : magQ fmtF32 (infCode fmtF32 false) = 2 ^ 128 := by
  norm_num [magQ, magMant, magExp, infCode, fmtSign, fmtF32]

theorem infCode_f32 : infCode fmtF32 false = fmtF32.max + 1 := by decide

theorem encodeBig_rn_f32 (fl : Flags) : (encodeBig fmtF32 .rn false false false fl).1 = infCode fmtF32 false := rfl

/-- RoundNE of a positive value in f32, as a magnitude that 2^128 bounds. -/
theorem magQ_roundNE {num den : Nat} (hn : 0 < num) (hd : 0 < den) :
    magQ fmtF32 (roundNE fmtF32 (.fin false num den)) = min (roundTo fmtF32 .rn (num / den)) (2 ^ 128) := by
  have hround : roundTo fmtF32 .rn (num / den) = magQ fmtF32 (roundCode fmtF32 .rn false num den).1 := by
    have := roundTo_eq (f := fmtF32) hn hd .rn false
    simpa [valQ_fin] using this
  rw [hround, ← magQ_f32_inf, roundNE]
  by_cases h : (roundCode fmtF32 .rn false num den).1 ≤ fmtF32.max
  · rw [encodeF_fin_of_le f32_ok false h, min_eq_left ((magQ_strictMono _).monotone (by rw [infCode_f32]; omega))]
    rfl
  · rw [encodeF_fin_of_gt false h, encodeBig_rn_f32, min_eq_right ((magQ_strictMono _).monotone (by rw [infCode_f32]; omega))]

theorem valQ_ne_of_not_valEq {a b : Val} (ha : IsFinite a) (hb : IsFinite b) (hoa : ValOk a) (hob : ValOk b) (h : ¬ valEq a b = true) :
    valQ a ≠ valQ b := by
  intro hq
  have h1 := valLt_finite ha hb hoa hob
  have h2 := valLt_finite hb ha hob hoa
  rw [hq, lt_self_iff_false, iff_false, Bool.not_eq_true] at h1 h2
  exact h (by rw [valEq, h1, h2]; rfl)

/-- The gap of the statement is what the search's distance stands for. -/
theorem cbGap_eq {v e : Val} (hv : valIsNan v = false) (he : valIsNan e = false) (hov : ValOk v) (hoe : ValOk e) :
    cbGap v e = magQ fmtF32 (cbDist v e) := by
  unfold cbGap cbDist
  by_cases heq : valEq e v = true
  · rw [if_pos heq, if_pos heq, magQ_zero]
  rw [if_neg heq, if_neg heq]
  by_cases hinf : valIsInf e = true ∨ valIsInf v = true
  · rw [if_pos hinf, if_pos (by simpa using hinf), magQ_f32_inf]
  rw [if_neg hinf, if_neg (by simpa using hinf)]
  obtain ⟨hei, hvi⟩ := not_or.1 hinf
  have hfe : IsFinite e := ⟨he, Bool.not_eq_true _ ▸ hei⟩
  have hfv : IsFinite v := ⟨hv, Bool.not_eq_true _ ▸ hvi⟩
  obtain ⟨hqv, hdv⟩ := fracQ_valFrac hov
  obtain ⟨hqe, hde⟩ := fracQ_valFrac hoe
  obtain ⟨hdiff, hden⟩ := fracQ_fracAdd (a := valFrac v) (b := (-(valFrac e).1, (valFrac e).2)) hdv hde
  have hneg : fracQ (-(valFrac e).1, (valFrac e).2) = -valQ e := by
    rw [← hqe, fracQ, fracQ, Int.cast_neg, neg_div]
  rw [hqv, hneg, ← sub_eq_add_neg] at hdiff
  dsimp only
  generalize fracAdd (valFrac v) (-(valFrac e).1, (valFrac e).2) = d at hdiff hden
  have hdQ : (0 : ℚ) < d.2 := by exact_mod_cast hden
  have hne : d.1 ≠ 0 := by
    intro h0
    rw [fracQ, h0, Int.cast_zero, zero_div] at hdiff
    exact valQ_ne_of_not_valEq hfe hfv hoe hov heq (sub_eq_zero.1 hdiff.symm).symm
  have hdist : |valQ v - valQ e| = (d.1.natAbs : ℚ) / d.2 := by
    rw [← hdiff, fracQ, abs_div, abs_of_pos hdQ, Nat.cast_natAbs, Int.cast_abs]
  rw [hdist, ← magQ_roundNE (Int.natAbs_pos.2 hne) hden, ofFrac_ne_zero _ _ (by exact_mod_cast Int.natAbs_ne_zero.2 hne),
    Int.natAbs_natCast, decide_eq_false (not_lt.2 (Int.natCast_nonneg _))]

/-! ### The search (R49) -/

/-- The entries that are no NaN, with their distances, by index from i on. -/
def cbCands (v : Val) : Nat → List Nat → List (Nat × Nat)
  | _, [] => []
  | i, c :: cs =>
    if valIsNan (decodeF fmtBf16 c) = true then cbCands v (i + 1) cs else (i, cbDist v (decodeF fmtBf16 c)) :: cbCands v (i + 1) cs

/-- The nearer of two candidates, the first of equals. -/
def nearer (best : Option (Nat × Nat)) (p : Nat × Nat) : Option (Nat × Nat) :=
  match best with
  | none => some p
  | some b => if p.2 < b.2 then some p else some b

theorem cbSearch_eq_foldl (v : Val) (i : Nat) (cs : List Nat) (best : Option (Nat × Nat)) :
    cbSearch v i cs best = (cbCands v i cs).foldl nearer best := by
  induction cs generalizing i best with
  | nil => rfl
  | cons c cs ih =>
    unfold cbSearch cbCands
    dsimp only
    split
    · exact ih (i + 1) best
    · rw [ih, List.foldl_cons]
      cases best <;> rfl

theorem mem_cbCands (v : Val) (i : Nat) (cs : List Nat) (p : Nat × Nat) :
    p ∈ cbCands v i cs ↔
      ∃ j < cs.length, valIsNan (decodeF fmtBf16 (cs.getD j 0)) = false ∧ p = (i + j, cbDist v (decodeF fmtBf16 (cs.getD j 0))) := by
  induction cs generalizing i with
  | nil => simp [cbCands]
  | cons c cs ih =>
    have hshift : (∃ j < (c :: cs).length, valIsNan (decodeF fmtBf16 ((c :: cs).getD j 0)) = false ∧
        p = (i + j, cbDist v (decodeF fmtBf16 ((c :: cs).getD j 0)))) ↔
        (valIsNan (decodeF fmtBf16 c) = false ∧ p = (i, cbDist v (decodeF fmtBf16 c))) ∨ p ∈ cbCands v (i + 1) cs := by
      rw [ih]
      constructor
      · rintro ⟨j, hj, h⟩
        cases j with
        | zero => exact .inl h
        | succ j => exact .inr ⟨j, Nat.lt_of_succ_lt_succ hj, by rw [Nat.add_right_comm]; exact h⟩
      · rintro (h | ⟨j, hj, h⟩)
        · exact ⟨0, Nat.succ_pos _, h⟩
        · exact ⟨j + 1, Nat.succ_lt_succ hj, by rw [Nat.add_right_comm] at h; exact h⟩
    rw [hshift, cbCands]
    split
    · next hn => simp [hn]
    · next hn => simp [hn]

theorem cbCands_pairwise (v : Val) (i : Nat) (cs : List Nat) : (cbCands v i cs).Pairwise (fun p q => p.1 < q.1) := by
  induction cs generalizing i with
  | nil => exact List.Pairwise.nil
  | cons c cs ih =>
    unfold cbCands
    split
    · exact ih (i + 1)
    · refine List.pairwise_cons.2 ⟨fun q hq => ?_, ih (i + 1)⟩
      obtain ⟨j, -, -, rfl⟩ := (mem_cbCands v (i + 1) cs q).1 hq
      dsimp only
      omega

/-- One candidate is nearer than another, or as near and not after it. -/
def Beats (p q : Nat × Nat) : Prop := p.2 ≤ q.2 ∧ (p.2 = q.2 → p.1 ≤ q.1)

theorem foldl_nearer (b : Nat × Nat) (ps : List (Nat × Nat)) (h : (b :: ps).Pairwise (fun p q => p.1 < q.1)) :
    ∃ r ∈ b :: ps, ps.foldl nearer (some b) = some r ∧ ∀ q ∈ b :: ps, Beats r q := by
  induction ps generalizing b with
  | nil => exact ⟨b, List.mem_cons_self, rfl, by simp [Beats]⟩
  | cons p ps ih =>
    obtain ⟨hb, hps⟩ := List.pairwise_cons.1 h
    have hbp : b.1 < p.1 := hb p List.mem_cons_self
    rw [List.foldl_cons]
    by_cases hlt : p.2 < b.2
    · obtain ⟨r, hr, hfold, hbeats⟩ := ih p hps
      have hp := hbeats p List.mem_cons_self
      refine ⟨r, List.mem_cons_of_mem _ hr, by rw [nearer, if_pos hlt, hfold], fun q hq => ?_⟩
      rcases List.mem_cons.1 hq with rfl | hq
      · exact ⟨hp.1.trans hlt.le, fun h => absurd (h ▸ hp.1) (by omega)⟩
      · exact hbeats q hq
    · obtain ⟨r, hr, hfold, hbeats⟩ := ih b (h.sublist (List.Sublist.cons_cons b (List.sublist_cons_self p ps)))
      obtain ⟨hle, hidx⟩ := hbeats b List.mem_cons_self
      refine ⟨r, ?_, by rw [nearer, if_neg hlt, hfold], fun q hq => ?_⟩
      · exact (List.mem_cons.1 hr).elim (fun h => h ▸ List.mem_cons_self) (fun h => List.mem_cons_of_mem _ (List.mem_cons_of_mem _ h))
      · rcases List.mem_cons.1 hq with rfl | hq
        · exact ⟨hle, hidx⟩
        rcases List.mem_cons.1 hq with rfl | hq
        · exact ⟨by omega, fun h => (hidx (by omega)).trans hbp.le⟩
        · exact hbeats q (List.mem_cons_of_mem _ hq)

theorem cbSearch_none (v : Val) (cs : List Nat) (h : cbCands v 0 cs = []) : cbSearch v 0 cs none = none := by
  rw [cbSearch_eq_foldl, h]
  rfl

theorem cbSearch_some (v : Val) (cs : List Nat) (h : cbCands v 0 cs ≠ []) :
    ∃ r ∈ cbCands v 0 cs, cbSearch v 0 cs none = some r ∧ ∀ q ∈ cbCands v 0 cs, Beats r q := by
  have hpair := cbCands_pairwise v 0 cs
  rw [cbSearch_eq_foldl]
  generalize cbCands v 0 cs = ps at *
  cases ps with
  | nil => exact absurd rfl h
  | cons b ps => exact foldl_nearer b ps hpair

theorem cbNan_eq (i : Nat) (cs : List Nat) :
    cbNan i cs = (cs.findIdx? (fun c => valIsNan (decodeF fmtBf16 c))).map (i + ·) := by
  induction cs generalizing i with
  | nil => rfl
  | cons c cs ih =>
    rw [cbNan, List.findIdx?_cons, ih]
    split
    · rfl
    · rw [Option.map_map]
      congr 1
      funext j
      exact Nat.add_right_comm i 1 j

theorem codebookNearest : CodebookNearest := by
  intro cb code hlen v e r
  have hov : ValOk v := valOk_decodeF f32_ok code
  have hoe (i : Nat) : ValOk (e i) := valOk_decodeF (fmtOk (by decide)) _
  have hcand (p : Nat × Nat) : p ∈ cbCands v 0 cb ↔ ∃ j < 16, valIsNan (e j) = false ∧ p = (j, cbDist v (e j)) := by
    rw [mem_cbCands, hlen]
    simp only [Nat.zero_add, e]
  have hget (j : Nat) (hj : j < 16) : valIsNan (e j) = valIsNan (decodeF fmtBf16 (cb[j]'(hlen ▸ hj))) := by
    simp only [e, List.getD_eq_getElem _ _ (hlen ▸ hj)]
  refine ⟨fun hv ⟨i, hi, hei⟩ => ?nearest, fun hv ⟨i, hi, hei⟩ => ?nan, fun hnone => ?nothing⟩
  case nearest =>
    obtain ⟨p, hp, hsearch, hbeats⟩ := cbSearch_some v cb (List.ne_nil_of_mem ((hcand _).2 ⟨i, hi, hei, rfl⟩))
    obtain ⟨j, hj, hej, rfl⟩ := (hcand p).1 hp
    have hr : r = (j, 0) := by
      simp only [r, cbNearest, hv, hsearch]
      rfl
    rw [hr]
    refine ⟨hj, rfl, hej, fun k hk hek => ?_⟩
    obtain ⟨hle, hidx⟩ := hbeats _ ((hcand _).2 ⟨k, hk, hek, rfl⟩)
    rw [cbGap_eq hv hej hov (hoe j), cbGap_eq hv hek hov (hoe k)]
    exact ⟨(magQ_strictMono _).monotone hle, fun heq => hidx ((magQ_strictMono _).injective heq)⟩
  case nan =>
    cases hfind : cb.findIdx? (fun c => valIsNan (decodeF fmtBf16 c)) with
    | none =>
      have := List.findIdx?_eq_none_iff.1 hfind _ (List.getElem_mem (hlen ▸ hi))
      rw [← hget i hi, hei] at this
      contradiction
    | some j =>
      obtain ⟨hj, hej, hbefore⟩ := List.findIdx?_eq_some_iff_getElem.1 hfind
      have hr : r = (j, 0) := by
        simp only [r, cbNearest, hv, cbNan_eq, hfind]
        simp
      rw [hr]
      refine ⟨hlen ▸ hj, rfl, (hget j (hlen ▸ hj)).trans hej, fun k hk => ?_⟩
      exact (hget k (hlen ▸ hk.trans hj)).trans (by simpa using hbefore k hk)
  case nothing =>
    cases hv : valIsNan v with
    | true =>
      have hfind : cb.findIdx? (fun c => valIsNan (decodeF fmtBf16 c)) = none := by
        rw [List.findIdx?_eq_none_iff]
        intro c hc
        obtain ⟨j, hj, rfl⟩ := List.getElem_of_mem hc
        rw [← hget j (hlen ▸ hj)]
        exact eq_false_of_ne_true fun h => hnone j (hlen ▸ hj) (h.trans hv.symm)
      simp only [r, cbNearest, hv, cbNan_eq, hfind]
      rfl
    | false =>
      have hempty : cbCands v 0 cb = [] := by
        refine List.eq_nil_iff_forall_not_mem.2 fun p hp => ?_
        obtain ⟨j, hj, hej, -⟩ := (hcand p).1 hp
        exact hnone j hj (hej.trans hv.symm)
      simp only [r, cbNearest, hv, cbSearch_none v cb hempty]
      rfl

end Sys2Proof.Machine
end

section
/-! PROOFS. The neighbours of a rounded value (R37), and exact roots and reciprocals (R105, R106). -/

open Host Sys2Proof Sys2Proof.Machine Sys2Proof.Claims

namespace Sys2Proof.Machine

/-! ### The neighbours of a rounded value (R37) -/

theorem magExp_mono (f : Fmt) : Monotone (magExp f) := by
  intro a b h
  have : a / 2 ^ f.m ≤ b / 2 ^ f.m := Nat.div_le_div_right h
  unfold magExp
  omega

theorem magExp_le_pred (f : Fmt) (c : Nat) : magExp f c ≤ magExp f (c - 1) + 1 := by
  have hpos : 0 < 2 ^ f.m := by positivity
  have : c / 2 ^ f.m ≤ (c - 1) / 2 ^ f.m + 1 := by
    rw [← Nat.add_div_right _ hpos]
    exact Nat.div_le_div_right (by omega)
  unfold magExp
  omega

theorem magQ_succ_le (f : Fmt) (c : Nat) : magQ f (c + 1) ≤ 2 ^ (magExp f c + 1) := by
  have hm : (magMant f c : ℚ) + 1 ≤ 2 * 2 ^ f.m := by exact_mod_cast (magMant_bounds f c).1
  calc magQ f (c + 1) = (magMant f c + 1) * 2 ^ (magExp f c - f.m) := by rw [magQ_succ, magQ, add_mul, one_mul]
    _ ≤ 2 * 2 ^ f.m * 2 ^ (magExp f c - f.m) := by gcongr
    _ = 2 ^ (magExp f c + 1) := by
      rw [← zpow_natCast, ← zpow_one_add₀ (by norm_num), ← zpow_add₀ (by norm_num)]
      congr 1
      ring

section CodeOf
variable {f : Fmt} {e : ℤ} {k : Nat} (he : 1 - f.bias ≤ e) (hlow : k < 2 ^ f.m → e = 1 - f.bias)
include he hlow

theorem le_magExp_codeOf : e ≤ magExp f (codeOf f e k) := by
  by_cases h : k < 2 ^ f.m
  · rw [hlow h]
    exact (magMant_bounds f _).2.1
  · have hdiv : (e + f.bias).toNat ≤ codeOf f e k / 2 ^ f.m := by
      rw [codeOf, if_neg h, Nat.le_div_iff_mul_le (by positivity)]
      omega
    unfold magExp
    omega

/-- Below a leading bit alone the unit in the last place halves; below any other mantissa it stays. -/
theorem le_magExp_codeOf_pred (hk : k ≠ 2 ^ f.m ∨ e = 1 - f.bias) : e ≤ magExp f (codeOf f e k - 1) := by
  by_cases h : e = 1 - f.bias
  · rw [h]
    exact (magMant_bounds f _).2.1
  · have hbig : 2 ^ f.m < k := lt_of_le_of_ne (Nat.not_lt.1 (mt hlow h)) (hk.resolve_right h).symm
    have hdiv : (e + f.bias).toNat ≤ (codeOf f e k - 1) / 2 ^ f.m := by
      rw [codeOf, if_neg (by omega), Nat.le_div_iff_mul_le (by positivity)]
      omega
    unfold magExp
    omega

end CodeOf

section Rounding
variable {f : Fmt} {num den : Nat} (hn : 0 < num) (hd : 0 < den)
include hn hd

theorem magQ_roundCode (mode : Rnd) (neg : Bool) :
    magQ f (roundCode f mode neg num den).1 = roundMant f mode neg num den * 2 ^ (roundExp f num den - f.m) := by
  obtain ⟨hle, hlow⟩ := roundMant_bounds (f := f) hn hd mode neg
  rw [roundCode_eq, magQ_codeOf (e := roundExp f num den) (le_max_right _ _) hle hlow]

omit hn in
/-- The rounded mantissa in terms of the value in units of the last place. -/
theorem roundMant_cast (mode : Rnd) :
    ((roundMant f mode false num den : ℤ)) = roundQ mode (num / den / 2 ^ (roundExp f num den - f.m)) := by
  have hp := pow2_pos (f.m - roundExp f num den)
  have h := roundQ_signed_mag mode false (num * (pow2 (f.m - roundExp f num den)).1) (Nat.mul_pos hd hp.2)
  rw [scaled_eq] at h
  simpa [roundMant] using h.symm

theorem roundMant_rz : (roundMant f .rz false num den : ℚ) ≤ num / den / 2 ^ (roundExp f num den - f.m) ∧
    (num : ℚ) / den / 2 ^ (roundExp f num den - f.m) < roundMant f .rz false num den + 1 := by
  have h := roundMant_cast (f := f) (num := num) hd .rz
  have hu : (0 : ℚ) ≤ num / den / 2 ^ (roundExp f num den - f.m) := by positivity
  generalize (num : ℚ) / den / 2 ^ (roundExp f num den - f.m) = u at *
  have hfloor : (roundMant f .rz false num den : ℤ) = ⌊u⌋ := h.trans (if_pos hu)
  have hcast : ((roundMant f .rz false num den : ℤ) : ℚ) = (⌊u⌋ : ℚ) := by rw [hfloor]
  rw [Int.cast_natCast] at hcast
  rw [hcast]
  exact ⟨Int.floor_le u, Int.lt_floor_add_one u⟩

omit hn in
theorem roundMant_rn : |(roundMant f .rn false num den : ℚ) - num / den / 2 ^ (roundExp f num den - f.m)| ≤ 1 / 2 := by
  have h := roundMant_cast (f := f) (num := num) hd .rn
  have hnear := roundQ_near (num / den / 2 ^ (roundExp f num den - f.m))
  rwa [← h, Int.cast_natCast] at hnear

/-- .rz gives the number next below. -/
theorem roundCode_rz : magQ f (roundCode f .rz false num den).1 ≤ num / den ∧
    (num : ℚ) / den < magQ f ((roundCode f .rz false num den).1 + 1) := by
  obtain ⟨h1, h2⟩ := roundMant_rz (f := f) hn hd
  obtain ⟨-, hlow⟩ := roundMant_bounds (f := f) hn hd .rz false
  have hq := two_zpow_pos (roundExp f num den - f.m)
  rw [le_div_iff₀ hq] at h1
  rw [div_lt_iff₀ hq] at h2
  have hexp : roundExp f num den ≤ magExp f (roundCode f .rz false num den).1 := le_magExp_codeOf (le_max_right _ _) hlow
  rw [magQ_succ, magQ_roundCode hn hd]
  refine ⟨h1, h2.trans_le ?_⟩
  rw [add_mul, one_mul]
  gcongr
  norm_num

/-- .rn is within half a unit in the last place. -/
theorem roundCode_rn_near : |magQ f (roundCode f .rn false num den).1 - num / den| ≤ 2 ^ (roundExp f num den - f.m) / 2 := by
  have hq := two_zpow_pos (roundExp f num den - f.m)
  have h := mul_le_mul_of_nonneg_right (roundMant_rn (f := f) (num := num) hd) hq.le
  rw [← abs_of_pos hq, ← abs_mul, abs_of_pos hq, sub_mul, div_mul_cancel₀ _ hq.ne'] at h
  rw [magQ_roundCode hn hd]
  linarith

/-- .rn gives the number between whose halfway points the value lies. -/
theorem roundCode_rn : (magQ f ((roundCode f .rn false num den).1 - 1) + magQ f (roundCode f .rn false num den).1) / 2 ≤ num / den ∧
    (num : ℚ) / den ≤ (magQ f (roundCode f .rn false num den).1 + magQ f ((roundCode f .rn false num den).1 + 1)) / 2 := by
  obtain ⟨hlo, hhi⟩ := abs_le.1 (roundCode_rn_near (f := f) hn hd)
  obtain ⟨-, hlow⟩ := roundMant_bounds (f := f) hn hd .rn false
  have hexp : roundExp f num den ≤ magExp f (roundCode f .rn false num den).1 := le_magExp_codeOf (le_max_right _ _) hlow
  have hunit : (2 : ℚ) ^ (roundExp f num den - f.m) ≤ 2 ^ (magExp f (roundCode f .rn false num den).1 - f.m) := by
    gcongr
    norm_num
  constructor
  · rcases Nat.eq_zero_or_pos (roundCode f .rn false num den).1 with h0 | hpos
    · rw [h0, Nat.zero_sub, magQ_zero, add_zero, zero_div]
      positivity
    obtain ⟨c, hc⟩ : ∃ c, (roundCode f .rn false num den).1 = c + 1 := ⟨_, (Nat.sub_add_cancel hpos).symm⟩
    have hsucc := magQ_succ f c
    have hstep := two_zpow_pos (magExp f c - f.m)
    by_cases hk : roundMant f .rn false num den = 2 ^ f.m ∧ roundExp f num den ≠ 1 - f.bias
    · have hge := (scaled_bounds (f := f) hn hd).2 hk.2
      have hval := magQ_roundCode (f := f) hn hd .rn false
      rw [le_div_iff₀ (two_zpow_pos _)] at hge
      rw [hk.1] at hval
      push_cast at hval
      rw [hc] at hval ⊢
      rw [Nat.add_sub_cancel]
      linarith
    · have hexp' : roundExp f num den ≤ magExp f ((roundCode f .rn false num den).1 - 1) :=
        le_magExp_codeOf_pred (le_max_right _ _) hlow (by tauto)
      have hunit' : (2 : ℚ) ^ (roundExp f num den - f.m) ≤ 2 ^ (magExp f ((roundCode f .rn false num den).1 - 1) - f.m) := by
        gcongr
        norm_num
      rw [hc, Nat.add_sub_cancel] at hunit'
      rw [hc] at hhi ⊢
      rw [Nat.add_sub_cancel]
      linarith
  · rw [magQ_succ]
    linarith

end Rounding

/-! ### Square roots (R105, R106) -/

theorem isqrtFrom_eq_sqrt (n b r : Nat) (hlo : r * r ≤ n) (hhi : n < (r + 2 ^ b) * (r + 2 ^ b)) : isqrtFrom n b r = Nat.sqrt n := by
  induction b generalizing r with
  | zero => exact Nat.eq_sqrt.2 ⟨hlo, hhi⟩
  | succ b ih =>
    unfold isqrtFrom
    dsimp only
    split
    · next h => exact ih _ h (by rwa [add_assoc, ← two_mul, ← pow_succ'])
    · next h => exact ih _ hlo (by omega)

theorem isqrt_eq_sqrt (n : Nat) : isqrt n = Nat.sqrt n := by
  refine isqrtFrom_eq_sqrt n _ 0 (Nat.zero_le _) ?_
  rw [zero_add, ← pow_add]
  exact Nat.lt_log2_self.trans_le (Nat.pow_le_pow_right (by decide) (by omega))

/-- The fraction of sqrtVal lies among the multiples of 1 / D as the root does. -/
theorem sqrtVal_among {num den : Nat} (hn : 0 < num) (hd : 0 < den) : ∃ a b, sqrtVal num den = .fin false a b ∧ 0 < a ∧ 0 < b ∧
    ∀ j : Nat, ((j : ℚ) / (den * 2 ^ (140 + Nat.log2 den)) ≤ a / b ↔ (j / (den * 2 ^ (140 + Nat.log2 den)) : ℚ) ^ 2 ≤ num / den) ∧
      ((a : ℚ) / b ≤ j / (den * 2 ^ (140 + Nat.log2 den)) ↔ (num : ℚ) / den ≤ (j / (den * 2 ^ (140 + Nat.log2 den)) : ℚ) ^ 2) := by
  unfold sqrtVal
  dsimp only
  generalize 140 + Nat.log2 den = k
  have hdQ : (0 : ℚ) < den := by exact_mod_cast hd
  have hD : (0 : ℚ) < den * 2 ^ k := by positivity
  have hsquare : (num : ℚ) / den = (num * den * 4 ^ k : Nat) / (den * 2 ^ k : ℚ) ^ 2 := by
    have h4 : (4 : ℚ) ^ k = (2 ^ k) ^ 2 := by rw [← pow_mul, mul_comm, pow_mul]; norm_num
    push_cast
    rw [h4]
    field_simp
  have hN : 0 < num * den * 4 ^ k := by positivity
  have hle (j : Nat) : (j / (den * 2 ^ k) : ℚ) ^ 2 ≤ num / den ↔ j * j ≤ num * den * 4 ^ k := by
    rw [hsquare, div_pow, div_le_div_iff_of_pos_right (by positivity), sq]
    exact_mod_cast Iff.rfl
  have hge (j : Nat) : (num : ℚ) / den ≤ (j / (den * 2 ^ k) : ℚ) ^ 2 ↔ num * den * 4 ^ k ≤ j * j := by
    rw [hsquare, div_pow, div_le_div_iff_of_pos_right (by positivity), sq]
    exact_mod_cast Iff.rfl
  rw [isqrt_eq_sqrt]
  have hr : 0 < Nat.sqrt (num * den * 4 ^ k) := Nat.sqrt_pos.2 hN
  generalize num * den * 4 ^ k = n at *
  split
  · next hexact =>
    refine ⟨_, _, rfl, hr, by positivity, fun j => ⟨?_, ?_⟩⟩
    · push_cast
      rw [hle, div_le_div_iff_of_pos_right hD, Nat.cast_le, Nat.le_sqrt]
    · push_cast
      rw [hge, div_le_div_iff_of_pos_right hD, Nat.cast_le, ← Nat.mul_self_le_mul_self_iff, hexact]
  · next hinexact =>
    have hhalf : ((2 * Nat.sqrt n + 1 : Nat) : ℚ) / (2 * den * 2 ^ k : Nat) = (Nat.sqrt n + 1 / 2) / (den * 2 ^ k) := by
      push_cast
      field_simp
    refine ⟨_, _, rfl, by positivity, by positivity, fun j => ⟨?_, ?_⟩⟩
    · rw [hhalf, hle, div_le_div_iff_of_pos_right hD, ← Nat.le_sqrt]
      constructor
      · intro h
        have : (j : ℚ) < Nat.sqrt n + 1 := by linarith
        exact Nat.lt_succ_iff.1 (by exact_mod_cast this)
      · intro h
        have : (j : ℚ) ≤ Nat.sqrt n := by exact_mod_cast h
        linarith
    · rw [hhalf, hge, div_le_div_iff_of_pos_right hD]
      have hne : n ≠ j * j := fun h => hinexact (by rw [h, Nat.sqrt_eq])
      have hlt : n ≤ j * j ↔ Nat.sqrt n < j := by
        rw [Nat.sqrt_lt]
        omega
      rw [hlt]
      constructor
      · intro h
        have : (Nat.sqrt n : ℚ) < j := by linarith
        exact_mod_cast this
      · intro h
        have : (Nat.sqrt n : ℚ) + 1 ≤ j := by exact_mod_cast h
        linarith

/-- The fraction of sqrtVal lies among numbers of at least the precision of the format as the root does. -/
theorem sqrtVal_spec {num den : Nat} (hn : 0 < num) (hd : 0 < den) : ∃ a b, sqrtVal num den = .fin false a b ∧ 0 < a ∧ 0 < b ∧
    ∀ (i : Nat) (z : ℤ), -(140 + Nat.log2 den : ℤ) ≤ z → ((i * 2 ^ z : ℚ) ≤ a / b ↔ (i * 2 ^ z : ℚ) ^ 2 ≤ num / den) ∧
      ((a : ℚ) / b ≤ i * 2 ^ z ↔ (num : ℚ) / den ≤ (i * 2 ^ z) ^ 2) := by
  obtain ⟨a, b, hval, ha, hb, hamong⟩ := sqrtVal_among hn hd
  refine ⟨a, b, hval, ha, hb, fun i z hz => ?_⟩
  obtain ⟨n, hn⟩ : ∃ n : Nat, z = n - (140 + Nat.log2 den : Nat) := ⟨(z + (140 + Nat.log2 den)).toNat, by push_cast; omega⟩
  have hdQ : (den : ℚ) ≠ 0 := by exact_mod_cast hd.ne'
  have hgrid : (i * 2 ^ z : ℚ) = (i * den * 2 ^ n : Nat) / (den * 2 ^ (140 + Nat.log2 den)) := by
    rw [hn, zpow_sub₀ (by norm_num), zpow_natCast, zpow_natCast]
    push_cast
    field_simp
  rw [hgrid]
  exact hamong _

theorem half_inv_le {num den : Nat} (hn : 0 < num) (hd : 0 < den) : ((1 : Nat) * 2 ^ (-(Nat.log2 den : ℤ) - 1) : ℚ) ^ 2 ≤ num / den := by
  have hdQ : (0 : ℚ) < den := by exact_mod_cast hd
  have hden := (log2_bounds hd).2
  have h1 : (2 : ℚ) ^ (-(Nat.log2 den : ℤ) - 1) ≤ 1 / den := by
    rw [show -(Nat.log2 den : ℤ) - 1 = -((Nat.log2 den : ℤ) + 1) by ring, zpow_neg, ← one_div]
    exact one_div_le_one_div_of_le hdQ hden.le
  have h2 : (2 : ℚ) ^ (-(Nat.log2 den : ℤ) - 1) ≤ 1 := zpow_le_one_of_nonpos₀ (by norm_num) (by omega)
  have h3 : (1 : ℚ) / den ≤ num / den := by
    gcongr
    exact_mod_cast hn
  have hpos := two_zpow_pos (-(Nat.log2 den : ℤ) - 1)
  rw [Nat.cast_one, one_mul, sq]
  calc (2 : ℚ) ^ (-(Nat.log2 den : ℤ) - 1) * 2 ^ (-(Nat.log2 den : ℤ) - 1) ≤ 2 ^ (-(Nat.log2 den : ℤ) - 1) * 1 := by gcongr
    _ ≤ num / den := by linarith

/-- Halfway between neighbouring numbers, in halves of the unit in the last place. -/
theorem magQ_halfway (f : Fmt) (c : Nat) :
    (magQ f c + magQ f (c + 1)) / 2 = (2 * magMant f c + 1 : Nat) * 2 ^ (magExp f c - f.m - 1) := by
  rw [magQ_succ, magQ, zpow_sub_one₀ (by norm_num)]
  push_cast
  ring

section Root
variable {f : Fmt} {num den a b : Nat} (hm : f.m ≤ 23) (hn : 0 < num) (hd : 0 < den) (ha : 0 < a) (hb : 0 < b)
  (hspec : ∀ (i : Nat) (z : ℤ), -(140 + Nat.log2 den : ℤ) ≤ z → ((i * 2 ^ z : ℚ) ≤ a / b ↔ (i * 2 ^ z : ℚ) ^ 2 ≤ num / den) ∧
    ((a : ℚ) / b ≤ i * 2 ^ z ↔ (num : ℚ) / den ≤ (i * 2 ^ z) ^ 2))
include hspec hn hd

/-- Numbers about the root are no finer than the fraction can tell. -/
theorem root_exp {c : Nat} (h : (a : ℚ) / b ≤ magQ f (c + 1)) : -(Nat.log2 den : ℤ) - 2 ≤ magExp f c := by
  have hlow := (hspec 1 (-(Nat.log2 den : ℤ) - 1) (by omega)).1.2 (half_inv_le hn hd)
  rw [Nat.cast_one, one_mul] at hlow
  have hle := hlow.trans (h.trans (magQ_succ_le f c))
  have := (zpow_le_zpow_iff_right₀ (by norm_num : (1 : ℚ) < 2)).1 hle
  omega

include hm ha hb

theorem root_rz : magQ f (roundCode f .rz false a b).1 ^ 2 ≤ num / den ∧
    (num : ℚ) / den < magQ f ((roundCode f .rz false a b).1 + 1) ^ 2 := by
  obtain ⟨hlo, hhi⟩ := roundCode_rz (f := f) ha hb
  generalize (roundCode f .rz false a b).1 = c at *
  have hexp := root_exp hn hd hspec hhi.le
  have hexp' : magExp f c ≤ magExp f (c + 1) := magExp_mono f (Nat.le_succ c)
  constructor
  · exact (hspec (magMant f c) (magExp f c - f.m) (by omega)).1.1 hlo
  · by_contra h
    exact hhi.not_ge ((hspec (magMant f (c + 1)) (magExp f (c + 1) - f.m) (by omega)).1.2 (not_lt.1 h))

theorem root_rn :
    ((magQ f ((roundCode f .rn false a b).1 - 1) + magQ f (roundCode f .rn false a b).1) / 2) ^ 2 ≤ num / den ∧
    (num : ℚ) / den ≤ ((magQ f (roundCode f .rn false a b).1 + magQ f ((roundCode f .rn false a b).1 + 1)) / 2) ^ 2 := by
  obtain ⟨hlo, hhi⟩ := roundCode_rn (f := f) ha hb
  generalize (roundCode f .rn false a b).1 = c at *
  have hlt : magQ f c < magQ f (c + 1) := magQ_strictMono f (Nat.lt_add_one c)
  have hexp := root_exp (f := f) (c := c) hn hd hspec (hhi.trans (by linarith))
  have hexp' := magExp_le_pred f c
  constructor
  · cases c with
    | zero =>
      rw [Nat.zero_sub, magQ_zero, add_zero, zero_div, zero_pow two_ne_zero]
      positivity
    | succ c =>
      rw [Nat.add_sub_cancel] at *
      rw [magQ_halfway] at hlo ⊢
      exact (hspec _ _ (by omega)).1.1 hlo
  · rw [magQ_halfway] at hhi ⊢
    exact (hspec _ _ (by omega)).2.1 hhi

omit hm hn hd in
/-- The root is far from the end of the range. -/
theorem root_lt_max {h : Nat} (hx : (num : ℚ) / den ≤ (2 ^ h) ^ 2) (hmax : (2 : ℚ) ^ h < magQ f (f.max - 1)) {mode : Rnd}
    (hmode : mode = .rz ∨ mode = .rn) : (roundCode f mode false a b).1 + 1 ≤ f.max := by
  have hroot : (a : ℚ) / b ≤ 2 ^ h := by
    have := (hspec (2 ^ h) 0 (by omega)).2
    rw [zpow_zero, mul_one, Nat.cast_pow, Nat.cast_ofNat] at this
    exact this.2 hx
  have hpred : magQ f ((roundCode f mode false a b).1 - 1) ≤ 2 ^ h := by
    have hmono := (magQ_strictMono f).monotone (Nat.sub_le (roundCode f mode false a b).1 1)
    rcases hmode with rfl | rfl
    · exact hmono.trans ((roundCode_rz (f := f) ha hb).1.trans hroot)
    · have := (roundCode_rn (f := f) ha hb).1.trans hroot
      linarith
  have := (magQ_strictMono f).lt_iff_lt.1 (hpred.trans_lt hmax)
  omega

end Root

/-! ### rcp and sqrt of an element -/

theorem valQ_decodeF_mag {f : Fmt} (hf : FmtOk f) {mag : Nat} (h : mag ≤ f.max) : valQ (decodeF f mag) = magQ f mag := by
  have := decodeF_add_sign hf false h
  rw [signBit, if_neg (by decide), add_zero] at this
  rw [this, valQ_numberOf, signQ, if_neg (by decide), one_mul]

theorem valQ_decodeF_le {f : Fmt} (hf : FmtOk f) {c : Nat} {num den : Nat} (h : decodeF f c = .fin false num den) :
    (num : ℚ) / den ≤ magQ f f.max := by
  have hcase := decoded hf c
  have hval : (num : ℚ) / den = valQ (.fin false num den) := by rw [valQ_fin, signQ, if_neg (by decide), one_mul]
  rw [hval, ← h]
  generalize decodeF f c = v at *
  cases hcase with
  | number hmag =>
    have hmono := (magQ_strictMono f).monotone hmag
    have hnonneg := magQ_nonneg f (codeMag f c)
    rw [valQ_numberOf]
    cases codeNeg f c <;> norm_num <;> linarith
  | inf => simp at h
  | nan => simp at h

theorem encodeF_inf_lt {f : Fmt} (hf : FmtOk f) (hinf : f.inf = true) (mode : Rnd) (sat neg : Bool) :
    (encodeF f mode sat (.inf neg)).1 < 2 ^ (1 + f.eb + f.m) := by
  have hdef : encodeF f mode sat (.inf neg) = encodeBig f mode sat neg true 0 := rfl
  rw [hdef]
  cases sat with
  | true =>
    rw [encodeBig_sat hf]
    exact add_signBit_lt neg hf.max_lt
  | false =>
    rw [encodeBig_inf hf mode neg hinf]
    exact add_signBit_lt neg topCode_lt

/-- The types of rcp and sqrt: their precision, and a power of two between the roots of their numbers and the end of their range. -/
theorem rootTypes {t : Ty} (h : t ∈ [Ty.f32, Ty.f16, Ty.bf16]) : tyIsFloat t = true ∧ (tyFmt t).inf = true ∧ (tyFmt t).m ≤ 23 ∧
    ∃ h : Nat, magQ (tyFmt t) (tyFmt t).max ≤ (2 ^ h) ^ 2 ∧ (2 : ℚ) ^ h < magQ (tyFmt t) ((tyFmt t).max - 1) := by
  simp only [List.mem_cons, List.not_mem_nil, or_false] at h
  rcases h with rfl | rfl | rfl
  · exact ⟨rfl, rfl, by decide, 64, by norm_num [tyFmt, magQ, magMant, magExp, fmtF32]⟩
  · exact ⟨rfl, rfl, by decide, 8, by norm_num [tyFmt, magQ, magMant, magExp, fmtF16]⟩
  · exact ⟨rfl, rfl, by decide, 64, by norm_num [tyFmt, magQ, magMant, magExp, fmtBf16]⟩

theorem rootsAndReciprocals : RootsAndReciprocals := by
  intro cb rnd sat a k t htype hk f m x r q root w
  obtain ⟨ht, hinf, hm, h, hmax, hpred⟩ := rootTypes htype
  have hmem : f ∈ fltFmts := tyFmt_mem ht
  have hf : FmtOk f := fmtOk hmem
  have hx : elemV cb t a k = x := elemV_float ht cb a k
  have hok : ValOk x := valOk_decodeF hf _
  have hrec {v : Val × Flags} {c : Nat} (hv : frcpVal x = v) (hc : (encodeF f m sat v.1).1 = c) (hlt : c < 2 ^ (1 + f.eb + f.m)) :
      elemN t r.1 k = c := elemN_encodeRes ht cb m sat (fun k => frcpVal (elemV cb t a k)) hk (by rw [hx, hv]) hc hlt
  have hroot {v : Val × Flags} {c : Nat} (hv : fsqrtVal x = v) (hc : (encodeF f m sat v.1).1 = c) (hlt : c < 2 ^ (1 + f.eb + f.m)) :
      root = c := elemN_encodeRes ht cb m sat (fun k => fsqrtVal (elemV cb t a k)) hk (by rw [hx, hv]) hc hlt
  refine ⟨fun neg num den hfin => ?reciprocal, fun n hzero => ?zero, fun n hinfx => ?infinite, fun num den hfin => ?root,
    fun num den hfin => ?negative⟩
  case reciprocal =>
    rw [hfin] at hok ⊢
    rw [hrec (v := (.fin neg den num, 0)) (by rw [hfin]; rfl) rfl (encodeF_fin_lt hmem m sat neg den num)]
    refine exactly_fin hok.2 hok.1 ?_
    rw [valQ_fin, valQ_fin, one_div, mul_inv, inv_div]
    cases neg <;> norm_num
  case zero =>
    refine ⟨?_, hrec (v := (.inf n, flDZ)) (by rw [hzero]; rfl) rfl (encodeF_inf_lt hf hinf m sat n), ?_⟩
    · exact flag_encodeRes cb m sat (fun k => frcpVal (elemV cb t a k)) hk (r := (.inf n, flDZ)) (by rw [hx, hzero]; rfl)
        (by decide : flDZ.getLsbD 1 = true)
    · refine hroot (v := (.zero n, 0)) (by rw [hzero]; rfl) ?_ (elemN_lt_code ht a k)
      have hback : (encodeF f m false x).1 = elemN t a k := congrArg Prod.fst (encodeF_decodeF hf m (elemN_lt_code ht a k))
      rw [hzero, encodeF_zero hf] at hback
      rw [encodeF_zero hf, ← hback]
  case infinite =>
    refine hrec (v := (.zero n, 0)) (by rw [hinfx]; rfl) (congrArg Prod.fst (encodeF_zero hf m sat n)) ?_
    have := add_signBit_lt (f := f) n (by positivity : 0 < 2 ^ (f.eb + f.m))
    rwa [Nat.zero_add] at this
  case negative =>
    exact elemN_encodeRes_dnan ht cb m sat (fun k => fsqrtVal (elemV cb t a k)) hk (by rw [hx, hfin]; rfl)
  case root =>
    have hle := (valQ_decodeF_le hf hfin).trans hmax
    rw [hfin] at hok ⊢
    obtain ⟨u, v, hsqrt, hu, hv, hspec⟩ := sqrtVal_spec hok.1 hok.2
    have hX : valQ (.fin false num den) = num / den := by rw [valQ_fin, signQ, if_neg (by decide), one_mul]
    have hcode (hmode : m = .rz ∨ m = .rn) : root = (roundCode f m false u v).1 ∧ (roundCode f m false u v).1 + 1 ≤ f.max := by
      have hlt : (roundCode f m false u v).1 + 1 ≤ f.max := root_lt_max hu hv hspec hle hpred hmode
      refine ⟨?_, hlt⟩
      refine hroot (v := (.fin false u v, 0)) (by rw [hfin, ← hsqrt]; rfl) ?_ ((by omega : _ < f.max).trans (hf.max_lt.trans_le ?_))
      · rw [encodeF_fin_of_le hf sat (by omega)]
        rfl
      · exact Nat.pow_le_pow_right (by decide) (by omega)
    have hw {c : Nat} (hc : c ≤ f.max) : w c = magQ f c := valQ_decodeF_mag hf hc
    constructor
    · intro hmode
      obtain ⟨heq, hlt⟩ := hcode (.inl hmode)
      rw [hX, heq, hw (by omega), hw hlt, hmode]
      exact root_rz hm hok.1 hok.2 hu hv hspec
    · intro hmode
      obtain ⟨heq, hlt⟩ := hcode (.inr hmode)
      rw [hX, heq, hw (by omega), hw (by omega), hw hlt, hmode]
      exact root_rn hm hok.1 hok.2 hu hv hspec

end Sys2Proof.Machine
end

section
/-! PROOFS. The special functions with a bound in f32 (R105, R106). -/

open Host Sys2Proof Sys2Proof.Machine Sys2Proof.Claims

namespace Sys2Proof.Machine

/-! ### Within a bound (R106) -/

theorem nearTrue_iff {w y : ℤ × Nat} {b : Nat × Nat} (hw : 0 < w.2) (hy : 0 < y.2) (hb : 0 < b.2) :
    nearTrue w y b = true ↔ |fracQ w - fracQ y| + |fracQ y| / 2 ^ 60 ≤ b.1 / b.2 := by
  obtain ⟨hdiff, hden⟩ := fracQ_fracAdd (a := w) (b := (-y.1, y.2)) hw hy
  have hneg : fracQ (-y.1, y.2) = -fracQ y := by rw [fracQ, fracQ, Int.cast_neg, neg_div]
  rw [hneg, ← sub_eq_add_neg] at hdiff
  unfold nearTrue
  dsimp only
  generalize fracAdd w (-y.1, y.2) = d at hdiff hden
  have hdQ : (0 : ℚ) < d.2 := by exact_mod_cast hden
  have hyQ : (0 : ℚ) < y.2 := by exact_mod_cast hy
  have hbQ : (0 : ℚ) < b.2 := by exact_mod_cast hb
  have habs (z : ℤ × Nat) : |fracQ z| = z.1.natAbs / z.2 := by
    rw [fracQ, abs_div, Nat.abs_cast, Nat.cast_natAbs, Int.cast_abs]
  rw [← hdiff, habs, habs, div_div, div_add_div _ _ hdQ.ne' (by positivity), div_le_div_iff₀ (by positivity) hbQ, decide_eq_true_eq]
  rw [mul_comm (d.2 : ℚ) (y.1.natAbs : ℚ)]
  exact_mod_cast Iff.rfl

theorem roundCode_rn_sign (f : Fmt) (neg : Bool) (num den : Nat) : roundCode f .rn neg num den = roundCode f .rn false num den := rfl

/-- A value up to the greatest number does not round beyond it. -/
theorem roundCode_le_max {f : Fmt} {num den : Nat} (hn : 0 < num) (hd : 0 < den) (h : (num : ℚ) / den ≤ magQ f f.max) :
    (roundCode f .rn false num den).1 ≤ f.max := by
  by_contra hgt
  have hlow := (roundCode_rn (f := f) hn hd).1
  have h1 := magQ_strictMono f (Nat.not_le.1 hgt)
  have h2 := (magQ_strictMono f).monotone (show f.max ≤ (roundCode f .rn false num den).1 - 1 by omega)
  linarith

/-- A value in units of its last place. -/
theorem value_lt_units {num den : Nat} (hn : 0 < num) (hd : 0 < den) :
    (num : ℚ) / den < 2 ^ 24 * 2 ^ (roundExp fmtF32 num den - 23) := by
  have h := (scaled_bounds (f := fmtF32) hn hd).1
  rw [div_lt_iff₀ (two_zpow_pos _)] at h
  calc (num : ℚ) / den < 2 * 2 ^ 23 * 2 ^ (roundExp fmtF32 num den - 23) := h
    _ = 2 ^ 24 * 2 ^ (roundExp fmtF32 num den - 23) := by norm_num

/-- The true result rounded to nearest lies within a bound of half a unit in the last place and the margin. -/
theorem near_roundNE {y : ℤ × Nat} {b : Nat × Nat} (hd : 0 < y.2) (hb : 0 < b.2) (hy : |fracQ y| ≤ magQ fmtF32 fmtF32.max)
    (hbound : y.1 ≠ 0 → 2 ^ (roundExp fmtF32 y.1.natAbs y.2 - 23) / 2 + |fracQ y| / 2 ^ 60 ≤ (b.1 : ℚ) / b.2) :
    IsFinite (decodeF fmtF32 (roundNE fmtF32 (ofFrac false y.1 y.2))) ∧
      nearTrue (valFrac (decodeF fmtF32 (roundNE fmtF32 (ofFrac false y.1 y.2)))) y b = true := by
  by_cases h0 : y.1 = 0
  · have hzero : decodeF fmtF32 (roundNE fmtF32 (ofFrac false y.1 y.2)) = .zero false := by
      rw [h0, ofFrac_zero, roundNE, encodeF_zero f32_ok]
      decide
    rw [hzero, nearTrue_iff one_pos hd hb]
    refine ⟨⟨rfl, rfl⟩, ?_⟩
    have hq : fracQ y = 0 := by rw [fracQ, h0, Int.cast_zero, zero_div]
    have hw : fracQ (valFrac (.zero false)) = 0 := by simp [valFrac, fracQ]
    rw [hq, hw, sub_zero, abs_zero, zero_div, add_zero]
    exact div_nonneg (Nat.cast_nonneg _) (Nat.cast_nonneg _)
  · have hn : 0 < y.1.natAbs := Int.natAbs_pos.2 h0
    have hval := valQ_fin_natAbs y.1 y.2
    have hmag : |fracQ y| = (y.1.natAbs : ℚ) / y.2 := by
      rw [fracQ, ← hval, abs_valQ_fin]
    have hle : (roundCode fmtF32 .rn false y.1.natAbs y.2).1 ≤ fmtF32.max := roundCode_le_max hn hd (hmag ▸ hy)
    have hcode : roundNE fmtF32 (ofFrac false y.1 y.2) =
        (roundCode fmtF32 .rn false y.1.natAbs y.2).1 + signBit fmtF32 (decide (y.1 < 0)) := by
      rw [ofFrac_ne_zero _ _ h0, roundNE, encodeF_fin_of_le f32_ok false (by rwa [roundCode_rn_sign]), roundCode_rn_sign]
    rw [hcode, decodeF_add_sign f32_ok _ hle]
    have hok := valOk_numberOf fmtF32 (decide (y.1 < 0)) (roundCode fmtF32 .rn false y.1.natAbs y.2).1
    obtain ⟨hw, hwd⟩ := fracQ_valFrac hok
    refine ⟨isFinite_numberOf _ _ _, (nearTrue_iff hwd hd hb).2 ?_⟩
    have hnear := roundCode_rn_near (f := fmtF32) hn hd
    have herr : |signQ (decide (y.1 < 0)) * magQ fmtF32 (roundCode fmtF32 .rn false y.1.natAbs y.2).1 - fracQ y| =
        |magQ fmtF32 (roundCode fmtF32 .rn false y.1.natAbs y.2).1 - y.1.natAbs / y.2| := by
      rw [fracQ, ← hval, valQ_fin, ← mul_sub, abs_mul, abs_signQ, one_mul]
    rw [hw, valQ_numberOf, herr]
    exact (add_le_add_left hnear _).trans (hbound h0)

/-- Two units in the last place are enough. -/
theorem two_units_enough {y : ℤ × Nat} (hd : 0 < y.2) (h0 : y.1 ≠ 0) :
    2 ^ (roundExp fmtF32 y.1.natAbs y.2 - 23) / 2 + |fracQ y| / 2 ^ 60 ≤
      ((ulpTimes (max y.1.natAbs 1) y.2 1).1 : ℚ) / (ulpTimes (max y.1.natAbs 1) y.2 1).2 := by
  have hn : 0 < y.1.natAbs := Int.natAbs_pos.2 h0
  have hmag : |fracQ y| = (y.1.natAbs : ℚ) / y.2 := by
    rw [fracQ, ← valQ_fin_natAbs, abs_valQ_fin]
  have hlt := value_lt_units hn hd
  have hunits : ((ulpTimes (max y.1.natAbs 1) y.2 1).1 : ℚ) / (ulpTimes (max y.1.natAbs 1) y.2 1).2 =
      2 * 2 ^ (roundExp fmtF32 y.1.natAbs y.2 - 23) := by
    rw [ulpTimes, pow2_div, max_eq_left (show 1 ≤ y.1.natAbs from hn), zpow_add_one₀ (by norm_num), mul_comm]
    rfl
  have hpos := two_zpow_pos (roundExp fmtF32 y.1.natAbs y.2 - 23)
  rw [hunits, hmag]
  linarith

/-! ### The true results (R106) -/

theorem fxLog2_lt (n m acc : Nat) : fxLog2 n m acc < (acc + 1) * 2 ^ n := by
  induction n generalizing m acc with
  | zero => simp [fxLog2]
  | succ n ih =>
    unfold fxLog2
    dsimp only
    split
    · calc _ < (2 * acc + 1 + 1) * 2 ^ n := ih _ _
        _ = (acc + 1) * 2 ^ (n + 1) := by ring
    · calc _ < (2 * acc + 1) * 2 ^ n := ih _ _
        _ ≤ (2 * acc + 2) * 2 ^ n := Nat.mul_le_mul_right _ (by omega)
        _ = (acc + 1) * 2 ^ (n + 1) := by ring

/-- The Taylor terms grow with the operand. -/
theorem fxExpm1_mono {n k t t' term term' : Nat} (ht : t ≤ t') (hterm : term ≤ term') : fxExpm1 n k t term ≤ fxExpm1 n k t' term' := by
  induction n generalizing k term term' with
  | zero => exact le_rfl
  | succ n ih =>
    have hstep : term * t / fxOne / k ≤ term' * t' / fxOne / k := Nat.div_le_div_right (Nat.div_le_div_right (Nat.mul_le_mul hterm ht))
    unfold fxExpm1
    dsimp only
    split
    · exact Nat.zero_le _
    · next h =>
      rw [if_neg ((Nat.pos_of_ne_zero h).trans_le hstep).ne']
      exact Nat.add_le_add hstep (ih hstep)

/-- e^(ln 2) - 1 is at most 1 in fixed point, and below it where the operand is. -/
theorem fxExpm1_ln2 : fxExpm1 120 1 fxLn2 fxOne ≤ fxOne := by decide +kernel
theorem fxExpm1_below_ln2 : fxExpm1 120 1 ((2 ^ 17 - 1) * fxLn2 / 2 ^ 17) fxOne * 2 ^ 24 ≤ fxOne * (2 ^ 24 - 2) := by decide +kernel

theorem magQ_f32_max : (2 : ℚ) ^ 127 * (2 - 2 / 2 ^ 24) = magQ fmtF32 fmtF32.max := by norm_num [magQ, magMant, magExp, fmtF32]

/-- What a code of f32 says of a finite operand that is not zero. -/
theorem f32_operand {code num den : Nat} {neg : Bool} (h : decodeF fmtF32 code = .fin neg num den) :
    0 < num ∧ 0 < den ∧ ∃ mag, 0 < mag ∧ mag ≤ fmtF32.max ∧ (num : ℚ) / den = magQ fmtF32 mag := by
  have hok := valOk_decodeF f32_ok code
  have hcase := decoded f32_ok code
  rw [h] at hok
  refine ⟨hok.1, hok.2, codeMag fmtF32 code, ?_⟩
  generalize hv : decodeF fmtF32 code = v at *
  cases hcase with
  | number hmag =>
    have hval := congrArg (fun v => |valQ v|) h
    simp only [valQ_numberOf, abs_valQ_fin, abs_mul, abs_signQ, one_mul, abs_of_nonneg (magQ_nonneg fmtF32 _)] at hval
    refine ⟨Nat.pos_of_ne_zero fun h0 => ?_, hmag, hval.symm⟩
    rw [h0, numberOf, if_pos rfl] at h
    cases h
  | inf => cases h
  | nan => cases h

theorem f32_range {code num den : Nat} {neg : Bool} (h : decodeF fmtF32 code = .fin neg num den) :
    (2 : ℚ) ^ (-149 : ℤ) ≤ num / den ∧ (num : ℚ) / den < 2 ^ (128 : ℤ) := by
  obtain ⟨-, -, mag, hpos, hmax, heq⟩ := f32_operand h
  have hone : magQ fmtF32 1 = 2 ^ (-149 : ℤ) := by norm_num [magQ, magMant, magExp, fmtF32]
  have hmono := (magQ_strictMono fmtF32).monotone
  rw [heq, ← hone]
  refine ⟨hmono hpos, (hmono hmax).trans_lt ?_⟩
  rw [← magQ_f32_max]
  norm_num

/-- The least f32 number above 128 - 2^-17 is 128. -/
theorem f32_below_128 {code num den : Nat} {neg : Bool} (h : decodeF fmtF32 code = .fin neg num den) (hlt : (num : ℚ) / den < 128) :
    (num : ℚ) / den ≤ 128 - 1 / 2 ^ 17 := by
  obtain ⟨-, -, mag, -, -, heq⟩ := f32_operand h
  have htop : magQ fmtF32 0x43000000 = 128 := by norm_num [magQ, magMant, magExp, fmtF32]
  have hpred : magQ fmtF32 0x42FFFFFF = 128 - 1 / 2 ^ 17 := by norm_num [magQ, magMant, magExp, fmtF32]
  rw [heq, ← htop] at hlt
  rw [heq, ← hpred]
  exact (magQ_strictMono fmtF32).monotone (Nat.le_of_lt_succ ((magQ_strictMono fmtF32).lt_iff_lt.1 hlt))

/-! #### log2 -/

theorem log2_true (neg : Bool) (num den : Nat) : 0 < (sfuTrue .log2 neg num den).2 ∧
    (floorLog2 num den : ℚ) ≤ fracQ (sfuTrue .log2 neg num den) ∧ fracQ (sfuTrue .log2 neg num den) < floorLog2 num den + 1 := by
  unfold sfuTrue
  dsimp only
  have hlt := fxLog2_lt 100 (num * (pow2 (128 - floorLog2 num den)).1 / (den * (pow2 (128 - floorLog2 num den)).2)) 0
  generalize fxLog2 100 (num * (pow2 (128 - floorLog2 num den)).1 / (den * (pow2 (128 - floorLog2 num den)).2)) 0 = bits at hlt
  rw [zero_add, one_mul] at hlt
  have hltQ : (bits : ℚ) < 2 ^ 100 := by exact_mod_cast hlt
  have hfrac : fracQ (floorLog2 num den * 2 ^ 100 + (bits : ℤ), 2 ^ 100) = floorLog2 num den + bits / 2 ^ 100 := by
    rw [fracQ]
    push_cast
    rw [add_div, mul_div_cancel_right₀ _ (by positivity)]
    norm_num
  have h0 : (0 : ℚ) ≤ bits / 2 ^ 100 := by positivity
  have h1 : (bits : ℚ) / 2 ^ 100 < 1 := (div_lt_one (by positivity)).2 hltQ
  rw [hfrac]
  exact ⟨by positivity, by linarith, by linarith⟩

/-! #### rsqrt -/

theorem rsqrt_true (neg : Bool) {num den : Nat} (hn : 0 < num) (hd : 0 < den) (hlow : (2 : ℚ) ^ (-149 : ℤ) ≤ num / den) :
    0 < (sfuTrue .rsqrt neg num den).2 ∧ |fracQ (sfuTrue .rsqrt neg num den)| ≤ 2 ^ 75 := by
  obtain ⟨a, b, hval, ha, hb, hspec⟩ := sqrtVal_spec hn hd
  have hdef : sfuTrue .rsqrt neg num den = ((b : ℤ), a) := by simp [sfuTrue, hval]
  have haQ : (0 : ℚ) < a := by exact_mod_cast ha
  have hbQ : (0 : ℚ) < b := by exact_mod_cast hb
  have hroot := (hspec 1 (-75) (by omega)).1.2 (le_trans (by norm_num) hlow)
  rw [Nat.cast_one, one_mul, le_div_iff₀ hbQ] at hroot
  rw [hdef, fracQ, abs_of_nonneg (by positivity), Int.cast_natCast, div_le_iff₀ haQ]
  refine ⟨ha, ?_⟩
  calc (b : ℚ) = 2 ^ 75 * (2 ^ (-75 : ℤ) * b) := by rw [← mul_assoc]; norm_num
    _ ≤ 2 ^ 75 * a := by gcongr

/-! #### tanh -/

theorem tanh_true (neg : Bool) (num den : Nat) : 0 < (sfuTrue .tanh neg num den).2 ∧ |fracQ (sfuTrue .tanh neg num den)| ≤ 1 := by
  unfold sfuTrue
  dsimp only
  generalize fxExpm1 200 1 (2 * num * fxOne / den) fxOne = e
  have hone : 0 < fxOne := by unfold fxOne; positivity
  generalize fxOne = u at hone
  have huQ : (0 : ℚ) < u := by exact_mod_cast hone
  have habs : |((if neg then -(e : ℤ) else e : ℤ) : ℚ)| = e := by cases neg <;> simp
  refine ⟨by omega, ?_⟩
  rw [fracQ, abs_div, habs, Nat.abs_cast]
  push_cast
  rw [div_le_one (by positivity)]
  linarith

/-! #### exp2 -/

/-- The scaled sum of the Taylor series of 2 to the fraction of an operand. -/
def exp2Sum (f den : Nat) : Nat := fxOne + fxExpm1 120 1 (f * fxLn2 / den) fxOne
/-- The integer part of an operand of exp2, held above what underflows. -/
def exp2Int (neg : Bool) (num den : Nat) : ℤ := max ((if neg then -(num : ℤ) else num) / (den : ℤ)) (-1100)
/-- The numerator of its fraction. -/
def exp2Frac (neg : Bool) (num den : Nat) : Nat :=
  if (if neg then -(num : ℤ) else num) / (den : ℤ) < -1100 then 0 else ((if neg then -(num : ℤ) else num) % (den : ℤ)).toNat

theorem exp2_true (neg : Bool) (num den : Nat) : 0 < (sfuTrue .exp2 neg num den).2 ∧
    |fracQ (sfuTrue .exp2 neg num den)| = exp2Sum (exp2Frac neg num den) den / fxOne * 2 ^ exp2Int neg num den := by
  have hdef : sfuTrue .exp2 neg num den = (((exp2Sum (exp2Frac neg num den) den * (pow2 (exp2Int neg num den)).1 : Nat) : ℤ),
      fxOne * (pow2 (exp2Int neg num den)).2) := rfl
  have hone : 0 < fxOne := by unfold fxOne; positivity
  rw [hdef]
  refine ⟨Nat.mul_pos hone (pow2_pos _).2, ?_⟩
  rw [fracQ, Int.cast_natCast, abs_of_nonneg (by positivity), Nat.cast_mul, Nat.cast_mul, mul_div_mul_comm, pow2_div]

theorem exp2Frac_lt (neg : Bool) (num : Nat) {den : Nat} (hd : 0 < den) : exp2Frac neg num den < den := by
  have hlt := Int.emod_lt_of_pos (if neg then -(num : ℤ) else num) (by exact_mod_cast hd : (0 : ℤ) < den)
  unfold exp2Frac
  generalize (if neg then -(num : ℤ) else num) = x at hlt
  split <;> omega

theorem exp2Sum_le {f den : Nat} (h : f ≤ den) : exp2Sum f den ≤ 2 * fxOne := by
  have hle : f * fxLn2 / den ≤ fxLn2 := Nat.div_le_of_le_mul (Nat.mul_le_mul_right _ h)
  calc exp2Sum f den ≤ fxOne + fxOne := Nat.add_le_add_left ((fxExpm1_mono hle le_rfl).trans fxExpm1_ln2) _
    _ = 2 * fxOne := (two_mul _).symm

theorem exp2Sum_lt {f den : Nat} (h : f * 2 ^ 17 ≤ den * (2 ^ 17 - 1)) : exp2Sum f den * 2 ^ 24 ≤ fxOne * (2 ^ 25 - 2) := by
  have hle : f * fxLn2 / den ≤ (2 ^ 17 - 1) * fxLn2 / 2 ^ 17 := by
    rw [Nat.le_div_iff_mul_le (by positivity)]
    calc f * fxLn2 / den * 2 ^ 17 ≤ f * fxLn2 * 2 ^ 17 / den :=
        (mul_comm _ _).trans_le ((Nat.mul_div_le_mul_div_assoc _ _ _).trans_eq (by rw [mul_comm]))
      _ ≤ (2 ^ 17 - 1) * fxLn2 := by
        refine Nat.div_le_of_le_mul ?_
        calc f * fxLn2 * 2 ^ 17 = f * 2 ^ 17 * fxLn2 := by ring
          _ ≤ den * (2 ^ 17 - 1) * fxLn2 := Nat.mul_le_mul_right _ h
          _ = den * ((2 ^ 17 - 1) * fxLn2) := by ring
  calc exp2Sum f den * 2 ^ 24 = fxOne * 2 ^ 24 + fxExpm1 120 1 (f * fxLn2 / den) fxOne * 2 ^ 24 := add_mul _ _ _
    _ ≤ fxOne * 2 ^ 24 + fxOne * (2 ^ 24 - 2) :=
      Nat.add_le_add_left ((Nat.mul_le_mul_right _ (fxExpm1_mono hle le_rfl)).trans fxExpm1_below_ln2) _
    _ = fxOne * (2 ^ 25 - 2) := (mul_add fxOne _ _).symm

theorem two_pow_127_le : (2 : ℚ) ^ (127 : ℤ) ≤ magQ fmtF32 fmtF32.max := by
  rw [← magQ_f32_max]
  norm_num

/-- Below 128 the integer part is at most 127, and there the fraction stays 2^-17 below 1. -/
theorem exp2_top {code num den : Nat} {neg : Bool} (h : decodeF fmtF32 code = .fin neg num den) (hlt : neg = false → num < 128 * den)
    (htop : 126 < exp2Int neg num den) : exp2Int neg num den = 127 ∧ exp2Frac neg num den * 2 ^ 17 ≤ den * (2 ^ 17 - 1) := by
  obtain ⟨-, hd, -⟩ := f32_operand h
  have hdZ : (0 : ℤ) < den := by exact_mod_cast hd
  have hdQ : (0 : ℚ) < den := by exact_mod_cast hd
  unfold exp2Int at htop
  cases neg with
  | true =>
    have : -(num : ℤ) / den ≤ 0 := Int.ediv_nonpos_of_nonpos_of_neg (by omega) hdZ
    simp only [if_true] at htop
    omega
  | false =>
    have hlt := hlt rfl
    have hbelow : (num : ℚ) / den ≤ 128 - 1 / 2 ^ 17 :=
      f32_below_128 h ((div_lt_iff₀ hdQ).2 (by exact_mod_cast hlt))
    rw [div_le_iff₀ hdQ] at hbelow
    have hnat : num * 2 ^ 17 ≤ den * (2 ^ 24 - 1) := by
      have : (num : ℚ) * 2 ^ 17 ≤ den * (2 ^ 24 - 1) := by linarith
      have hcast : ((num * 2 ^ 17 : Nat) : ℚ) ≤ (den * (2 ^ 24 - 1) : Nat) := by push_cast; norm_num at this ⊢; linarith
      exact_mod_cast hcast
    have hquot : (num : ℤ) / den < 128 := Int.ediv_lt_of_lt_mul hdZ (by exact_mod_cast hlt)
    have hdm := Int.mul_ediv_add_emod num den
    unfold exp2Int exp2Frac
    simp only [Bool.false_eq_true, if_false] at htop ⊢
    have h127 : (num : ℤ) / den = 127 := by omega
    rw [h127] at hdm ⊢
    rw [if_neg (by decide)]
    refine ⟨by decide, ?_⟩
    have hfrac : ((num : ℤ) % den).toNat = num - 127 * den := by omega
    rw [hfrac]
    calc (num - 127 * den) * 2 ^ 17 = num * 2 ^ 17 - den * (127 * 2 ^ 17) := by rw [Nat.sub_mul, mul_comm 127 den, mul_assoc]
      _ ≤ den * (2 ^ 24 - 1) - den * (127 * 2 ^ 17) := Nat.sub_le_sub_right hnat _
      _ = den * (2 ^ 17 - 1) := (Nat.mul_sub den (2 ^ 24 - 1) (127 * 2 ^ 17)).symm

theorem exp2_le_max {code num den : Nat} {neg : Bool} (h : decodeF fmtF32 code = .fin neg num den) (hlt : neg = false → num < 128 * den) :
    |fracQ (sfuTrue .exp2 neg num den)| ≤ magQ fmtF32 fmtF32.max := by
  obtain ⟨-, hd, -⟩ := f32_operand h
  have hone : 0 < fxOne := by unfold fxOne; positivity
  have honeQ : (0 : ℚ) < fxOne := by exact_mod_cast hone
  rw [(exp2_true neg num den).2]
  by_cases htop : 126 < exp2Int neg num den
  · obtain ⟨hint, hfrac⟩ := exp2_top h hlt htop
    have hsum : (exp2Sum (exp2Frac neg num den) den : ℚ) / fxOne ≤ 2 - 2 / 2 ^ 24 := by
      have hnat := exp2Sum_lt hfrac
      have hcast : (exp2Sum (exp2Frac neg num den) den : ℚ) * 2 ^ 24 ≤ fxOne * (2 ^ 25 - 2) := by
        have hQ := (Nat.cast_le (α := ℚ)).2 hnat
        push_cast at hQ
        norm_num at hQ ⊢
        exact hQ
      rw [div_le_iff₀ honeQ]
      linarith
    rw [hint, ← magQ_f32_max, mul_comm]
    exact mul_le_mul_of_nonneg_left hsum (by positivity)
  · have hsum : (exp2Sum (exp2Frac neg num den) den : ℚ) / fxOne ≤ 2 := by
      rw [div_le_iff₀ honeQ]
      exact_mod_cast exp2Sum_le (exp2Frac_lt neg num hd).le
    have hpow : (2 : ℚ) ^ exp2Int neg num den ≤ 2 ^ (126 : ℤ) := zpow_le_zpow_right₀ (by norm_num) (by omega)
    calc (exp2Sum (exp2Frac neg num den) den : ℚ) / fxOne * 2 ^ exp2Int neg num den ≤ 2 * 2 ^ (126 : ℤ) := by gcongr
      _ = 2 ^ (127 : ℤ) := by norm_num
      _ ≤ magQ fmtF32 fmtF32.max := two_pow_127_le

/-! ### The nearest code lies within the bound (R106) -/

theorem sfuWithin32_of_near {fn : SfuFn} {neg : Bool} {num den c : Nat} (hfn : fn ≠ .sin ∧ fn ≠ .cos) (hfin : IsFinite (decodeF fmtF32 c)) :
    sfuWithin32 fn neg num den c =
      nearTrue (valFrac (decodeF fmtF32 c)) (sfuTrue fn neg num den) (sfuBound fn num den (sfuTrue fn neg num den)) := by
  unfold sfuWithin32
  generalize decodeF fmtF32 c = v at *
  rcases isFinite_cases hfin with ⟨n, rfl⟩ | ⟨n, a, b, rfl⟩ <;> simp [hfn.1, hfn.2]

/-- The functions whose nearest code is always within the bound. -/
def nearFns : List SfuFn := [.exp2, .log2, .rsqrt, .tanh]

/-- log2 near 1: the bound is 2^-22, and the result is not above 2. -/
theorem log2_near_one {num den : Nat} (neg : Bool) (hn : 0 < num) (hd : 0 < den) (h : den ≤ 2 * num ∧ num ≤ 2 * den) :
    |fracQ (sfuTrue .log2 neg num den)| ≤ 2 := by
  obtain ⟨-, hlo, hhi⟩ := log2_true neg num den
  have hdQ : (0 : ℚ) < den := by exact_mod_cast hd
  have hx : (0 : ℚ) < num / den := by positivity
  obtain ⟨hlog, hlog'⟩ := log_bounds hx
  have hlow : (2 : ℚ) ^ (-1 : ℤ) ≤ num / den := by
    rw [le_div_iff₀ hdQ]
    have : (den : ℚ) ≤ 2 * num := by exact_mod_cast h.1
    norm_num
    linarith
  have hhigh : (num : ℚ) / den < 2 ^ (2 : ℤ) := by
    rw [div_lt_iff₀ hdQ]
    have : (num : ℚ) ≤ 2 * den := by exact_mod_cast h.2
    norm_num
    linarith
  have h1 := (zpow_lt_zpow_iff_right₀ (by norm_num : (1 : ℚ) < 2)).1 (hlow.trans_lt hlog')
  have h2 := (zpow_lt_zpow_iff_right₀ (by norm_num : (1 : ℚ) < 2)).1 (hlog.trans_lt hhigh)
  rw [← floorLog2_eq hn hd] at h1 h2
  have h1Q : (-1 : ℚ) ≤ floorLog2 num den := by exact_mod_cast (by omega : (-1 : ℤ) ≤ floorLog2 num den)
  have h2Q : (floorLog2 num den : ℚ) ≤ 1 := by exact_mod_cast (by omega : floorLog2 num den ≤ 1)
  exact abs_le.2 ⟨by linarith, by linarith⟩

theorem log2_le_max {code num den : Nat} {neg : Bool} (h : decodeF fmtF32 code = .fin neg num den) :
    |fracQ (sfuTrue .log2 neg num den)| ≤ magQ fmtF32 fmtF32.max := by
  obtain ⟨hn, hd, -⟩ := f32_operand h
  obtain ⟨hlow, hhigh⟩ := f32_range h
  obtain ⟨-, hlo, hhi⟩ := log2_true neg num den
  have hx : (0 : ℚ) < num / den := (two_zpow_pos _).trans_le hlow
  obtain ⟨hlog, hlog'⟩ := log_bounds hx
  have h1 := (zpow_lt_zpow_iff_right₀ (by norm_num : (1 : ℚ) < 2)).1 (hlow.trans_lt hlog')
  have h2 := (zpow_lt_zpow_iff_right₀ (by norm_num : (1 : ℚ) < 2)).1 (hlog.trans_lt hhigh)
  rw [← floorLog2_eq hn hd] at h1 h2
  have h1Q : (-150 : ℚ) ≤ floorLog2 num den := by exact_mod_cast (by omega : (-150 : ℤ) ≤ floorLog2 num den)
  have h2Q : (floorLog2 num den : ℚ) ≤ 128 := by exact_mod_cast (by omega : floorLog2 num den ≤ 128)
  refine le_trans (abs_le.2 ⟨by linarith, by linarith⟩ : _ ≤ (200 : ℚ)) (le_trans ?_ two_pow_127_le)
  norm_num

theorem sfuTrue_le_max {fn : SfuFn} {code num den : Nat} {neg : Bool} (hfn : fn ∈ nearFns) (h : decodeF fmtF32 code = .fin neg num den)
    (hspecial : sfuSpecial fn (.fin neg num den) = none) :
    0 < (sfuTrue fn neg num den).2 ∧ |fracQ (sfuTrue fn neg num den)| ≤ magQ fmtF32 fmtF32.max := by
  obtain ⟨hn, hd, -⟩ := f32_operand h
  simp only [nearFns, List.mem_cons, List.not_mem_nil, or_false] at hfn
  rcases hfn with rfl | rfl | rfl | rfl
  · refine ⟨(exp2_true neg num den).1, exp2_le_max h fun hneg => ?_⟩
    simpa [sfuSpecial, hneg] using hspecial
  · exact ⟨(log2_true neg num den).1, log2_le_max h⟩
  · obtain ⟨hpos, hle⟩ := rsqrt_true neg hn hd (f32_range h).1
    exact ⟨hpos, hle.trans ((by norm_num : (2 : ℚ) ^ 75 ≤ 2 ^ (127 : ℤ)).trans two_pow_127_le)⟩
  · obtain ⟨hpos, hle⟩ := tanh_true neg num den
    exact ⟨hpos, hle.trans ((by norm_num : (1 : ℚ) ≤ 2 ^ (127 : ℤ)).trans two_pow_127_le)⟩

theorem roundExp_of_le_two {y : ℤ × Nat} (hd : 0 < y.2) (h0 : y.1 ≠ 0) (h : |fracQ y| ≤ 2) : roundExp fmtF32 y.1.natAbs y.2 ≤ 1 := by
  have hn : 0 < y.1.natAbs := Int.natAbs_pos.2 h0
  have hmag : |fracQ y| = (y.1.natAbs : ℚ) / y.2 := by
    rw [fracQ, ← valQ_fin_natAbs, abs_valQ_fin]
  have hpos : (0 : ℚ) < y.1.natAbs / y.2 := by
    have : (0 : ℚ) < y.2 := by exact_mod_cast hd
    have : (0 : ℚ) < y.1.natAbs := by exact_mod_cast hn
    positivity
  have hle : (2 : ℚ) ^ Int.log 2 ((y.1.natAbs : ℚ) / y.2) ≤ 2 ^ (1 : ℤ) := by
    rw [zpow_one]
    exact (log_bounds hpos).1.trans (hmag ▸ h)
  have hlog := (zpow_le_zpow_iff_right₀ (by norm_num : (1 : ℚ) < 2)).1 hle
  rw [roundExp, floorLog2_eq hn hd]
  exact max_le hlog (by decide)

theorem sfuNearest_within {fn : SfuFn} {code num den : Nat} {neg : Bool} (hfn : fn ∈ nearFns) (h : decodeF fmtF32 code = .fin neg num den)
    (hspecial : sfuSpecial fn (.fin neg num den) = none) : sfuWithin32 fn neg num den (sfuNearest fn neg num den) = true := by
  obtain ⟨hn, hd, -⟩ := f32_operand h
  obtain ⟨hden, hmax⟩ := sfuTrue_le_max hfn h hspecial
  have hbound : 0 < (sfuBound fn num den (sfuTrue fn neg num den)).2 ∧ ((sfuTrue fn neg num den).1 ≠ 0 →
      2 ^ (roundExp fmtF32 (sfuTrue fn neg num den).1.natAbs (sfuTrue fn neg num den).2 - 23) / 2 + |fracQ (sfuTrue fn neg num den)| / 2 ^ 60 ≤
        ((sfuBound fn num den (sfuTrue fn neg num den)).1 : ℚ) / (sfuBound fn num den (sfuTrue fn neg num den)).2) := by
    by_cases hone : fn = .log2 ∧ den ≤ 2 * num ∧ num ≤ 2 * den
    · obtain ⟨rfl, hnear⟩ := hone
      have hb : sfuBound .log2 num den (sfuTrue .log2 neg num den) = (1, 2 ^ 22) := if_pos hnear
      rw [hb]
      refine ⟨by positivity, fun h0 => ?_⟩
      have h2 := log2_near_one neg hn hd hnear
      have hunits := zpow_le_zpow_right₀ (by norm_num : (1 : ℚ) ≤ 2) (sub_le_sub_right (roundExp_of_le_two hden h0 h2) 23)
      norm_num at hunits ⊢
      linarith
    · have hb : sfuBound fn num den (sfuTrue fn neg num den) =
          ulpTimes (max (sfuTrue fn neg num den).1.natAbs 1) (sfuTrue fn neg num den).2 1 := by
        simp only [nearFns, List.mem_cons, List.not_mem_nil, or_false] at hfn
        rcases hfn with rfl | rfl | rfl | rfl
        · rfl
        · exact if_neg fun hnear => hone ⟨rfl, hnear⟩
        · rfl
        · rfl
      rw [hb]
      exact ⟨(pow2_pos _).2, two_units_enough hden⟩
  obtain ⟨hfin, hnear⟩ := near_roundNE hden hbound.1 hmax hbound.2
  have hnot : fn ≠ .sin ∧ fn ≠ .cos := by
    constructor <;> rintro rfl <;> simp [nearFns] at hfn
  exact (sfuWithin32_of_near hnot hfin).trans hnear

end Sys2Proof.Machine
end

section
/-! PROOFS. One element of a special function in f32 (R105, R106), and the arithmetic of elements as a whole. -/

open Host Sys2Proof Sys2Proof.Machine Sys2Proof.Claims

namespace Sys2Proof.Machine

/-! ### The three ways of a special function -/

section Element
variable (cb : List Nat) {fn : SfuFn} {code : Nat}

theorem sfuElem_special {r : Val} {fl : Flags} (h : sfuSpecial fn (decodeF fmtF32 code) = some (r, fl)) :
    sfuElem cb fn .f32 false code = ((encodeF fmtF32 .rn false r).1, fl ||| (encodeF fmtF32 .rn false r).2) := by
  have hres : sfuResult fn .f32 (decodeTy cb .f32 code) = (r, fl, false) := by
    have hdec : decodeTy cb .f32 code = decodeF fmtF32 code := rfl
    simp only [hdec, sfuResult, h]
  rw [sfuElem, hres, encodeTy_float rfl]
  simp [flagIf, tyFmt]

theorem sfuElem_exact {neg : Bool} {num den : Nat} (hx : decodeF fmtF32 code = .fin neg num den)
    (hnone : sfuSpecial fn (.fin neg num den) = none) {r : Val} (h : sfuExact fn neg num den = some r) :
    sfuElem cb fn .f32 false code = encodeF fmtF32 .rn false r := by
  have hres : sfuResult fn .f32 (decodeTy cb .f32 code) = (r, 0, false) := by
    have hdec : decodeTy cb .f32 code = .fin neg num den := hx
    simp only [hdec, sfuResult, hnone, h]
  rw [sfuElem, hres, encodeTy_float rfl]
  simp [flagIf, tyFmt]

/-- The free code of an operand. -/
def freeCode (fn : SfuFn) (code : Nat) : Nat := (Config.sfuCode (sfuOp fn) (BitVec.ofNat 32 code)).toNat

theorem sfuElem_free {neg : Bool} {num den : Nat} (hcode : code < 2 ^ 32) (hx : decodeF fmtF32 code = .fin neg num den)
    (hnone : sfuSpecial fn (.fin neg num den) = none) (hexact : sfuExact fn neg num den = none) :
    (sfuElem cb fn .f32 false code).1 =
        (if sfuWithin32 fn neg num den (freeCode fn code) = true then freeCode fn code else sfuNearest fn neg num den) ∧
      (sfuElem cb fn .f32 false code).2.getLsbD 4 = true := by
  have hback : roundNE fmtF32 (.fin neg num den) = code := by
    rw [← hx, roundNE, encodeF_decodeF f32_ok .rn hcode]
  have hlt : (if sfuWithin32 fn neg num den (freeCode fn code) = true then freeCode fn code else sfuNearest fn neg num den) < 2 ^ 32 := by
    split
    · exact BitVec.isLt _
    · exact encodeF_ofFrac_lt f32_mem .rn false false _ _
  have hres : sfuResult fn .f32 (decodeTy cb .f32 code) =
      let r := decodeF fmtF32
        (if sfuWithin32 fn neg num den (freeCode fn code) = true then freeCode fn code else sfuNearest fn neg num den)
      (r, flagIf (valIsInf r) flOF ||| flNX, true) := by
    have hdec : decodeTy cb .f32 code = .fin neg num den := hx
    simp only [hdec, sfuResult, hnone, hexact, hback, sfuWithin, Bool.and_true]
    rfl
  generalize (if sfuWithin32 fn neg num den (freeCode fn code) = true then freeCode fn code else sfuNearest fn neg num den) = c at *
  have hc : encodeF (tyFmt .f32) .rn false (decodeF fmtF32 c) = (c, 0) := encodeF_decodeF f32_ok .rn hlt
  have hnx : flNX.getLsbD 4 = true := by decide
  rw [sfuElem, hres, encodeTy_float rfl]
  simp only [hc, BitVec.getLsbD_or, hnx, Bool.or_true, Bool.true_or, and_self]

end Element

/-! ### The exact cases (R106) -/

/-- A number of at most 24 bits above the lowest unit of f32 is encoded exactly. -/
theorem encodeF_dyadic {neg : Bool} {num den j : Nat} {z : ℤ} (hn : 0 < num) (hd : 0 < den) (hval : (num : ℚ) / den = j * 2 ^ z)
    (hz : -149 ≤ z) (hj : j < 2 ^ 24) (hmax : (num : ℚ) / den ≤ 2 ^ (127 : ℤ)) :
    valQ (decodeF fmtF32 (encodeF fmtF32 .rn false (.fin neg num den)).1) = valQ (.fin neg num den) ∧
      (encodeF fmtF32 .rn false (.fin neg num den)).2 = 0 := by
  have hx : (0 : ℚ) < num / den := by positivity
  have hlt : (num : ℚ) / den < 2 ^ (24 + z) := by
    have hjQ : (j : ℚ) < 2 ^ (24 : ℤ) := by exact_mod_cast hj
    rw [hval, zpow_add₀ (by norm_num)]
    gcongr
  have hlog := (zpow_lt_zpow_iff_right₀ (by norm_num : (1 : ℚ) < 2)).1 ((log_bounds hx).1.trans_lt hlt)
  have hround : roundTo fmtF32 .rn (valQ (.fin neg num den)) = valQ (.fin neg num den) := by
    refine roundTo_eq_self (i := (if neg then -1 else 1) * j) (z := z) ?_ ?_
    · rw [valQ_fin, hval]
      cases neg <;> simp
    · rw [abs_valQ_fin]
      simp only [fmtF32]
      omega
  have hle : |roundTo fmtF32 .rn (valQ (.fin neg num den))| ≤ valQ (decodeF fmtF32 fmtF32.max) := by
    rw [hround, abs_valQ_fin, valQ_decodeF_max f32_ok]
    exact hmax.trans two_pow_127_le
  obtain ⟨-, hsame, -, -, hfl⟩ := (encodeRounds fmtF32 f32_mem .rn false neg num den hn hd).1 hle
  rw [hround] at hsame
  exact ⟨hsame, hfl.trans (if_pos hround)⟩

theorem encodeF_pow2 {i : ℤ} (hlow : -149 ≤ i) (hhigh : i ≤ 127) :
    valQ (decodeF fmtF32 (encodeF fmtF32 .rn false (.fin false (pow2 i).1 (pow2 i).2)).1) = 2 ^ i ∧
      (encodeF fmtF32 .rn false (.fin false (pow2 i).1 (pow2 i).2)).2 = 0 := by
  have h := encodeF_dyadic (neg := false) (j := 1) (pow2_pos i).1 (pow2_pos i).2 (by rw [pow2_div, Nat.cast_one, one_mul]) hlow (by decide)
    (by rw [pow2_div]; exact zpow_le_zpow_right₀ (by norm_num) hhigh)
  rwa [valQ_fin, signQ, if_neg (by decide), one_mul, pow2_div] at h

theorem pow2Exp_eq {num den : Nat} {i : ℤ} (hn : 0 < num) (hd : 0 < den) (h : (num : ℚ) / den = 2 ^ i) : pow2Exp num den = some i := by
  have hlog : floorLog2 num den = i := by
    rw [floorLog2_eq hn hd, h]
    exact Int.log_zpow (by norm_num) i
  have hdQ : (den : ℚ) ≠ 0 := by exact_mod_cast hd.ne'
  have heq : num * (pow2 i).2 = (pow2 i).1 * den := by
    have hp : ((pow2 i).2 : ℚ) ≠ 0 := by exact_mod_cast (pow2_pos i).2.ne'
    rw [← pow2_div, div_eq_div_iff hdQ hp] at h
    exact_mod_cast h
  simp only [pow2Exp, hlog, heq, if_true]

/-- A finite operand with a positive value. -/
theorem positive_operand {v : Val} (hfin : IsFinite v) (hpos : 0 < valQ v) :
    ∃ num den, v = .fin false num den ∧ valQ v = (num : ℚ) / den := by
  rcases isFinite_cases hfin with ⟨n, rfl⟩ | ⟨n, num, den, rfl⟩
  · exact absurd hpos (lt_irrefl _)
  · cases n with
    | false => exact ⟨num, den, rfl, by rw [valQ_fin, signQ, if_neg (by decide), one_mul]⟩
    | true =>
      have : (0 : ℚ) ≤ num / den := by positivity
      rw [valQ_fin, signQ, if_pos rfl] at hpos
      linarith

theorem encodeF_one (n : Bool) : encodeF fmtF32 .rn false (.fin n 1 1) = (if n then 0xBF800000 else 0x3F800000, 0) := by cases n <;> decide

/-- A special value, evaluated. -/
theorem sfuElem_value (cb : List Nat) {fn : SfuFn} {code : Nat} {v r : Val} {fl : Flags} {c : Nat} (hx : decodeF fmtF32 code = v)
    (h : sfuSpecial fn v = some (r, fl)) (hc : encodeF fmtF32 .rn false r = (c, 0)) : sfuElem cb fn .f32 false code = (c, fl) := by
  rw [sfuElem_special cb (hx ▸ h), hc]
  simp

section Exact
variable (cb : List Nat) {code : Nat} (hfin : IsFinite (decodeF fmtF32 code))
include hfin

theorem exp2_of_int {i : ℤ} (h : valQ (decodeF fmtF32 code) = i) (hlow : -149 ≤ i) (hhigh : i ≤ 127) :
    valQ (decodeF fmtF32 (sfuElem cb .exp2 .f32 false code).1) = 2 ^ i ∧ (sfuElem cb .exp2 .f32 false code).2 = 0 := by
  rcases isFinite_cases hfin with ⟨n, hx⟩ | ⟨n, num, den, hx⟩
  · have hi : i = 0 := by
      have hval : valQ (.zero n) = 0 := rfl
      rw [hx, hval] at h
      exact_mod_cast h.symm
    subst hi
    rw [sfuElem_special cb (fn := .exp2) (r := .fin false 1 1) (fl := 0) (by rw [hx]; rfl)]
    obtain ⟨h1, h2⟩ := encodeF_pow2 hlow hhigh
    exact ⟨h1, by rw [show (encodeF fmtF32 .rn false (.fin false 1 1)).2 = 0 from h2]; rfl⟩
  · obtain ⟨hn, hd, -⟩ := f32_operand hx
    have hdQ : (den : ℚ) ≠ 0 := by exact_mod_cast hd.ne'
    have hnum : (num : ℤ) = (if n then -i else i) * den := by
      rw [hx, valQ_fin] at h
      have hq : (num : ℚ) = signQ n * i * den := by rw [← h, ← mul_assoc, signQ_mul_self, one_mul, div_mul_cancel₀ _ hdQ]
      have hsign : (((if n then -i else i : ℤ)) : ℚ) = signQ n * i := by cases n <;> simp
      rw [← hsign] at hq
      exact_mod_cast hq
    have hdvd : (den : ℤ) ∣ num := ⟨_, hnum.trans (mul_comm _ _)⟩
    have hmod : num % den = 0 := Nat.mod_eq_zero_of_dvd (by exact_mod_cast hdvd)
    have hquot : ((num / den : Nat) : ℤ) = if n then -i else i := by
      rw [Int.natCast_div, hnum, Int.mul_ediv_cancel _ (by exact_mod_cast hd.ne')]
    have hexact : sfuExact .exp2 n num den = some (.fin false (pow2 i).1 (pow2 i).2) := by
      have hi : (if n then -((num / den : Nat) : ℤ) else (num / den : Nat)) = i := by
        rw [hquot]
        cases n <;> simp
      simp only [sfuExact, hmod, hi, if_true]
      rw [if_pos ⟨hlow, hhigh⟩]
    have hnone : sfuSpecial .exp2 (.fin n num den) = none := by
      refine if_neg fun hbig => ?_
      simp only [Bool.and_eq_true, decide_eq_true_eq] at hbig
      obtain ⟨rfl, hle⟩ := hbig
      have : 128 ≤ num / den := (Nat.le_div_iff_mul_le hd).2 hle
      simp only [Bool.false_eq_true, if_false] at hquot
      omega
    rw [sfuElem_exact cb hx hnone hexact]
    exact encodeF_pow2 hlow hhigh

theorem log2_of_pow {i : ℤ} (h : valQ (decodeF fmtF32 code) = 2 ^ i) :
    valQ (decodeF fmtF32 (sfuElem cb .log2 .f32 false code).1) = i ∧ (sfuElem cb .log2 .f32 false code).2 = 0 := by
  obtain ⟨num, den, hx, hval⟩ := positive_operand hfin (by rw [h]; positivity)
  obtain ⟨hn, hd, -⟩ := f32_operand hx
  obtain ⟨hlow, hhigh⟩ := f32_range hx
  rw [h] at hval
  rw [← hval] at hlow hhigh
  have h1 := (zpow_le_zpow_iff_right₀ (by norm_num : (1 : ℚ) < 2)).1 hlow
  have h2 := (zpow_lt_zpow_iff_right₀ (by norm_num : (1 : ℚ) < 2)).1 hhigh
  have hexact : sfuExact .log2 false num den = some (ofFrac false i 1) := by simp only [sfuExact, pow2Exp_eq hn hd hval.symm, Option.map_some]
  rw [sfuElem_exact cb hx rfl hexact]
  by_cases h0 : i = 0
  · rw [h0, ofFrac_zero, encodeF_zero f32_ok, Int.cast_zero]
    exact ⟨by rw [show decodeF fmtF32 (signBit fmtF32 false) = .zero false by decide]; rfl, rfl⟩
  · rw [ofFrac_ne_zero _ _ h0]
    have hle : (i.natAbs : ℚ) ≤ 2 ^ (127 : ℤ) :=
      (by exact_mod_cast (by omega : i.natAbs ≤ 149) : (i.natAbs : ℚ) ≤ 149).trans (by norm_num)
    have henc := encodeF_dyadic (neg := decide (i < 0)) (j := i.natAbs) (z := 0) (Int.natAbs_pos.2 h0) one_pos
      (by rw [Nat.cast_one, div_one, zpow_zero, mul_one]) (by decide) (by omega) (by rwa [Nat.cast_one, div_one])
    rwa [valQ_fin_natAbs, Nat.cast_one, div_one] at henc

theorem rsqrt_of_pow {i : ℤ} (h : valQ (decodeF fmtF32 code) = 4 ^ i) :
    valQ (decodeF fmtF32 (sfuElem cb .rsqrt .f32 false code).1) = 2 ^ (-i) ∧ (sfuElem cb .rsqrt .f32 false code).2 = 0 := by
  obtain ⟨num, den, hx, hval⟩ := positive_operand hfin (by rw [h]; positivity)
  obtain ⟨hn, hd, -⟩ := f32_operand hx
  obtain ⟨hlow, hhigh⟩ := f32_range hx
  have h4 : (4 : ℚ) ^ i = 2 ^ (2 * i) := by rw [zpow_mul]; norm_num
  rw [h, h4] at hval
  rw [← hval] at hlow hhigh
  have h1 := (zpow_le_zpow_iff_right₀ (by norm_num : (1 : ℚ) < 2)).1 hlow
  have h2 := (zpow_lt_zpow_iff_right₀ (by norm_num : (1 : ℚ) < 2)).1 hhigh
  have hexact : sfuExact .rsqrt false num den = some (.fin false (pow2 (-i)).1 (pow2 (-i)).2) := by
    have hhalf : -(2 * i) / 2 = -i := by omega
    simp only [sfuExact, pow2Exp_eq hn hd hval.symm, hhalf]
    rw [if_pos (by omega)]
  rw [sfuElem_exact cb hx rfl hexact]
  exact encodeF_pow2 (by omega) (by omega)

theorem exp2_of_large (h : 128 ≤ valQ (decodeF fmtF32 code)) : sfuElem cb .exp2 .f32 false code = (0x7F800000, flOF ||| flNX) := by
  obtain ⟨num, den, hx, hval⟩ := positive_operand hfin (by linarith)
  obtain ⟨-, hd, -⟩ := f32_operand hx
  have hdQ : (0 : ℚ) < den := by exact_mod_cast hd
  rw [hval, le_div_iff₀ hdQ] at h
  have hle : 128 * den ≤ num := by exact_mod_cast h
  have hspecial : sfuSpecial .exp2 (.fin false num den) = some (.inf false, flOF ||| flNX) := if_pos (by simpa using hle)
  rw [sfuElem_special cb (hx ▸ hspecial)]
  decide

theorem tanh_of_large (h : 901 / 100 ≤ |valQ (decodeF fmtF32 code)|) :
    sfuElem cb .tanh .f32 false code = (if valNeg (decodeF fmtF32 code) then 0xBF800000 else 0x3F800000, flNX) := by
  rcases isFinite_cases hfin with ⟨n, hx⟩ | ⟨n, num, den, hx⟩
  · rw [hx] at h
    norm_num [valQ] at h
  · obtain ⟨-, hd, -⟩ := f32_operand hx
    have hdQ : (0 : ℚ) < den := by exact_mod_cast hd
    rw [hx, abs_valQ_fin, le_div_iff₀ hdQ] at h
    have hle : 901 * den ≤ 100 * num := by
      have : (901 : ℚ) * den ≤ 100 * num := by linarith
      exact_mod_cast this
    have hspecial : sfuSpecial .tanh (.fin n num den) = some (.fin n 1 1, flNX) := if_pos hle
    rw [sfuElem_value cb hx hspecial (encodeF_one n), hx]
    rfl

end Exact

/-! ### Special values (R106) -/

/-- A NaN operand is the result of every function. -/
theorem sfuElem_nan (cb : List Nat) (fn : SfuFn) {code : Nat} (hcode : code < 2 ^ 32) (h : valIsNan (decodeF fmtF32 code) = true) :
    sfuElem cb fn .f32 false code = (code, if valIsSnan (decodeF fmtF32 code) = true then flNV else 0) := by
  obtain ⟨neg, mant, sig, hx, -, -⟩ := decodeF_nan f32_ok h
  have hback : encodeF fmtF32 .rn false (decodeF fmtF32 code) = (code, 0) := encodeF_decodeF f32_ok .rn hcode
  have hspecial : sfuSpecial fn (decodeF fmtF32 code) = some (decodeF fmtF32 code, snanFlag [decodeF fmtF32 code]) := by
    rw [hx]
    cases fn <;> rfl
  rw [sfuElem_special cb hspecial, hback]
  simp [snanFlag, flagIf]

/-- A zero is its own sine and hyperbolic tangent. -/
theorem sfuElem_self (cb : List Nat) {fn : SfuFn} {code : Nat} (hcode : code < 2 ^ 32)
    (h : sfuSpecial fn (decodeF fmtF32 code) = some (decodeF fmtF32 code, 0)) : sfuElem cb fn .f32 false code = (code, 0) := by
  rw [sfuElem_special cb h, encodeF_decodeF f32_ok .rn hcode]
  simp

theorem specialFunctionElements : SpecialFunctionElements := by
  intro cb code hcode x one nan r
  have hone : encodeF fmtF32 .rn false (.fin false 1 1) = (one, 0) := encodeF_one false
  have hminus : encodeF fmtF32 .rn false (.fin true 1 1) = (0xBF800000, 0) := encodeF_one true
  have hnan : encodeF fmtF32 .rn false .dnan = (nan, 0) := rfl
  have hpinf : encodeF fmtF32 .rn false (.inf false) = (0x7F800000, 0) := by decide
  have hninf : encodeF fmtF32 .rn false (.inf true) = (0xFF800000, 0) := by decide
  have hzero : encodeF fmtF32 .rn false (.zero false) = (0, 0) := by decide
  have value {fn : SfuFn} {v w : Val} {fl : Flags} {c : Nat} (hx : x = v) (h : sfuSpecial fn v = some (w, fl))
      (hc : encodeF fmtF32 .rn false w = (c, 0)) : r fn = (c, fl) := sfuElem_value cb hx h hc
  refine ⟨fun hx => ?zero, fun hx => ?plus, fun hx => ?minus, fun hx fn => sfuElem_nan cb fn hcode hx,
    fun num den hx => ⟨value hx rfl hnan, value hx rfl hnan⟩, fun hfin => ?finite, fun fn neg num den hx hspecial hexact => ?bounded⟩
  case zero =>
    obtain ⟨n, hx⟩ : ∃ n, x = .zero n := hx.elim (fun h => ⟨_, h⟩) (fun h => ⟨_, h⟩)
    have hself {fn : SfuFn} (h : sfuSpecial fn (.zero n) = some (.zero n, 0)) : r fn = (code, 0) :=
      sfuElem_self cb hcode (show sfuSpecial fn x = some (x, 0) by rw [hx, h])
    have hsign : valNeg x = n := by rw [hx]; rfl
    refine ⟨value hx rfl hone, value hx rfl hninf, ?_, hself rfl, value hx rfl hone, hself rfl⟩
    rw [hsign]
    cases n
    · exact value hx rfl hpinf
    · exact value hx rfl hninf
  case plus =>
    exact ⟨value hx rfl hpinf, value hx rfl hpinf, value hx rfl hzero, value hx rfl hnan, value hx rfl hnan, value hx rfl hone⟩
  case minus =>
    exact ⟨value hx rfl hzero, value hx rfl hnan, value hx rfl hnan, value hx rfl hnan, value hx rfl hnan, value hx rfl hminus⟩
  case finite =>
    exact ⟨exp2_of_large cb hfin, fun i h hlow hhigh => exp2_of_int cb hfin h hlow hhigh, fun i h => log2_of_pow cb hfin h,
      fun i h => rsqrt_of_pow cb hfin h, tanh_of_large cb hfin⟩
  case bounded =>
    have hspecial' : sfuSpecial fn (.fin neg num den) = none := hx ▸ hspecial
    obtain ⟨hcode', hnx⟩ := sfuElem_free cb hcode hx hspecial' hexact
    intro free
    have hr : (r fn).1 = if sfuWithin32 fn neg num den free = true then free else sfuNearest fn neg num den := hcode'
    refine ⟨fun h => hr.trans (if_pos h), fun h => hr.trans (if_neg (by rw [h]; decide)), fun hfn => ?_, hnx⟩
    rw [hr]
    split
    · next h => exact h
    · exact sfuNearest_within hfn hx hspecial'

/-- Settles O9: every part holds, from the rounding of exact values to the special functions. -/
theorem elementArithmetic : Obligations.ElementArithmetic :=
  ⟨integerElementsWrap, saturationAndOrder, fieldsAndSums, encodeRounds, floatElements, floatOrder, roundToInteger, codebookNearest,
    elementsConvert, partsConvert, codesComeBack, rootsAndReciprocals, specialFunctionElements⟩

end Sys2Proof.Machine
end

section
/-! PROOFS. The fields of the instruction words: what each format of the encoder holds where the decoder reads it, and a word put
together again from its fields (R53-R67). -/

open Sys2Proof Sys2Proof.Machine

namespace Sys2Proof

/-! ### Fields of a first word (R53, R54) -/

section Words

open BitVec Dec Enc

theorem ofBool_getLsbD_eq_extract {n : Nat} (w : BitVec n) (i : Nat) : ofBool (w.getLsbD i) = w.extractLsb' i 1 := by
  ext j hj
  simp [show j = 0 by omega]

section First

variable (sp : Bool) (m : BitVec 6) (d a b : BitVec 7) (low : BitVec 4)

@[simp] theorem fS_w0 : fS (w0 sp m d a b low) = sp := by
  unfold fS w0
  simp only [getLsbD_append, Nat.reduceSub, Nat.reduceLT, if_false]
  simp
@[simp] theorem fMajor_w0 : fMajor (w0 sp m d a b low) = m := by
  unfold fMajor w0
  simp (disch := decide) only [extractLsb'_append_eq_of_le, extractLsb'_append_eq_of_add_le, Nat.reduceSub, extractLsb'_eq_self]
@[simp] theorem fD_w0 : fD (w0 sp m d a b low) = d := by
  unfold fD w0
  simp (disch := decide) only [extractLsb'_append_eq_of_le, extractLsb'_append_eq_of_add_le, Nat.reduceSub, extractLsb'_eq_self]
@[simp] theorem fA_w0 : fA (w0 sp m d a b low) = a := by
  unfold fA w0
  simp (disch := decide) only [extractLsb'_append_eq_of_le, extractLsb'_append_eq_of_add_le, Nat.reduceSub, extractLsb'_eq_self]
@[simp] theorem fB_w0 : fB (w0 sp m d a b low) = b := by
  unfold fB w0
  simp (disch := decide) only [extractLsb'_append_eq_of_le, extractLsb'_append_eq_of_add_le, Nat.reduceSub, extractLsb'_eq_self]
@[simp] theorem fLow_w0 : fLow (w0 sp m d a b low) = low := by
  unfold fLow w0
  simp (disch := decide) only [extractLsb'_append_eq_of_add_le, extractLsb'_eq_self]

variable (imm : BitVec 11)

@[simp] theorem fS_wI : fS (wI sp m d a imm) = sp := by
  unfold fS wI
  simp only [getLsbD_append, Nat.reduceSub, Nat.reduceLT, if_false]
  simp
@[simp] theorem fMajor_wI : fMajor (wI sp m d a imm) = m := by
  unfold fMajor wI
  simp (disch := decide) only [extractLsb'_append_eq_of_le, extractLsb'_append_eq_of_add_le, Nat.reduceSub, extractLsb'_eq_self]
@[simp] theorem fD_wI : fD (wI sp m d a imm) = d := by
  unfold fD wI
  simp (disch := decide) only [extractLsb'_append_eq_of_le, extractLsb'_append_eq_of_add_le, Nat.reduceSub, extractLsb'_eq_self]
@[simp] theorem fA_wI : fA (wI sp m d a imm) = a := by
  unfold fA wI
  simp (disch := decide) only [extractLsb'_append_eq_of_le, extractLsb'_append_eq_of_add_le, Nat.reduceSub, extractLsb'_eq_self]
@[simp] theorem fImm11_wI : fImm11 (wI sp m d a imm) = imm := by
  unfold fImm11 wI
  simp (disch := decide) only [extractLsb'_append_eq_of_add_le, extractLsb'_eq_self]
end First

variable (w : IWord)

theorem w0_fields : w0 (fS w) (fMajor w) (fD w) (fA w) (fB w) (fLow w) = w := by
  unfold w0 fS fMajor fD fA fB fLow
  simp (disch := decide) only [ofBool_getLsbD_eq_extract, extractLsb'_append_extractLsb'_eq_extractLsb']
  exact extractLsb'_eq_self
theorem wI_fields : wI (fS w) (fMajor w) (fD w) (fA w) (fImm11 w) = w := by
  unfold wI fS fMajor fD fA fImm11
  simp (disch := decide) only [ofBool_getLsbD_eq_extract, extractLsb'_append_extractLsb'_eq_extractLsb']
  exact extractLsb'_eq_self


/-! ### Parts of a field -/

theorem extract_fA {i n : Nat} (h : i + n ≤ 7) : w.extractLsb' (11 + i) n = (fA w).extractLsb' i n := by
  apply eq_of_getLsbD_eq
  intro k hk
  simp [fA, hk, show i + k < 7 by omega, Nat.add_assoc]
theorem extract_fLow {i n : Nat} (h : i + n ≤ 4) : w.extractLsb' i n = (fLow w).extractLsb' i n :=
  (extractLsb'_extractLsb'_of_le h).symm
theorem getLsbD_fA {i : Nat} (h : i < 7) : w.getLsbD (11 + i) = (fA w).getLsbD i := by simp [fA, h]
theorem getLsbD_fLow {i : Nat} (h : i < 4) : w.getLsbD i = (fLow w).getLsbD i := by simp [fLow, h]
theorem extract_fD_fA : w.extractLsb' 11 14 = fD w ++ fA w :=
  (extractLsb'_append_extractLsb'_eq_extractLsb' (x := w) (start₂ := 18) (start₁ := 11) (len₂ := 7) (len₁ := 7) rfl).symm

/-- A field whose high part is zero. -/
theorem zero_append_extract {i j k n : Nat} (h : j = i + n) (hz : w.extractLsb' j k = 0#k) :
    0#k ++ w.extractLsb' i n = w.extractLsb' i (k + n) := by
  rw [← hz, extractLsb'_append_extractLsb'_eq_extractLsb' h]

end Words
end Sys2Proof
end

section
/-! PROOFS. Codes and payloads: what the decoder makes of a word that the encoder has made, and a word made again from what the
decoder reads (R57-R68). -/

open Sys2Proof Sys2Proof.Machine

namespace Sys2Proof

/-! ### Codes (R57, R61, R63) -/

@[simp] theorem tyOf_tyCode (t : Ty) : tyOf (tyCode t) = some t := by cases t <;> rfl
theorem tyCode_of_tyOf : ∀ (c : BitVec 5) (t : Ty), tyOf c = some t → tyCode t = c := by decide
theorem tyCode_tyOf {c : BitVec 5} (h : (tyOf c).isSome = true) (t : Ty) : tyCode ((tyOf c).getD t) = c := by
  obtain ⟨u, hu⟩ := Option.isSome_iff_exists.mp h
  rw [hu, Option.getD_some, tyCode_of_tyOf c u hu]
theorem shortTy_lowTy {t : Ty} (h : tyShort t = true) : Dec.shortTy (Enc.lowTy t) = t := by
  revert h
  cases t <;> decide
@[simp] theorem lowTy_shortTy : ∀ c : BitVec 4, Enc.lowTy (Dec.shortTy c) = c := by decide
@[simp] theorem rndOf_rndCode (r : Rnd) : Dec.rndOf (Dec.rndCode r) = some r := by cases r <;> rfl
theorem rndCode_rndOf : ∀ c : BitVec 3, (Dec.rndOf c).isSome = true → Dec.rndCode ((Dec.rndOf c).getD .dflt) = c := by decide
@[simp] theorem ordOf_ordCode (o : Order) : Dec.ordOf (Dec.ordCode o) = o := by cases o <;> rfl
@[simp] theorem ordCode_ordOf : ∀ c : BitVec 2, Dec.ordCode (Dec.ordOf c) = c := by decide
@[simp] theorem scOf_scCode (c : Scope) : Dec.scOf (Dec.scCode c) = some c := by cases c <;> rfl
theorem scCode_scOf : ∀ c : BitVec 3, (Dec.scOf c).isSome = true → Dec.scCode ((Dec.scOf c).getD .grp) = c := by decide

/-! ### Second words (R61, R63, R64) -/

section Second

open BitVec Dec Enc

variable (op : BitVec 6) (x : XArgs)

@[simp] theorem xOp_xw : xOp (xw op x) = op := by
  unfold xOp xw
  simp (disch := decide) only [extractLsb'_append_eq_of_le, extractLsb'_append_eq_of_add_le, Nat.reduceSub, extractLsb'_eq_self]
@[simp] theorem xC_xw : xC (xw op x) = x.c := by
  unfold xC xw
  simp (disch := decide) only [extractLsb'_append_eq_of_le, Nat.reduceSub, extractLsb'_eq_self]
@[simp] theorem xTy_xw : xTy (xw op x) = tyCode x.ty := by
  unfold xTy xw
  simp (disch := decide) only [extractLsb'_append_eq_of_le, extractLsb'_append_eq_of_add_le, Nat.reduceSub, extractLsb'_eq_self]
@[simp] theorem xAux_xw : xAux (xw op x) = x.aux := by
  unfold xAux xw
  simp (disch := decide) only [extractLsb'_append_eq_of_le, extractLsb'_append_eq_of_add_le, Nat.reduceSub, extractLsb'_eq_self]
@[simp] theorem xRnd_xw : xRnd (xw op x) = rndCode x.rnd := by
  unfold xRnd xw
  simp (disch := decide) only [extractLsb'_append_eq_of_le, extractLsb'_append_eq_of_add_le, Nat.reduceSub, extractLsb'_eq_self]
@[simp] theorem xSat_xw : xSat (xw op x) = x.sat := by
  unfold xSat xw
  simp only [getLsbD_append, Nat.reduceSub, Nat.reduceLT, if_false, if_true]
  simp
@[simp] theorem xImm_xw : xImm (xw op x) = x.imm := by
  unfold xImm xw
  simp (disch := decide) only [extractLsb'_append_eq_of_add_le, extractLsb'_eq_self]

variable (mop : BitVec 4) (y : MArgs)

@[simp] theorem mMop_mw : mMop (mw mop y) = mop := by
  unfold mMop mw
  simp (disch := decide) only [extractLsb'_append_eq_of_le, Nat.reduceSub, extractLsb'_eq_self]
@[simp] theorem mAop_mw : mAop (mw mop y) = y.aop := by
  unfold mAop mw
  simp (disch := decide) only [extractLsb'_append_eq_of_le, extractLsb'_append_eq_of_add_le, Nat.reduceSub, extractLsb'_eq_self]
@[simp] theorem mTy_mw : mTy (mw mop y) = tyCode y.ty := by
  unfold mTy mw
  simp (disch := decide) only [extractLsb'_append_eq_of_le, extractLsb'_append_eq_of_add_le, Nat.reduceSub, extractLsb'_eq_self]
@[simp] theorem mOrd_mw : mOrd (mw mop y) = ordCode y.ord := by
  unfold mOrd mw
  simp (disch := decide) only [extractLsb'_append_eq_of_le, extractLsb'_append_eq_of_add_le, Nat.reduceSub, extractLsb'_eq_self]
@[simp] theorem mSc_mw : mSc (mw mop y) = scCode y.sc := by
  unfold mSc mw
  simp (disch := decide) only [extractLsb'_append_eq_of_le, extractLsb'_append_eq_of_add_le, Nat.reduceSub, extractLsb'_eq_self]
@[simp] theorem mOff_mw : mOff (mw mop y) = y.off := by
  unfold mOff mw
  simp (disch := decide) only [extractLsb'_append_eq_of_add_le, extractLsb'_eq_self]

variable (z : EArgs)

@[simp] theorem eHandle_ew : eHandle (ew z) = z.handle := by
  unfold eHandle ew
  simp (disch := decide) only [extractLsb'_append_eq_of_le, Nat.reduceSub, extractLsb'_eq_self]
@[simp] theorem eShape_ew : eShape (ew z) = z.shape := by
  unfold eShape ew
  simp (disch := decide) only [extractLsb'_append_eq_of_le, extractLsb'_append_eq_of_add_le, Nat.reduceSub, extractLsb'_eq_self]
@[simp] theorem eCls_ew : eCls (ew z) = z.cls := by
  unfold eCls ew
  simp (disch := decide) only [extractLsb'_append_eq_of_le, extractLsb'_append_eq_of_add_le, Nat.reduceSub, extractLsb'_eq_self]
@[simp] theorem eParam_ew : eParam (ew z) = z.param := by
  unfold eParam ew
  simp (disch := decide) only [extractLsb'_append_eq_of_add_le, extractLsb'_eq_self]

theorem xw_xargs (form : Form) (w v : IWord) (ht : (tyOf (xTy v)).isSome = true) (hr : (rndOf (xRnd v)).isSome = true) :
    xw (xOp v) (xargs form w v) = v := by
  unfold xw xargs
  dsimp only
  rw [tyCode_tyOf ht, rndCode_rndOf _ hr]
  unfold xC xOp xTy xAux xRnd xSat xImm
  simp (disch := decide) only [ofBool_getLsbD_eq_extract, extractLsb'_append_extractLsb'_eq_extractLsb']
  exact extractLsb'_eq_self
theorem mw_margs (form : Form) (w v : IWord) (ht : (tyOf (mTy v)).isSome = true) (hs : (scOf (mSc v)).isSome = true) :
    mw (mMop v) (margs form w v) = v := by
  unfold mw margs
  dsimp only
  rw [tyCode_tyOf ht, scCode_scOf _ hs, ordCode_ordOf]
  unfold mMop mAop mTy mOrd mSc mOff
  simp (disch := decide) only [extractLsb'_append_extractLsb'_eq_extractLsb']
  exact extractLsb'_eq_self
theorem ew_eargs (w v : IWord) : ew (eargs w v) = v := by
  unfold ew eargs eHandle eShape eCls eParam
  simp (disch := decide) only [extractLsb'_append_extractLsb'_eq_extractLsb']
  exact extractLsb'_eq_self

end Second
end Sys2Proof
end

section
/-! PROOFS. Words that decode are the encoding of what they decode to, and that is well formed (R53-R68). Each shape of word is
encoded again from its candidate: a candidate that raises no cause has dropped no field. -/

open Sys2Proof Sys2Proof.Machine

namespace Sys2Proof

/-! ### Causes of a candidate (R68) -/

@[simp] theorem bad_eq_nil {b : Bool} {c : BitVec 8} : bad b c = [] ↔ b = false := by cases b <;> simp [bad]

theorem lowest_eq_none : ∀ l : List (BitVec 8), Dec.lowest l = none ↔ l = []
  | [] => by simp [Dec.lowest]
  | c :: cs => by
    unfold Dec.lowest
    cases Dec.lowest cs <;> simp

/-- A candidate is an instruction exactly when nothing in it raises a cause. -/
theorem finish_eq_ok {k : Dec.Cand} {i : Instr} :
    k.finish = .ok i ↔ k.i = i ∧ k.extra = [] ∧ causesOf k.tk k.i = [] := by
  unfold Dec.Cand.finish
  cases h : Dec.lowest (k.extra ++ causesOf k.tk k.i) with
  | none =>
    have := (lowest_eq_none _).mp h
    simp only [List.append_eq_nil_iff] at this
    simp [this]
  | some c =>
    have : ¬(k.extra = [] ∧ causesOf k.tk k.i = []) := by
      rintro ⟨h1, h2⟩
      simp [h1, h2, Dec.lowest] at h
    simp only [reduceCtorEq, false_iff, not_and]
    exact fun _ h1 h2 => this ⟨h1, h2⟩

theorem tk_of_causesX {tk : Bool} {x : XArgs} {p : XSpec} (h : causesX tk x p = []) : tk = true := by
  simp only [causesX, List.append_eq_nil_iff, bad_eq_nil, Bool.or_eq_false_iff, Bool.not_eq_false'] at h
  exact h.2.1.1

theorem tk_of_causesM {tk : Bool} {x : MArgs} {p : MSpec} (h : causesM tk x p = []) : tk = true := by
  simp only [causesM, List.append_eq_nil_iff] at h
  obtain ⟨⟨⟨⟨⟨⟨⟨-, ht⟩, -⟩, -⟩, -⟩, -⟩, -⟩, -⟩ := h
  cases hp : p.tys <;> simp [hp] at ht <;> exact ht.1

theorem form_of_causesM {tk : Bool} {x : MArgs} {p : MSpec} (h : causesM tk x p = []) : p.forms x.form = true := by
  simp only [causesM, List.append_eq_nil_iff, bad_eq_nil] at h
  simpa using h.1.1.1.1.1.1.1.1.1.1.1

/-- An instruction that the encoder has words for is one of the opcode map. -/
theorem isEncoded_eq (i : Instr) : isEncoded i = !(encode i).isEmpty := by
  cases i <;> rfl

/-! ### One shape after another -/

/-- If a candidate raises no cause, its type code is assigned and it is encoded as the words ws. -/
def EncodesAs (ws : List IWord) (k : Dec.Cand) : Prop :=
  k.extra = [] → causesOf k.tk k.i = [] → k.tk = true ∧ encode k.i = ws

section Shapes

open Dec

variable {w x : IWord} {k : Cand} {m : BitVec 6}

theorem w0_of_major (hm : (fMajor w).toNat = m.toNat) : Enc.w0 (fS w) m (fD w) (fA w) (fB w) (fLow w) = w := by
  rw [← BitVec.eq_of_toNat_eq hm, w0_fields]
theorem wI_of_major (hm : (fMajor w).toNat = m.toNat) : Enc.wI (fS w) m (fD w) (fA w) (fImm11 w) = w := by
  rw [← BitVec.eq_of_toNat_eq hm, wI_fields]

theorem candR3_encodes {int flt : R3 → Instr} (h : candR3 int flt w = some k) (hi : ∀ y, encode (int y) = Enc.r3 m y)
    (hf : ∀ y, encode (flt y) = Enc.r3 m y) (hm : (fMajor w).toNat = m.toNat) : EncodesAs [w] k := by
  have he : Enc.r3 m (r3 w) = [w] := by
    simp only [Enc.r3, r3, lowTy_shortTy, w0_of_major hm]
  obtain rfl := Option.some.inj h
  intro _ _
  refine ⟨rfl, ?_⟩
  dsimp only
  split
  · rw [hi, he]
  · rw [hf, he]

/-- The rows of a table of minors, each encoded with the minor of its place. -/
theorem encode_of_table {α : Type} {fs : List (α → Instr)} {g : Nat → α → List IWord}
    (hf : fs.map (fun f y => encode (f y)) = (List.range fs.length).map g) {n : Nat} {f : α → Instr} (h : fs[n]? = some f) (y : α) :
    encode (f y) = g n y := by
  have hn := (List.getElem?_eq_some_iff.mp h).1
  have := congrArg (·[n]?) hf
  simp only [List.getElem?_map, h, List.getElem?_range hn, Option.map_some, Option.some.injEq] at this
  exact congrFun this y

theorem r3l_encodes {f : R3L → Instr} {low : BitVec 4} (hf : ∀ y, encode (f y) = Enc.r3l m low y)
    (hm : (fMajor w).toNat = m.toNat) (hl : (fLow w).toNat = low.toNat) : EncodesAs [w] { i := f (r3l w) } := by
  refine fun _ _ => ⟨rfl, ?_⟩
  simp only [hf, Enc.r3l, r3l, ← BitVec.eq_of_toNat_eq hl, w0_of_major hm]

theorem candZ_encodes {fs : List (R3L → Instr)} (h : candZ fs w = some k)
    (hf : fs.map (fun f y => encode (f y)) = (List.range fs.length).map (fun n => Enc.r3l m (BitVec.ofNat 4 n)))
    (hm : (fMajor w).toNat = m.toNat) : EncodesAs [w] k := by
  unfold candZ at h
  split at h
  next f hrow =>
    obtain rfl := Option.some.inj h
    refine r3l_encodes (low := fLow w) (fun y => ?_) hm rfl
    rw [encode_of_table hf hrow, BitVec.ofNat_toNat, BitVec.setWidth_eq]
  next => cases h

theorem candUnary_encodes {fs : List (R2 → Instr)} (h : candUnary fs w = some k)
    (hf : fs.map (fun f y => encode (f y)) = (List.range fs.length).map (fun n => Enc.r2 m (BitVec.ofNat 7 n)))
    (hm : (fMajor w).toNat = m.toNat) : EncodesAs [w] k := by
  unfold candUnary at h
  split at h
  next f hrow =>
    obtain rfl := Option.some.inj h
    refine fun _ _ => ⟨rfl, ?_⟩
    rw [encode_of_table hf hrow, BitVec.ofNat_toNat, BitVec.setWidth_eq]
    simp only [Enc.r2, r2, lowTy_shortTy, w0_of_major hm]
  next => cases h

theorem candE_encodes {fs : List (EArgs → Instr)} (h : candE fs w x = some k)
    (hf : fs.map (fun f y => encode (f y)) = (List.range fs.length).map (fun n => Enc.ei m (BitVec.ofNat 4 n)))
    (hm : (fMajor w).toNat = m.toNat) : EncodesAs [w, x] k := by
  unfold candE at h
  split at h
  next f hrow =>
    obtain rfl := Option.some.inj h
    refine fun _ _ => ⟨rfl, ?_⟩
    rw [encode_of_table hf hrow, BitVec.ofNat_toNat, BitVec.setWidth_eq]
    simp only [Enc.ei, ew_eargs]
    simp only [eargs, w0_of_major hm]
  next => cases h

theorem candLogic_eq (f0 f1 f2 : R3L → Instr) (w : IWord) : candLogic f0 f1 f2 w = candZ [f0, f1, f2] w := by
  unfold candLogic candZ
  split
  next h => rw [h]; rfl
  next h => rw [h]; rfl
  next h => rw [h]; rfl
  next h0 h1 h2 =>
    have hlen : [f0, f1, f2].length ≤ (fLow w).toNat := by
      simp only [imp_false] at h0 h1 h2
      simp only [List.length_cons, List.length_nil]
      omega
    rw [List.getElem?_eq_none hlen]

/-- The shift that bits 3:2 of the low field select. -/
theorem candShift_eq (f0 f1 f2 f3 : R3W → Instr) (w : IWord) :
    candShift f0 f1 f2 f3 w = ([f0, f1, f2, f3][(w.extractLsb' 2 2).toNat]?).map (fun f => { i := f (r3w w) }) := by
  unfold candShift
  have hlt := (w.extractLsb' 2 2).isLt
  split
  next h => rw [h]; rfl
  next h => rw [h]; rfl
  next h => rw [h]; rfl
  next h0 h1 h2 =>
    simp only [imp_false] at h0 h1 h2
    rw [show (w.extractLsb' 2 2).toNat = 3 by omega]
    rfl

theorem candShift_encodes {f0 f1 f2 f3 : R3W → Instr} (h : candShift f0 f1 f2 f3 w = some k)
    (hf : [f0, f1, f2, f3].map (fun f y => encode (f y)) = (List.range 4).map (fun n => Enc.r3w m (BitVec.ofNat 2 n)))
    (hm : (fMajor w).toNat = m.toNat) : EncodesAs [w] k := by
  rw [candShift_eq, Option.map_eq_some_iff] at h
  obtain ⟨f, hrow, rfl⟩ := h
  refine fun _ _ => ⟨rfl, ?_⟩
  have hlow : (w.extractLsb' 2 2 ++ w.extractLsb' 0 2 : BitVec (2 + 2)) = fLow w :=
    BitVec.extractLsb'_append_extractLsb'_eq_extractLsb' rfl
  rw [encode_of_table hf hrow, BitVec.ofNat_toNat, BitVec.setWidth_eq]
  simp only [Enc.r3w, r3w, hlow, w0_of_major hm]

/-! ### Extended and memory words (R61, R63) -/

theorem encode_rowX {op : Nat} {f : XArgs → Instr} (h : rowX op = some f) (y : XArgs) :
    encode (f y) = Enc.xi (BitVec.ofNat 6 op) y := by
  unfold rowX at h
  split at h <;> cases h <;> rfl

theorem causesOf_rowX {op : Nat} {f : XArgs → Instr} (h : rowX op = some f) (tk : Bool) (y : XArgs) :
    ∃ p, causesOf tk (f y) = causesX tk y p := by
  unfold rowX at h
  split at h <;> cases h <;> exact ⟨_, rfl⟩

theorem candX_encodes {form : Form} (h : candX form w x = some k) (hm : (fMajor w).toNat = (Enc.xMajor form).toNat) :
    EncodesAs [w, x] k := by
  unfold candX at h
  split at h
  next f hrow =>
    obtain rfl := Option.some.inj h
    intro hextra hcauses
    obtain ⟨p, hp⟩ := causesOf_rowX hrow (tyOf (xTy x)).isSome (xargs form w x)
    have htk := tk_of_causesX (hp ▸ hcauses)
    refine ⟨htk, ?_⟩
    have hrnd : (rndOf (xRnd x)).isSome = true := by simpa [Option.isNone_eq_false_iff] using hextra
    have hlow : (BitVec.ofBool (w.getLsbD 3) ++ w.extractLsb' 0 3 : BitVec (1 + 3)) = fLow w := by
      rw [ofBool_getLsbD_eq_extract]
      exact BitVec.extractLsb'_append_extractLsb'_eq_extractLsb' rfl
    rw [encode_rowX hrow, BitVec.ofNat_toNat, BitVec.setWidth_eq]
    simp only [Enc.xi, xw_xargs form w x htk hrnd]
    simp only [xargs, hlow, w0_of_major hm]
  next => cases h

/-- A row of an M-word: encoded with this major and mop, and its type is checked. -/
def IsRowM (major : BitVec 6) (form : Form) (mop : BitVec 4) (f : MArgs → Instr) : Prop :=
  (∀ y : MArgs, y.form = form → encode (f y) = Enc.mj major mop y) ∧ ∀ tk y, ∃ p, causesOf tk (f y) = causesM tk y p

theorem isRowM_rowM {u : Bool} {mop : Nat} {f : MArgs → Instr} (h : rowM u mop = some f) (form : Form) :
    IsRowM (Enc.mMajor form) form (BitVec.ofNat 4 mop) f := by
  unfold rowM at h
  split at h
  case h_9 | h_10 | h_11 | h_12 =>
    cases u <;> cases h
    exact ⟨fun y hy => hy ▸ rfl, fun _ _ => ⟨_, rfl⟩⟩
  all_goals cases h <;> exact ⟨fun y hy => hy ▸ rfl, fun _ _ => ⟨_, rfl⟩⟩

theorem isRowM_rowWin {mop : Nat} {f : MArgs → Instr} (h : rowWin mop = some f) (form : Form) :
    IsRowM 0x26 form (BitVec.ofNat 4 mop) f := by
  unfold rowWin at h
  split at h <;> cases h <;> exact ⟨fun _ _ => rfl, fun _ _ => ⟨_, rfl⟩⟩

theorem isRowM_rowMap {mop : Nat} {f : MArgs → Instr} (h : rowMap mop = some f) (form : Form) :
    IsRowM 0x27 form (BitVec.ofNat 4 mop) f := by
  unfold rowMap at h
  split at h <;> cases h <;> exact ⟨fun _ _ => rfl, fun _ _ => ⟨_, rfl⟩⟩

theorem candM_encodes {row : Option (MArgs → Instr)} {form : Form} (h : candM row form w x = some k)
    (hrow : ∀ f, row = some f → IsRowM m form (BitVec.ofNat 4 (mMop x).toNat) f) (hm : (fMajor w).toNat = m.toNat) :
    EncodesAs [w, x] k := by
  unfold candM at h
  split at h
  next f =>
    obtain rfl := Option.some.inj h
    obtain ⟨henc, hchecks⟩ := hrow f rfl
    intro hextra hcauses
    obtain ⟨p, hp⟩ := hchecks (tyOf (mTy x)).isSome (margs form w x)
    have htk := tk_of_causesM (hp ▸ hcauses)
    refine ⟨htk, ?_⟩
    have hsc : (scOf (mSc x)).isSome = true := by simpa [Option.isNone_eq_false_iff] using hextra
    dsimp only
    rw [henc _ rfl, BitVec.ofNat_toNat, BitVec.setWidth_eq]
    simp only [Enc.mj, mw_margs form w x htk hsc]
    simp only [margs, w0_of_major hm]
  next => cases h

/-! ### Words with a format of their own -/

theorem zeros_eq_nil {l : List Bool} : zeros l = [] ↔ l.any id = false := bad_eq_nil

theorem srRead_encodes {f : SrRead → Instr} {minor : BitVec 4} (hf : ∀ y, encode (f y) = [Enc.w0 y.sp m y.d 0 y.n minor])
    (hm : (fMajor w).toNat = m.toNat) (hl : fLow w = minor) :
    EncodesAs [w] { i := f (srRead w), extra := zeros [fA w != 0] } := by
  intro hz _
  have ha : fA w = 0 := by simpa [zeros_eq_nil] using hz
  refine ⟨rfl, ?_⟩
  have := w0_of_major hm
  rw [ha, hl] at this
  simp only [hf, srRead, this]

theorem srWrite_encodes {f : SrWrite → Instr} {minor : BitVec 4} (hf : ∀ y, encode (f y) = [Enc.w0 y.sp m 0 y.a y.n minor])
    (hm : (fMajor w).toNat = m.toNat) (hl : fLow w = minor) :
    EncodesAs [w] { i := f (srWrite w), extra := zeros [fD w != 0] } := by
  intro hz _
  have hd : fD w = 0 := by simpa [zeros_eq_nil] using hz
  refine ⟨rfl, ?_⟩
  have := w0_of_major hm
  rw [hd, hl] at this
  simp only [hf, srWrite, this]

theorem immArgs_encodes {f : ImmArgs → Instr} (hf : ∀ y, encode (f y) = [Enc.wI y.sp m 0 0 y.imm])
    (hm : (fMajor w).toNat = m.toNat) : EncodesAs [w] { i := f (immArgs w), extra := zeros [w.extractLsb' 11 14 != 0] } := by
  intro hz _
  have hda : w.extractLsb' 11 14 = 0#14 := by simpa [zeros_eq_nil] using hz
  have hd : fD w = 0 := by
    rw [← BitVec.extractLsb'_append_eq_left (a := fD w) (b := fA w), ← extract_fD_fA, hda]
    rfl
  have ha : fA w = 0 := by
    rw [← BitVec.extractLsb'_append_eq_right (a := fD w) (b := fA w), ← extract_fD_fA, hda]
    rfl
  refine ⟨rfl, ?_⟩
  have := wI_of_major hm
  rw [hd, ha] at this
  simp only [hf, immArgs, this]

theorem moviImm_encodes {f : MoviImm → Instr}
    (hf : ∀ y, encode (f y) = [Enc.wI y.sp m y.d (0#3 ++ Enc.lowTy y.ty : BitVec (3 + 4)) y.imm])
    (hm : (fMajor w).toNat = m.toNat) :
    EncodesAs [w] { i := f { sp := fS w, d := fD w, ty := shortTy (w.extractLsb' 11 4), imm := fImm11 w },
                    extra := zeros [w.extractLsb' 15 3 != 0] } := by
  intro hz _
  have hz' : w.extractLsb' 15 3 = 0#3 := by simpa [zeros_eq_nil] using hz
  have ha : (0#3 ++ w.extractLsb' 11 4 : BitVec (3 + 4)) = fA w := zero_append_extract w rfl hz'
  refine ⟨rfl, ?_⟩
  simp only [hf, lowTy_shortTy, ha, wI_of_major hm]

theorem moviWord_encodes {f : MoviWord → Instr}
    (hf : ∀ y, encode (f y) = [Enc.w0 y.sp m y.d (0#2 ++ tyCode y.ty : BitVec (2 + 5)) 0 0, y.imm])
    (hc : ∀ tk y, causesOf tk (f y) = Machine.bad (!tk) cType ++ causesMoviWord y) (hm : (fMajor w).toNat = m.toNat) :
    EncodesAs [w, x] { i := f { sp := fS w, d := fD w, ty := (tyOf (w.extractLsb' 11 5)).getD .i64, imm := x },
                       tk := (tyOf (w.extractLsb' 11 5)).isSome,
                       extra := zeros [w.extractLsb' 16 2 != 0, fB w != 0, fLow w != 0] } := by
  intro hz hcauses
  have htk : (tyOf (w.extractLsb' 11 5)).isSome = true := by
    rw [hc, List.append_eq_nil_iff, bad_eq_nil, Bool.not_eq_false'] at hcauses
    exact hcauses.1
  obtain ⟨hz', hb, hl⟩ : w.extractLsb' 16 2 = 0#2 ∧ fB w = 0 ∧ fLow w = 0 := by simpa [zeros_eq_nil] using hz
  have ha : (0#2 ++ w.extractLsb' 11 5 : BitVec (2 + 5)) = fA w := zero_append_extract w rfl hz'
  have := w0_of_major hm
  rw [hb, hl] at this
  exact ⟨htk, by simp only [hf, tyCode_tyOf htk, ha, this]⟩

theorem addImm_encodes (hm : (fMajor w).toNat = 0x1D) :
    EncodesAs [w] { i := .addImm { sp := fS w, d := fD w, a := fA w, imm := fImm11 w } } :=
  fun _ _ => ⟨rfl, congrArg (fun v => [v]) (wI_of_major (m := 0x1D) hm)⟩

theorem bra_encodes (hm : (fMajor w).toNat = 0x30) :
    EncodesAs [w, x] { i := .bra { sp := fS w, imm := x },
                       extra := zeros [fD w != 0, fA w != 0, fB w != 0, fLow w != 0] } := by
  intro hz _
  obtain ⟨hd, ha, hb, hl⟩ : fD w = 0 ∧ fA w = 0 ∧ fB w = 0 ∧ fLow w = 0 := by simpa [zeros_eq_nil] using hz
  have := w0_of_major (m := 0x30) hm
  rw [hd, ha, hb, hl] at this
  exact ⟨rfl, congrArg (fun v => [v, x]) this⟩

theorem brp_encodes (hm : (fMajor w).toNat = 0x31) :
    EncodesAs [w, x] { i := .brp { sp := fS w, p := w.extractLsb' 11 3, neg := w.getLsbD 0, imm := x },
                       extra := zeros [fD w != 0, fB w != 0, w.extractLsb' 14 4 != 0, w.extractLsb' 1 3 != 0] } := by
  intro hz _
  obtain ⟨hd, hb, hz1, hz2⟩ : fD w = 0 ∧ fB w = 0 ∧ w.extractLsb' 14 4 = 0#4 ∧ w.extractLsb' 1 3 = 0#3 := by
    simpa [zeros_eq_nil] using hz
  have ha : (0#4 ++ w.extractLsb' 11 3 : BitVec (4 + 3)) = fA w := zero_append_extract w rfl hz1
  have hl : (0#3 ++ BitVec.ofBool (w.getLsbD 0) : BitVec (3 + 1)) = fLow w := by
    rw [ofBool_getLsbD_eq_extract]
    exact zero_append_extract w rfl hz2
  have := w0_of_major (m := 0x31) hm
  rw [hd, hb, ← ha, ← hl] at this
  exact ⟨rfl, congrArg (fun v => [v, x]) this⟩

theorem call_encodes (hm : (fMajor w).toNat = 0x32) :
    EncodesAs [w, x] { i := .call { sp := fS w, d := fD w, u := w.getLsbD 11, imm := x },
                       extra := zeros [w.extractLsb' 12 6 != 0, fB w != 0, fLow w != 0] } := by
  intro hz _
  obtain ⟨hz', hb, hl⟩ : w.extractLsb' 12 6 = 0#6 ∧ fB w = 0 ∧ fLow w = 0 := by simpa [zeros_eq_nil] using hz
  have ha : (0#6 ++ BitVec.ofBool (w.getLsbD 11) : BitVec (6 + 1)) = fA w := by
    rw [ofBool_getLsbD_eq_extract]
    exact zero_append_extract w rfl hz'
  have := w0_of_major (m := 0x32) hm
  rw [hb, hl, ← ha] at this
  exact ⟨rfl, congrArg (fun v => [v, x]) this⟩

theorem rep_encodes (hm : (fMajor w).toNat = 0x34) :
    EncodesAs [w] { i := .rep (repArgs w), extra := zeros [w.extractLsb' 0 13 != 0] } := by
  intro hz _
  have hz' : w.extractLsb' 0 13 = 0#13 := by simpa [zeros_eq_nil] using hz
  have hw : (BitVec.ofBool (fS w) ++ fMajor w ++ w.extractLsb' 19 6 ++ w.extractLsb' 17 2 ++ w.extractLsb' 15 2 ++
      w.extractLsb' 13 2 ++ w.extractLsb' 0 13 : BitVec (1 + 6 + 6 + 2 + 2 + 2 + 13)) = w := by
    unfold fS fMajor
    simp (disch := decide) only [ofBool_getLsbD_eq_extract, BitVec.extractLsb'_append_extractLsb'_eq_extractLsb']
    exact BitVec.extractLsb'_eq_self
  rw [hz', BitVec.eq_of_toNat_eq (y := 0x34#6) hm] at hw
  exact ⟨rfl, congrArg (fun v => [v]) hw⟩

/-! ### All words -/

theorem cand33_encodes (hm : (fMajor w).toNat = 0x33) (h : cand33 w = some k) : EncodesAs [w] k := by
  unfold cand33 at h
  split at h
  next h6 =>
    have hl : (fLow w).toNat = 6 := congrArg BitVec.toNat (of_decide_eq_true h6)
    unfold candWait at h
    split at h <;> cases h <;> exact r3l_encodes (m := 0x33) (fun _ => rfl) hm hl
  next => exact candZ_encodes (m := 0x33) h rfl hm

theorem cand38_encodes (hm : (fMajor w).toNat = 0x38) (h : cand38 w = some k) : EncodesAs [w] k := by
  unfold cand38 at h
  split at h
  case h_1 hl | h_4 hl | h_5 hl | h_6 hl => cases h; exact r3l_encodes (m := 0x38) (fun _ => rfl) hm hl
  case h_2 hl => cases h; exact srRead_encodes (m := 0x38) (fun _ => rfl) hm (BitVec.eq_of_toNat_eq hl)
  case h_3 hl => cases h; exact srWrite_encodes (m := 0x38) (fun _ => rfl) hm (BitVec.eq_of_toNat_eq hl)
  case h_7 => cases h

end Shapes

/-- Whether a second word follows a first one of this major (R58). -/
def majorHasSecond (m : Nat) : Bool :=
  decide (m = 0x1B ∨ m = 0x1C ∨ (0x1E ≤ m ∧ m ≤ 0x20) ∨ (0x23 ≤ m ∧ m ≤ 0x29) ∨ m = 0x2B ∨ (0x30 ≤ m ∧ m ≤ 0x32))

theorem hasSecond_eq (w : IWord) : hasSecond w = majorHasSecond (Dec.fMajor w).toNat := rfl

/-- The candidate of any words is encoded as those words, if it raises no cause. -/
theorem candOf_encodes {w x : IWord} {k : Dec.Cand} {n : Nat} (hm : (Dec.fMajor w).toNat = n) (h : Dec.candOf n w x = some k) :
    EncodesAs (if majorHasSecond n = true then [w, x] else [w]) k := by
  unfold Dec.candOf at h
  split at h
  case h_1 | h_2 | h_3 | h_4 | h_5 | h_6 | h_7 | h_8 | h_9 | h_10 | h_11 | h_12 | h_13 | h_14 | h_15 =>
    exact candR3_encodes h (fun _ => rfl) (fun _ => rfl) hm
  case h_16 | h_17 | h_18 => rw [candLogic_eq] at h; exact candZ_encodes h rfl hm
  case h_19 | h_20 | h_21 => exact candShift_encodes h rfl hm
  case h_22 | h_23 | h_24 => exact candUnary_encodes h rfl hm
  case h_25 | h_26 => cases h; exact moviImm_encodes (fun _ => rfl) hm
  case h_27 | h_28 => cases h; exact moviWord_encodes (fun _ => rfl) (fun _ _ => rfl) hm
  case h_29 => cases h; exact addImm_encodes hm
  case h_30 | h_31 | h_32 => exact candX_encodes h hm
  case h_33 =>
    split at h
    next hl => cases h; exact srRead_encodes (fun _ => rfl) hm (eq_of_beq hl)
    next => cases h
  case h_34 =>
    split at h
    next hl => cases h; exact srRead_encodes (fun _ => rfl) hm (BitVec.eq_of_toNat_eq hl)
    next hl => cases h; exact srWrite_encodes (fun _ => rfl) hm (BitVec.eq_of_toNat_eq hl)
    next => cases h
  case h_35 | h_36 | h_37 => exact candM_encodes h (fun _ hr => isRowM_rowM hr _) hm
  case h_38 => exact candM_encodes h (fun _ hr => isRowM_rowWin hr _) hm
  case h_39 => exact candM_encodes h (fun _ hr => isRowM_rowMap hr _) hm
  case h_40 | h_41 | h_43 => exact candE_encodes h rfl hm
  case h_42 | h_44 | h_45 | h_46 => exact candZ_encodes h rfl hm
  case h_47 => cases h; exact bra_encodes hm
  case h_48 => cases h; exact brp_encodes hm
  case h_49 => cases h; exact call_encodes hm
  case h_50 => exact cand33_encodes hm h
  case h_51 => cases h; exact rep_encodes hm
  case h_52 | h_53 | h_54 => cases h; exact immArgs_encodes (fun _ => rfl) hm
  case h_55 => exact cand38_encodes hm h
  case h_56 => cases h

/-- Words that decode have a candidate that raises no cause. -/
theorem decode_eq_ok {w x : IWord} {i : Instr} : decode w x = .ok i ↔
    Dec.majorAssigned (Dec.fMajor w).toNat = true ∧
      ∃ k, Dec.candOf (Dec.fMajor w).toNat w x = some k ∧ k.i = i ∧ k.extra = [] ∧ causesOf k.tk k.i = [] := by
  unfold decode
  dsimp only
  cases Dec.majorAssigned (Dec.fMajor w).toNat <;> cases Dec.candOf (Dec.fMajor w).toNat w x <;> simp [finish_eq_ok]

/-- Settles O53: the candidate of the words is encoded as the words, and raises no cause with its type code assigned. -/
theorem decodeThenEncode : Obligations.DecodeThenEncode := by
  unfold Obligations.DecodeThenEncode
  intro w x i h
  obtain ⟨-, k, hk, rfl, hextra, hcauses⟩ := decode_eq_ok.mp h
  obtain ⟨htk, henc⟩ := candOf_encodes rfl hk hextra hcauses
  rw [htk] at hcauses
  rw [← hasSecond_eq] at henc
  refine ⟨⟨?_, hcauses⟩, henc⟩
  rw [isEncoded_eq, henc]
  split <;> rfl

end Sys2Proof
end

section
/-! PROOFS. Every well-formed instruction is read back from the words that encode it (R53-R67): each shape of payload comes back
from the words of its format. -/

open Sys2Proof Sys2Proof.Machine

namespace Sys2Proof

/-- The instruction is read back from its one word, whatever follows, or from its two words. -/
def ReadBack (i : Instr) (x : IWord) : Prop :=
  (∃ w, encode i = [w] ∧ hasSecond w = false ∧ decode w x = .ok i) ∨
    (∃ w y, encode i = [w, y] ∧ hasSecond w = true ∧ decode w y = .ok i)

section Shapes

open Dec

variable {x : IWord} {m : BitVec 6}

/-- A major of one word, or of two. -/
def OneWord (m : BitVec 6) : Prop := majorAssigned m.toNat = true ∧ majorHasSecond m.toNat = false
def TwoWords (m : BitVec 6) : Prop := majorAssigned m.toNat = true ∧ majorHasSecond m.toNat = true

theorem readBack_one {i : Instr} {w : IWord} (h : i.WellFormed) (henc : encode i = [w]) (hm : fMajor w = m) (h1 : OneWord m)
    (hc : candOf m.toNat w x = some { i := i }) : ReadBack i x :=
  .inl ⟨w, henc, by rw [hasSecond_eq, hm, h1.2], decode_eq_ok.mpr ⟨hm ▸ h1.1, { i := i }, hm ▸ hc, rfl, rfl, h.2⟩⟩

theorem readBack_two {i : Instr} {w y : IWord} (h : i.WellFormed) (henc : encode i = [w, y]) (hm : fMajor w = m) (h2 : TwoWords m)
    (hc : candOf m.toNat w y = some { i := i }) : ReadBack i x :=
  .inr ⟨w, y, henc, by rw [hasSecond_eq, hm, h2.2], decode_eq_ok.mpr ⟨hm ▸ h2.1, { i := i }, hm ▸ hc, rfl, rfl, h.2⟩⟩

theorem fields_of_w0 {sp : Bool} {d a b : BitVec 7} {low : BitVec 4} {w : IWord} (h : Enc.w0 sp m d a b low = w) :
    fS w = sp ∧ fMajor w = m ∧ fD w = d ∧ fA w = a ∧ fB w = b ∧ fLow w = low := by
  subst h
  simp only [fS_w0, fMajor_w0, fD_w0, fA_w0, fB_w0, fLow_w0, and_self]
theorem fields_of_wI {sp : Bool} {d a : BitVec 7} {imm : BitVec 11} {w : IWord} (h : Enc.wI sp m d a imm = w) :
    fS w = sp ∧ fMajor w = m ∧ fD w = d ∧ fA w = a ∧ fImm11 w = imm := by
  subst h
  simp only [fS_wI, fMajor_wI, fD_wI, fA_wI, fImm11_wI, and_self]

/-! ### Payloads read back from their words -/

theorem r3_w0 {y : R3} (h : tyShort y.ty = true) : r3 (Enc.w0 y.sp m y.d y.a y.b (Enc.lowTy y.ty)) = y := by
  simp [r3, shortTy_lowTy h]
@[simp] theorem r3l_w0 (y : R3L) (low : BitVec 4) : r3l (Enc.w0 y.sp m y.d y.a y.b low) = y := by simp [r3l]
theorem r2_w0 {y : R2} {code : BitVec 7} (h : tyShort y.ty = true) :
    r2 (Enc.w0 y.sp m y.d y.a code (Enc.lowTy y.ty)) = y := by
  simp [r2, shortTy_lowTy h]
@[simp] theorem srRead_w0 (y : SrRead) (low : BitVec 4) : srRead (Enc.w0 y.sp m y.d 0 y.n low) = y := by simp [srRead]
@[simp] theorem srWrite_w0 (y : SrWrite) (low : BitVec 4) : srWrite (Enc.w0 y.sp m 0 y.a y.n low) = y := by simp [srWrite]
@[simp] theorem immArgs_wI (y : ImmArgs) : immArgs (Enc.wI y.sp m 0 0 y.imm) = y := by simp [immArgs]
@[simp] theorem eargs_words (y : EArgs) (low : BitVec 4) : eargs (Enc.w0 y.sp m y.d y.a y.b low) (Enc.ew y) = y := by simp [eargs]
theorem margs_words (y : MArgs) (mop : BitVec 4) : margs y.form (Enc.w0 y.sp m y.d y.a y.b y.look) (Enc.mw mop y) = y := by
  simp [margs]
theorem r3w_w0 (y : R3W) (op : BitVec 2) : r3w (Enc.w0 y.sp m y.d y.a y.b (op ++ y.w : BitVec (2 + 2))) = y := by
  have : (Enc.w0 y.sp m y.d y.a y.b (op ++ y.w : BitVec (2 + 2))).extractLsb' 0 2 = y.w := by
    rw [extract_fLow _ (by decide), fLow_w0]
    exact BitVec.extractLsb'_append_eq_right
  simp only [r3w, this, fS_w0, fD_w0, fA_w0, fB_w0]
theorem xargs_words (y : XArgs) (op : BitVec 6) :
    xargs y.form (Enc.w0 y.sp m y.d y.a y.b (BitVec.ofBool y.neg ++ y.p : BitVec (1 + 3))) (Enc.xw op y) = y := by
  have hp : (Enc.w0 y.sp m y.d y.a y.b (BitVec.ofBool y.neg ++ y.p : BitVec (1 + 3))).extractLsb' 0 3 = y.p := by
    rw [extract_fLow _ (by decide), fLow_w0]
    exact BitVec.extractLsb'_append_eq_right
  have hn : (Enc.w0 y.sp m y.d y.a y.b (BitVec.ofBool y.neg ++ y.p : BitVec (1 + 3))).getLsbD 3 = y.neg := by
    rw [getLsbD_fLow _ (by decide), fLow_w0]
    exact (BitVec.getLsbD_append (x := BitVec.ofBool y.neg) (y := y.p) (i := 3)).trans (by simp)
  simp only [xargs, hp, hn, fS_w0, fD_w0, fA_w0, fB_w0, xC_xw, xTy_xw, tyOf_tyCode, xAux_xw, xRnd_xw, rndOf_rndCode, xSat_xw,
    xImm_xw, Option.getD_some]

/-! ### Shapes of instructions -/

theorem readBack_r3 {int flt : R3 → Instr} {y : R3} {f : R3 → Instr} {b : Bool} (h : (f y).WellFormed)
    (henc : encode (f y) = Enc.r3 m y) (h1 : OneWord m) (hc : ∀ w x, candOf m.toNat w x = candR3 int flt w)
    (hcauses : causesOf true (f y) = causesR3 b y) (hf : f = if b then int else flt) : ReadBack (f y) x := by
  obtain ⟨ht, hb⟩ : tyShort y.ty = true ∧ tyIsInt y.ty = b := by
    have := h.2
    simpa [Instr.causes, hcauses, causesR3] using this
  refine readBack_one h henc (fMajor_w0 ..) h1 ?_
  rw [hc, candR3, r3_w0 ht, fLow_w0, shortTy_lowTy ht, hb, hf]
  cases b <;> rfl

theorem readBack_r3l {y : R3L} {f : R3L → Instr} {low : BitVec 4} (h : (f y).WellFormed) (henc : encode (f y) = Enc.r3l m low y)
    (h1 : OneWord m) (hc : ∀ w x, fLow w = low → candOf m.toNat w x = some { i := f (r3l w) }) : ReadBack (f y) x := by
  refine readBack_one h henc (fMajor_w0 ..) h1 ?_
  rw [hc _ _ (fLow_w0 ..), r3l_w0]

theorem candZ_minor {fs : List (R3L → Instr)} {f : R3L → Instr} {low : BitVec 4} {w : IWord} (hl : fLow w = low)
    (hf : fs[low.toNat]? = some f) : candZ fs w = some { i := f (r3l w) } := by
  simp only [candZ, hl, hf]

theorem readBack_r2 {fs : List (R2 → Instr)} {y : R2} {f : R2 → Instr} {code : BitVec 7} {b : Bool} (h : (f y).WellFormed)
    (henc : encode (f y) = Enc.r2 m code y) (h1 : OneWord m) (hc : ∀ w x, candOf m.toNat w x = candUnary fs w)
    (hcauses : causesOf true (f y) = causesR2 b y) (hf : fs[code.toNat]? = some f) : ReadBack (f y) x := by
  have ht : tyShort y.ty = true := by
    have := h.2
    rw [Instr.causes, hcauses, causesR2, bad_eq_nil, Bool.or_eq_false_iff, Bool.not_eq_false'] at this
    exact this.1
  refine readBack_one h henc (fMajor_w0 ..) h1 ?_
  rw [hc, candUnary, fB_w0, hf]
  simp only [r2_w0 ht]

theorem readBack_r3w {f0 f1 f2 f3 : R3W → Instr} {y : R3W} {f : R3W → Instr} {op : BitVec 2} (h : (f y).WellFormed)
    (henc : encode (f y) = Enc.r3w m op y) (h1 : OneWord m) (hc : ∀ w x, candOf m.toNat w x = candShift f0 f1 f2 f3 w)
    (hf : [f0, f1, f2, f3][op.toNat]? = some f) : ReadBack (f y) x := by
  have hop : (Enc.w0 y.sp m y.d y.a y.b (op ++ y.w : BitVec (2 + 2))).extractLsb' 2 2 = op := by
    rw [extract_fLow _ (by decide), fLow_w0]
    exact BitVec.extractLsb'_append_eq_left
  refine readBack_one h henc (fMajor_w0 ..) h1 ?_
  rw [hc, candShift_eq, hop, hf, Option.map_some, r3w_w0]

theorem readBack_x {y : XArgs} {f : XArgs → Instr} {op : BitVec 6} (h : (f y).WellFormed) (henc : encode (f y) = Enc.xi op y)
    (hf : rowX op.toNat = some f) : ReadBack (f y) x := by
  have hc : ∀ w x, candOf (Enc.xMajor y.form).toNat w x = candX y.form w x := by cases y.form <;> exact fun _ _ => rfl
  have h2 : TwoWords (Enc.xMajor y.form) := by cases y.form <;> exact ⟨rfl, rfl⟩
  refine readBack_two h henc (fMajor_w0 ..) h2 ?_
  rw [hc, candX, xOp_xw, hf]
  simp [xargs_words]

theorem readBack_m {y : MArgs} {f : MArgs → Instr} {mop : BitVec 4} {row : Nat → Option (MArgs → Instr)} (h : (f y).WellFormed)
    (henc : encode (f y) = Enc.mj m mop y) (h2 : TwoWords m)
    (hc : ∀ w x, candOf m.toNat w x = candM (row (mMop x).toNat) y.form w x) (hf : row mop.toNat = some f) :
    ReadBack (f y) x := by
  refine readBack_two h henc (fMajor_w0 ..) h2 ?_
  rw [hc, mMop_mw, hf]
  simp [candM, margs_words]

/-- Loads, stores, atomics and prefetches: a row of the three memory majors. -/
theorem readBack_mem {y : MArgs} {f : MArgs → Instr} {mop : BitVec 4} (h : (f y).WellFormed) (henc : encode (f y) = Enc.mi mop y)
    (hf : rowM (y.form == .s) mop.toNat = some f) : ReadBack (f y) x := by
  have hc : ∀ w x, candOf (Enc.mMajor y.form).toNat w x = candM (rowM (y.form == .s) (mMop x).toNat) y.form w x := by
    cases y.form <;> exact fun _ _ => rfl
  have h2 : TwoWords (Enc.mMajor y.form) := by cases y.form <;> exact ⟨rfl, rfl⟩
  exact readBack_m h henc h2 hc hf

theorem readBack_e {fs : List (EArgs → Instr)} {y : EArgs} {f : EArgs → Instr} {low : BitVec 4} (h : (f y).WellFormed)
    (henc : encode (f y) = Enc.ei m low y) (h2 : TwoWords m) (hc : ∀ w x, candOf m.toNat w x = candE fs w x)
    (hf : fs[low.toNat]? = some f) : ReadBack (f y) x := by
  refine readBack_two h henc (fMajor_w0 ..) h2 ?_
  rw [hc, candE, fLow_w0, hf]
  simp only [eargs_words]

theorem readBack_srRead {y : SrRead} {f : SrRead → Instr} {low : BitVec 4} (h : (f y).WellFormed)
    (henc : encode (f y) = [Enc.w0 y.sp m y.d 0 y.n low]) (h1 : OneWord m)
    (hc : ∀ w x, fLow w = low → candOf m.toNat w x = some { i := f (srRead w), extra := zeros [fA w != 0] }) :
    ReadBack (f y) x := by
  refine readBack_one h henc (fMajor_w0 ..) h1 ?_
  rw [hc _ _ (fLow_w0 ..), srRead_w0, fA_w0]
  rfl

theorem readBack_srWrite {y : SrWrite} {f : SrWrite → Instr} {low : BitVec 4} (h : (f y).WellFormed)
    (henc : encode (f y) = [Enc.w0 y.sp m 0 y.a y.n low]) (h1 : OneWord m)
    (hc : ∀ w x, fLow w = low → candOf m.toNat w x = some { i := f (srWrite w), extra := zeros [fD w != 0] }) :
    ReadBack (f y) x := by
  refine readBack_one h henc (fMajor_w0 ..) h1 ?_
  rw [hc _ _ (fLow_w0 ..), srWrite_w0, fD_w0]
  rfl

theorem readBack_imm {y : ImmArgs} {f : ImmArgs → Instr} (h : (f y).WellFormed) (henc : encode (f y) = [Enc.wI y.sp m 0 0 y.imm])
    (h1 : OneWord m)
    (hc : ∀ w x, candOf m.toNat w x = some { i := f (immArgs w), extra := zeros [w.extractLsb' 11 14 != 0] }) :
    ReadBack (f y) x := by
  refine readBack_one h henc (fMajor_wI ..) h1 ?_
  rw [hc, immArgs_wI, extract_fD_fA, fD_wI, fA_wI]
  rfl

theorem readBack_moviImm {y : MoviImm} {f : MoviImm → Instr} (h : (f y).WellFormed)
    (henc : encode (f y) = [Enc.wI y.sp m y.d (0#3 ++ Enc.lowTy y.ty : BitVec (3 + 4)) y.imm]) (h1 : OneWord m)
    (hc : ∀ w x, candOf m.toNat w x =
      some { i := f { sp := fS w, d := fD w, ty := shortTy (w.extractLsb' 11 4), imm := fImm11 w },
             extra := zeros [w.extractLsb' 15 3 != 0] })
    (hcauses : causesOf true (f y) = causesMoviImm y) : ReadBack (f y) x := by
  have ht : tyShort y.ty = true := by simpa [Instr.causes, hcauses, causesMoviImm] using h.2
  generalize hw : Enc.wI y.sp m y.d (0#3 ++ Enc.lowTy y.ty : BitVec (3 + 4)) y.imm = w at henc
  obtain ⟨hs, hm, hd, ha, himm⟩ := fields_of_wI hw
  have hty : w.extractLsb' 11 4 = Enc.lowTy y.ty := by
    rw [extract_fA w (i := 0) (by decide), ha]
    exact BitVec.extractLsb'_append_eq_right
  have hz : w.extractLsb' 15 3 = 0#3 := by
    rw [extract_fA w (i := 4) (by decide), ha]
    exact BitVec.extractLsb'_append_eq_left
  refine readBack_one h henc hm h1 ?_
  rw [hc, hs, hd, himm, hty, hz, shortTy_lowTy ht]
  rfl

theorem readBack_moviWord {y : MoviWord} {f : MoviWord → Instr} (h : (f y).WellFormed)
    (henc : encode (f y) = [Enc.w0 y.sp m y.d (0#2 ++ tyCode y.ty : BitVec (2 + 5)) 0 0, y.imm]) (h2 : TwoWords m)
    (hc : ∀ w x, candOf m.toNat w x =
      some { i := f { sp := fS w, d := fD w, ty := (tyOf (w.extractLsb' 11 5)).getD .i64, imm := x },
             tk := (tyOf (w.extractLsb' 11 5)).isSome,
             extra := zeros [w.extractLsb' 16 2 != 0, fB w != 0, fLow w != 0] }) : ReadBack (f y) x := by
  generalize hw : Enc.w0 y.sp m y.d (0#2 ++ tyCode y.ty : BitVec (2 + 5)) 0 0 = w at henc
  obtain ⟨hs, hm, hd, ha, hb, hl⟩ := fields_of_w0 hw
  have hty : w.extractLsb' 11 5 = tyCode y.ty := by
    rw [extract_fA w (i := 0) (by decide), ha]
    exact BitVec.extractLsb'_append_eq_right
  have hz : w.extractLsb' 16 2 = 0#2 := by
    rw [extract_fA w (i := 5) (by decide), ha]
    exact BitVec.extractLsb'_append_eq_left
  refine readBack_two h henc hm h2 ?_
  rw [hc, hs, hd, hb, hl, hty, hz, tyOf_tyCode]
  rfl

theorem readBack_addImm {y : AddImm} (h : (Instr.addImm y).WellFormed) : ReadBack (.addImm y) x := by
  generalize hw : Enc.wI y.sp 0x1D y.d y.a y.imm = w
  obtain ⟨hs, hm, hd, ha, himm⟩ := fields_of_wI hw
  refine readBack_one h (congrArg (fun v => [v]) hw) hm ⟨rfl, rfl⟩ ?_
  change some ({ i := .addImm { sp := fS w, d := fD w, a := fA w, imm := fImm11 w } } : Cand) = _
  rw [hs, hd, ha, himm]

theorem readBack_bra {y : BraArgs} (h : (Instr.bra y).WellFormed) : ReadBack (.bra y) x := by
  generalize hw : Enc.w0 y.sp 0x30 0 0 0 0 = w
  obtain ⟨hs, hm, hd, ha, hb, hl⟩ := fields_of_w0 hw
  refine readBack_two h (congrArg (fun v => [v, y.imm]) hw) hm ⟨rfl, rfl⟩ ?_
  change some ({ i := .bra { sp := fS w, imm := y.imm }, extra := zeros [fD w != 0, fA w != 0, fB w != 0, fLow w != 0] } : Cand) = _
  rw [hs, hd, ha, hb, hl]
  rfl

theorem readBack_brp {y : BrpArgs} (h : (Instr.brp y).WellFormed) : ReadBack (.brp y) x := by
  generalize hw : Enc.w0 y.sp 0x31 0 (0#4 ++ y.p : BitVec (4 + 3)) 0 (0#3 ++ BitVec.ofBool y.neg : BitVec (3 + 1)) = w
  obtain ⟨hs, hm, hd, ha, hb, hl⟩ := fields_of_w0 hw
  have hp : w.extractLsb' 11 3 = y.p := by
    rw [extract_fA w (i := 0) (by decide), ha]
    exact BitVec.extractLsb'_append_eq_right
  have hn : w.getLsbD 0 = y.neg := by
    rw [getLsbD_fLow w (by decide), hl]
    exact (BitVec.getLsbD_append (x := 0#3) (y := BitVec.ofBool y.neg) (i := 0)).trans (by simp)
  have hz1 : w.extractLsb' 14 4 = 0#4 := by
    rw [extract_fA w (i := 3) (by decide), ha]
    exact BitVec.extractLsb'_append_eq_left
  have hz2 : w.extractLsb' 1 3 = 0#3 := by
    rw [extract_fLow w (by decide), hl]
    exact BitVec.extractLsb'_append_eq_left
  refine readBack_two h (congrArg (fun v => [v, y.imm]) hw) hm ⟨rfl, rfl⟩ ?_
  change some ({
    i := .brp { sp := fS w, p := w.extractLsb' 11 3, neg := w.getLsbD 0, imm := y.imm }
    extra := zeros [fD w != 0, fB w != 0, w.extractLsb' 14 4 != 0, w.extractLsb' 1 3 != 0] } : Cand) = _
  rw [hs, hd, hb, hp, hn, hz1, hz2]
  rfl

theorem readBack_call {y : CallArgs} (h : (Instr.call y).WellFormed) : ReadBack (.call y) x := by
  generalize hw : Enc.w0 y.sp 0x32 y.d (0#6 ++ BitVec.ofBool y.u : BitVec (6 + 1)) 0 0 = w
  obtain ⟨hs, hm, hd, ha, hb, hl⟩ := fields_of_w0 hw
  have hu : w.getLsbD 11 = y.u := by
    rw [getLsbD_fA w (i := 0) (by decide), ha]
    exact (BitVec.getLsbD_append (x := 0#6) (y := BitVec.ofBool y.u) (i := 0)).trans (by simp)
  have hz : w.extractLsb' 12 6 = 0#6 := by
    rw [extract_fA w (i := 1) (by decide), ha]
    exact BitVec.extractLsb'_append_eq_left
  refine readBack_two h (congrArg (fun v => [v, y.imm]) hw) hm ⟨rfl, rfl⟩ ?_
  change some ({
    i := .call { sp := fS w, d := fD w, u := w.getLsbD 11, imm := y.imm }
    extra := zeros [w.extractLsb' 12 6 != 0, fB w != 0, fLow w != 0] } : Cand) = _
  rw [hs, hd, hb, hl, hu, hz]
  rfl

/-- The fields of a rep word (R72). -/
theorem fields_of_rep {y : RepArgs} {w : IWord} (h : encode (.rep y) = [w]) :
    fMajor w = 0x34 ∧ repArgs w = y ∧ w.extractLsb' 0 13 = 0#13 := by
  obtain rfl : (BitVec.ofBool y.sp ++ 0x34#6 ++ y.cnt ++ y.sd ++ y.sa ++ y.sb ++ 0#13 : BitVec (1 + 6 + 6 + 2 + 2 + 2 + 13)) = w :=
    List.head_eq_of_cons_eq h
  refine ⟨?_, ?_, BitVec.extractLsb'_append_eq_right⟩
  · unfold fMajor
    simp (disch := decide) only [BitVec.extractLsb'_append_eq_of_le, BitVec.extractLsb'_append_eq_of_add_le, Nat.reduceSub,
      BitVec.extractLsb'_eq_self]
    rfl
  · unfold repArgs fS
    simp (disch := decide) only [BitVec.extractLsb'_append_eq_of_le, BitVec.extractLsb'_append_eq_of_add_le, Nat.reduceSub,
      BitVec.extractLsb'_eq_self, BitVec.getLsbD_append, Nat.reduceLT, if_false]
    simp

theorem readBack_rep {y : RepArgs} (h : (Instr.rep y).WellFormed) : ReadBack (.rep y) x := by
  obtain ⟨w, hw⟩ : ∃ w, encode (.rep y) = [w] := ⟨_, rfl⟩
  obtain ⟨hm, hy, hz⟩ := fields_of_rep hw
  refine readBack_one h hw hm ⟨rfl, rfl⟩ ?_
  change some ({ i := .rep (repArgs w), extra := zeros [w.extractLsb' 0 13 != 0] } : Cand) = _
  rw [hy, hz]
  rfl

end Shapes

/-! ### All instructions -/

theorem form_of_wellFormed {f : MArgs → Instr} {y : MArgs} {p : MSpec} (h : (f y).WellFormed)
    (hcauses : causesOf true (f y) = causesM true y p) (hp : p.forms = fun f => f == .s) : y.form = .s := by
  have := form_of_causesM (hcauses ▸ h.2 : causesM true y p = [])
  simpa [hp] using this

/-- Majors 0x26 and 0x27, and the rows of major 0x25 that have no vector form. -/
theorem readBack_uniform {y : MArgs} {f : MArgs → Instr} {m : BitVec 6} {mop : BitVec 4} {row : Nat → Option (MArgs → Instr)}
    {p : MSpec} {x : IWord} (h : (f y).WellFormed) (hcauses : causesOf true (f y) = causesM true y p)
    (hp : p.forms = fun f => f == .s) (henc : y.form = .s → encode (f y) = Enc.mj m mop y) (h2 : TwoWords m)
    (hc : ∀ w x, Dec.candOf m.toNat w x = Dec.candM (row (Dec.mMop x).toNat) .s w x) (hf : row mop.toNat = some f) :
    ReadBack (f y) x := by
  have hform := form_of_wellFormed h hcauses hp
  exact readBack_m h (henc hform) h2 (hform ▸ hc) hf

theorem mi_uniform {y : MArgs} {mop : BitVec 4} (h : y.form = .s) : Enc.mi mop y = Enc.mj 0x25 mop y := by
  simp only [Enc.mi, Enc.mj, h, Enc.mMajor]

/-- wait and wait.clk share a minor and differ in bit 0 of b (R125). -/
theorem readBack_waits {y : R3L} {x : IWord} :
    ((Instr.wait y).WellFormed → ReadBack (.wait y) x) ∧ ((Instr.waitClk y).WellFormed → ReadBack (.waitClk y) x) := by
  have hc : Dec.candOf (0x33#6).toNat (Enc.w0 y.sp 0x33 y.d y.a y.b 6) x =
      if y.b.getLsbD 0 then some { i := .waitClk y } else some { i := .wait y } := by
    change Dec.cand33 _ = _
    rw [Dec.cand33, fLow_w0, Dec.candWait, fB_w0, r3l_w0]
    rfl
  constructor
  · intro h
    have hb : y.b = 0 := by
      have := h.2
      simp [Instr.causes, causesOf, causesZ] at this
      exact this.2.2
    exact readBack_one h rfl (fMajor_w0 ..) ⟨rfl, rfl⟩ (hc.trans (by rw [hb]; rfl))
  · intro h
    have hb : y.b = 1 := by
      have := h.2
      simp [Instr.causes, causesOf, causesZ] at this
      exact this.2
    exact readBack_one h rfl (fMajor_w0 ..) ⟨rfl, rfl⟩ (hc.trans (by rw [hb]; rfl))

/-- Settles O52: the shapes of the instructions in turn. -/
theorem encodeThenDecode : Obligations.EncodeThenDecode := by
  unfold Obligations.EncodeThenDecode
  intro i x h
  change ReadBack i x
  cases i
  case addVVV | addVVS | addSSS | subVVV | subVVS | subSSS | mulVVV | mulVVS | mulSSS | minVVV | minVVS | minSSS | maxVVV | maxVVS |
      maxSSS | faddVVV | faddVVS | faddSSS | fsubVVV | fsubVVS | fsubSSS | fmulVVV | fmulVVS | fmulSSS | fminVVV | fminVVS | fminSSS |
      fmaxVVV | fmaxVVS | fmaxSSS => exact readBack_r3 h rfl ⟨rfl, rfl⟩ (fun _ _ => rfl) rfl rfl
  case andVVV | andVVS | andSSS | orVVV | orVVS | orSSS | xorVVV | xorVVS | xorSSS =>
    exact readBack_r3l h rfl ⟨rfl, rfl⟩ (fun w _ hl => (candLogic_eq _ _ _ w).trans (candZ_minor hl rfl))
  case shlVVV | shlVVS | shlSSS | shrVVV | shrVVS | shrSSS | sarVVV | sarVVS | sarSSS | rotVVV | rotVVS | rotSSS =>
    exact readBack_r3w h rfl ⟨rfl, rfl⟩ (fun _ _ => rfl) rfl
  case absVV | absVS | absSS | negVV | negVS | negSS | notVV | notVS | notSS | popcVV | popcVS | popcSS | clzVV | clzVS | clzSS |
      brevVV | brevVS | brevSS | movVV | movVS | movSS => exact readBack_r2 h rfl ⟨rfl, rfl⟩ (fun _ _ => rfl) rfl rfl
  case moviVecImm | moviUniImm => exact readBack_moviImm h rfl ⟨rfl, rfl⟩ (fun _ _ => rfl) rfl
  case moviVecIword | moviUniIword => exact readBack_moviWord h rfl ⟨rfl, rfl⟩ (fun _ _ => rfl)
  case addImm => exact readBack_addImm h
  case addX | subX | mulX | mulhi | mad | minX | maxX | absX | negX | andX | orX | xorX | notX | shlX | shrX | sarX | rotX | popcX | clzX |
      brevX | bfx | bfi | sel | cmp | movX | dot4 | sad | faddX | fsubX | fmulX | ffma | fminX | fmaxX | fcmp | frnd | cvt | pack |
      unpack | exp2 | log2 | rcp | rsqrt | sqrt | sin | cos | tanh | cbld | cbrd | cbq | shfl | bcast | ballot | vote | gscan | gred |
      matchEq => exact readBack_x h rfl rfl
  case rdsrVector => exact readBack_srRead h rfl ⟨rfl, rfl⟩ (fun w _ hl => by simp [Dec.candOf, hl])
  case rdsrUniform => exact readBack_srRead h rfl ⟨rfl, rfl⟩ (fun w _ hl => by simp [Dec.candOf, hl])
  case wrsr => exact readBack_srWrite h rfl ⟨rfl, rfl⟩ (fun w _ hl => by simp [Dec.candOf, hl])
  case ld | st | lds | sts | ldc | atom | atoms | pref => exact readBack_mem h rfl rfl
  case fence | fenceEng | wbr | invr =>
    exact readBack_uniform (row := Dec.rowM true) (m := 0x25) h rfl rfl mi_uniform ⟨rfl, rfl⟩ (fun _ _ => rfl) rfl
  case put | get | ctrw =>
    exact readBack_uniform (row := Dec.rowWin) h rfl rfl (fun _ => rfl) ⟨rfl, rfl⟩ (fun _ _ => rfl) rfl
  case mapCat | mapSplit | mapPerm | mapXchg | mapAlias | mapDrop | mapQuery =>
    exact readBack_uniform (row := Dec.rowMap) h rfl rfl (fun _ => rfl) ⟨rfl, rfl⟩ (fun _ _ => rfl) rfl
  case cpG2s | cpS2g | cpS2s | cpMc | cpNet | cpxTr | cpxQ4r | cpxDq | cpxZbc | cpxZbx | mm | mmLd | mmSt =>
    exact readBack_e h rfl ⟨rfl, rfl⟩ (fun _ _ => rfl) rfl
  case txInit | txAim | txArrive | txWait | txTest | txDrop | taskSpawn | tileSet | tileGet | ridgeArrive | ridgeWait | ridgeJoin |
      ridgeLeave | leadStep | tasteNext | tasteAdd | tasteStat => exact readBack_r3l h rfl ⟨rfl, rfl⟩ (fun _ _ hl => candZ_minor hl rfl)
  case bra => exact readBack_bra h
  case brp => exact readBack_brp h
  case call => exact readBack_call h
  case jmpi | ret | exit | yield | nop | gsync =>
    exact readBack_r3l h rfl ⟨rfl, rfl⟩ (fun w _ hl => by simp [Dec.candOf, Dec.cand33, Dec.candZ, hl])
  case wait => exact readBack_waits.1 h
  case waitClk => exact readBack_waits.2 h
  case rep => exact readBack_rep h
  case win | trap | brk => exact readBack_imm h rfl ⟨rfl, rfl⟩ (fun _ _ => rfl)
  case tret | gsave | grest | scall =>
    exact readBack_r3l h rfl ⟨rfl, rfl⟩ (fun w _ hl => by simp [Dec.candOf, Dec.cand38, hl])
  case csrr => exact readBack_srRead h rfl ⟨rfl, rfl⟩ (fun w _ hl => by simp [Dec.candOf, Dec.cand38, hl])
  case csrw => exact readBack_srWrite h rfl ⟨rfl, rfl⟩ (fun w _ hl => by simp [Dec.candOf, Dec.cand38, hl])
  all_goals exact absurd h.1 Bool.false_ne_true

end Sys2Proof
end

section
/-! PROOFS. Words that the decoder rejects (R68): every cause that words can raise is one of three codes, and the lowest is
reported. -/

open Sys2Proof Sys2Proof.Machine

namespace Sys2Proof

/-! ### The causes that the words can raise -/

/-- The causes of an unassigned code, a reserved field and a type, and no others. -/
def WordCauses (l : List (BitVec 8)) : Prop := ∀ c ∈ l, c = cUnassigned ∨ c = cReserved ∨ c = cType

@[simp] theorem wordCauses_nil : WordCauses [] := by simp [WordCauses]
@[simp] theorem wordCauses_append {l l' : List (BitVec 8)} : WordCauses (l ++ l') ↔ WordCauses l ∧ WordCauses l' := by
  simp only [WordCauses, List.mem_append, or_imp, forall_and]
@[simp] theorem wordCauses_bad {b : Bool} {c : BitVec 8} :
    WordCauses (bad b c) ↔ b = false ∨ c = cUnassigned ∨ c = cReserved ∨ c = cType := by
  cases b <;> simp [WordCauses, bad]

@[simp] theorem wordCauses_causesX (tk : Bool) (x : XArgs) (p : XSpec) : WordCauses (causesX tk x p) := by simp [causesX]
@[simp] theorem wordCauses_causesM (tk : Bool) (x : MArgs) (p : MSpec) : WordCauses (causesM tk x p) := by
  unfold causesM
  cases p.aops <;> cases p.ords <;> cases p.scs <;> cases p.tys <;> simp
@[simp] theorem wordCauses_causesE (x : EArgs) (h sh c : Bool) (mask : BitVec 12) (ok1 tyOk : Bool) :
    WordCauses (causesE x h sh c mask ok1 tyOk) := by
  unfold causesE
  cases sh <;> cases c <;> simp
@[simp] theorem wordCauses_causesZ (x : R3L) (d a b : Bool) : WordCauses (causesZ x d a b) := by simp [causesZ]

theorem wordCauses_causesOf (tk : Bool) (i : Instr) : WordCauses (causesOf tk i) := by
  cases i <;> simp [causesOf, causesR3, causesR2, causesMoviImm, causesMoviWord]

@[simp] theorem wordCauses_zeros (l : List Bool) : WordCauses (Dec.zeros l) := wordCauses_bad.mpr (.inr (.inr (.inl rfl)))

/-- What a candidate raises besides the causes of its payload. -/
def ExtraCauses (o : Option Dec.Cand) : Prop := ∀ k ∈ o, WordCauses k.extra

section Extra

open Dec

@[simp] theorem extraCauses_noRow : ExtraCauses noRow := by simp [ExtraCauses, noRow]
@[simp] theorem extraCauses_some (k : Cand) : ExtraCauses (some k) ↔ WordCauses k.extra := by simp [ExtraCauses]
@[simp] theorem extraCauses_candR3 (f g : R3 → Instr) (w : IWord) : ExtraCauses (candR3 f g w) := by simp [candR3]
@[simp] theorem extraCauses_candShift (f0 f1 f2 f3 : R3W → Instr) (w : IWord) : ExtraCauses (candShift f0 f1 f2 f3 w) := by
  unfold candShift
  split <;> simp
@[simp] theorem extraCauses_candUnary (fs : List (R2 → Instr)) (w : IWord) : ExtraCauses (candUnary fs w) := by
  unfold candUnary
  split <;> simp
@[simp] theorem extraCauses_candX (form : Form) (w x : IWord) : ExtraCauses (candX form w x) := by
  unfold candX
  split <;> simp
@[simp] theorem extraCauses_candM (row : Option (MArgs → Instr)) (form : Form) (w x : IWord) :
    ExtraCauses (candM row form w x) := by
  unfold candM
  split <;> simp
@[simp] theorem extraCauses_candE (fs : List (EArgs → Instr)) (w x : IWord) : ExtraCauses (candE fs w x) := by
  unfold candE
  split <;> simp
@[simp] theorem extraCauses_candZ (fs : List (R3L → Instr)) (w : IWord) : ExtraCauses (candZ fs w) := by
  unfold candZ
  split <;> simp
@[simp] theorem extraCauses_candLogic (f0 f1 f2 : R3L → Instr) (w : IWord) : ExtraCauses (candLogic f0 f1 f2 w) := by
  simp [candLogic_eq]
@[simp] theorem extraCauses_cand33 (w : IWord) : ExtraCauses (cand33 w) := by
  unfold cand33 candWait
  split
  · split <;> simp
  · simp
@[simp] theorem extraCauses_cand38 (w : IWord) : ExtraCauses (cand38 w) := by
  unfold cand38
  split <;> simp

theorem extraCauses_candOf (n : Nat) (w x : IWord) : ExtraCauses (candOf n w x) := by
  unfold candOf
  split
  case h_33 | h_34 => split <;> simp
  all_goals simp

/-- Every cause of a candidate. -/
theorem wordCauses_of_candOf {n : Nat} {w x : IWord} {k : Cand} (h : candOf n w x = some k) :
    WordCauses (k.extra ++ causesOf k.tk k.i) :=
  wordCauses_append.mpr ⟨extraCauses_candOf n w x k h, wordCauses_causesOf k.tk k.i⟩

end Extra

/-! ### The lowest cause -/

theorem lowest_mem {l : List (BitVec 8)} {c : BitVec 8} (h : Dec.lowest l = some c) : c ∈ l ∧ ∀ e ∈ l, c.toNat ≤ e.toNat := by
  induction l generalizing c with
  | nil => cases h
  | cons a t ih =>
    unfold Dec.lowest at h
    cases ht : Dec.lowest t with
    | none =>
      rw [ht] at h
      obtain rfl := Option.some.inj h
      simp [(lowest_eq_none t).mp ht]
    | some e =>
      obtain ⟨hmem, hle⟩ := ih ht
      rw [ht] at h
      obtain rfl := Option.some.inj h
      split
      next hae => exact ⟨List.mem_cons_self .., fun b hb => by
        rcases List.mem_cons.mp hb with rfl | hb
        · exact Nat.le_refl _
        · exact Nat.le_trans hae (hle b hb)⟩
      next hae => exact ⟨List.mem_cons_of_mem _ hmem, fun b hb => by
        rcases List.mem_cons.mp hb with rfl | hb
        · omega
        · exact hle b hb⟩

/-- A candidate that raises a cause is rejected by the least of its causes. -/
theorem finish_eq_reject {k : Dec.Cand} {c : BitVec 8} (hc : c ∈ k.extra ++ causesOf k.tk k.i)
    (hle : ∀ e ∈ k.extra ++ causesOf k.tk k.i, c.toNat ≤ e.toNat) : k.finish = .reject c := by
  unfold Dec.Cand.finish
  cases h : Dec.lowest (k.extra ++ causesOf k.tk k.i) with
  | none =>
    rw [(lowest_eq_none _).mp h] at hc
    cases hc
  | some e =>
    obtain ⟨hmem, hmin⟩ := lowest_mem h
    dsimp only
    rw [BitVec.eq_of_toNat_eq (Nat.le_antisymm (hmin c hc) (hle e hmem))]

theorem mem_of_finish_reject {k : Dec.Cand} {c : BitVec 8} (h : k.finish = .reject c) : c ∈ k.extra ++ causesOf k.tk k.i := by
  unfold Dec.Cand.finish at h
  split at h
  next => cases h
  next e he =>
    cases h
    exact (lowest_mem he).1

/-! ### The decoder's answer -/

theorem decode_of_cand {w x : IWord} {n : Nat} {k : Dec.Cand} (hm : (Dec.fMajor w).toNat = n) (ha : Dec.majorAssigned n = true)
    (hk : Dec.candOf n w x = some k) : decode w x = k.finish := by
  subst hm
  simp only [decode, ha, hk, if_true]

theorem decode_of_none {w x : IWord} {n : Nat} (hm : (Dec.fMajor w).toNat = n) (ha : Dec.majorAssigned n = true)
    (hk : Dec.candOf n w x = none) : decode w x = .reject cUnassigned := by
  subst hm
  simp only [decode, ha, hk, if_true]

theorem decode_unassigned {w x : IWord} (h : Dec.majorAssigned (Dec.fMajor w).toNat = false) : decode w x = .reject 0x00 := by
  simp [decode, h]

/-- Guard 0b1000 is cause 0x01 of an extended word, whatever its other fields raise. -/
theorem decode_guard {form : Form} {w x : IWord} (hm : (Dec.fMajor w).toNat = (Enc.xMajor form).toNat)
    (hg : Dec.fLow w = 0b1000#4) : decode w x = .reject 0x01 := by
  have ha : Dec.majorAssigned (Enc.xMajor form).toNat = true := by cases form <;> rfl
  have hc : Dec.candOf (Enc.xMajor form).toNat w x = Dec.candX form w x := by cases form <;> rfl
  cases hk : Dec.candX form w x with
  | none => exact decode_of_none hm ha (hc.trans hk)
  | some k =>
    rw [decode_of_cand hm ha (hc.trans hk)]
    have hall := wordCauses_of_candOf (hc.trans hk)
    refine finish_eq_reject (List.mem_append_right _ ?_) fun e he => ?_
    · unfold Dec.candX at hk
      split at hk
      next f hrow =>
        obtain rfl := Option.some.inj hk
        obtain ⟨p, hp⟩ := causesOf_rowX hrow (tyOf (Dec.xTy x)).isSome (Dec.xargs form w x)
        have hneg : (Dec.xargs form w x).neg = true := by
          change w.getLsbD 3 = true
          rw [getLsbD_fLow w (by decide), hg]
          rfl
        have hpz : (Dec.xargs form w x).p = 0 := by
          change w.extractLsb' 0 3 = 0
          rw [extract_fLow w (by decide), hg]
          rfl
        dsimp only
        rw [hp, causesX, hneg, hpz]
        simp [bad]
      next => cases hk
    · obtain rfl | rfl | rfl := hall e he <;> decide

theorem mem_causesZ {x : R3L} {d a b : Bool} {c : BitVec 8} (h : c ∈ causesZ x d a b) : c = cReserved := by
  have hb : ∀ p, c ∈ bad p cReserved → c = cReserved := by
    intro p hp
    cases p <;> simp [bad] at hp
    exact hp
  simp only [causesZ, List.mem_append] at h
  obtain (h | h) | h := h <;> exact hb _ h

/-- A field of nop that is not zero (R68). -/
theorem decode_nop_reserved {w x : IWord} (hm : (Dec.fMajor w).toNat = 0x33) (hl : Dec.fLow w = 4#4)
    (hz : w.extractLsb' 4 21 ≠ 0) : decode w x = .reject 0x02 := by
  have hk : Dec.candOf 0x33 w x = some { i := .nop (Dec.r3l w) } := by
    simp [Dec.candOf, Dec.cand33, Dec.candZ, hl]
  rw [decode_of_cand hm rfl hk]
  have hall : ∀ e ∈ causesZ (Dec.r3l w) true true true, e = cReserved := fun e he => mem_causesZ he
  have hne : causesZ (Dec.r3l w) true true true ≠ [] := by
    intro hnil
    obtain ⟨hd, ha, hb⟩ : Dec.fD w = 0 ∧ Dec.fA w = 0 ∧ Dec.fB w = 0 := by
      simpa [causesZ, Dec.r3l] using hnil
    refine hz ?_
    have : w.extractLsb' 4 21 = (Dec.fD w ++ Dec.fA w ++ Dec.fB w : BitVec (7 + 7 + 7)) := by
      unfold Dec.fD Dec.fA Dec.fB
      simp (disch := decide) only [BitVec.extractLsb'_append_extractLsb'_eq_extractLsb']
    rw [this, hd, ha, hb]
    rfl
  obtain ⟨e, he⟩ := List.exists_mem_of_ne_nil _ hne
  obtain rfl := hall e he
  exact finish_eq_reject he fun e he => Nat.le_of_eq (congrArg BitVec.toNat (hall e he).symm)

/-- Settles O55: the causes of a candidate are codes 0x01 to 0x03, and the lowest of them is the answer. -/
theorem decodeRejects : Obligations.DecodeRejects := by
  unfold Obligations.DecodeRejects
  refine ⟨fun w x hm => decode_unassigned ?_, fun w x hm hg => ?_, fun w x hm hl hz => decode_nop_reserved hm hl hz,
    fun w x c h => ?_⟩
  · have : ∀ n ∈ [0x00, 0x2F, 0x39, 0x3A, 0x3B, 0x3C, 0x3D, 0x3E, 0x3F], Dec.majorAssigned n = false := by decide
    exact this _ hm
  · simp only [List.mem_cons, List.not_mem_nil, or_false] at hm
    obtain hm | hm | hm := hm
    · exact decode_guard (form := .v) hm hg
    · exact decode_guard (form := .m) hm hg
    · exact decode_guard (form := .s) hm hg
  · cases ha : Dec.majorAssigned (Dec.fMajor w).toNat with
    | false =>
      rw [decode_unassigned ha] at h
      cases h
      decide
    | true =>
      cases hk : Dec.candOf (Dec.fMajor w).toNat w x with
      | none =>
        rw [decode_of_none rfl ha hk] at h
        cases h
        decide
      | some k =>
        rw [decode_of_cand rfl ha hk] at h
        obtain rfl | rfl | rfl := wordCauses_of_candOf hk c (mem_of_finish_reject h) <;> decide

/-- Settles O54: each word is decoded as it stands. -/
theorem writtenWordsDecode : Obligations.WrittenWordsDecode := by
  unfold Obligations.WrittenWordsDecode
  refine ⟨rfl, rfl, rfl, rfl, rfl, rfl, rfl⟩

end Sys2Proof
end

section
/-! PROOFS. Instructions with a register destination: what the register operation leaves in the group, said once for every form
(R56, R88, R89), and from it the results of the short and extended rows. -/

open Host Sys2Proof Sys2Proof.Machine Sys2Proof.Claims

namespace Sys2Proof.Machine

/-! ### The register operation (R88, R89) -/

section RegOp
variable {s : State} {f : Focus} {g : Group}

/-- The flags that the results of some lanes gather. -/
theorem getLsbD_foldl_res (val : Nat → Res) (ls : List Nat) (i : Nat) :
    ((ls.map (fun l => (l, val l))).foldl (fun fl e => fl ||| e.2.2) (0 : Flags)).getLsbD i = true ↔
      ∃ l ∈ ls, (val l).2.getLsbD i = true := by
  rw [getLsbD_foldl_flags]
  simp

/-- One lane-register written in the active lanes, their flags raised, and the instruction retired. -/
theorem vecDone_writeLanes (s : State) (f : Focus) (g : Group) (neg : Bool) (p : BitVec 3) (d : BitVec 7) (val : Nat → Res) :
    let rs := (lanesOf (active f (seen f g) neg p)).map (fun l => (l, val l))
    VecDone s f g d (IsActive f (seen f g) neg p) val (retired f (raiseFlags
      (writeLanes g (vReg (seen f g) d) (rs.map (fun e => (e.1, e.2.1)))) (rs.foldl (fun fl e => fl ||| e.2.2) 0)) s) := by
  intro rs
  generalize hG : writeLanes g (vReg (seen f g) d) (rs.map (fun e => (e.1, e.2.1))) = G
  generalize hfl : rs.foldl (fun fl e => fl ||| e.2.2) 0 = fl
  have hrest : G = { g with vregs := G.vregs } := hG ▸ writeLanes_rest _ g _
  have heffect := retire_effect f g G.vregs g.sregs g.preds g.codebook (g.sticky ||| fl) (g.raised ||| fl) g.stale
  have hkeeps := retire_keeps f g
  have hG' : raiseFlags G fl = { g with
      vregs := G.vregs, sregs := g.sregs, preds := g.preds, codebook := g.codebook, sticky := g.sticky ||| fl
      raised := g.raised ||| fl, stale := g.stale } := by
    rw [hrest]
    rfl
  have hset : retire f (raiseFlags G fl) = { retire f g with
      vregs := G.vregs, sticky := g.sticky ||| fl, raised := g.raised ||| fl } := by
    rw [hG', heffect]
    simp [hkeeps]
  have hregs : ∀ j l, l < 32 → vGet G j l =
      if j = vReg (seen f g) d ∧ l ∈ lanesOf (active f (seen f g) neg p) then (val l).1 else vGet g j l := by
    intro j l hl
    rw [← hG]
    simp only [rs, List.map_map, Function.comp_def]
    exact vGet_writeLanes_fun _ (fun l => (val l).1) _ _ _ _ (fun l h => (mem_active.mp h).1) hl (lanesOf_nodup _)
  have hflags : ∀ (x : Flags) i, (x ||| fl).getLsbD i = true ↔ x.getLsbD i = true ∨
      ∃ l, l < 32 ∧ IsActive f (seen f g) neg p l ∧ (val l).2.getLsbD i = true := by
    intro x i
    rw [BitVec.getLsbD_or, Bool.or_eq_true, ← hfl, getLsbD_foldl_res]
    simp only [mem_active, IsActive, and_assoc]
  refine ⟨_, congrArg (fun h => unfocus (putGroup s f.gid h)) hset, rfl, ?_, ?_, fun i _ => ⟨hflags _ i, hflags _ i⟩⟩
  · intro l hl hact
    exact (hregs _ l hl).trans (if_pos ⟨rfl, mem_active.mpr ⟨hl, hact⟩⟩)
  · intro j l hl hout
    refine (hregs j l hl).trans (if_neg fun h => ?_)
    exact hout.elim (fun hn => hn (mem_active.mp h.2).2) (fun hn => hn h.1)

/-- A register operation whose vector registers are in the allotment completes, in every form: each active lane, or the uniform
register, receives its value. -/
theorem regOp_done {x : Sel} {fn : Group → Nat → Opnds → Res} {val : Nat → Res} (hi : Issues s f g)
    (hfit : InAllot (seen f g) x.vecs) (hval : ∀ l, fn (seen f g) l (x.read (seen f g) l) = val l) :
    ∃ t, regOp x fn s = .next t ∧ RegDone x.form s f g x.neg x.p x.d val t := by
  obtain rfl : _ = val := funext hval
  by_cases hform : x.form = .s
  · refine ⟨_, regOp_uniform hform hi.1 hi.2, ?_⟩
    rw [RegDone, if_pos hform]
    exact ⟨_, rfl, rfl, sGet_sSet_self .., fun n hn => sGet_sSet_ne _ _ hn⟩
  · refine ⟨_, ?_, (if_neg hform).mpr (vecDone_writeLanes ..)⟩
    unfold regOp
    rw [issuer_focus _ hi.1 hi.2]
    simp only [hform, if_false, withRegs_inside f g x.vecs s _ hfit]
    rfl

end RegOp

/-! ### Operands and allotment by the form (R21, R56) -/

theorem read_a (x : Sel) (v : Group) (l : Nat) : (x.read v l).a = opA x.form v x.a l := by
  cases h : x.form <;> simp [Sel.read, readReg, opA, readV, vReg, h]
theorem read_b (x : Sel) (v : Group) (l : Nat) : (x.read v l).b = opB x.form v x.b l := by
  cases h : x.form <;> simp [Sel.read, readReg, opB, readV, vReg, h]

theorem inAllot_named {form : Form} {v : Group} {d a b : BitVec 7} (h : Fits form v [d, a] [b]) :
    InAllot v (named form d a b) := by
  obtain ⟨hda, hb⟩ := h
  cases form with
  | v => exact List.forall_mem_append (l₁ := [d, a]).mpr ⟨hda (by decide), hb rfl⟩
  | m => exact hda (by decide)
  | s => exact fun n hn => absurd hn List.not_mem_nil

theorem inAllot_vector {form : Form} {v : Group} {ns : List (BitVec 7)} (h : Fits form v ns []) :
    InAllot v (if form = .s then [] else ns) := by
  split
  · exact fun n hn => absurd hn List.not_mem_nil
  next hs => exact h.1 hs

/-! ### The rows -/

/-- Settles O1: the rows run the register operation on their own operands. -/
theorem shortArithmeticResults : Obligations.ShortArithmeticResults := by
  constructor
  · intro row hrow x s f g hi hfit
    rw [exec_shortIntRow hrow]
    exact regOp_done hi (vecs_selR3 row.1 x ▸ inAllot_named hfit) fun l => by rw [read_a, read_b]; rfl
  · intro row hrow x s f g hi hfit
    rw [exec_shortFltRow hrow]
    exact regOp_done hi (vecs_selR3 row.1 x ▸ inAllot_named hfit) fun l => by rw [read_a, read_b]; rfl

/-- The source of a short unary instruction is operand b of its form (R56). -/
theorem srcR2_read (form : Form) (x : R2) (v : Group) (l : Nat) : srcR2 form ((selR2 form x).read v l) = opB form v x.a l := by
  cases form <;> rfl

theorem inAllot_selR2 {form : Form} {x : R2} {v : Group} (h : Fits form v [x.d] [x.a]) : InAllot v (selR2 form x).vecs := by
  obtain ⟨hd, ha⟩ := h
  cases form with
  | v => exact List.forall_mem_append (l₁ := [x.d]).mpr ⟨hd (by decide), ha rfl⟩
  | m => exact hd (by decide)
  | s => exact fun n hn => absurd hn List.not_mem_nil

/-- Settles O2: the same for the short logic, shift and unary rows. -/
theorem shortBitwiseResults : Obligations.ShortBitwiseResults := by
  refine ⟨⟨?_, ?_⟩, ?_⟩
  · intro row hrow x s f g hi hfit
    rw [exec_shortLogicRow hrow]
    exact regOp_done hi (vecs_selR3L row.1 x ▸ inAllot_named hfit) fun l => by rw [read_a, read_b]; rfl
  · intro row hrow x s f g hi hfit
    rw [exec_shortShiftRow hrow]
    exact regOp_done hi (vecs_selR3W row.1 x ▸ inAllot_named hfit) fun l => by rw [read_a, read_b]; rfl
  · intro row hrow x s f g hi hfit
    rw [exec_shortUnaryRow hrow]
    have := regOp_done (x := selR2 row.1 x) (fn := fun _ _ o => row.2.2 x.ty (srcR2 row.1 o)) hi (inAllot_selR2 hfit)
      fun l => by rw [srcR2_read]
    cases hform : row.1 <;> rw [hform] at this <;> exact this

/-- Settles O3: movi reads no register, and the immediate add one uniform register. -/
theorem immediateResults : Obligations.ImmediateResults := by
  have nothing : ∀ v : Group, InAllot v [] := fun v n hn => absurd hn List.not_mem_nil
  refine ⟨fun x s f g hi => ⟨fun hfit => ?_, ?_⟩, fun x s f g hi => ⟨fun hfit => ?_, ?_⟩, fun x s f g hi => ?_⟩
  · rw [exec_moviVecImm]; exact regOp_done (x := selMovi .v x.d) hi hfit fun _ => rfl
  · rw [exec_moviUniImm]; exact regOp_done (x := selMovi .s x.d) hi (nothing _) fun _ => rfl
  · rw [exec_moviVecIword]; exact regOp_done (x := selMovi .v x.d) hi hfit fun _ => rfl
  · rw [exec_moviUniIword]; exact regOp_done (x := selMovi .s x.d) hi (nothing _) fun _ => rfl
  · rw [exec_addImm]; exact regOp_done (x := { form := .s, d := x.d, a := x.a, useB := false }) hi (nothing _) fun _ => rfl

/-- Settles O4: the extended rows run the register operation under their guard. -/
theorem extendedResults : Obligations.ExtendedResults := by
  constructor
  · intro row hrow x s f g hi hfit
    rw [exec_extRow hrow]
    exact regOp_done hi (vecs_selX_two x ▸ inAllot_named hfit) fun l => by rw [read_a, read_b]; rfl
  · intro row hrow x s f g hi hfit
    rw [exec_extUnaryRow hrow]
    exact regOp_done hi (vecs_selX_one x ▸ inAllot_vector hfit) fun l => by rw [read_a]; rfl

/-! ### Retiring (R73, R76) -/

theorem retire_rep_none {f : Focus} {g : Group} (h : f.iter = none) : (retire f g).rep = g.rep := by
  simp [retire, advance, h, pcSet, countWindow]

/-- Retiring an iteration that is not the last leaves the counters and makes the next iteration due (R73). -/
theorem retire_next {f : Focus} {g : Group} {it : Iter} (h : f.iter = some it) (hlt : it.idx + 1 < it.count) :
    (retire f g).pcs = g.pcs ∧ (retire f g).rep = { g.rep with next := BitVec.ofNat 6 (it.idx + 1) } := by
  simp [retire, advance, h, hlt, countWindow]

/-- Retiring the last iteration ends the repeat, and the lanes go past the repeated instruction (R73). -/
theorem retire_last {f : Focus} {g : Group} {it : Iter} (h : f.iter = some it) (hle : it.count ≤ it.idx + 1) :
    (retire f g).rep = {} ∧
      ∀ l, l < 32 → pcGet (retire f g) l = if f.lanes.getLsbD l = true then it.after else pcGet g l := by
  have hadv : advance f (countWindow f.lanes g) = pcSet { countWindow f.lanes g with rep := {} } f.lanes it.after := by
    simp [advance, h, Nat.not_lt.mpr hle]
  constructor
  · rw [retire, hadv]
    rfl
  · intro l hl
    have : pcGet (retire f g) l = pcGet (pcSet { countWindow f.lanes g with rep := {} } f.lanes it.after) l := by
      rw [retire, hadv]
      rfl
    rw [this, pcGet_pcSet _ _ _ _ hl]
    rfl

/-- Retiring changes no window but by counting it (R76). -/
theorem retire_pends (f : Focus) (g : Group) : (retire f g).pends = (countWindow f.lanes g).pends := by
  unfold retire advance
  cases f.iter with
  | none => rfl
  | some it =>
    dsimp only
    split <;> rfl

/-- An open window of the lanes is one instruction shorter (R76). -/
theorem mem_pends_retire {f : Focus} {g : Group} {p : Pend} (hp : p ∈ g.pends) (hmeet : p.lanes &&& f.lanes ≠ 0)
    (hheld : p.held = false) : { p with left := p.left - 1, issued := true } ∈ (retire f g).pends := by
  rw [retire_pends]
  have hm : meets p.lanes f.lanes = true := bne_iff_ne.mpr hmeet
  exact List.mem_map.mpr ⟨p, hp, by simp [hm, hheld]⟩

/-- Settles O13: outside a repeat, before its last iteration, and at it. -/
theorem retireAdvances : Obligations.RetireAdvances := by
  unfold Obligations.RetireAdvances
  intro f g
  obtain ⟨hv, hs, hp, -, hsticky, hstale, hcause, hepc, htrap, hexited, -⟩ := retire_keeps f g
  exact ⟨fun h => ⟨retire_rep_none h, retire_pcs f g h⟩, fun _ h hlt => retire_next h hlt, fun _ h hle => retire_last h hle,
    fun _ hmem hmeet hheld => mem_pends_retire hmem hmeet hheld, hv, hs, hp, hcause, hepc, htrap, hsticky, hstale, hexited⟩

end Sys2Proof.Machine
end

section
/-! PROOFS. What issuing an access of global memory leaves alone, and the requests that it adds: one rule for each operation
that the memory instructions use at issue (R155-R160, R178, R222). -/

open Host Sys2Proof Sys2Proof.Machine Sys2Proof.Claims

namespace Sys2Proof.Machine

/-! ### What issuing leaves alone -/

/-- The groups, the bytes of both memories, the edits and the contexts are as they were: what no request at issue changes. -/
structure IssueFrame (s t : State) : Prop where
  groups : t.groups = s.groups
  mem : t.mem = s.mem
  sram : t.sram = s.sram
  edits : t.edits = s.edits
  ctxs : t.ctxs = s.ctxs

theorem IssueFrame.refl (s : State) : IssueFrame s s := ⟨rfl, rfl, rfl, rfl, rfl⟩

theorem IssueFrame.trans {s t u : State} (h : IssueFrame s t) (h' : IssueFrame t u) : IssueFrame s u :=
  ⟨h'.groups.trans h.groups, h'.mem.trans h.mem, h'.sram.trans h.sram, h'.edits.trans h.edits, h'.ctxs.trans h.ctxs⟩

theorem issueFrame_foldl {α : Type} {step : State → α → State} (h : ∀ s e, IssueFrame s (step s e)) (l : List α) (s : State) :
    IssueFrame s (l.foldl step s) := by
  induction l generalizing s with
  | nil => exact .refl s
  | cons e l ih => exact (h s e).trans (ih _)

theorem issueFrame_addReq (s : State) (r : Req) : IssueFrame s (addReq s r) := ⟨rfl, rfl, rfl, rfl, rfl⟩

theorem issueFrame_fresh (s : State) (n : Nat) : IssueFrame s { s with fresh := n } := ⟨rfl, rfl, rfl, rfl, rfl⟩

theorem issueFrame_touchTables (s : State) (k va : Nat) : IssueFrame s (touchTables s k va) :=
  issueFrame_foldl (step := touchBin) (fun _ _ => ⟨rfl, rfl, rfl, rfl, rfl⟩) _ s

theorem issueFrame_touchWalk (s : State) (core k va : Nat) : IssueFrame s (touchWalk s core k va) := by
  unfold touchWalk
  split
  · exact .refl s
  · exact issueFrame_touchTables s k va

theorem issueFrame_fillTlb (s : State) (core : Nat) (l : List (Acc × Trans)) : IssueFrame s (fillTlb s core l) := by
  unfold fillTlb
  refine issueFrame_foldl (fun s e => (issueFrame_touchWalk s core e.2.ctx e.1.addr).trans ?_) l s
  exact ⟨rfl, rfl, rfl, rfl, rfl⟩

theorem issueFrame_acquireAt (s : State) (gid : Nat) (sc : Scope) : IssueFrame s (acquireAt s gid sc) := by
  have hdrop : ∀ s c, IssueFrame s (dropClean s c) := fun _ _ => ⟨rfl, rfl, rfl, rfl, rfl⟩
  cases sc with
  | grp | team => exact .refl s
  | clu =>
    unfold acquireAt
    dsimp only
    split
    · exact .refl s
    · exact hdrop s _
  | die | pkg | sys => exact issueFrame_foldl hdrop _ s

/-! ### The requests that issuing adds -/

/-- The requests of t are those of s and, for each element of the list, one that meets P with it. -/
structure Requests {α : Type} (P : α → Req → Prop) (l : List α) (s t : State) : Prop where
  old : ∀ r ∈ s.reqs, r ∈ t.reqs
  made : ∀ e ∈ l, ∃ r ∈ t.reqs, P e r
  only : ∀ r ∈ t.reqs, r ∈ s.reqs ∨ ∃ e ∈ l, P e r

/-- Steps that each add one request. -/
theorem requests_foldl {α : Type} {P : α → Req → Prop} {step : State → α → State}
    (h : ∀ s e, ∃ r, (step s e).reqs = s.reqs ++ [r] ∧ P e r) (l : List α) (s : State) : Requests P l s (l.foldl step s) := by
  induction l generalizing s with
  | nil => exact ⟨fun _ hr => hr, fun _ he => absurd he List.not_mem_nil, fun _ hr => .inl hr⟩
  | cons e l ih =>
    obtain ⟨r, hreqs, hr⟩ := h s e
    obtain ⟨old, made, only⟩ := ih (step s e)
    rw [hreqs] at old only
    refine ⟨fun q hq => old q (List.mem_append_left _ hq), ?_, fun q hq => ?_⟩
    · exact List.forall_mem_cons.mpr ⟨⟨r, old r (List.mem_append_right _ (List.mem_singleton_self r)), hr⟩, made⟩
    · rcases only q hq with hq | ⟨d, hd, hp⟩
      · rcases List.mem_append.mp hq with hq | hq
        · exact .inl hq
        · exact .inr ⟨e, List.mem_cons_self, (List.mem_singleton.mp hq) ▸ hr⟩
      · exact .inr ⟨d, List.mem_cons_of_mem _ hd, hp⟩

theorem reqs_touchWalk (s : State) (core k va : Nat) : (touchWalk s core k va).reqs = s.reqs := by
  have htouch : ∀ (l : List Nat) (s : State), (l.foldl touchBin s).reqs = s.reqs := by
    intro l
    induction l with
    | nil => exact fun _ => rfl
    | cons b l ih => exact fun s => ih (touchBin s b)
  unfold touchWalk
  split
  · rfl
  · exact htouch _ s

theorem reqs_fillTlb (s : State) (core : Nat) (l : List (Acc × Trans)) : (fillTlb s core l).reqs = s.reqs := by
  unfold fillTlb
  induction l generalizing s with
  | nil => rfl
  | cons e l ih => exact (ih _).trans (reqs_touchWalk s core _ _)

/-! ### One access's request -/

/-- A load's request for its access, of a window. -/
def LoadReq (pend n : Nat) (e : Acc × Trans) (r : Req) : Prop :=
  r.pend = pend ∧ r.va = e.1.addr ∧ r.size = n ∧ isLoad r = true ∧ r.lanes = e.1.lanes
/-- A store's request for its access, with the bytes of the access's lane. -/
def StoreReq (x : MArgs) (v : Group) (e : Acc × Trans) (r : Req) : Prop :=
  r.va = e.1.addr ∧ r.size = accSize x.ty ∧ r.stage = .queued ∧ r.kind = .store (dataBytes x v e.1.lane)
/-- An atomic's request for its access, with its operands, of a window. -/
def AtomReq (x : MArgs) (v : Group) (pend : Nat) (e : Acc × Trans) (r : Req) : Prop :=
  r.pend = pend ∧ r.va = e.1.addr ∧ r.lanes = e.1.lanes ∧
    r.kind = .atom x.aop.toNat x.ty (readReg (x.form != .s) v x.b e.1.lane) (readReg (x.form != .s) v x.d e.1.lane) e.1.lane

section Requests
variable (s : State) (f : Focus) (g : Group) (pend n : Nat) (a : Acc) (t : Trans)

theorem addLoad_adds (acq shared : Bool) : IssueFrame s (addLoad s f g pend n acq shared a t) ∧
    ∃ r, (addLoad s f g pend n acq shared a t).reqs = s.reqs ++ [r] ∧ LoadReq pend n (a, t) r := by
  unfold addLoad
  dsimp only
  split
  · exact ⟨issueFrame_addReq s _, _, rfl, rfl, rfl, rfl, rfl, rfl⟩
  · exact ⟨issueFrame_addReq s _, _, rfl, rfl, rfl, rfl, rfl, rfl⟩

theorem addConst_adds (shared : Bool) : IssueFrame s (addConst s f g pend n shared a t) ∧
    ∃ r, (addConst s f g pend n shared a t).reqs = s.reqs ++ [r] ∧ LoadReq pend n (a, t) r := by
  unfold addConst
  dsimp only
  split
  · exact ⟨issueFrame_addReq s _, _, rfl, rfl, rfl, rfl, rfl, rfl⟩
  · exact ⟨issueFrame_addReq s _, _, rfl, rfl, rfl, rfl, rfl, rfl⟩

theorem addStore_adds (x : MArgs) (v : Group) (rel : Bool) (iid cover : Nat) :
    IssueFrame s (addStore s f g (accSize x.ty) rel iid cover (dataBytes x v a.lane) a t) ∧
    ∃ r, (addStore s f g (accSize x.ty) rel iid cover (dataBytes x v a.lane) a t).reqs = s.reqs ++ [r] ∧
      StoreReq x v (a, t) r := by
  unfold addStore
  dsimp only
  split
  · exact ⟨⟨rfl, rfl, rfl, rfl, rfl⟩, _, rfl, rfl, rfl, rfl, rfl⟩
  · exact ⟨issueFrame_addReq s _, _, rfl, rfl, rfl, rfl, rfl⟩

/-- An atomic's request, for the window pend. -/
def addAtom (x : MArgs) (v : Group) : State :=
  addReq s { newReq s f g a.lanes a.addr (accSize x.ty) t
    (.atom x.aop.toNat x.ty (readReg (x.form != .s) v x.b a.lane) (readReg (x.form != .s) v x.d a.lane) a.lane) with pend }

theorem addAtom_adds (x : MArgs) (v : Group) : IssueFrame s (addAtom s f g pend a t x v) ∧
    ∃ r, (addAtom s f g pend a t x v).reqs = s.reqs ++ [r] ∧ AtomReq x v pend (a, t) r :=
  ⟨issueFrame_addReq s _, _, rfl, rfl, rfl, rfl, rfl⟩

end Requests

/-! ### The accesses of an instruction by their addresses -/

/-- byAddr keeps the addresses of a list. -/
theorem exists_addr_byAddr (l : List Acc) (p : Nat) : (∃ b ∈ byAddr l, b.addr = p) ↔ ∃ a ∈ l, a.addr = p := by
  induction l with
  | nil => rfl
  | cons c as ih =>
    by_cases hc : c.addr = p
    · exact iff_of_true ⟨_, List.mem_cons_self, hc⟩ ⟨c, List.mem_cons_self, hc⟩
    · have hkeep : ∀ b : Acc, b.addr = p → (b.addr != c.addr) = true := fun b hb => by
        simpa [hb] using Ne.symm hc
      simp only [byAddr, List.exists_mem_cons_iff, hc, false_or, ← ih, List.mem_filter]
      exact exists_congr fun b => ⟨fun ⟨⟨hm, _⟩, hb⟩ => ⟨hm, hb⟩, fun ⟨hm, hb⟩ => ⟨⟨hm, hkeep b hb⟩, hb⟩⟩

/-- The access that stands for an address has the lanes of every access to it. -/
theorem lanes_byAddr {l : List Acc} {a b : Acc} (ha : a ∈ l) (hb : b ∈ byAddr l) (hab : b.addr = a.addr) :
    a.lanes &&& ~~~b.lanes = 0 := by
  induction l generalizing b with
  | nil => exact absurd ha List.not_mem_nil
  | cons c as ih =>
    rcases List.mem_cons.mp hb with rfl | hb
    · cases hfind : (byAddr as).find? (fun b => b.addr == c.addr) with
      | none =>
        rcases List.mem_cons.mp ha with rfl | ha
        · simp
        · obtain ⟨b, hb, he⟩ := (exists_addr_byAddr as a.addr).mpr ⟨a, ha, rfl⟩
          have := List.find?_eq_none.mp hfind b hb
          simp [he, ← hab] at this
      | some b =>
        have hbc : b.addr = c.addr := by simpa using List.find?_some hfind
        rcases List.mem_cons.mp ha with rfl | ha
        · simp [BitVec.not_or, ← BitVec.and_assoc]
        · have := ih ha (List.mem_of_find?_eq_some hfind) (hbc.trans hab)
          simp [BitVec.not_or, BitVec.and_comm (~~~c.lanes), ← BitVec.and_assoc, this]
    · obtain ⟨hb, hne⟩ := List.mem_filter.mp hb
      rcases List.mem_cons.mp ha with rfl | ha
      · simp [hab] at hne
      · exact ih ha hb hab

/-- Of a list with descending lanes, the access that stands for an address is that of its highest lane. -/
theorem highest_byAddr {l : List Acc} {a : Acc} (hl : l.Pairwise (fun a b => b.lane ≤ a.lane)) (ha : a ∈ l)
    (hmax : ∀ b ∈ l, b.addr = a.addr → b.lane ≤ a.lane) : ∃ b ∈ byAddr l, b.addr = a.addr ∧ b.lane = a.lane := by
  induction l with
  | nil => exact absurd ha List.not_mem_nil
  | cons c as ih =>
    obtain ⟨hc, has⟩ := List.pairwise_cons.mp hl
    by_cases hca : c.addr = a.addr
    · refine ⟨_, List.mem_cons_self, hca, ?_⟩
      refine (hmax c List.mem_cons_self hca).antisymm ?_
      rcases List.mem_cons.mp ha with rfl | ha
      · exact le_rfl
      · exact hc a ha
    · have ha : a ∈ as := (List.mem_cons.mp ha).resolve_left fun h => hca (h ▸ rfl)
      obtain ⟨b, hb, hba, hlane⟩ := ih has ha fun b hb => hmax b (List.mem_cons_of_mem _ hb)
      refine ⟨b, List.mem_cons_of_mem _ (List.mem_filter.mpr ⟨hb, ?_⟩), hba, hlane⟩
      simpa [hba] using Ne.symm hca

/-- The accesses of an instruction ascend by lane. -/
theorem accsOf_ascend (x : MArgs) (v : Group) (run act : LaneMask) :
    (accsOf x v run act).Pairwise (fun a b => a.lane ≤ b.lane) := by
  unfold accsOf
  split
  · exact List.pairwise_singleton _ _
  · exact List.pairwise_map.mpr ((List.pairwise_lt_range.filter _).imp fun h => Nat.le_of_lt h)

/-- Accesses with the translations of their addresses, where some access of the address has passed its checks. -/
def translated (accs : List Acc) (l : List (Acc × Trans)) : List (Acc × Trans) :=
  accs.filterMap (fun a => (l.find? (fun e => e.1.addr == a.addr)).map (fun e => (a, e.2)))

theorem exists_translated {accs all : List Acc} {a c : Acc} (tr : Acc → Trans) (ha : a ∈ accs) (hc : c ∈ all)
    (hca : c.addr = a.addr) : ∃ t, (a, t) ∈ translated accs (all.map (fun a => (a, tr a))) := by
  cases hfind : (all.map (fun a => (a, tr a))).find? (fun e => e.1.addr == a.addr) with
  | none => exact absurd (by simpa using hca) (List.find?_eq_none.mp hfind _ (List.mem_map_of_mem hc))
  | some e => exact ⟨e.2, List.mem_filterMap.mpr ⟨a, ha, by simp [hfind]⟩⟩

theorem mem_of_translated {accs : List Acc} {l : List (Acc × Trans)} {e : Acc × Trans} (he : e ∈ translated accs l) :
    e.1 ∈ accs := by
  obtain ⟨a, ha, hmap⟩ := List.mem_filterMap.mp he
  obtain ⟨d, -, rfl⟩ := Option.map_eq_some_iff.mp hmap
  exact ha

end Sys2Proof.Machine
end

section
/-! PROOFS. The waits, checks and frames of a global access that goes on to issue (R170, R184, R187, R204, R222, R345), and the
edits that reserve frames for ZERO pages. -/

open Host Sys2Proof Sys2Proof.Machine Sys2Proof.Claims

namespace Sys2Proof.Machine

/-! ### Checks that pass (R170) -/

theorem passed_ok {α : Type} (accs : List Acc) (tr : Acc → α) :
    passed (accs.map (fun a => (a, (.ok (tr a) : Except Nat α)))) = accs.map (fun a => (a, tr a)) := by
  induction accs with
  | nil => rfl
  | cons a as ih => exact congrArg _ ih

theorem failures_ok {α : Type} (accs : List Acc) (tr : Acc → α) :
    failures (accs.map (fun a => (a, (.ok (tr a) : Except Nat α)))) = [] := by
  induction accs with
  | nil => rfl
  | cons a as ih => exact ih

theorem withChecks_nil (f : Focus) (s : State) (k : Result) : withChecks f [] s k = k := rfl

/-- The outcomes of checks that all pass. -/
theorem checks_ok {check : Acc → Except Nat Trans} {accs : List Acc} {tr : Acc → Trans} (h : ∀ a ∈ accs, check a = .ok (tr a)) :
    accs.map (fun a => (a, check a)) = accs.map (fun a => (a, .ok (tr a))) :=
  List.map_congr_left fun a ha => by rw [h a ha]

/-- Checks that all pass give each access its translation, and these have what is said of every translation found. -/
theorem exists_translations {check : Acc → Except Nat Trans} {accs : List Acc} {P : Trans → Prop}
    (h : ∀ a ∈ accs, ∃ t, check a = .ok t ∧ P t) : ∃ tr : Acc → Trans, ∀ a ∈ accs, check a = .ok (tr a) ∧ P (tr a) := by
  choose! tr htr using h
  exact ⟨tr, htr⟩

/-! ### Nothing to wait for (R184, R187, R228, R345) -/

theorem drainL1_clean {s : State} (h : NoDirty s) (cores : List Nat) : drainL1 s cores = s := by
  have hcopies : ∀ c (l : List Copy), (∀ y ∈ l, y.mask = 0) → l.foldl (fun s x => drainCopy s c x) s = s := by
    intro c l hl
    induction l with
    | nil => rfl
    | cons y l ih =>
      obtain ⟨hy, hl⟩ := List.forall_mem_cons.mp hl
      simpa [drainCopy, hy] using ih hl
  unfold drainL1
  induction cores with
  | nil => rfl
  | cons c cores ih => simpa [hcopies c _ (h c)] using ih

/-- A releasing instruction that has nothing to wait for and no dirty byte to move goes on from the same state. -/
theorem ordered_clean {f : Focus} {g : Group} {accs : List Acc} {n : Nat} {rel : Option Scope} {s : State}
    {k : State → Result} (ha : openAcq s g f.lanes = false) (he : NoEdits s g) (hw : TablesAwake s f g (spans accs n))
    (hr : ∀ sc, rel = some sc → releaseWaits s f.gid g f.lanes sc = false ∧ NoDirty s) : ordered f g accs n rel s k = k s := by
  have hgo : ordered f g accs n none s k = k s := ordered_ready ha he hw
  cases rel with
  | none => exact hgo
  | some sc =>
    obtain ⟨hwait, hclean⟩ := hr sc rfl
    rw [← hgo]
    simp [ordered, hwait, drainL1_clean hclean]

theorem ordered_relOf {x : MArgs} {f : Focus} {g : Group} {accs : List Acc} {n : Nat} {s : State} {k : State → Result}
    (h : Ready x s f g) (hw : TablesAwake s f g (spans accs n)) : ordered f g accs n (relOf x) s k = k s := by
  obtain ⟨hacq, hedits, hrel⟩ := h
  refine ordered_clean hacq hedits hw fun sc hsc => ?_
  unfold relOf at hsc
  split at hsc
  next hord =>
    cases hsc
    exact hrel hord
  next => cases hsc

/-- The tables of the accesses that stand for the addresses are awake where those of all accesses are. -/
theorem tablesAwake_byAddr {s : State} {f : Focus} {g : Group} {accs : List Acc} {n : Nat}
    (h : TablesAwake s f g (spans accs n)) : TablesAwake s f g (spans (byAddr accs) n) := by
  unfold TablesAwake walksAsleep spans at *
  simp only [List.findSome?_eq_none_iff, List.forall_mem_map] at *
  intro b hb
  obtain ⟨a, ha, hab⟩ := (exists_addr_byAddr accs b.addr).mp ⟨b, hb, rfl⟩
  exact hab ▸ h a ha

/-- The vector registers of a memory instruction are in the allotment (R150). -/
theorem inAllot_memVecs {x : MArgs} {v : Group} {dest data : Bool} (h : MemFits x v dest data) :
    InAllot v (memVecs x dest data) := by
  have hcond : ∀ (c : Prop) [Decidable c] (ns : List (BitVec 7)), (c → InAllot v ns) → InAllot v (if c then ns else []) := by
    intro c _ ns hc
    split
    next h => exact hc h
    next => exact fun n hn => absurd hn List.not_mem_nil
  rw [memVecs_eq]
  split
  · exact fun n hn => absurd hn List.not_mem_nil
  next hform =>
    obtain ⟨hdest, hdata, haddr⟩ := h hform
    exact List.forall_mem_append.mpr ⟨List.forall_mem_append.mpr ⟨hcond _ _ hdest, hcond _ _ haddr⟩, hcond _ _ hdata⟩

/-! ### Frames for ZERO pages (R222) -/

section ZeroFrames
variable {s : State} {f : Focus} {g : Group} {l : List (Acc × Trans)} {k : State → Result}

/-- A supervisor cause of a run with no open window stops the group at once (R171, R283). -/
theorem superTrap_taken (code info : Nat) (hi : Issues s f g) (hc : Clear f g) : superTrap f code info s =
    .next (unfocus (stopGroup (clearSkip f s) f.gid f.lanes (causeWord code info) (epcWord f.pc none) false)) := by
  obtain ⟨-, hgroup⟩ := hi
  obtain ⟨hquiet, hpends⟩ := hc
  have : groupAt s f.gid = g := by simp [groupAt, mapGet, hgroup]
  simp [superTrap, superTrapAt, hquiet, this, hpends]

theorem withZeroFrames_short (h : framesFree s (groupCtx s g) < (zeroPages s (groupCtx s g) l).length) :
    withZeroFrames f g l s k = superTrap f 0x54 0 s := by
  simp [withZeroFrames, h]

theorem withZeroFrames_reserves (h : (zeroPages s (groupCtx s g) l).length ≤ framesFree s (groupCtx s g))
    (ha : poolAsleep s (groupCtx s g) = none) :
    withZeroFrames f g l s k = k (reserveZero s f g (groupCtx s g) (zeroPages s (groupCtx s g) l)) := by
  simp [withZeroFrames, ha, Nat.not_lt.mpr h]

theorem zeroPages_nil (s : State) (c : Nat) (h : ∀ e ∈ l, e.2.attr.zero = false) : zeroPages s c l = [] := by
  refine List.eq_nil_iff_forall_not_mem.mpr fun q hq => ?_
  obtain ⟨e, he, -⟩ := List.mem_map.mp (List.mem_dedup.mp hq)
  obtain ⟨hl, hzero⟩ := List.mem_filter.mp he
  simp [h e hl] at hzero

end ZeroFrames

/-- Reserving frames changes no group and no byte of memory. -/
theorem reserveZero_keeps (s : State) (f : Focus) (g : Group) (k : Nat) (pages : List Nat) :
    (reserveZero s f g k pages).groups = s.groups ∧ (reserveZero s f g k pages).mem = s.mem := by
  induction pages generalizing s with
  | nil => exact ⟨rfl, rfl⟩
  | cons q qs ih => exact ih (reserveZero s f g k [q])

theorem zeroReserved_one (s : State) (f : Focus) (g : Group) (k q : Nat) :
    ZeroReserved s (reserveZero s f g k [q]) k [q] := by
  refine ⟨by simp [reserveZero, takeFrame, touchBin], fun e he => List.mem_append_left _ he, ?_, ?_⟩
  · exact congrArg (fun c : Ctx => c.pool.head) (mapGet_set_self ..)
  · exact List.forall_mem_singleton.mpr
      ⟨_, List.mem_append_right _ (List.mem_singleton_self _), rfl, rfl, rfl, rfl, rfl⟩

theorem zeroReserved_append {s t u : State} {k : Nat} {ps qs : List Nat} (h : ZeroReserved s t k ps)
    (h' : ZeroReserved t u k qs) : ZeroReserved s u k (ps ++ qs) := by
  obtain ⟨hlen, hold, hhead, hnew⟩ := h
  obtain ⟨hlen', hold', hhead', hnew'⟩ := h'
  refine ⟨by simp [hlen, hlen', Nat.add_assoc], fun e he => hold' e (hold e he), ?_, ?_⟩
  · rw [hhead', hhead, List.length_append, BitVec.ofNat_add, BitVec.add_assoc]
  · refine List.forall_mem_append.mpr ⟨fun q hq => ?_, hnew'⟩
    obtain ⟨e, he, hedit⟩ := hnew q hq
    exact ⟨e, hold' e he, hedit⟩

/-- Each page has its edit, with a frame from HEAD of the pool (R222). -/
theorem zeroReserved_reserveZero (s : State) (f : Focus) (g : Group) (k : Nat) (pages : List Nat) :
    ZeroReserved s (reserveZero s f g k pages) k pages := by
  induction pages generalizing s with
  | nil => exact ⟨rfl, fun _ he => he, by simp [reserveZero], fun _ hq => absurd hq List.not_mem_nil⟩
  | cons q qs ih => exact zeroReserved_append (zeroReserved_one s f g k q) (ih (reserveZero s f g k [q]))

/-- Only the edits and the pools tell what has been reserved. -/
theorem zeroReserved_congr {s t u : State} {k : Nat} {pages : List Nat} (h : ZeroReserved s t k pages)
    (hedits : u.edits = t.edits) (hctxs : u.ctxs = t.ctxs) : ZeroReserved s u k pages := by
  have hctx : ctxAt u k = ctxAt t k := congrArg (fun m => mapGet ({} : Ctx) m k) hctxs
  simpa only [ZeroReserved, hedits, hctx] using h

end Sys2Proof.Machine
end

section
/-! PROOFS. Loads, stores and atomics of global memory at issue: what each instruction comes to once its waits and checks are
past, and from it the requests, the pending result and the frame (R76, R151, R155-R160, R178, R222). -/

open Host Sys2Proof Sys2Proof.Machine Sys2Proof.Claims

namespace Sys2Proof.Machine

section Issue
variable {x : MArgs} {s : State} {f : Focus} {g : Group} {tr : Acc → Trans}

/-! ### A pending result (R76) -/

theorem pending_startFL {t s' : State} (atom sram : Bool) (hgroups : t.groups = s.groups) :
    let p := openPend x s' f (seen f g) f.lanes atom sram
    let u := unfocus (putGroup t f.gid { retire f g with pends := (retire f g).pends ++ [p] })
    startFL f g t p = .next u ∧ Pending x s f g p u := by
  intro p u
  exact ⟨rfl, congrArg (fun m => mapPut m f.gid _) hgroups, rfl, rfl, rfl, rfl, rfl, rfl, rfl⟩

/-! ### Loads (R155, R157) -/

/-- The request of one access of ld, or of ldc. -/
def issueLoad (const : Bool) (x : MArgs) (f : Focus) (g : Group) (pend : Nat) (shared : Acc × Trans → Bool) (s : State)
    (e : Acc × Trans) : State :=
  if const then addConst s f g pend (accSize x.ty) (shared e) e.1 e.2
  else addLoad s f g pend (accSize x.ty) (ordAcq x.ord) (shared e) e.1 e.2

theorem issueLoad_adds (const : Bool) (pend : Nat) (shared : Acc × Trans → Bool) (s : State) (e : Acc × Trans) :
    IssueFrame s (issueLoad const x f g pend shared s e) ∧
      ∃ r, (issueLoad const x f g pend shared s e).reqs = s.reqs ++ [r] ∧ LoadReq pend (accSize x.ty) e r := by
  cases const with
  | true => exact addConst_adds s f g pend _ e.1 e.2 _
  | false => exact addLoad_adds s f g pend _ e.1 e.2 _ _

/-- The requests of a load's accesses. -/
def issueLoads (const : Bool) (x : MArgs) (f : Focus) (g : Group) (pend : Nat) (ok : List (Acc × Trans)) (s : State) : State :=
  ok.foldl (issueLoad const x f g pend (sharesBytes s (groupCtx s g) ok)) s

theorem issueLoads_adds (const : Bool) (pend : Nat) (ok : List (Acc × Trans)) (s : State) :
    IssueFrame s (issueLoads const x f g pend ok s) ∧
      Requests (LoadReq pend (accSize x.ty)) ok s (issueLoads const x f g pend ok s) :=
  ⟨issueFrame_foldl (fun s e => (issueLoad_adds const pend _ s e).1) ok s,
    requests_foldl (fun s e => (issueLoad_adds const pend _ s e).2) ok s⟩

/-- The state in which a load makes its requests: an acquire has dropped the clean lines of its L1s, and the window has its number
(R187, R192). -/
def loadFrom (x : MArgs) (f : Focus) (s : State) : State :=
  let u := if ordAcq x.ord then acquireAt s f.gid x.sc else s
  { u with fresh := u.fresh + 1 }

theorem issueFrame_loadFrom (x : MArgs) (f : Focus) (s : State) : IssueFrame s (loadFrom x f s) := by
  unfold loadFrom
  dsimp only
  split
  · exact (issueFrame_acquireAt s f.gid x.sc).trans (issueFrame_fresh _ _)
  · exact issueFrame_fresh s _

/-- A load past its waits and checks. -/
theorem loadOp_issues (const : Bool) (hi : Issues s f g) (hready : Ready { x with ord := .rlx } s f g)
    (hfit : MemFits x (seen f g) true false)
    (hawake : TablesAwake s f g (spans (accsOf x (seen f g) f.lanes f.lanes) (accSize x.ty)))
    (hok : ∀ a ∈ accsOf x (seen f g) f.lanes f.lanes,
      globalCheck s (gidCore f.gid) (groupCtx s g) {} (accSize x.ty) a.addr (accSize x.ty) = .ok (tr a)) :
    let accs := accsOf x (seen f g) f.lanes f.lanes
    let ok := translated (byAddr accs) (accs.map (fun a => (a, tr a)))
    loadOp const x s =
      startFL f g (fillTlb (issueLoads const x f g s.fresh ok (loadFrom x f s)) (gidCore f.gid) ok)
        (openPend x s f (seen f g) f.lanes false false) := by
  intro accs ok
  obtain ⟨hacq, hedits, -⟩ := hready
  unfold loadOp
  rw [issuer_focus _ hi.1 hi.2]
  dsimp only
  rw [withRegs_inside f g _ s _ (inAllot_memVecs hfit), ordered_ready hacq hedits (tablesAwake_byAddr hawake), checks_ok hok,
    failures_ok, withChecks_nil, passed_ok]
  rfl

theorem loadsIssue : LoadsIssue := by
  intro x s f g hi hready hfit hawake hchecks i hmem
  obtain ⟨tr, hok⟩ := exists_translations (P := fun _ => True) fun a ha => (hchecks a ha).imp fun _ h => ⟨h, trivial⟩
  replace hok := fun a ha => (hok a ha).1
  set accs := accsOf x (seen f g) f.lanes f.lanes
  set ok := translated (byAddr accs) (accs.map (fun a => (a, tr a)))
  obtain ⟨const, hexec⟩ : ∃ const, exec i s = loadOp const x s := by
    rcases List.mem_cons.mp hmem with rfl | h
    · exact ⟨false, rfl⟩
    · cases List.mem_singleton.mp h
      exact ⟨true, rfl⟩
  obtain ⟨hframe, hreqs⟩ := issueLoads_adds (x := x) (f := f) (g := g) const s.fresh ok (loadFrom x f s)
  replace hframe := ((issueFrame_loadFrom x f s).trans hframe).trans (issueFrame_fillTlb _ (gidCore f.gid) ok)
  obtain ⟨hstart, hpend⟩ := pending_startFL (x := x) (f := f) (g := g) (s' := s) false false hframe.groups
  refine ⟨_, _, (hexec.trans (loadOp_issues const hi hready hfit hawake hok)).trans hstart, hpend, rfl, rfl, rfl, hframe.mem,
    hframe.sram, fun a ha => ?_⟩
  obtain ⟨b, hb, hba⟩ := (exists_addr_byAddr accs a.addr).mpr ⟨a, ha, rfl⟩
  obtain ⟨t, ht⟩ := exists_translated tr hb ha hba.symm
  obtain ⟨r, hr, hpid, hva, hsize, hload, hlanes⟩ := hreqs.made _ ht
  refine ⟨r, ?_, hpid, hva.trans hba, hsize, hload, hlanes ▸ lanes_byAddr ha hb hba⟩
  rwa [unfocus_reqs, putGroup_reqs, reqs_fillTlb]

/-! ### Stores (R156, R178) -/

/-- The request of one access of a store whose accesses are all. -/
def issueStore (x : MArgs) (f : Focus) (g : Group) (all : List Acc) (iid : Nat) (s : State) (e : Acc × Trans) : State :=
  let cover := if allCovered (all.map (fun a => (a.addr, accSize x.ty))) (e.1.addr / 128 * 128) 128 then iid else 0
  addStore s f g (accSize x.ty) (ordRel x.ord && wideScope x.sc) iid cover (dataBytes x (seen f g) e.1.lane) e.1 e.2

theorem issueStore_adds (all : List Acc) (iid : Nat) (s : State) (e : Acc × Trans) :
    IssueFrame s (issueStore x f g all iid s e) ∧
      ∃ r, (issueStore x f g all iid s e).reqs = s.reqs ++ [r] ∧ StoreReq x (seen f g) e r :=
  addStore_adds s f g e.1 e.2 x (seen f g) _ iid _

/-- The requests of a store's accesses; all are those of the instruction, ok those that store. -/
def issueStores (x : MArgs) (f : Focus) (g : Group) (all : List Acc) (ok : List (Acc × Trans)) (s : State) : State :=
  ok.foldl (issueStore x f g all s.fresh) { s with fresh := s.fresh + 1 }

theorem issueStores_adds (all : List Acc) (ok : List (Acc × Trans)) (s : State) :
    IssueFrame s (issueStores x f g all ok s) ∧ Requests (StoreReq x (seen f g)) ok s (issueStores x f g all ok s) := by
  constructor
  · exact (issueFrame_fresh s _).trans (issueFrame_foldl (fun u e => (issueStore_adds all s.fresh u e).1) ok _)
  · obtain ⟨old, made, only⟩ := requests_foldl (P := StoreReq x (seen f g)) (fun u e => (issueStore_adds all s.fresh u e).2) ok
      { s with fresh := s.fresh + 1 }
    exact ⟨old, made, only⟩

/-- Of the lanes with one address, the access of the highest. -/
def storing (accs : List Acc) (tr : Acc → Trans) : List (Acc × Trans) :=
  translated (byAddr accs.reverse).reverse (accs.map (fun a => (a, tr a)))

/-- A store past its waits and checks. -/
theorem execSt_issues (hi : Issues s f g) (hready : Ready x s f g) (hfit : MemFits x (seen f g) false true)
    (hawake : TablesAwake s f g (spans (accsOf x (seen f g) f.lanes (guardLanes x f (seen f g))) (accSize x.ty)))
    (hok : ∀ a ∈ accsOf x (seen f g) f.lanes (guardLanes x f (seen f g)),
      globalCheck s (gidCore f.gid) (groupCtx s g) { write := true } (accSize x.ty) a.addr (accSize x.ty) = .ok (tr a)) :
    let accs := accsOf x (seen f g) f.lanes (guardLanes x f (seen f g))
    let ok := storing accs tr
    exec (.st x) s = withZeroFrames f g (accs.map (fun a => (a, tr a))) s fun s =>
      done f g (fillTlb (issueStores x f g accs ok s) (gidCore f.gid) ok) := by
  intro accs ok
  rw [exec_st, execSt, issuer_focus _ hi.1 hi.2]
  dsimp only
  rw [withRegs_inside f g _ s _ (inAllot_memVecs hfit), ordered_relOf hready hawake, checks_ok hok, failures_ok, withChecks_nil,
    passed_ok, List.map_map, Function.comp_def, List.map_id']
  rfl

/-- Every access of a store has its address among those that store. -/
theorem exists_storing {accs : List Acc} {a : Acc} (tr : Acc → Trans) (ha : a ∈ accs) :
    ∃ e ∈ storing accs tr, e.1.addr = a.addr := by
  obtain ⟨b, hb, hba⟩ := (exists_addr_byAddr accs.reverse a.addr).mpr ⟨a, List.mem_reverse.mpr ha, rfl⟩
  obtain ⟨t, ht⟩ := exists_translated tr (List.mem_reverse.mpr hb) ha hba.symm
  exact ⟨_, ht, hba⟩

/-- The access of the highest lane of an address stores. -/
theorem highest_storing {accs : List Acc} {a : Acc} (tr : Acc → Trans) (hasc : accs.Pairwise (fun a b => a.lane ≤ b.lane))
    (ha : a ∈ accs) (hmax : ∀ b ∈ accs, b.addr = a.addr → b.lane ≤ a.lane) :
    ∃ e ∈ storing accs tr, e.1.addr = a.addr ∧ e.1.lane = a.lane := by
  obtain ⟨b, hb, hba, hlane⟩ := highest_byAddr (List.pairwise_reverse.mpr hasc) (List.mem_reverse.mpr ha)
    fun b hb => hmax b (List.mem_reverse.mp hb)
  obtain ⟨t, ht⟩ := exists_translated tr (List.mem_reverse.mpr hb) ha hba.symm
  exact ⟨_, ht, hba, hlane⟩

/-- Only the accesses of the instruction store. -/
theorem addr_of_storing {accs : List Acc} {e : Acc × Trans} (he : e ∈ storing accs tr) : ∃ a ∈ accs, a.addr = e.1.addr := by
  obtain ⟨a, ha, hae⟩ := (exists_addr_byAddr accs.reverse e.1.addr).mp ⟨e.1, List.mem_reverse.mp (mem_of_translated he), rfl⟩
  exact ⟨a, List.mem_reverse.mp ha, hae⟩

theorem storesIssue : StoresIssue := by
  intro x s f g hi hready hfit hawake hchecks
  obtain ⟨tr, hok⟩ := exists_translations hchecks
  set accs := accsOf x (seen f g) f.lanes (guardLanes x f (seen f g))
  have hzero : zeroPages s (groupCtx s g) (accs.map (fun a => (a, tr a))) = [] :=
    zeroPages_nil s _ (List.forall_mem_map.mpr fun a ha => (hok a ha).2)
  have hexec := execSt_issues hi hready hfit hawake fun a ha => (hok a ha).1
  dsimp only at hexec
  rw [withZeroFrames_none hzero] at hexec
  obtain ⟨hframe, hreqs⟩ := issueStores_adds (x := x) (f := f) (g := g) accs (storing accs tr) s
  replace hframe := hframe.trans (issueFrame_fillTlb _ (gidCore f.gid) (storing accs tr))
  refine ⟨_, hexec, congrArg (fun m => mapPut m f.gid _) hframe.groups, rfl, hframe.mem, hframe.sram, ?_, ?_, ?_⟩
  · intro r hr
    rw [retired, unfocus_reqs, putGroup_reqs, reqs_fillTlb]
    exact hreqs.old r hr
  · intro a ha hmax
    obtain ⟨e, he, hea, hlane⟩ := highest_storing tr (accsOf_ascend ..) ha hmax
    obtain ⟨r, hr, hva, hsize, hstage, hkind⟩ := hreqs.made e he
    refine ⟨r, ?_, hva.trans hea, hsize, hstage, hlane ▸ hkind⟩
    rwa [retired, unfocus_reqs, putGroup_reqs, reqs_fillTlb]
  · intro r hr
    rw [retired, unfocus_reqs, putGroup_reqs, reqs_fillTlb] at hr
    refine (hreqs.only r hr).imp_right fun ⟨e, he, hva, _⟩ => ?_
    obtain ⟨a, ha, hae⟩ := addr_of_storing he
    exact ⟨a, ha, hva.trans hae.symm⟩

/-! ### Atomics (R159, R160) -/

/-- The requests of an atomic's lanes. -/
def issueAtoms (x : MArgs) (f : Focus) (g : Group) (ok : List (Acc × Trans)) (s : State) : State :=
  ok.foldl (fun u e => addAtom u f g s.fresh e.1 e.2 x (seen f g)) { s with fresh := s.fresh + 1 }

theorem issueAtoms_adds (ok : List (Acc × Trans)) (s : State) :
    IssueFrame s (issueAtoms x f g ok s) ∧ Requests (AtomReq x (seen f g) s.fresh) ok s (issueAtoms x f g ok s) := by
  constructor
  · exact (issueFrame_fresh s _).trans (issueFrame_foldl (fun u e => (addAtom_adds u f g _ e.1 e.2 x _).1) ok _)
  · obtain ⟨old, made, only⟩ := requests_foldl (P := AtomReq x (seen f g) s.fresh)
      (fun u e => (addAtom_adds u f g s.fresh e.1 e.2 x (seen f g)).2) ok { s with fresh := s.fresh + 1 }
    exact ⟨old, made, only⟩

/-- An atomic past its waits and checks. -/
theorem execAtom_issues (hi : Issues s f g) (hready : Ready x s f g) (hfit : MemFits x (seen f g) true true)
    (hawake : TablesAwake s f g (spans (accsOf x (seen f g) f.lanes f.lanes) (accSize x.ty)))
    (hok : ∀ a ∈ accsOf x (seen f g) f.lanes f.lanes,
      globalCheck s (gidCore f.gid) (groupCtx s g) { atom := true } (accSize x.ty) a.addr (accSize x.ty) = .ok (tr a)) :
    let ok := (accsOf x (seen f g) f.lanes f.lanes).map (fun a => (a, tr a))
    exec (.atom x) s = withZeroFrames f g ok s fun s =>
      startFL f g (fillTlb (issueAtoms x f g ok s) (gidCore f.gid) ok) (openPend x s f (seen f g) f.lanes true false) := by
  intro ok
  rw [exec_atom, execAtom, issuer_focus _ hi.1 hi.2]
  dsimp only
  rw [withRegs_inside f g _ s _ (inAllot_memVecs hfit), ordered_relOf hready hawake, checks_ok hok, failures_ok, withChecks_nil,
    passed_ok]
  rfl

theorem atomIssues : AtomIssues := by
  intro x s f g hi hready hfit hawake hchecks
  obtain ⟨tr, hok⟩ := exists_translations hchecks
  set accs := accsOf x (seen f g) f.lanes f.lanes
  have hzero : zeroPages s (groupCtx s g) (accs.map (fun a => (a, tr a))) = [] :=
    zeroPages_nil s _ (List.forall_mem_map.mpr fun a ha => (hok a ha).2)
  have hexec := execAtom_issues hi hready hfit hawake fun a ha => (hok a ha).1
  dsimp only at hexec
  rw [withZeroFrames_none hzero] at hexec
  obtain ⟨hframe, hreqs⟩ := issueAtoms_adds (x := x) (f := f) (g := g) (accs.map (fun a => (a, tr a))) s
  replace hframe := hframe.trans (issueFrame_fillTlb _ (gidCore f.gid) (accs.map (fun a => (a, tr a))))
  obtain ⟨hstart, hpend⟩ := pending_startFL (x := x) (f := f) (g := g) (s' := s) true false hframe.groups
  refine ⟨_, _, hexec.trans hstart, hpend, rfl, hframe.mem, hframe.sram, fun a ha => ?_⟩
  obtain ⟨r, hr, hatom⟩ := hreqs.made _ (List.mem_map_of_mem ha)
  refine ⟨r, ?_, hatom⟩
  rwa [unfocus_reqs, putGroup_reqs, reqs_fillTlb]

/-! ### Writes of ZERO pages (R222) -/

theorem zeroPagesIssue : ZeroPagesIssue := by
  intro x s f g tr hi hready hclear k n lanes st at' checks pages stops
  refine ⟨fun hfit hchecks => ?_, fun hfit hchecks => ?_⟩
  · obtain ⟨hawake, hok⟩ := hchecks
    have hexec := execSt_issues hi hready hfit hawake hok
    refine ⟨fun hshort => ?_, fun henough hasleep => ?_⟩
    · exact hexec.trans ((withZeroFrames_short hshort).trans (superTrap_taken 0x54 0 hi hclear))
    · replace hexec := hexec.trans (withZeroFrames_reserves henough hasleep)
      obtain ⟨hgroups, hmem⟩ := reserveZero_keeps s f g k (pages st)
      obtain ⟨hframe, hreqs⟩ := issueStores_adds (x := x) (f := f) (g := g) st (storing st tr) (reserveZero s f g k (pages st))
      replace hframe := hframe.trans (issueFrame_fillTlb _ (gidCore f.gid) (storing st tr))
      refine ⟨_, hexec, congrArg (fun m => mapPut m f.gid _) (hframe.groups.trans hgroups), hframe.mem.trans hmem,
        zeroReserved_congr (zeroReserved_reserveZero s f g k (pages st)) hframe.edits hframe.ctxs, fun a ha => ?_⟩
      obtain ⟨e, he, hea⟩ := exists_storing tr ha
      obtain ⟨r, hr, hva, hsize, hstage, hkind⟩ := hreqs.made e he
      refine ⟨r, ?_, hva.trans hea, hsize, hstage, by simp [isStore, hkind]⟩
      rwa [retired, unfocus_reqs, putGroup_reqs, reqs_fillTlb]
  · obtain ⟨hawake, hok⟩ := hchecks
    have hexec := execAtom_issues hi hready hfit hawake hok
    refine ⟨fun hshort => ?_, fun henough hasleep => ?_⟩
    · exact hexec.trans ((withZeroFrames_short hshort).trans (superTrap_taken 0x54 0 hi hclear))
    · replace hexec := hexec.trans (withZeroFrames_reserves henough hasleep)
      obtain ⟨hgroups, hmem⟩ := reserveZero_keeps s f g k (pages at')
      obtain ⟨hframe, hreqs⟩ := issueAtoms_adds (x := x) (f := f) (g := g) (at'.map (fun a => (a, tr a)))
        (reserveZero s f g k (pages at'))
      replace hframe := hframe.trans (issueFrame_fillTlb _ (gidCore f.gid) (at'.map (fun a => (a, tr a))))
      obtain ⟨hstart, hpend⟩ := pending_startFL (x := x) (f := f) (g := g) (s' := reserveZero s f g k (pages at')) true false
        (hframe.groups.trans hgroups)
      refine ⟨_, _, hexec.trans hstart, hpend, hframe.mem.trans hmem,
        zeroReserved_congr (zeroReserved_reserveZero s f g k (pages at')) hframe.edits hframe.ctxs, fun a ha => ?_⟩
      obtain ⟨r, hr, hpid, hva, hlanes, hkind⟩ := hreqs.made _ (List.mem_map_of_mem ha)
      refine ⟨r, ?_, hpid, hva, hlanes, by simp [isAtom, hkind]⟩
      rwa [unfocus_reqs, putGroup_reqs, reqs_fillTlb]

end Issue

/-- Settles O22: each instruction past its waits and checks adds its requests, one access after another. -/
theorem globalAccessesIssue : Obligations.GlobalAccessesIssue := ⟨loadsIssue, storesIssue, atomIssues, zeroPagesIssue⟩

end Sys2Proof.Machine
end

section
/-! PROOFS. A step at an event of the agenda and at the passing of a nanosecond (R117, R373), and the values of reset. -/

open Host Sys2Proof Sys2Proof.Machine Sys2Proof.Claims

namespace Sys2Proof.Machine

/-! ### A nanosecond (R117, R315, R373) -/

/-- The clock, the bytes of both memories and the groups are as they were: what no note of who waits for room changes (R315). -/
structure WaitFrame (s t : State) : Prop where
  clk : t.clk = s.clk
  mem : t.mem = s.mem
  sram : t.sram = s.sram
  groups : t.groups = s.groups

theorem WaitFrame.refl (s : State) : WaitFrame s s := ⟨rfl, rfl, rfl, rfl⟩

theorem WaitFrame.trans {s t u : State} (h : WaitFrame s t) (h' : WaitFrame t u) : WaitFrame s u :=
  ⟨h'.clk.trans h.clk, h'.mem.trans h.mem, h'.sram.trans h.sram, h'.groups.trans h.groups⟩

theorem waitFrame_trackWait (s : State) (k : Nat) : WaitFrame s (trackWait s k) := by
  have hput (w) : WaitFrame s (if w = (ctxAt s k).waitFor then s else updCtx s k (fun c => { c with waitFor := w })) := by
    split
    · exact .refl s
    · exact ⟨rfl, rfl, rfl, rfl⟩
  exact hput _

theorem waitFrame_trackWaits (s : State) : WaitFrame s (trackWaits s) := by
  unfold trackWaits
  generalize (s.nodes.map (fun e => e.2.ctx)).dedup = ks
  induction ks generalizing s with
  | nil => exact .refl s
  | cons k ks ih => exact (waitFrame_trackWait s k).trans (ih _)

/-- The passing of a nanosecond: MHz thousandths of a clock more, the whole ones counted in CLOCK. -/
theorem tickOf_clk (s : State) : (tickOf s).clk = { s.clk with
    ns := s.clk.ns + 1, rem := (s.clk.rem + s.clk.mhz) % 1000
    clock := s.clk.clock + BitVec.ofNat 64 ((s.clk.rem + s.clk.mhz) / 1000) } := (waitFrame_trackWaits _).clk

/-- Whole clocks and thousandths together count all that has passed, as long as CLOCK does not wrap. -/
theorem clock_counts (clock : Word) (r : Nat) (h : clock.toNat * 1000 + r < 2 ^ 64 * 1000) :
    (clock + BitVec.ofNat 64 (r / 1000)).toNat * 1000 + r % 1000 = clock.toNat * 1000 + r := by
  rw [BitVec.toNat_add, BitVec.toNat_ofNat]
  omega

/-- Settles O57: the head of the agenda is run as it stands, and a tick is the passing of a nanosecond. -/
theorem stepRunsEvents : Obligations.StepRunsEvents := by
  intro s rest hdown
  have hstep {t : Todo} (h : s.agenda = t :: rest) : step s = runTodo t { s with agenda := rest } := by
    simp only [step, hdown, h, Bool.false_eq_true, if_false]
  refine ⟨fun i h => hstep h, fun h => ⟨tickOf { s with agenda := rest }, hstep h, ?_, fun hlt => ?_, ?_⟩⟩
  · rw [tickOf_clk]
  · rw [tickOf_clk]
    rw [Nat.add_assoc] at hlt ⊢
    exact clock_counts _ _ hlt
  · have hframe := waitFrame_trackWaits
    exact ⟨(hframe _).mem, (hframe _).sram, (hframe _).groups⟩

/-! ### Reset -/

/-- Settles O58: every table is empty at reset, so that each entry has its default. -/
theorem resetState : Obligations.ResetState :=
  ⟨rfl, rfl, rfl, rfl, rfl, rfl, rfl, rfl, rfl, rfl, rfl, fun _ => rfl, rfl, rfl, fun _ => ⟨rfl, rfl, rfl, rfl, rfl⟩,
    fun _ => ⟨rfl, rfl, rfl, rfl, fun _ => rfl⟩, fun _ => ⟨rfl, rfl⟩⟩

end Sys2Proof.Machine
end

section
/-! PROOFS. Shifts and bit operations of elements, bit by bit (R95). -/

open Host Sys2Proof Sys2Proof.Machine Sys2Proof.Claims

namespace Sys2Proof.Machine

/-! ### Bits as sets -/

theorem testBit_sum_two_pow (s : Finset Nat) (i : Nat) : (∑ j ∈ s, 2 ^ j).testBit i = decide (i ∈ s) := by
  rw [Bool.eq_iff_iff, decide_eq_true_eq, ← Nat.mem_bitIndices, ← List.mem_toFinset, Finset.toFinset_bitIndices_sum_two_pow]

/-- Powers of two added where a test holds. -/
theorem foldl_add_two_pow (p : Nat → Bool) (e : Nat → Nat) (n : Nat) :
    (List.range n).foldl (fun r i => if p i then r + 2 ^ e i else r) 0 = ∑ i ∈ (Finset.range n).filter (fun i => p i = true), 2 ^ e i := by
  induction n with
  | zero => simp
  | succ n ih =>
    rw [List.range_succ, List.foldl_append, ih, Finset.range_add_one, Finset.filter_insert]
    by_cases h : p n = true <;> simp [h, add_comm]

theorem length_filter_range (p : Nat → Bool) (n : Nat) :
    ((List.range n).filter p).length = ((Finset.range n).filter (fun i => p i = true)).card := by
  rw [← List.toFinset_card_of_nodup (List.nodup_range.filter p)]
  congr 1
  ext i
  simp

/-! ### Shifts (R95) -/

section Bits
variable {w x n i : Nat} (hi : i < w)
include hi

theorem testBit_shlBits : (shlBits w x n).testBit i = (decide (n ≤ i) && x.testBit (i - n)) := by
  unfold shlBits
  split
  · rw [Nat.testBit_mod_two_pow, Nat.testBit_mul_two_pow, decide_eq_true hi, Bool.true_and]
  · rw [Nat.zero_testBit, decide_eq_false (by omega), Bool.false_and]

omit hi in
theorem testBit_shrBits (hx : x < 2 ^ w) : (shrBits w x n).testBit i = (decide (i + n < w) && x.testBit (i + n)) := by
  unfold shrBits
  split
  · rw [Nat.testBit_div_two_pow]
    by_cases h : i + n < w
    · rw [decide_eq_true h, Bool.true_and]
    · rw [decide_eq_false h, Bool.false_and]
      exact Nat.testBit_lt_two_pow (hx.trans_le (Nat.pow_le_pow_right (by decide) (by omega)))
  · rw [Nat.zero_testBit, decide_eq_false (by omega), Bool.false_and]

omit hi in
/-- Shifting an integer right leaves the upper bits of its code in a width that much greater. -/
theorem wrapInt_div (w m : Nat) (z : ℤ) : wrapInt w (z / 2 ^ m) = wrapInt (w + m) z / 2 ^ m := by
  have hpos : (0 : ℤ) < 2 ^ m := by positivity
  zify [wrapInt_cast]
  have hsplit := Int.emod_add_mul_ediv z (2 ^ (w + m))
  have hshape : z = z % 2 ^ (w + m) + 2 ^ m * (2 ^ w * (z / 2 ^ (w + m))) := by
    rw [← mul_assoc, ← pow_add, add_comm m w, hsplit]
  have hlt : z % 2 ^ (w + m) / 2 ^ m < 2 ^ w := by
    refine Int.ediv_lt_of_lt_mul hpos ?_
    rw [← pow_add]
    exact Int.emod_lt_of_pos _ (by positivity)
  conv_lhs => rw [hshape, Int.add_mul_ediv_left _ _ hpos.ne', Int.add_mul_emod_self_left]
  exact Int.emod_eq_of_lt (Int.ediv_nonneg (Int.emod_nonneg _ (by positivity)) hpos.le) hlt

theorem testBit_sarBits (hx : x < 2 ^ w) : (sarBits w x n).testBit i = x.testBit (if i + n < w then i + n else w - 1) := by
  have hmin : i + min n w < w ↔ i + n < w := by omega
  rw [sarBits, wrapInt_div, Nat.testBit_div_two_pow, testBit_wrapInt_intVal true (by omega) hx (by omega) (by omega)]
  by_cases h : i + n < w
  · rw [if_pos (hmin.mpr h), if_pos h, min_eq_left (by omega)]
  · rw [if_neg (mt hmin.mp h), if_neg h, Bool.true_and]

theorem testBit_rotBits (hx : x < 2 ^ w) : (rotBits w x n).testBit ((i + n) % w) = x.testBit i := by
  have hr : n % w < w := Nat.mod_lt _ (by omega)
  have hplace : (i + n) % w = if i + n % w < w then i + n % w else i + n % w - w := by
    rw [Nat.add_mod, Nat.mod_eq_of_lt hi]
    split
    · next h => exact Nat.mod_eq_of_lt h
    · next h => rw [Nat.mod_eq_sub_mod (by omega), Nat.mod_eq_of_lt (by omega)]
  have hlow : x / 2 ^ (w - n % w) < 2 ^ (n % w) := by
    refine Nat.div_lt_of_lt_mul ?_
    rwa [← pow_add, Nat.sub_add_cancel hr.le]
  unfold rotBits
  dsimp only
  rw [hplace, mul_comm x, Nat.testBit_mod_two_pow, Nat.testBit_two_pow_mul_add _ hlow]
  split
  · next h => simp [h]
  · next h =>
    rw [if_pos (by omega), Nat.testBit_div_two_pow, decide_eq_true (by omega), Bool.true_and]
    congr 1
    omega

theorem testBit_brevBits : (brevBits w x).testBit i = x.testBit (w - 1 - i) := by
  have hinj : Set.InjOn (fun j => w - 1 - j) ((Finset.range w).filter (fun j => x.testBit j = true) : Finset Nat) := by
    intro a ha b hb hab
    simp only [Finset.coe_filter, Finset.mem_range, Set.mem_ofPred_eq] at ha hb hab
    omega
  rw [brevBits, foldl_add_two_pow x.testBit, ← Finset.sum_image (f := fun j => 2 ^ j) hinj, testBit_sum_two_pow, Bool.eq_iff_iff,
    decide_eq_true_eq]
  simp only [Finset.mem_image, Finset.mem_filter, Finset.mem_range]
  constructor
  · rintro ⟨j, ⟨hj, hbit⟩, rfl⟩
    rwa [show w - 1 - (w - 1 - j) = j by omega]
  · exact fun hbit => ⟨w - 1 - i, ⟨by omega, hbit⟩, by omega⟩

end Bits

/-! ### Counts of bits (R95) -/

theorem popcBits_eq_card (w x : Nat) : popcBits w x = ((Finset.range w).filter (fun j => x.testBit j = true)).card :=
  length_filter_range x.testBit w

theorem popcBits_le (w x : Nat) : popcBits w x ≤ w := by
  have := List.length_filter_le (fun i => x.testBit i) (List.range w)
  rwa [List.length_range] at this

/-- The number of zeros above the leading one tells between which powers of two a code lies. -/
theorem clzBits_spec {w x : Nat} (h0 : x ≠ 0) (hx : x < 2 ^ w) :
    clzBits w x < w ∧ 2 ^ (w - 1 - clzBits w x) ≤ x ∧ x < 2 ^ (w - clzBits w x) := by
  have hlog : Nat.log2 x < w := (Nat.log2_lt h0).mpr hx
  rw [clzBits, if_neg h0]
  refine ⟨by omega, ?_, ?_⟩
  · rw [show w - 1 - (w - 1 - Nat.log2 x) = Nat.log2 x by omega]
    exact Nat.log2_self_le h0
  · rw [show w - (w - 1 - Nat.log2 x) = Nat.log2 x + 1 by omega]
    exact Nat.lt_log2_self

/-! ### Elements -/

theorem elemN_shiftOp (t : Ty) (op : Nat → Nat → Nat → Nat) (a b : Word) {k : Nat} (hk : k < tyCount t) :
    elemN t (shiftOp t op a b).1 k = op (tyWidth t) (elemN t a k) (elemN t b k % 256) % 2 ^ tyWidth t :=
  elemN_eachElem t _ hk

theorem testBit_shiftOp (t : Ty) (op : Nat → Nat → Nat → Nat) (a b : Word) {k i : Nat} (hk : k < tyCount t) (hi : i < tyWidth t) :
    (elemN t (shiftOp t op a b).1 k).testBit i = (op (tyWidth t) (elemN t a k) (elemN t b k % 256)).testBit i := by
  rw [elemN_shiftOp t op a b hk, Nat.testBit_mod_two_pow, decide_eq_true hi, Bool.true_and]

theorem elemN_bitUn (t : Ty) (op : Nat → Nat → Nat) (a : Word) {k : Nat} (hk : k < tyCount t) :
    elemN t (bitUn t op a).1 k = op (tyWidth t) (elemN t a k) % 2 ^ tyWidth t := elemN_eachElem t _ hk

/-- A count of bits fits into the element. -/
theorem elemN_bitUn_count (t : Ty) {op : Nat → Nat → Nat} (a : Word) {k : Nat} (hk : k < tyCount t)
    (hle : op (tyWidth t) (elemN t a k) ≤ tyWidth t) : elemN t (bitUn t op a).1 k = op (tyWidth t) (elemN t a k) := by
  rw [elemN_bitUn t op a hk, Nat.mod_eq_of_lt (hle.trans_lt Nat.lt_two_pow_self)]

/-- Settles O8: each operation works on the bits of the element's own code. -/
theorem shiftElements : Obligations.ShiftElements := by
  intro t a b k i _ hk hi n
  have hx : elemN t a k < 2 ^ tyWidth t := elemN_lt t a k
  refine ⟨?shl, ?shr, ?sar, ?rot, ?popc, fun h0 => ?clzZero, fun h0 => ?clz, ?brev⟩
  case shl => rw [testBit_shiftOp t _ a b hk hi, testBit_shlBits hi]
  case shr => rw [testBit_shiftOp t _ a b hk hi, testBit_shrBits hx]
  case sar => rw [testBit_shiftOp t _ a b hk hi, testBit_sarBits hi hx]
  case rot => rw [testBit_shiftOp t _ a b hk (Nat.mod_lt _ (tyWidth_pos t)), testBit_rotBits hi hx]
  case popc => rw [elemN_bitUn_count t a hk (popcBits_le _ _), popcBits_eq_card]
  case clzZero =>
    have hclz : clzBits (tyWidth t) (elemN t a k) = tyWidth t := if_pos h0
    rw [elemN_bitUn_count t a hk hclz.le, hclz]
  case clz =>
    have hclz := clzBits_spec h0 hx
    rwa [elemN_bitUn_count t a hk hclz.1.le]
  case brev => rw [elemN_bitUn t _ a hk, Nat.testBit_mod_two_pow, decide_eq_true hi, Bool.true_and, testBit_brevBits hi]

end Sys2Proof.Machine
end

section
/-! PROOFS. What an instruction's effect leaves of its group, once for each kind of destination (R73, R88-R90, R98, R111), and from it
the three-source instructions, the conversions and the compares. -/

open Host Sys2Proof Sys2Proof.Machine Sys2Proof.Claims

namespace Sys2Proof.Machine

/-! ### Retiring with an effect (R73, R76) -/

theorem retire_sregs_flags (f : Focus) (g : Group) (sr : SMap Word) (st ra : Flags) :
    retire f { g with sregs := sr, sticky := st, raised := ra } = { retire f g with sregs := sr, sticky := st, raised := ra } := by
  rw [retire_effect f g]
  simp [retire_keeps f g]

theorem retire_regs_flags (f : Focus) (g : Group) (vr sr : SMap Word) (st ra : Flags) :
    retire f { g with vregs := vr, sregs := sr, sticky := st, raised := ra } =
      { retire f g with vregs := vr, sregs := sr, sticky := st, raised := ra } := by
  rw [retire_effect f g]
  simp [retire_keeps f g]

theorem retire_preds_flags (f : Focus) (g : Group) (pr : SMap LaneMask) (st ra : Flags) :
    retire f { g with preds := pr, sticky := st, raised := ra } = { retire f g with preds := pr, sticky := st, raised := ra } := by
  rw [retire_effect f g]
  simp [retire_keeps f g]

/-- An instruction whose group retires as g' leaves g' in the state. -/
theorem done_of_retire {s : State} {f : Focus} {G g' : Group} (h : retire f G = g') :
    done f G s = .next (unfocus (putGroup s f.gid g')) := by rw [done, retired, h]

@[simp] theorem raiseFlags_zero (g : Group) : raiseFlags g 0 = g := by simp [raiseFlags]

/-! ### One uniform register, or one vector register of the active lanes (R88, R89) -/

section Done
variable (s : State) (f : Focus) (g : Group)

theorem uniDone_sSet (d : BitVec 7) (r : Res) : UniDone s f g d r (retired f (raiseFlags (sSet g d.toNat r.1) r.2) s) :=
  ⟨_, congrArg (fun h => unfocus (putGroup s f.gid h)) (retire_sregs_flags f g (sSet g d.toNat r.1).sregs _ _), rfl,
    sGet_sSet_self .., fun _ hn => sGet_sSet_ne _ _ hn⟩

theorem uniDone_sSet_quiet (d : BitVec 7) (w : Word) : UniDone s f g d (w, 0) (retired f (sSet g d.toNat w) s) := by
  have h := uniDone_sSet s f g d (w, 0)
  rwa [raiseFlags_zero] at h

/-- Words of the active lanes, with flags that are those of their results. -/
theorem vecDone_of_words {neg : Bool} {p : BitVec 3} (d : BitVec 7) {val : Nat → Res} {ws : List (Nat × Word)} {fl : Flags}
    (hws : ws = (lanesOf (active f (seen f g) neg p)).map (fun l => (l, (val l).1)))
    (hfl : ∀ i, fl.getLsbD i = true ↔ ∃ l ∈ lanesOf (active f (seen f g) neg p), (val l).2.getLsbD i = true) :
    VecDone s f g d (IsActive f (seen f g) neg p) val (retired f (raiseFlags (writeLanes g (vReg (seen f g) d) ws) fl) s) := by
  have h := vecDone_writeLanes s f g neg p d val
  have hfold : fl = ((lanesOf (active f (seen f g) neg p)).map (fun l => (l, val l))).foldl (fun fl e => fl ||| e.2.2) 0 := by
    refine BitVec.eq_of_getLsbD_eq fun i _ => ?_
    rw [Bool.eq_iff_iff, hfl, getLsbD_foldl_res]
  rw [hws, hfold]
  simpa only [List.map_map, Function.comp_def] using h

theorem vecDone_of_words_quiet (neg : Bool) (p : BitVec 3) (d : BitVec 7) (w : Nat → Word) :
    VecDone s f g d (IsActive f (seen f g) neg p) (fun l => (w l, 0))
      (retired f (writeLanes g (vReg (seen f g) d) ((lanesOf (active f (seen f g) neg p)).map (fun l => (l, w l)))) s) := by
  have h := vecDone_of_words s f g (neg := neg) (p := p) d (val := fun l => (w l, 0)) (fl := 0) rfl (by simp)
  rwa [raiseFlags_zero] at h

end Done

/-! ### Operands (R56) -/

theorem read_d (x : Sel) (v : Group) (l : Nat) : (x.read v l).d = opA x.form v x.d l := by
  cases h : x.form <;> simp [Sel.read, readReg, opA, readV, vReg, h]
theorem read_c (x : Sel) (v : Group) (l : Nat) : (x.read v l).c = opA x.form v x.c l := by
  cases h : x.form <;> simp [Sel.read, readReg, opA, readV, vReg, h]

theorem read_eq (x : Sel) (v : Group) (l : Nat) :
    x.read v l = { d := opA x.form v x.d l, a := opA x.form v x.a l, b := opB x.form v x.b l, c := opA x.form v x.c l } := by
  rw [← read_d, ← read_a, ← read_b, ← read_c]

theorem inAllot_append {v : Group} {ns ms : List (BitVec 7)} (hns : InAllot v ns) (hms : InAllot v ms) : InAllot v (ns ++ ms) :=
  List.forall_mem_append.mpr ⟨hns, hms⟩

/-- The registers of three vector sources and a destination are those of two and the third. -/
theorem inAllot_named_c {form : Form} {v : Group} {d a b c : BitVec 7} (h : Fits form v [d, a, c] [b]) :
    InAllot v (named form d a b ++ if form = .s then [] else [c]) := by
  obtain ⟨hdac, hb⟩ := h
  refine inAllot_append (inAllot_named ⟨fun hs _ hn => hdac hs _ ?_, hb⟩) (inAllot_vector ⟨fun hs _ hn => hdac hs _ ?_, by simp [InAllot]⟩)
  · exact List.mem_append_left [c] hn
  · exact List.mem_append_right [d, a] hn

/-! ### Three sources, sel and conversions of one destination (R93, R96-R98, R100, R102-R104) -/

theorem threeSourceResults : ThreeSourceResults := by
  constructor
  · intro row hrow x s f g hi hfit
    rw [exec_extThreeRow hrow]
    exact regOp_done hi (vecs_selX_three x ▸ inAllot_named_c hfit) fun l => by rw [read_eq]; rfl
  · intro x s f g hi hfit
    rw [exec_sel]
    exact regOp_done hi (vecs_selX_two x ▸ inAllot_named hfit) fun l => by rw [read_a, read_b]; rfl

/-! ### unpack (R90, R104) -/

/-- Two lane-registers written in the same lanes, one after the other. -/
def writeTwo (g : Group) (j j' : Nat) (ls : List Nat) (val val' : Nat → Word) : Group :=
  writeLanes (writeLanes g j (ls.map (fun l => (l, val l)))) j' (ls.map (fun l => (l, val' l)))

theorem writeTwo_rest (g : Group) (j j' : Nat) (ls : List Nat) (val val' : Nat → Word) :
    writeTwo g j j' ls val val' = { g with vregs := (writeTwo g j j' ls val val').vregs } := by
  rw [writeTwo, writeLanes_rest, writeLanes_rest]

theorem vGet_writeTwo (g : Group) (j j' : Nat) {ls : List Nat} (val val' : Nat → Word) (k : Nat) {m : Nat} (hl : ∀ l ∈ ls, l < 32)
    (hm : m < 32) (hn : ls.Nodup) : vGet (writeTwo g j j' ls val val') k m =
      if k = j' ∧ m ∈ ls then val' m else if k = j ∧ m ∈ ls then val m else vGet g k m := by
  rw [writeTwo, vGet_writeLanes_fun ls val' _ j' k m hl hm hn, vGet_writeLanes_fun ls val g j k m hl hm hn]

section Unpack
variable {x : XArgs} {s : State} {f : Focus} {g : Group}

theorem toNat_next {d : BitVec 7} (h : d.toNat < 127) : (d + 1).toNat = d.toNat + 1 := by
  rw [BitVec.toNat_add]
  exact Nat.mod_eq_of_lt (by simp; omega)

theorem vReg_next (v : Group) {d : BitVec 7} (h : d.toNat < 127) : vReg v (d + 1) = vReg v d + 1 := by
  rw [vReg, vReg, toNat_next h, Nat.add_assoc]

/-- The flags that lanes with two results each raise. -/
def pairFlags (ls : List Nat) (r : Nat → Res × Res) : Flags :=
  (ls.map (fun l => (l, ((r l).1.1, (r l).1.2 ||| (r l).2.2)))).foldl (fun fl e => fl ||| e.2.2) 0

theorem getLsbD_pairFlags (ls : List Nat) (r : Nat → Res × Res) (i : Nat) :
    (pairFlags ls r).getLsbD i = true ↔ ∃ l ∈ ls, ((r l).1.2 ||| (r l).2.2).getLsbD i = true :=
  getLsbD_foldl_res (fun l => ((r l).1.1, (r l).1.2 ||| (r l).2.2)) ls i

theorem retire_raiseFlags {G : Group} (f : Focus) (fl : Flags) (h : G = { g with vregs := G.vregs, sregs := G.sregs }) :
    retire f (raiseFlags G fl) =
      { retire f g with vregs := G.vregs, sregs := G.sregs, sticky := g.sticky ||| fl, raised := g.raised ||| fl } := by
  rw [← retire_regs_flags f g G.vregs G.sregs, h]
  rfl

/-- Part h of a lane's a in an old destination, and the part after it in another. -/
def unpackParts (x : XArgs) (v : Group) (old old' a : Word) : Res × Res :=
  (cvtOf x (cbList v) x.imm.toNat old a, cvtOf x (cbList v) (x.imm.toNat + 1) old' a)

/-- The parts of a lane of a vector form. -/
def laneParts (x : XArgs) (v : Group) (l : Nat) : Res × Res := unpackParts x v (readV v x.d l) (readV v (x.d + 1) l) (readV v x.a l)

theorem exec_unpack_uniform (hi : Issues s f g) (hform : x.form = .s) :
    let r := unpackParts x (seen f g) (sGet (seen f g) x.d.toNat) (sGet (seen f g) (x.d + 1).toNat) (sGet (seen f g) x.a.toNat)
    exec (.unpack x) s =
      done f (raiseFlags (sSet (sSet g x.d.toNat r.1.1) (x.d + 1).toNat r.2.1) (r.1.2 ||| r.2.2)) s := by
  intro r
  rw [exec_unpack, execUnpack, issuer_focus _ hi.1 hi.2]
  exact if_pos hform

theorem exec_unpack_lanes (hi : Issues s f g) (hform : x.form ≠ .s) (hfit : InAllot (seen f g) [x.d, x.a, x.d + 1]) :
    exec (.unpack x) s =
      let v := seen f g
      let act := lanesOf (active f v x.neg x.p)
      done f (raiseFlags (writeTwo g (vReg v x.d) (vReg v (x.d + 1)) act (fun l => (laneParts x v l).1.1)
        (fun l => (laneParts x v l).2.1)) (pairFlags act (laneParts x v))) s := by
  rw [exec_unpack, execUnpack, issuer_focus _ hi.1 hi.2]
  dsimp only
  rw [if_neg hform, withRegs_inside f g _ s _ hfit]
  simp only [writeTwo, pairFlags, List.map_map, Function.comp_def, List.foldl_map, BitVec.or_assoc]
  rfl

end Unpack

theorem conversionResults : ConversionResults := by
  intro x s f g hi
  refine ⟨fun hfit => ?cvt, fun hfit => ?pack, fun hd hfit => ?unpack⟩
  case cvt =>
    rw [exec_cvt]
    exact regOp_done hi (vecs_selX_one x ▸ inAllot_vector hfit) fun l => by rw [read_eq]; rfl
  case pack =>
    rw [exec_pack]
    exact regOp_done hi (vecs_selX_two x ▸ inAllot_named hfit) fun l => by rw [read_eq]; rfl
  case unpack =>
    by_cases hform : x.form = .s
    · have hexec := exec_unpack_uniform hi hform
      rw [toNat_next hd] at hexec
      refine ⟨_, hexec.trans (done_of_retire (retire_raiseFlags (g := g) f _ rfl)), rfl,
        fun _ => ⟨?_, ?_, fun n hn hn' => ?_, rfl, rfl, rfl⟩, fun h => absurd hform h⟩
      · exact (sGet_sSet_ne _ _ (by omega)).trans (sGet_sSet_self ..)
      · exact sGet_sSet_self ..
      · exact (sGet_sSet_ne _ _ hn').trans (sGet_sSet_ne _ _ hn)
    · have hexec := exec_unpack_lanes hi hform (hfit.1 hform)
      have hrest := writeTwo_rest g (vReg (seen f g) x.d) (vReg (seen f g) (x.d + 1)) (lanesOf (active f (seen f g) x.neg x.p))
        (fun l => (laneParts x (seen f g) l).1.1) (fun l => (laneParts x (seen f g) l).2.1)
      have hsregs := congrArg Group.sregs hrest
      have hregs (k : Nat) {l : Nat} (hl : l < 32) := vGet_writeTwo g (vReg (seen f g) x.d) (vReg (seen f g) (x.d + 1))
        (fun l => (laneParts x (seen f g) l).1.1) (fun l => (laneParts x (seen f g) l).2.1) k
        (fun l h => (mem_active.mp h).1) hl (lanesOf_nodup (active f (seen f g) x.neg x.p))
      have hflags (y : Flags) (i : Nat) : (y ||| pairFlags (lanesOf (active f (seen f g) x.neg x.p)) (laneParts x (seen f g))).getLsbD i
          = true ↔ y.getLsbD i = true ∨ ∃ l, l < 32 ∧ IsActive f (seen f g) x.neg x.p l ∧
            ((laneParts x (seen f g) l).1.2 ||| (laneParts x (seen f g) l).2.2).getLsbD i = true := by
        rw [BitVec.getLsbD_or, Bool.or_eq_true, getLsbD_pairFlags]
        simp only [mem_active, IsActive, and_assoc]
      have hnext := vReg_next (seen f g) hd
      refine ⟨_, hexec.trans (done_of_retire (retire_raiseFlags f _ ?_)), rfl, fun h => absurd h hform,
        fun _ => ⟨fun l hl hact => ⟨?_, ?_⟩, fun i _ => ⟨hflags _ i, hflags _ i⟩, fun j l hl hout => ?_, hsregs⟩⟩
      · rw [hrest]
      · exact (hregs _ hl).trans ((if_neg (by omega)).trans (if_pos ⟨rfl, mem_active.mpr ⟨hl, hact⟩⟩))
      · exact (hregs _ hl).trans (if_pos ⟨rfl, mem_active.mpr ⟨hl, hact⟩⟩)
      · refine (hregs j hl).trans ((if_neg fun h => ?_).trans (if_neg fun h => ?_))
        · exact hout.elim (fun hn => hn (mem_active.mp h.2).2) (fun hn => hn.2 h.1)
        · exact hout.elim (fun hn => hn (mem_active.mp h.2).2) (fun hn => hn.1 h.1)

/-- Settles O5: the rows, sel, cvt and pack run the register operation on operands that include the old d, and unpack writes twice. -/
theorem threeSourceAndConversionResults : Obligations.ThreeSourceAndConversionResults := ⟨threeSourceResults, conversionResults⟩

end Sys2Proof.Machine
end

section
/-! PROOFS. Compares: a mask in a register, or one predicate (R98, R100). -/

open Host Sys2Proof Sys2Proof.Machine Sys2Proof.Claims

namespace Sys2Proof.Machine

/-! ### A predicate of some lanes (R8, R98) -/

/-- The mask that a fold over the conditions of lanes builds. -/
theorem getLsbD_foldl_conditions (val : Nat → Bool × Flags) {ls : List Nat} (hl : ∀ l ∈ ls, l < 32) (i : Nat) :
    ((ls.map (fun l => (l, val l))).foldl (fun m e => if e.2.1 then m ||| laneBit e.1 else m) (0 : LaneMask)).getLsbD i =
      decide (i ∈ ls ∧ (val i).1 = true) := by
  rw [List.foldl_map, getLsbD_foldl_laneBit (fun l => (val l).1) ls 0 i hl]
  simp

/-- The flags that the conditions of lanes raise. -/
theorem getLsbD_foldl_conditionFlags (val : Nat → Bool × Flags) (ls : List Nat) (i : Nat) :
    ((ls.map (fun l => (l, val l))).foldl (fun fl e => fl ||| e.2.2) (0 : Flags)).getLsbD i = true ↔
      ∃ l ∈ ls, (val l).2.getLsbD i = true := by
  rw [List.foldl_map, ← getLsbD_foldl_res (fun l => (0, (val l).2)), List.foldl_map]

theorem retire_pSet_flags (f : Focus) (g : Group) (n : Nat) (lanes vals : LaneMask) (fl : Flags) :
    retire f (raiseFlags (pSet g n lanes vals) fl) = { retire f g with
      preds := (pSet g n lanes vals).preds, sticky := g.sticky ||| fl, raised := g.raised ||| fl } := by
  rw [← retire_preds_flags, pSet]
  split <;> rfl

theorem written_iff {n k : Nat} {P : Prop} : n = k ∧ k ≠ 0 ∧ P ↔ n ≠ 0 ∧ n = k ∧ P :=
  ⟨fun ⟨hnk, hk, hp⟩ => ⟨hnk ▸ hk, hnk, hp⟩, fun ⟨hn, hnk, hp⟩ => ⟨hnk, hnk ▸ hn, hp⟩⟩

section Pred
variable {x : Sel} {s : State} {f : Focus} {g : Group} {fn : Group → Nat → Opnds → Bool × Flags} {val : Nat → Bool × Flags}

/-- The lanes whose conditions a predicate operation evaluates: the active ones, or in the uniform form the lowest of the run. -/
def evaluates (form : Form) (f : Focus) (v : Group) (neg : Bool) (p : BitVec 3) (l : Nat) : Prop :=
  if form = .s then l = lowLane f.lanes else IsActive f v neg p l

theorem lowLane_lt (m : LaneMask) : lowLane m < 32 := by
  by_cases h : m = 0
  · subst h
    decide
  · exact (lowLane_mem h).1

/-- A predicate operation writes the condition of each active lane, or in the uniform form one condition for the lanes of the run. -/
theorem predOp_done (hi : Issues s f g) (hfit : InAllot (seen f g) ({ x with d := x.a } : Sel).vecs)
    (hval : ∀ l, fn (seen f g) l (x.read (seen f g) l) = val l) (huni : x.form = .s → ∀ l, val l = val (lowLane f.lanes)) :
    ∃ g', predOp x fn s = .next (unfocus (putGroup s f.gid g')) ∧
      g' = { retire f g with preds := g'.preds, sticky := g'.sticky, raised := g'.raised } ∧
      (∀ i, g'.sticky.getLsbD i = true ↔ (g.sticky.getLsbD i = true ∨
        ∃ l, l < 32 ∧ evaluates x.form f (seen f g) x.neg x.p l ∧ (val l).2.getLsbD i = true)) ∧
      ∀ n l, l < 32 → pGet g' n l =
        if n ≠ 0 ∧ n = x.d.toNat % 8 ∧ f.lanes.getLsbD l = true ∧ (x.form = .s ∨ pGet (seen f g) x.p.toNat l ≠ x.neg) then (val l).1
        else pGet g n l := by
  obtain rfl : _ = val := funext hval
  unfold predOp
  rw [issuer_focus _ hi.1 hi.2]
  by_cases hform : x.form = .s
  · simp only [hform, if_true, evaluates]
    refine ⟨_, done_of_retire (retire_pSet_flags ..), rfl, fun i => ?_, fun n l hl => ?_⟩
    · simp [BitVec.getLsbD_or, lowLane_lt]
    · refine (pGet_pSet g _ n l f.lanes _ hl).trans (ite_congr (propext ?_) (fun ⟨_, _, hlane, _⟩ => ?_) fun _ => rfl)
      · rw [← written_iff, true_or, and_true]
      · have hcond := huni hform l
        dsimp only at hcond
        rw [hcond]
        generalize (fn (seen f g) (lowLane f.lanes) (x.read (seen f g) (lowLane f.lanes))).1 = b
        cases b with
        | false => exact BitVec.getLsbD_zero
        | true => exact hlane
  · simp only [hform, if_false, evaluates, withRegs_inside f g _ s _ hfit]
    refine ⟨_, done_of_retire (retire_pSet_flags ..), rfl, fun i => ?_, fun n l hl => ?_⟩
    · dsimp only
      rw [BitVec.getLsbD_or, Bool.or_eq_true, getLsbD_foldl_conditionFlags]
      simp only [mem_active, IsActive, and_assoc]
    · refine (pGet_pSet g _ n l _ _ hl).trans (ite_congr (propext ?_) (fun ⟨_, _, hlane, hguard⟩ => ?_) fun _ => rfl)
      · rw [← written_iff, false_or, active, getLsbD_maskWhere, Bool.and_eq_true, bne_iff_ne]
      · rw [getLsbD_foldl_conditions _ (fun l h => (mem_active.mp h).1)]
        simp [mem_active, hl, hlane, hguard.resolve_left id]

end Pred

/-! ### The rows (R98, R100) -/

theorem exec_cmpRow_mask {row} (h : row ∈ cmpRows) {x : XArgs} (hpd : x.imm.getLsbD 4 = false) (s : State) :
    exec (row.1 x) s = ext2 x (fun cb a b => eachElem x.ty (fun k =>
      (onesIf (tyWidth x.ty) (row.2 x cb a b k).1, (row.2 x cb a b k).2))) s := by
  fin_cases h <;> exact if_neg (by rw [hpd]; decide)

theorem exec_cmpRow_pred {row} (h : row ∈ cmpRows) {x : XArgs} (hpd : x.imm.getLsbD 4 = true) (s : State) :
    exec (row.1 x) s =
      predOp (selX true false x) (fun v _ o => row.2 x (cbList v) o.a o.b (x.imm.extractLsb' 0 4).toNat) s := by
  fin_cases h <;> exact if_pos hpd

/-- With a predicate for d, the sources alone are vector registers. -/
theorem inAllot_sources {x : XArgs} {v : Group} (h : Fits x.form v [x.a] [x.b]) :
    InAllot v ({ selX true false x with d := x.a } : Sel).vecs := by
  have hvecs : ({ selX true false x with d := x.a } : Sel).vecs = named x.form x.a x.a x.b := vecs_selX_two { x with d := x.a }
  obtain ⟨ha, hb⟩ := h
  rw [hvecs]
  exact inAllot_named ⟨fun hs => inAllot_append (ha hs) (ha hs), hb⟩

/-- Settles O6: PD 0 is a register operation, PD 1 a predicate operation. -/
theorem compareResults : Obligations.CompareResults := by
  intro row hrow x s f g hi
  constructor
  · intro hpd hfit
    rw [exec_cmpRow_mask hrow hpd]
    exact regOp_done hi (vecs_selX_two x ▸ inAllot_named hfit) fun l => by rw [read_a, read_b]; rfl
  · intro hpd hfit
    rw [exec_cmpRow_pred hrow hpd, BitVec.extractLsb'_toNat, Nat.shiftRight_zero]
    have huni : x.form = .s → ∀ l, row.2 x (cbList (seen f g)) (opA x.form (seen f g) x.a l) (opB x.form (seen f g) x.b l)
        (x.imm.toNat % 16) = row.2 x (cbList (seen f g)) (opA x.form (seen f g) x.a (lowLane f.lanes))
          (opB x.form (seen f g) x.b (lowLane f.lanes)) (x.imm.toNat % 16) := by
      intro hform l
      rw [hform]
      rfl
    obtain ⟨g', hexec, hrest, hflags, hpreds⟩ := predOp_done (x := selX true false x)
      (fn := fun v _ o => row.2 x (cbList v) o.a o.b (x.imm.toNat % 16)) hi (inAllot_sources hfit)
      (fun l => by rw [read_a, read_b]; rfl) huni
    exact ⟨g', hexec, hrest, fun i _ => hflags i, fun n l _ hl => hpreds n l hl⟩

end Sys2Proof.Machine
end

section
/-! PROOFS. Special registers: what rdsr reads of each and what wrsr leaves in each (R117-R119, R286, R287, R348). -/

open Host Sys2Proof Sys2Proof.Machine Sys2Proof.Claims

namespace Sys2Proof.Machine

/-! ### rdsr (R117, R118) -/

/-- Without a guard every lane of the run is active: predicate 0 reads as 1 (R8). -/
theorem active_unguarded (f : Focus) (v : Group) : active f v false 0 = f.lanes := by
  refine BitVec.eq_of_getLsbD_eq fun i _ => ?_
  simp [active, getLsbD_maskWhere, pGet_zero]

theorem isActive_unguarded (f : Focus) (v : Group) : IsActive f v false 0 = fun l => f.lanes.getLsbD l = true := by
  funext l
  simp [IsActive, pGet_zero]

theorem toNat_append_add {m n : Nat} (x : BitVec m) (y : BitVec n) : (x ++ y).toNat = x.toNat * 2 ^ n + y.toNat := by
  rw [BitVec.toNat_append, ← Nat.shiftLeft_add_eq_or_of_lt y.isLt, Nat.shiftLeft_eq]

/-- The fields of REPCTR as a word (R74). -/
theorem repWord_toNat (r : RepCtr) :
    (repWord r).toNat = r.lanes.toNat * 2 ^ 32 + (if r.active then 64 else 0) + r.next.toNat := by
  rw [repWord, toNat_append_add, toNat_append_add, toNat_append_add]
  cases r.active <;> simp <;> ring

theorem rdsrReads : RdsrReads := by
  intro x s f g hi v
  refine ⟨fun hfit => ?vector, ⟨_, ?uniform, uniDone_sSet_quiet ..⟩, fun l => ?table⟩
  case vector =>
    have hdone := vecDone_of_words_quiet s f g false 0 x.d (specialReg s f v x.n.toNat)
    rw [active_unguarded, isActive_unguarded] at hdone
    refine ⟨_, ?_, hdone⟩
    rw [exec_rdsrVector, execRdsrVector, issuer_focus _ hi.1 hi.2]
    exact withRegs_inside f g [x.d] s _ hfit
  case uniform =>
    rw [exec_rdsrUniform, execRdsrUniform, issuer_focus _ hi.1 hi.2]
    rfl
  case table =>
    refine ⟨rfl, rfl, rfl, ?_, repWord_toNat v.rep, ?_, ?_, ?_, ?_, rfl, rfl, rfl, rfl, rfl, rfl, rfl, rfl, rfl⟩
    all_goals exact BitVec.toNat_setWidth_of_le (by decide)

/-! ### wrsr (R89, R119, R286, R287, R348) -/

section Wrsr
variable {x : SrWrite} {s : State} {f : Focus} {g : Group}

theorem retire_sticky (f : Focus) (g : Group) (st : Flags) : retire f { g with sticky := st } = { retire f g with sticky := st } := by
  rw [retire_effect f g]
  simp [retire_keeps f g]

theorem retire_stale (f : Focus) (g : Group) (sl : LaneMask) : retire f { g with stale := sl } = { retire f g with stale := sl } := by
  rw [retire_effect f g]
  simp [retire_keeps f g]

theorem retire_exceptions (f : Focus) (g : Group) (e b : Word) :
    retire f { g with epc := e, trapbase := b } = { retire f g with epc := e, trapbase := b } := by
  unfold retire advance
  cases f.iter with
  | none => rfl
  | some it =>
    dsimp only
    split <;> rfl

theorem retire_epc (f : Focus) (g : Group) (e : Word) : retire f { g with epc := e } = { retire f g with epc := e } := by
  rw [retire_exceptions f g e g.trapbase]
  simp [retire_keeps f g]

theorem retire_trapbase (f : Focus) (g : Group) (b : Word) : retire f { g with trapbase := b } = { retire f g with trapbase := b } := by
  rw [retire_exceptions f g g.epc b]
  simp [retire_keeps f g]

theorem getLsbD_epcMask {i : Nat} (hi : i < 64) : epcMask.getLsbD i = decide (i ≠ 62 ∧ 2 ≤ i) := by
  have : ∀ i < 64, epcMask.getLsbD i = decide (i ≠ 62 ∧ 2 ≤ i) := by decide
  exact this i hi

/-- TRAPBASE takes ADDR and EN from the word and keeps HMODE (R287). -/
theorem getLsbD_trapbase (w b : Word) {i : Nat} (hi : i < 64) : ((w &&& trapbaseMask) ||| (b &&& 2)).getLsbD i =
    if i = 1 then b.getLsbD 1 else (decide (i < 56) && w.getLsbD i) := by
  have hmask : ∀ i < 64, trapbaseMask.getLsbD i = decide (i ≠ 1 ∧ i < 56) := by decide
  have htwo : ∀ i < 64, (2 : Word).getLsbD i = decide (i = 1) := by decide
  rw [BitVec.getLsbD_or, BitVec.getLsbD_and, BitVec.getLsbD_and, hmask i hi, htwo i hi]
  by_cases h : i = 1
  · subst h
    simp
  · simp [h, Bool.and_comm]

/-- The value of BWPHASE that leaves for the controllers (R348). -/
theorem partAt_sendPhase (s : State) (p : Nat) (w : Word) : (partAt (sendPhase s p w) p).bwphase.toNat = w.toNat % 64 := by
  have hpart : (partAt (sendPhase s p w) p).bwphase = w &&& 0x3F :=
    congrArg Partition.bwphase (mapGet_set_self ({} : Partition) s.parts p
      { partAt s p with bwphase := w &&& 0x3F, bwSent := (partAt s p).bwSent ++ [(s.clk.ns, w &&& 0x3F)] })
  rw [hpart]
  exact (BitVec.toNat_and ..).trans (Nat.and_two_pow_sub_one_eq_mod w.toNat 6)

theorem wrsrWrites : WrsrWrites := by
  intro x s f g hi w
  have hexec := (exec_wrsr x s).trans (issuer_focus _ hi.1 hi.2)
  refine ⟨fun h => ?sticky, fun h => ?stale, fun h hm => ⟨w &&& epcMask, ?epc, fun i hi64 => ?epcBits⟩,
    fun h => ⟨(w &&& trapbaseMask) ||| (g.trapbase &&& 2), ?trapbase, fun i hi64 => getLsbD_trapbase w _ hi64⟩,
    fun h => ⟨retired f g (sendPhase s (ctxPart (groupCtx s g)) w), ?bwphase, rfl, partAt_sendPhase .., rfl, rfl⟩, fun hc h => ?refused⟩
  case sticky =>
    rw [hexec]
    simp only [h]
    exact done_of_retire (retire_sticky f g _)
  case stale =>
    rw [hexec]
    simp only [h]
    exact done_of_retire (retire_stale f g _)
  case epc =>
    rw [hexec]
    simp only [h, hm, if_true]
    exact done_of_retire (retire_epc f g _)
  case epcBits =>
    rw [BitVec.getLsbD_and, getLsbD_epcMask hi64, Bool.and_comm]
  case trapbase =>
    rw [hexec]
    simp only [h]
    exact done_of_retire (retire_trapbase f g _)
  case bwphase =>
    rw [hexec]
    simp only [h]
    rfl
  case refused =>
    refine Eq.trans ?_ (trap_taken 0x01 0 hi.2 hc.1 hc.2)
    rw [hexec]
    rcases h with ⟨h, hm⟩ | h
    · simp only [h, hm, Bool.false_eq_true, if_false]
    · simp only [List.mem_cons, List.not_mem_nil, or_false, not_or] at h
      obtain ⟨h7, h8, h19, h1a, h20⟩ := h
      split
      · next hn => exact absurd hn h7
      · next hn => exact absurd hn h8
      · next hn => exact absurd hn h19
      · next hn => exact absurd hn h1a
      · next hn => exact absurd hn h20
      · rfl

end Wrsr

/-- Settles O20: rdsr writes the table's value as any register instruction does, and wrsr writes one register for each number. -/
theorem specialRegisterAccesses : Obligations.SpecialRegisterAccesses := ⟨rdsrReads, wrsrWrites⟩

end Sys2Proof.Machine
end

section
/-! PROOFS. Shuffles and broadcasts, with STALE where a source lane has exited (R110-R113), and the moves of the codebook (R107, R108). -/

open Host Sys2Proof Sys2Proof.Machine Sys2Proof.Claims

namespace Sys2Proof.Machine

/-! ### A cross-lane instruction with a vector destination (R88, R111) -/

/-- The register that words of the active lanes leave. -/
theorem wrote_writeLanes (f : Focus) (g : Group) (neg : Bool) (p : BitVec 3) (d : BitVec 7) (val : Nat → Word) {g' : Group}
    (h : g'.vregs = (writeLanes g (vReg (seen f g) d) ((lanesOf (active f (seen f g) neg p)).map (fun l => (l, val l)))).vregs) :
    Wrote f g g' d (IsActive f (seen f g) neg p) val := by
  have hregs : ∀ j l, l < 32 → vGet g' j l =
      if j = vReg (seen f g) d ∧ l ∈ lanesOf (active f (seen f g) neg p) then val l else vGet g j l := by
    intro j l hl
    rw [vGet, h]
    exact vGet_writeLanes_fun _ val g _ j l (fun l hm => (mem_active.mp hm).1) hl (lanesOf_nodup _)
  refine fun l hl => ⟨fun hact => ?_, fun j hout => ?_⟩
  · exact (hregs _ l hl).trans (if_pos ⟨rfl, mem_active.mpr ⟨hl, hact⟩⟩)
  · refine (hregs j l hl).trans (if_neg fun hm => ?_)
    exact hout.elim (fun hn => hn (mem_active.mp hm.2).2) (fun hn => hn hm.1)

theorem retire_vregs_stale (f : Focus) (g : Group) (vr : SMap Word) (sl : LaneMask) :
    retire f { g with vregs := vr, stale := sl } = { retire f g with vregs := vr, stale := sl } := by
  rw [retire_effect f g]
  simp [retire_keeps f g]

theorem retire_sregs_stale (f : Focus) (g : Group) (sr : SMap Word) (sl : LaneMask) :
    retire f { g with sregs := sr, stale := sl } = { retire f g with sregs := sr, stale := sl } := by
  rw [retire_effect f g]
  simp [retire_keeps f g]

theorem retire_codebook (f : Focus) (g : Group) (cb : SMap (BitVec 16)) :
    retire f { g with codebook := cb } = { retire f g with codebook := cb } := by
  rw [retire_effect f g]
  simp [retire_keeps f g]

theorem raiseStale_writeLanes (g : Group) (j : Nat) (ws : List (Nat × Word)) (m : LaneMask) :
    raiseStale (writeLanes g j ws) m = { g with vregs := (writeLanes g j ws).vregs, stale := g.stale ||| m } := by
  rw [writeLanes_rest]
  rfl

section Cross
variable {x : XArgs} {s : State} {f : Focus} {g : Group} {names : List (BitVec 7)}

/-- Each active lane gets its word, and its STALE bit where its source says so; no flag is raised. -/
theorem crossOp_done {val : Nat → Word} {late : Nat → Bool} (hi : Issues s f g) (hfit : InAllot (seen f g) names)
    {fn : Group → Nat → Word × Bool × Flags} (hfn : ∀ l, fn (seen f g) l = (val l, late l, 0)) :
    ∃ g', crossOp x names fn s = .next (unfocus (putGroup s f.gid g')) ∧
      g' = { retire f g with vregs := g'.vregs, stale := g'.stale } ∧
      Wrote f g g' x.d (IsActive f (seen f g) x.neg x.p) val ∧
      ∀ l, l < 32 → (g'.stale.getLsbD l = true ↔ g.stale.getLsbD l = true ∨
        (IsActive f (seen f g) x.neg x.p l ∧ late l = true)) := by
  have hzero : ∀ ls : List Nat, ls.foldl (fun fl _ => fl ||| (0 : Flags)) 0 = 0 := by
    intro ls
    induction ls with
    | nil => rfl
    | cons l ls ih => exact ih
  have hexec : crossOp x names fn s = done f (raiseStale
      (writeLanes g (vReg (seen f g) x.d) ((lanesOf (active f (seen f g) x.neg x.p)).map (fun l => (l, val l))))
      ((lanesOf (active f (seen f g) x.neg x.p)).foldl (fun m l => if late l then m ||| laneBit l else m) 0)) s := by
    rw [crossOp, issuer_focus _ hi.1 hi.2]
    dsimp only
    rw [withRegs_inside f g names s _ hfit]
    simp only [hfn, List.map_map, Function.comp_def, List.foldl_map, hzero, raiseFlags_zero]
  rw [raiseStale_writeLanes] at hexec
  refine ⟨_, hexec.trans (done_of_retire (retire_vregs_stale f g _ _)), rfl, wrote_writeLanes f g x.neg x.p x.d val rfl,
    fun l hl => ?_⟩
  dsimp only
  rw [BitVec.getLsbD_or, Bool.or_eq_true, getLsbD_foldl_laneBit late _ 0 l (fun l hm => (mem_active.mp hm).1)]
  simp [mem_active, hl, IsActive, and_assoc]

/-! ### Shuffles and broadcasts (R110-R113) -/

theorem imm_low (x : XArgs) : (x.imm.extractLsb' 0 2).toNat = x.imm.toNat % 4 := by
  rw [BitVec.extractLsb'_toNat, Nat.shiftRight_zero]

/-- The vector registers of a shuffle: c is one of them in mode slide alone (R112). -/
theorem inAllot_shuffle {v : Group} (hda : InAllot v [x.d, x.a]) (hb : x.form = .v → InAllot v [x.b])
    (hc : x.imm.toNat % 4 = 1 → InAllot v [x.c]) : InAllot v (selX true (x.imm.toNat % 4 == 1) x).vecs := by
  have hvecs : (selX true (x.imm.toNat % 4 == 1) x).vecs =
      if x.form = .s then [] else named x.form x.d x.a x.b ++ if x.imm.toNat % 4 = 1 then [x.c] else [] := by
    cases h : x.form <;> simp [Sel.vecs, selX, named, h]
  rw [hvecs]
  split
  · simp [InAllot]
  · refine inAllot_append (inAllot_named ⟨fun _ => hda, hb⟩) ?_
    split
    · next h1 => exact hc h1
    · simp [InAllot]

/-- The operands of a vector form: b is uniform in the mixed one (R56). -/
theorem read_vector (useB useC : Bool) (v : Group) (l : Nat) (hform : x.form ≠ .s) : (selX useB useC x).read v l =
    { d := readV v x.d l, a := readV v x.a l, b := if x.form = .m then sGet v x.b.toNat else readV v x.b l, c := readV v x.c l } := by
  rw [read_eq]
  cases h : x.form with
  | s => exact absurd h hform
  | v => simp [opA, opB, selX, h, readV, vReg]
  | m => simp [opA, opB, selX, h, readV, vReg]

theorem shufflesAndBroadcasts : ShufflesAndBroadcasts := by
  intro x s f g hi v n mode adr src one
  refine ⟨fun hform hda hb hc => ?shfl, fun hform hfit => ?lanes, fun hform hfit => ?uniform⟩
  case shfl =>
    obtain ⟨g', hexec, hrest, hwrote, hstale⟩ := crossOp_done (x := x)
      (val := fun l => packElems x.ty ((List.range n).map (fun k => (src l k).1)))
      (late := fun l => ((List.range n).map (src l)).any (·.2)) hi (inAllot_shuffle hda hb hc) (fn := fun v l =>
        let o := (selX true (x.imm.toNat % 4 == 1) x).read v l
        let rs := (List.range (tyCount x.ty)).map (fun k => shflElem x.ty v (x.imm.toNat % 4) x.a o.a o.c (laneAddr o.b) l k)
        (packElems x.ty (rs.map (·.1)), rs.any (·.2), 0))
      (fun l => by
        dsimp only
        rw [read_vector _ _ _ _ hform, List.map_map]
        rfl)
    refine ⟨g', ?_, hrest, hwrote, fun l hl => (hstale l hl).trans ?_⟩
    · rw [exec_shfl, execShfl, imm_low]
      exact hexec
    · simp [v, n]
  case lanes =>
    have hm : x.form ≠ .m := by rw [hform]; decide
    have hadr : ∀ l, adr l = laneAddr (readV v x.b l) := fun l => congrArg (fun w : Word => w.toNat % 512) (if_neg hm)
    rw [exec_bcast, execBcast, if_neg hm]
    refine crossOp_done (val := fun l => splat x.ty (one l).1) (late := fun l => (one l).2) hi hfit fun l => ?_
    dsimp only [one]
    rw [hadr]
    rfl
  case uniform =>
    have hexec : exec (.bcast x) s = done f { g with
        sregs := (sSet g x.b.toNat (if v.exited.getLsbD x.imm.toNat = true then 0 else readV v x.a x.imm.toNat)).sregs
        stale := if v.exited.getLsbD x.imm.toNat = true then g.stale ||| f.lanes else g.stale } s := by
      rw [exec_bcast, execBcast, if_pos hform, issuer_focus _ hi.1 hi.2]
      dsimp only
      rw [withRegs_inside f g [x.a] s _ hfit]
      split <;> rfl
    exact ⟨_, hexec.trans (done_of_retire (retire_sregs_stale f g _ _)), rfl, sGet_sSet_self .., fun i hi => sGet_sSet_ne _ _ hi⟩

end Cross

/-! ### The codebook (R107, R108) -/

/-- One quarter of the codebook, its entries 4q to 4q + 3. -/
theorem mapGet_quarter (cb : SMap (BitVec 16)) (val : Nat → BitVec 16) (r q : Nat) {i : Nat} (hi : i < 4) :
    mapGet 0 ((List.range 4).foldl (fun cb i => mapSet 0 cb (4 * r + i) (val i)) cb) (4 * q + i) =
      if r = q then val i else mapGet 0 cb (4 * q + i) := by
  have hfold : ∀ ks cb, mapGet 0 (List.foldl (fun cb i => mapSet 0 cb (4 * r + i) (val i)) cb ks) (4 * q + i) =
      if ∃ k ∈ ks, 4 * q + i = 4 * r + k then val (4 * q + i - 4 * r) else mapGet 0 cb (4 * q + i) := by
    intro ks
    induction ks with
    | nil => simp
    | cons k ks ih =>
      intro cb
      rw [List.foldl_cons, ih]
      by_cases hk : 4 * q + i = 4 * r + k
      · rw [hk, mapGet_set_self, show 4 * r + k - 4 * r = k by omega]
        simp
      · rw [mapGet_set_ne _ _ _ hk]
        simp [hk]
  rw [hfold]
  by_cases hq : r = q
  · rw [if_pos hq, if_pos ⟨i, List.mem_range.mpr hi, by omega⟩, hq, Nat.add_sub_cancel_left]
  · rw [if_neg hq, if_neg]
    rintro ⟨k, hk, heq⟩
    have := List.mem_range.mp hk
    omega

/-- The quarters of a list. -/
theorem mapGet_quarters (val : Nat → Nat → BitVec 16) (q : Nat) {i : Nat} (hi : i < 4) : ∀ (qs : List Nat) (cb : SMap (BitVec 16)),
    mapGet 0 (qs.foldl (fun cb r => (List.range 4).foldl (fun cb i => mapSet 0 cb (4 * r + i) (val r i)) cb) cb) (4 * q + i) =
      if q ∈ qs then val q i else mapGet 0 cb (4 * q + i) := by
  intro qs
  induction qs with
  | nil => simp
  | cons r qs ih =>
    intro cb
    rw [List.foldl_cons, ih, mapGet_quarter _ _ _ _ hi]
    by_cases hq : r = q
    · subst hq
      simp
    · simp [hq, Ne.symm hq]

theorem ofNat_elemW (x : Word) (i : Nat) : BitVec.ofNat 16 (elemW 16 x i) = BitVec.ofNat 16 (x.toNat / 2 ^ (16 * i)) :=
  BitVec.eq_of_toNat_eq (by simp [elemW])

theorem cbList_getD (v : Group) {k : Nat} (hk : k < 16) : (cbList v).getD k 0 = (mapGet 0 v.codebook k).toNat := by
  simp [cbList, hk]

theorem vecs_selX_dest (x : XArgs) : ({ selX false false x with useA := false } : Sel).vecs = if x.form = .s then [] else [x.d] := by
  cases h : x.form <;> simp [Sel.vecs, selX, h]

theorem inAllot_dest {x : XArgs} {v : Group} (hfit : Fits x.form v [x.d] []) :
    InAllot v ({ selX false false x with useA := false } : Sel).vecs := by
  rw [vecs_selX_dest]
  split
  · simp [InAllot]
  · next h => exact hfit.1 h

theorem codebookMoves : CodebookMoves := by
  intro x s f g hi
  refine ⟨?load, fun hfit => ?read⟩
  case load =>
    rw [exec_cbld, execCbld, issuer_focus _ hi.1 hi.2]
    refine ⟨_, done_of_retire (retire_codebook f g _), rfl, fun q i hq hi4 => ?_⟩
    dsimp only
    rw [mapGet_quarters (fun r i => BitVec.ofNat 16 (elemW 16 (sGet (seen f g) (x.a.toNat + r)) i)) q hi4]
    simp [hq, ofNat_elemW]
  case read =>
    rw [exec_cbrd, execCbrd, imm_low]
    refine regOp_done hi (inAllot_dest hfit) fun l => ?_
    have hentries : ∀ i ∈ List.range 4, (cbList (seen f g)).getD (4 * (x.imm.toNat % 4) + i) 0 =
        (mapGet 0 (seen f g).codebook (4 * (x.imm.toNat % 4) + i)).toNat := fun i hi4 =>
      cbList_getD _ (by have := List.mem_range.mp hi4; omega)
    dsimp only
    rw [List.map_congr_left hentries]

/-- Settles O37: a shuffle gives each active lane its elements, and STALE where a source lane has exited; the moves of the codebook
go by quarters. -/
theorem shufflesAndCodebookMoves : Obligations.ShufflesAndCodebookMoves := ⟨shufflesAndBroadcasts, codebookMoves⟩

end Sys2Proof.Machine
end

section
/-! PROOFS. Ballots, votes, scans, reductions and matches over the active lanes (R114-R116). -/

open Host Sys2Proof Sys2Proof.Machine Sys2Proof.Claims

namespace Sys2Proof.Machine

/-! ### Masks and their numbers of lanes (R114) -/

/-- A mask of lanes as a word. -/
theorem zeroExtend_eq_sum {m : LaneMask} {lanes : Finset Nat} (h : ∀ l, m.getLsbD l = true ↔ l ∈ lanes) :
    (m.zeroExtend 64 : Word) = BitVec.ofNat 64 (lanes.sum (fun l => 2 ^ l)) := by
  refine BitVec.eq_of_getLsbD_eq fun i hi => ?_
  rw [BitVec.getLsbD_ofNat, testBit_sum_two_pow, Bool.eq_iff_iff]
  simp [hi, h]

theorem popLanes_eq_card {m : LaneMask} {lanes : Finset Nat} (h : ∀ l, m.getLsbD l = true ↔ l ∈ lanes) : popLanes m = lanes.card := by
  have hlanes : (Finset.range 32).filter (fun l => m.getLsbD l = true) = lanes := by
    ext l
    rw [Finset.mem_filter, Finset.mem_range, h, and_iff_right_iff_imp]
    intro hl
    by_contra hge
    exact absurd ((h l).mpr hl) (by rw [BitVec.getLsbD_of_ge _ _ (by omega)]; decide)
  rw [popLanes, lanesOf, length_filter_range, hlanes]

/-- The active lanes of an instruction whose predicate c has a value. -/
def predLanes (f : Focus) (v : Group) (neg : Bool) (p : BitVec 3) (c : Nat) (val : Bool) : Finset Nat :=
  (Finset.range 32).filter (fun l => f.lanes.getLsbD l = true ∧ pGet v p.toNat l ≠ neg ∧ pGet v c l = val)

section Ballot
variable (f : Focus) (v : Group) (neg : Bool) (p : BitVec 3) (c : BitVec 7)

theorem lt_of_getLsbD_lanes {m : LaneMask} {l : Nat} (h : m.getLsbD l = true) : l < 32 := by
  by_contra hge
  rw [BitVec.getLsbD_of_ge _ _ (by omega)] at h
  exact absurd h (by decide)

theorem getLsbD_active (l : Nat) : (active f v neg p).getLsbD l = true ↔ f.lanes.getLsbD l = true ∧ pGet v p.toNat l ≠ neg := by
  rw [active, getLsbD_maskWhere, Bool.and_eq_true, bne_iff_ne]

theorem mem_ballotMask (l : Nat) :
    (ballotMask v (active f v neg p) c).getLsbD l = true ↔ l ∈ predLanes f v neg p (c.toNat % 8) true := by
  have hmask : (ballotMask v (active f v neg p) c).getLsbD l = true ↔ (active f v neg p).getLsbD l = true ∧ pGet v (c.toNat % 8) l = true := by
    rw [ballotMask, getLsbD_maskWhere, Bool.and_eq_true]
  rw [hmask, getLsbD_active, predLanes, Finset.mem_filter, Finset.mem_range, and_assoc]
  exact ⟨fun h => ⟨lt_of_getLsbD_lanes h.1, h⟩, And.right⟩

/-- The active lanes are those of a ballot and the others. -/
theorem popLanes_active_sub : popLanes (active f v neg p) - (predLanes f v neg p (c.toNat % 8) true).card =
    (predLanes f v neg p (c.toNat % 8) false).card := by
  have hact := popLanes_eq_card (m := active f v neg p)
    (lanes := predLanes f v neg p (c.toNat % 8) true ∪ predLanes f v neg p (c.toNat % 8) false) fun l => by
      rw [getLsbD_active, Finset.mem_union, predLanes, predLanes, Finset.mem_filter, Finset.mem_filter, Finset.mem_range]
      refine ⟨fun ⟨hlane, hguard⟩ => ?_, fun h => h.elim (fun h => ⟨h.2.1, h.2.2.1⟩) (fun h => ⟨h.2.1, h.2.2.1⟩)⟩
      cases hc : pGet v (c.toNat % 8) l with
      | false => exact .inr ⟨lt_of_getLsbD_lanes hlane, hlane, hguard, rfl⟩
      | true => exact .inl ⟨lt_of_getLsbD_lanes hlane, hlane, hguard, rfl⟩
  have hdisj : Disjoint (predLanes f v neg p (c.toNat % 8) true) (predLanes f v neg p (c.toNat % 8) false) := by
    rw [predLanes, predLanes, Finset.disjoint_filter]
    rintro l - ⟨-, -, htrue⟩ ⟨-, -, hfalse⟩
    exact absurd (htrue.symm.trans hfalse) (by decide)
  rw [hact, Finset.card_union_of_disjoint hdisj, Nat.add_sub_cancel_left]

end Ballot

theorem retire_pSet (f : Focus) (g : Group) (n : Nat) (lanes vals : LaneMask) :
    retire f (pSet g n lanes vals) = { retire f g with preds := (pSet g n lanes vals).preds } := by
  have h := retire_pSet_flags f g n lanes vals 0
  rw [raiseFlags_zero] at h
  rw [h]
  simp [retire_keeps f g]

theorem ballotsAndVotes : BallotsAndVotes := by
  intro x s f g hi v yes no m r
  have hmask : (ballotMask v (active f v x.neg x.p) x.c).zeroExtend 64 = m := zeroExtend_eq_sum (mem_ballotMask f v x.neg x.p x.c)
  have hones : popLanes (ballotMask v (active f v x.neg x.p) x.c) = yes.card := popLanes_eq_card (mem_ballotMask f v x.neg x.p x.c)
  have hothers : popLanes (active f v x.neg x.p) - yes.card = no.card := popLanes_active_sub f v x.neg x.p x.c
  have hcond : condI (x.aux.extractLsb' 0 3).toNat ((if x.aux.getLsbD 3 = true then no.card else yes.card : Nat) : ℤ) (x.imm.toNat : ℤ) = r := by
    rw [BitVec.extractLsb'_toNat, Nat.shiftRight_zero]
  have hvote : exec (.vote x) s = if x.form = .m then done f (sSet g x.b.toNat (if r then 1 else 0)) s
      else done f (pSet g (x.d.toNat % 8) (active f v x.neg x.p) (if r then active f v x.neg x.p else 0)) s := by
    rw [exec_vote, execVote, issuer_focus _ hi.1 hi.2]
    dsimp only
    rw [hones, hothers, hcond]
  refine ⟨fun hform => ?uniform, fun hform hfit => ?lanes, fun hform => ?word, fun hform => ?pred⟩
  case uniform =>
    rw [exec_ballot, execBallot, issuer_focus _ hi.1 hi.2]
    dsimp only
    rw [if_pos hform, hmask]
    exact ⟨_, rfl, uniDone_sSet_quiet s f g x.b m⟩
  case lanes =>
    rw [exec_ballot, execBallot, issuer_focus _ hi.1 hi.2]
    dsimp only
    rw [if_neg hform, hmask, withRegs_inside f g [x.d] s _ hfit]
    exact ⟨_, rfl, vecDone_of_words_quiet s f g x.neg x.p x.d fun _ => m⟩
  case word =>
    rw [hvote, if_pos hform]
    exact ⟨_, rfl, uniDone_sSet_quiet s f g x.b _⟩
  case pred =>
    rw [hvote, if_neg hform]
    refine ⟨_, done_of_retire (retire_pSet f g _ _ _), rfl, fun n l _ hl => ?_⟩
    refine (pGet_pSet g _ n l _ _ hl).trans (ite_congr (propext ?_) (fun ⟨_, _, hlane, hguard⟩ => ?_) fun _ => rfl)
    · rw [← written_iff, getLsbD_active]
    · cases r with
      | false => exact BitVec.getLsbD_zero
      | true => exact (getLsbD_active f v x.neg x.p l).mpr ⟨hlane, hguard⟩

end Sys2Proof.Machine
end

section
/-! PROOFS. Reductions, scans and matches over the active lanes (R115, R116). -/

open Host Sys2Proof Sys2Proof.Machine Sys2Proof.Claims

namespace Sys2Proof.Machine

/-! ### Lanes in order (R115) -/

/-- The number of lanes of a list below a lane. -/
def laneRank (lanes : List Nat) (l : Nat) : Nat := (lanes.filter (fun m => decide (m < l))).length

theorem lanesOf_sorted (m : LaneMask) : (lanesOf m).Pairwise (· < ·) := List.pairwise_lt_range.filter _

/-- In ascending order a lane's place is the number of lanes below it. -/
theorem laneRank_getElem {lanes : List Nat} (h : lanes.Pairwise (· < ·)) (j : Nat) (hj : j < lanes.length) :
    laneRank lanes lanes[j] = j := by
  induction lanes generalizing j with
  | nil => exact absurd hj (by simp)
  | cons a lanes ih =>
    obtain ⟨ha, hlanes⟩ := List.pairwise_cons.mp h
    cases j with
    | zero =>
      have hnone : (a :: lanes).filter (fun m => decide (m < a)) = [] := by
        rw [List.filter_eq_nil_iff]
        rintro m hm
        obtain rfl | hm := List.mem_cons.mp hm
        · simp
        · have := ha m hm
          simp
          omega
      exact congrArg List.length hnone
    | succ j =>
      have hj' : j < lanes.length := by simpa using hj
      have hlt : a < lanes[j] := ha _ (List.getElem_mem _)
      have hcount : laneRank (a :: lanes) lanes[j] = laneRank lanes lanes[j] + 1 := by simp [laneRank, hlt]
      exact hcount.trans (congrArg (· + 1) (ih hlanes j hj'))

theorem length_flatCodes (t : Ty) (v : Group) (a : BitVec 7) (lanes : List Nat) :
    (flatCodes t v a lanes).length = lanes.length * tyCount t := by
  simp [flatCodes, codesOf]

/-! ### A scan's results, lane by lane (R115) -/

section Scan
variable {lanes : List Nat} (hsorted : lanes.Pairwise (· < ·)) (n : Nat) (fn : Nat → Nat × Flags)

/-- The results of the lane with a rank. -/
def scanOf (n : Nat) (fn : Nat → Nat × Flags) (j : Nat) : List (Nat × Flags) := (List.range n).map (fun k => fn (j * n + k))

theorem take_drop_scan {j N : Nat} (hj : j < N) :
    (((List.range (N * n)).map fn).drop (j * n)).take n = scanOf n fn j := by
  have hfit : j * n + n ≤ N * n := by rw [← Nat.succ_mul]; exact Nat.mul_le_mul_right n hj
  refine List.ext_getElem (by simp [scanOf]; omega) fun k _ _ => ?_
  simp [scanOf]

theorem getLsbD_foldl_scan (j i : Nat) : ((scanOf n fn j).foldl (fun fl r => fl ||| r.2) (0 : Flags)).getLsbD i = true ↔
    ∃ k < n, (fn (j * n + k)).2.getLsbD i = true := by
  rw [foldl_or_getLsbD]
  simp [scanOf]

include hsorted

/-- Each lane receives the results of its rank. -/
theorem scan_words (t : Ty) :
    (List.range lanes.length).map (fun j =>
      (lanes.getD j 0, packElems t (((((List.range (lanes.length * n)).map fn).drop (j * n)).take n).map (·.1)))) =
    lanes.map (fun l => (l, packElems t ((scanOf n fn (laneRank lanes l)).map (·.1)))) := by
  refine List.ext_getElem (by simp) fun j hj _ => ?_
  have hj : j < lanes.length := by simpa using hj
  rw [List.getElem_map, List.getElem_map, List.getElem_range, take_drop_scan n fn hj, laneRank_getElem hsorted j hj,
    List.getD_eq_getElem lanes 0 hj]

/-- The flags of a scan are those of its lanes. -/
theorem scan_flags (i : Nat) : (flagsOf ((List.range (lanes.length * n)).map fn)).getLsbD i = true ↔
    ∃ l ∈ lanes, ((scanOf n fn (laneRank lanes l)).foldl (fun fl r => fl ||| r.2) (0 : Flags)).getLsbD i = true := by
  have hplace : (∃ e < lanes.length * n, (fn e).2.getLsbD i = true) ↔
      ∃ j, ∃ _ : j < lanes.length, ∃ k < n, (fn (j * n + k)).2.getLsbD i = true := by
    constructor
    · rintro ⟨e, he, hbit⟩
      have hn : 0 < n := Nat.pos_of_mul_pos_left (Nat.zero_lt_of_lt he)
      exact ⟨e / n, Nat.div_lt_of_lt_mul (by rwa [mul_comm]), e % n, Nat.mod_lt _ hn, by rwa [Nat.div_add_mod']⟩
    · rintro ⟨j, hj, k, hk, hbit⟩
      refine ⟨j * n + k, ?_, hbit⟩
      calc j * n + k < j * n + n := Nat.add_lt_add_left hk _
        _ = (j + 1) * n := (Nat.succ_mul j n).symm
        _ ≤ lanes.length * n := Nat.mul_le_mul_right n hj
  have hflags : (flagsOf ((List.range (lanes.length * n)).map fn)).getLsbD i = true ↔
      ∃ e < lanes.length * n, (fn e).2.getLsbD i = true := by
    rw [flagsOf, foldl_or_getLsbD]
    simp
  rw [hflags, hplace]
  constructor
  · rintro ⟨j, hj, hbits⟩
    refine ⟨lanes[j], List.getElem_mem hj, (getLsbD_foldl_scan ..).mpr ?_⟩
    rwa [laneRank_getElem hsorted j hj]
  · rintro ⟨l, hl, hbits⟩
    obtain ⟨j, hj, rfl⟩ := List.getElem_of_mem hl
    rw [getLsbD_foldl_scan, laneRank_getElem hsorted j hj] at hbits
    exact ⟨j, hj, hbits⟩

end Scan

theorem scansReductionsMatches : ScansReductionsMatches := by
  intro x s f g hi v lanes all n
  refine ⟨fun hform hfit => ?uniform, fun hform hfit => ?vector, fun hfit => ?scan, fun hfit => ?same⟩
  case uniform =>
    rw [exec_gred, execGred, issuer_focus _ hi.1 hi.2]
    dsimp only
    rw [if_pos hform, withRegs_inside f g [x.a] s _ hfit, if_pos hform]
    exact ⟨_, rfl, uniDone_sSet s f g x.b (splat x.ty (redCodes x all).1, (redCodes x all).2)⟩
  case vector =>
    rw [exec_gred, execGred, issuer_focus _ hi.1 hi.2]
    dsimp only
    rw [if_neg hform, withRegs_inside f g [x.d, x.a] s _ hfit, if_neg hform]
    refine ⟨_, rfl, vecDone_of_words s f g x.d rfl fun i => ?_⟩
    change (if lanes.isEmpty = true then (0 : Flags) else (redCodes x all).2).getLsbD i = true ↔ ∃ l ∈ lanes, (redCodes x all).2.getLsbD i = true
    cases lanes with
    | nil => simp
    | cons l ls => simp
  case scan =>
    have hsorted : lanes.Pairwise (· < ·) := lanesOf_sorted _
    rw [exec_gscan, execGscan, issuer_focus _ hi.1 hi.2]
    dsimp only
    rw [withRegs_inside f g [x.d, x.a] s _ hfit, length_flatCodes]
    exact ⟨_, rfl, vecDone_of_words s f g x.d (scan_words hsorted n _ x.ty) (scan_flags hsorted n _)⟩
  case same =>
    have hk : (x.imm.extractLsb' 0 4).toNat = x.imm.toNat % 16 := by rw [BitVec.extractLsb'_toNat, Nat.shiftRight_zero]
    rw [exec_matchEq, execMatchEq, issuer_focus _ hi.1 hi.2]
    dsimp only
    rw [withRegs_inside f g [x.d, x.a] s _ hfit, hk]
    exact ⟨_, rfl, vecDone_of_words_quiet s f g x.neg x.p x.d _⟩

end Sys2Proof.Machine
end

section
/-! PROOFS. What a reduction makes of integer codes: sums, least and greatest codes, and bitwise combinations (R115, R94, R38). -/

open Host Sys2Proof Sys2Proof.Machine Sys2Proof.Claims

namespace Sys2Proof.Machine

/-! ### Codes and their integers (R91) -/

/-- A code is the code of its own value. -/
theorem wrapInt_intVal (signed : Bool) {w c : Nat} (hc : c < 2 ^ w) : wrapInt w (intVal signed w c) = c := by
  zify [wrapInt_cast]
  rw [intVal_emod]
  exact Int.emod_eq_of_lt (by positivity) (by exact_mod_cast hc)

theorem narrowInt_lt (sat signed : Bool) (w : Nat) (z : ℤ) : (narrowInt sat signed w z).1 < 2 ^ w := by
  rw [← narrowInt_mod]
  exact Nat.mod_lt _ (by positivity)

theorem narrowInt_snd (sat signed : Bool) (w : Nat) (z : ℤ) : (narrowInt sat signed w z).2 =
    if sat = true ∧ (z < intMin signed w ∨ intMax signed w < z) then flSAT else 0 := by
  cases sat with
  | false => simp [narrowInt]
  | true => simpa [narrowInt] using satInt_flags signed w z

/-! ### The least and the greatest of some integers -/

theorem foldl_min_of_ne_nil {zs : List ℤ} {top : ℤ} (htop : ∀ z ∈ zs, z ≤ top) (hne : zs ≠ []) :
    zs.foldl min top ∈ zs ∧ ∀ z ∈ zs, zs.foldl min top ≤ z := by
  obtain ⟨m, hm⟩ := Option.isSome_iff_exists.mp (List.isSome_min?_of_ne_nil hne)
  obtain ⟨hmem, hle⟩ := List.min?_eq_some_iff.mp hm
  rw [List.foldl_min, hm, Option.getD_some, min_eq_right (htop m hmem)]
  exact ⟨hmem, hle⟩

theorem foldl_max_of_ne_nil {zs : List ℤ} {bot : ℤ} (hbot : ∀ z ∈ zs, bot ≤ z) (hne : zs ≠ []) :
    zs.foldl max bot ∈ zs ∧ ∀ z ∈ zs, z ≤ zs.foldl max bot := by
  obtain ⟨m, hm⟩ := Option.isSome_iff_exists.mp (List.isSome_max?_of_ne_nil hne)
  obtain ⟨hmem, hle⟩ := List.max?_eq_some_iff.mp hm
  rw [List.foldl_max, hm, Option.getD_some, max_eq_right (hbot m hmem)]
  exact ⟨hmem, hle⟩

section Pick
variable {signed : Bool} {w : Nat} (hw : 0 < w) {cs : List Nat} (hcs : ∀ c ∈ cs, c < 2 ^ w)
include hcs

/-- The code of an integer picked from those of some codes is one of the codes. -/
theorem picked_code {z : ℤ} (hz : z ∈ cs.map (intVal signed w)) : wrapInt w z ∈ cs ∧ intVal signed w (wrapInt w z) = z := by
  obtain ⟨c, hc, rfl⟩ := List.mem_map.mp hz
  rw [wrapInt_intVal signed (hcs c hc)]
  exact ⟨hc, rfl⟩

include hw

theorem least_code : let r := wrapInt w ((cs.map (intVal signed w)).foldl min (intMax signed w))
    (∀ c ∈ cs, intVal signed w r ≤ intVal signed w c) ∧ (cs = [] → intVal signed w r = intMax signed w) ∧ (cs ≠ [] → r ∈ cs) := by
  have hbounds := intVal_range signed hw 0
  have hpick : cs ≠ [] → _ := fun hne => foldl_min_of_ne_nil (zs := cs.map (intVal signed w)) (top := intMax signed w)
    (List.forall_mem_map.mpr fun c _ => (intVal_range signed hw c).2) (by simpa using hne)
  refine ⟨fun c hc => ?_, fun hnil => ?_, fun hne => (picked_code hcs (hpick hne).1).1⟩
  · obtain ⟨hmem, hle⟩ := hpick (List.ne_nil_of_mem hc)
    exact (picked_code hcs hmem).2.trans_le (hle _ (List.mem_map_of_mem hc))
  · subst hnil
    exact intVal_wrapInt signed hw (hbounds.1.trans hbounds.2) le_rfl

theorem greatest_code : let r := wrapInt w ((cs.map (intVal signed w)).foldl max (intMin signed w))
    (∀ c ∈ cs, intVal signed w c ≤ intVal signed w r) ∧ (cs = [] → intVal signed w r = intMin signed w) ∧ (cs ≠ [] → r ∈ cs) := by
  have hbounds := intVal_range signed hw 0
  have hpick : cs ≠ [] → _ := fun hne => foldl_max_of_ne_nil (zs := cs.map (intVal signed w)) (bot := intMin signed w)
    (List.forall_mem_map.mpr fun c _ => (intVal_range signed hw c).1) (by simpa using hne)
  refine ⟨fun c hc => ?_, fun hnil => ?_, fun hne => (picked_code hcs (hpick hne).1).1⟩
  · obtain ⟨hmem, hle⟩ := hpick (List.ne_nil_of_mem hc)
    exact (hle _ (List.mem_map_of_mem hc)).trans_eq (picked_code hcs hmem).2.symm
  · subst hnil
    exact intVal_wrapInt signed hw le_rfl (hbounds.1.trans hbounds.2)

end Pick

/-! ### Bits of codes -/

/-- The number of codes with a bit. -/
def onesAt (cs : List Nat) (b : Nat) : Nat := (cs.filter (fun c => c.testBit b)).length

theorem onesAt_cons (c : Nat) (cs : List Nat) (b : Nat) : onesAt (c :: cs) b = onesAt cs b + if c.testBit b = true then 1 else 0 := by
  unfold onesAt
  rw [List.filter_cons]
  split <;> rfl

theorem onesAt_le (cs : List Nat) (b : Nat) : onesAt cs b ≤ cs.length := List.length_filter_le ..

theorem testBit_foldl_and (cs : List Nat) (m b : Nat) :
    (cs.foldl Nat.land m).testBit b = (m.testBit b && decide (onesAt cs b = cs.length)) := by
  induction cs generalizing m with
  | nil => simp [onesAt]
  | cons c cs ih =>
    have hle := onesAt_le cs b
    rw [List.foldl_cons, ih, onesAt_cons, List.length_cons, show Nat.land m c = m &&& c from rfl, Nat.testBit_and, Bool.and_assoc]
    cases c.testBit b with
    | false =>
      have hne : decide ((onesAt cs b + if false = true then 1 else 0) = cs.length + 1) = false := decide_eq_false (by simp; omega)
      rw [hne, Bool.false_and]
    | true => simp

theorem testBit_foldl_or (cs : List Nat) (m b : Nat) :
    (cs.foldl Nat.lor m).testBit b = (m.testBit b || decide (onesAt cs b ≠ 0)) := by
  induction cs generalizing m with
  | nil => simp [onesAt]
  | cons c cs ih =>
    rw [List.foldl_cons, ih, onesAt_cons, show Nat.lor m c = m ||| c from rfl, Nat.testBit_or, Bool.or_assoc]
    cases c.testBit b with
    | false => rfl
    | true => simp

theorem testBit_foldl_xor (cs : List Nat) (m b : Nat) :
    (cs.foldl Nat.xor m).testBit b = (m.testBit b ^^ decide (onesAt cs b % 2 = 1)) := by
  induction cs generalizing m with
  | nil => simp [onesAt]
  | cons c cs ih =>
    rw [List.foldl_cons, ih, onesAt_cons, show Nat.xor m c = m ^^^ c from rfl, Nat.testBit_xor, Bool.xor_assoc]
    cases c.testBit b with
    | false => rw [Bool.false_xor]; rfl
    | true =>
      have hparity : decide ((onesAt cs b + 1) % 2 = 1) = !decide (onesAt cs b % 2 = 1) := by
        rw [← decide_not, decide_eq_decide]
        omega
      rw [Bool.true_xor, if_pos rfl, hparity]

/-- A combination that keeps the width of two codes keeps that of many. -/
theorem foldl_lt_two_pow {w : Nat} {op : Nat → Nat → Nat} (hop : ∀ x y, x < 2 ^ w → y < 2 ^ w → op x y < 2 ^ w) {cs : List Nat}
    (hcs : ∀ c ∈ cs, c < 2 ^ w) {m : Nat} (hm : m < 2 ^ w) : cs.foldl op m < 2 ^ w := by
  induction cs generalizing m with
  | nil => exact hm
  | cons c cs ih =>
    obtain ⟨hc, hrest⟩ := List.forall_mem_cons.mp hcs
    exact ih hrest (hop m c hm hc)

/-! ### The combinations of integer codes (R115) -/

theorem redInt_lt (t : Ty) (op : Nat) (sat : Bool) {cs : List Nat} (hcs : ∀ c ∈ cs, c < 2 ^ tyWidth t) :
    (redInt t op sat cs).1 < 2 ^ tyWidth t := by
  have hpos : 0 < 2 ^ tyWidth t := by positivity
  unfold redInt
  dsimp only
  split
  case h_1 => exact narrowInt_lt ..
  case h_2 => exact wrapInt_lt ..
  case h_3 => exact wrapInt_lt ..
  case h_4 => exact foldl_lt_two_pow (fun x _ _ hy => Nat.and_lt_two_pow x hy) hcs (Nat.sub_lt hpos one_pos)
  case h_5 => exact foldl_lt_two_pow (fun _ _ => Nat.or_lt_two_pow) hcs hpos
  case h_6 => exact foldl_lt_two_pow (fun _ _ => Nat.xor_lt_two_pow) hcs hpos

theorem redInt_add (t : Ty) (sat : Bool) (cs : List Nat) :
    redInt t 0 sat cs = narrowInt sat (tySigned t) (tyWidth t) (cs.map (intVal (tySigned t) (tyWidth t))).sum := by
  rw [List.sum_eq_foldl]
  rfl

theorem redCodes_int {x : XArgs} (ht : tyIsInt x.ty = true) (cs : List Nat) :
    redCodes x cs = redInt x.ty (x.imm.toNat % 8) x.sat cs := by
  rw [redCodes, BitVec.extractLsb'_toNat, Nat.shiftRight_zero]
  exact if_pos ht

theorem redCodes_float {x : XArgs} (ht : tyIsFloat x.ty = true) (cs : List Nat) :
    redCodes x cs = redFlt x.ty (x.imm.toNat % 8) x.rnd x.sat cs := by
  rw [redCodes, BitVec.extractLsb'_toNat, Nat.shiftRight_zero]
  exact if_neg (by rw [not_int_of_float ht]; decide)

end Sys2Proof.Machine
end

section
/-! PROOFS. What a reduction makes of floating-point codes: the exact sum encoded once, NaNs and infinities, and min and max from left
to right (R41-R43, R115). -/

open Host Sys2Proof Sys2Proof.Machine Sys2Proof.Claims

namespace Sys2Proof.Machine

/-! ### Sums of finite values (R41) -/

theorem isFinite_ofFrac (z : Bool) (n : ℤ) (d : Nat) : IsFinite (ofFrac z n d) := by
  by_cases h : n = 0
  · rw [h]
    exact ⟨rfl, rfl⟩
  · rw [ofFrac_ne_zero z d h]
    exact ⟨rfl, rfl⟩

theorem ofFrac_eq_zero_iff (z w : Bool) (n : ℤ) (d : Nat) : ofFrac z n d = .zero w ↔ n = 0 ∧ z = w := by
  by_cases h : n = 0
  · simp [h, ofFrac_zero]
  · simp [h, ofFrac_ne_zero]

/-- The sum of finite values, of which there is at least one: exact, and a zero is negative where all are, or for more than one under
.rm. -/
structure FiniteSum (mode : Rnd) (vs : List Val) (r : Val) : Prop where
  finite : IsFinite r
  ok : ValOk r
  value : valQ r = (vs.map valQ).sum
  sign : r = .zero true ↔ valQ r = 0 ∧ ((∀ v ∈ vs, v = .zero true) ∨ (mode = .rm ∧ 1 < vs.length))

theorem FiniteSum.one (mode : Rnd) {v : Val} (hfin : IsFinite v) (hok : ValOk v) : FiniteSum mode [v] v where
  finite := hfin
  ok := hok
  value := by simp
  sign := by
    refine ⟨fun h => ⟨by rw [h]; rfl, .inl (by simpa using h)⟩, fun ⟨_, h⟩ => ?_⟩
    simpa using h

theorem FiniteSum.add {mode : Rnd} {vs : List Val} {r v : Val} (h : FiniteSum mode vs r) (hne : vs ≠ []) (hfin : IsFinite v) (hok : ValOk v) :
    FiniteSum mode (vs ++ [v]) (sumVal mode r v).1 := by
  obtain ⟨n, d, hd, hq, hsum⟩ := sumVal_finite mode h.finite hfin h.ok hok
  have hvalue : valQ (sumVal mode r v).1 = valQ r + valQ v := by rw [hsum, valQ_ofFrac, hq]
  have hdQ : (d : ℚ) ≠ 0 := by exact_mod_cast hd.ne'
  have hn : valQ (sumVal mode r v).1 = 0 ↔ n = 0 := by rw [hvalue, ← hq, div_eq_zero_iff, or_iff_left hdQ, Int.cast_eq_zero]
  have hlen : 1 < (vs ++ [v]).length := by
    rw [List.length_append]
    exact Nat.lt_add_of_pos_left (List.length_pos_of_ne_nil hne)
  refine ⟨?_, ?_, ?_, ?_⟩
  · rw [hsum]
    exact isFinite_ofFrac ..
  · rw [hsum]
    exact valOk_ofFrac _ n hd
  · simp [hvalue, h.value]
  · have hiff : (sumVal mode r v).1 = .zero true ↔ valQ r + valQ v = 0 ∧ ((r = .zero true ∧ v = .zero true) ∨ mode = .rm) := by
      rw [← hvalue, hn, hsum, ofFrac_eq_zero_iff, zeroSumNeg_eq, Bool.or_eq_true, decide_eq_true_eq, decide_eq_true_eq]
    rw [hiff, hvalue]
    simp only [hlen, and_true, List.forall_mem_append, List.forall_mem_singleton]
    constructor
    · rintro ⟨hs, ⟨hr, hv⟩ | hrm⟩
      · obtain ⟨-, hall | ⟨hrm, -⟩⟩ := h.sign.mp hr
        · exact ⟨hs, .inl ⟨hall, hv⟩⟩
        · exact ⟨hs, .inr hrm⟩
      · exact ⟨hs, .inr hrm⟩
    · rintro ⟨hs, ⟨hall, rfl⟩ | hrm⟩
      · exact ⟨hs, .inl ⟨h.sign.mpr ⟨(add_zero _).symm.trans hs, .inl hall⟩, rfl⟩⟩
      · exact ⟨hs, .inr hrm⟩

/-- One step of a sum from left to right: a NaN stays. -/
def sumStep (mode : Rnd) (a : Val × Flags) (v : Val) : Val × Flags :=
  if valIsNan a.1 then a else ((sumVal mode a.1 v).1, a.2 ||| (sumVal mode a.1 v).2)

theorem sumStep_fst {mode : Rnd} {a : Val × Flags} (h : valIsNan a.1 = false) (v : Val) :
    (sumStep mode a v).1 = (sumVal mode a.1 v).1 := by
  rw [sumStep, h, if_neg (by decide)]

theorem finiteSum_foldl {mode : Rnd} {vs : List Val} (hfin : ∀ v ∈ vs, IsFinite v) (hok : ∀ v ∈ vs, ValOk v) :
    ∀ {done : List Val} {a : Val × Flags}, FiniteSum mode done a.1 → done ≠ [] →
      FiniteSum mode (done ++ vs) (vs.foldl (sumStep mode) a).1 := by
  induction vs with
  | nil =>
    intro done a h _
    simpa using h
  | cons v vs ih =>
    intro done a h hne
    obtain ⟨hv, hfin⟩ := List.forall_mem_cons.mp hfin
    obtain ⟨hvok, hok⟩ := List.forall_mem_cons.mp hok
    have hstep : FiniteSum mode (done ++ [v]) (sumStep mode a v).1 := by
      rw [sumStep_fst h.finite.1]
      exact h.add hne hv hvok
    simpa using ih hfin hok hstep (by simp)

theorem finiteSum_sumVals {mode : Rnd} {vs : List Val} (hne : vs ≠ []) (hfin : ∀ v ∈ vs, IsFinite v) (hok : ∀ v ∈ vs, ValOk v) :
    FiniteSum mode vs (sumVals mode vs).1 := by
  cases vs with
  | nil => exact absurd rfl hne
  | cons v vs =>
    obtain ⟨hv, hfin⟩ := List.forall_mem_cons.mp hfin
    obtain ⟨hvok, hok⟩ := List.forall_mem_cons.mp hok
    exact finiteSum_foldl hfin hok (a := (v, 0)) (.one mode hv hvok) (by simp)

/-- The code of a finite value is Encode of its rational. -/
theorem exactly_of_value {f : Fmt} (hf : FmtOk f) (mode : Rnd) (sat : Bool) {v : Val} (hfin : IsFinite v) (hok : ValOk v) {z : Bool}
    (hz : valQ v = 0 → (v = .zero true ↔ z = true)) : Exactly f mode sat (valQ v) z (encodeF f mode sat v).1 := by
  rcases isFinite_cases hfin with ⟨n, rfl⟩ | ⟨n, a, b, rfl⟩
  · have hn : n = z := by simpa using hz rfl
    rw [encodeF_zero hf, hn]
    exact ⟨fun _ => rfl, fun h => absurd rfl h⟩
  · exact exactly_fin hok.1 hok.2 rfl

/-! ### Sums with infinities of one sign (R41, R43) -/

/-- A finite value, or the infinity of a sign. -/
def OneSided (n : Bool) (v : Val) : Prop := v = .inf n ∨ IsFinite v

theorem oneSided_of {n : Bool} {v : Val} (hnan : valIsNan v = false) (hinf : v ≠ .inf (!n)) : OneSided n v := by
  cases v with
  | inf k =>
    refine .inl (congrArg Val.inf ?_)
    by_contra hk
    exact hinf (congrArg Val.inf (Bool.eq_not_of_ne hk))
  | zero => exact .inr ⟨rfl, rfl⟩
  | fin => exact .inr ⟨rfl, rfl⟩
  | dnan => exact absurd hnan (by decide)
  | nan => exact absurd hnan (by simp [valIsNan])

theorem OneSided.not_nan {n : Bool} {v : Val} (h : OneSided n v) : valIsNan v = false := by
  obtain rfl | h := h
  · rfl
  · exact h.1

theorem OneSided.add (mode : Rnd) {n : Bool} {a b : Val} (ha : OneSided n a) (hb : OneSided n b) : OneSided n (sumVal mode a b).1 ∧
    (a = .inf n ∨ b = .inf n → (sumVal mode a b).1 = .inf n) := by
  obtain rfl | ha := ha
  · have hsum : (sumVal mode (.inf n) b).1 = .inf n := by
      obtain rfl | hb := hb
      · simp [sumVal]
      · rcases isFinite_cases hb with ⟨_, rfl⟩ | ⟨_, _, _, rfl⟩ <;> rfl
    exact ⟨.inl hsum, fun _ => hsum⟩
  · obtain rfl | hb := hb
    · have hsum : (sumVal mode a (.inf n)).1 = .inf n := by
        rcases isFinite_cases ha with ⟨_, rfl⟩ | ⟨_, _, _, rfl⟩ <;> rfl
      exact ⟨.inl hsum, fun _ => hsum⟩
    · refine ⟨.inr ?_, ?_⟩
      · rcases isFinite_cases ha with ⟨_, rfl⟩ | ⟨_, _, _, rfl⟩ <;> rcases isFinite_cases hb with ⟨_, rfl⟩ | ⟨_, _, _, rfl⟩ <;>
          exact isFinite_ofFrac ..
      · rintro (rfl | rfl)
        · exact absurd ha.2 (by simp [valIsInf])
        · exact absurd hb.2 (by simp [valIsInf])

theorem foldl_sumStep_inf {mode : Rnd} {n : Bool} {vs : List Val} (hvs : ∀ v ∈ vs, OneSided n v) :
    ∀ {a : Val × Flags}, OneSided n a.1 → (a.1 = .inf n ∨ .inf n ∈ vs) → (vs.foldl (sumStep mode) a).1 = .inf n := by
  induction vs with
  | nil =>
    intro a _ hinf
    simpa using hinf
  | cons v vs ih =>
    intro a ha hinf
    obtain ⟨hv, hvs⟩ := List.forall_mem_cons.mp hvs
    obtain ⟨hside, hsum⟩ := OneSided.add mode ha hv
    rw [← sumStep_fst ha.not_nan] at hside hsum
    refine ih hvs hside ?_
    rcases hinf with hinf | hinf
    · exact .inl (hsum (.inl hinf))
    · exact (List.mem_cons.mp hinf).imp (fun h => hsum (.inr h.symm)) id

theorem sumVals_inf {mode : Rnd} {n : Bool} {vs : List Val} (hvs : ∀ v ∈ vs, OneSided n v) (hinf : .inf n ∈ vs) :
    (sumVals mode vs).1 = .inf n := by
  cases vs with
  | nil => exact absurd hinf (by simp)
  | cons v vs =>
    obtain ⟨hv, hvs⟩ := List.forall_mem_cons.mp hvs
    exact foldl_sumStep_inf hvs (a := (v, 0)) hv ((List.mem_cons.mp hinf).imp Eq.symm id)

/-! ### The floating-point sum (R41, R43, R115) -/

/-- What a floating-point reduction by add encodes. -/
def sumResult (mode : Rnd) (vs : List Val) : Val × Flags :=
  match firstNan vs with
  | some v => (v, 0)
  | none => if bothInf vs then (.dnan, flNV) else sumVals mode vs

theorem redFlt_add (t : Ty) (r : Rnd) (sat : Bool) (cs : List Nat) : redFlt t 0 r sat cs =
    ((encodeF (tyFmt t) (modeOf r) sat (sumResult (modeOf r) (cs.map (decodeF (tyFmt t)))).1).1,
      snanFlag (cs.map (decodeF (tyFmt t))) ||| (sumResult (modeOf r) (cs.map (decodeF (tyFmt t)))).2 |||
        (encodeF (tyFmt t) (modeOf r) sat (sumResult (modeOf r) (cs.map (decodeF (tyFmt t)))).1).2) := rfl

theorem firstNan_append {pre : List Val} (hpre : ∀ v ∈ pre, valIsNan v = false) {v : Val} (hv : valIsNan v = true) (post : List Val) :
    firstNan (pre ++ v :: post) = some v := by
  induction pre with
  | nil => exact firstNan_left post hv
  | cons u pre ih =>
    obtain ⟨hu, hpre⟩ := List.forall_mem_cons.mp hpre
    rw [List.cons_append, firstNan, hu, if_neg (by decide)]
    exact ih hpre

theorem bothInf_iff (vs : List Val) : bothInf vs = true ↔ .inf false ∈ vs ∧ .inf true ∈ vs := by
  simp [bothInf]

theorem bothInf_of_mem {vs : List Val} {n : Bool} (hn : .inf n ∈ vs) (hopp : .inf (!n) ∈ vs) : bothInf vs = true := by
  rw [bothInf_iff]
  cases n with
  | false => exact ⟨hn, hopp⟩
  | true => exact ⟨hopp, hn⟩

theorem bothInf_of_not_mem {vs : List Val} {n : Bool} (hn : .inf n ∉ vs) : bothInf vs = false := by
  rw [← Bool.not_eq_true, bothInf_iff]
  rintro ⟨hfalse, htrue⟩
  cases n with
  | false => exact hn hfalse
  | true => exact hn htrue

theorem sumResult_of_oneSided {mode : Rnd} {vs : List Val} (hnan : ∀ v ∈ vs, valIsNan v = false) {n : Bool} (hn : .inf n ∉ vs) :
    sumResult mode vs = sumVals mode vs := by
  rw [sumResult, firstNan_none hnan, bothInf_of_not_mem hn]
  rfl

theorem sumResult_of_both {mode : Rnd} {vs : List Val} (hnan : ∀ v ∈ vs, valIsNan v = false) {n : Bool} (hn : .inf n ∈ vs)
    (hopp : .inf (!n) ∈ vs) : sumResult mode vs = (.dnan, flNV) := by
  rw [sumResult, firstNan_none hnan, bothInf_of_mem hn hopp]
  rfl

section Sum
variable {t : Ty} (ht : tyIsFloat t = true) (r : Rnd) (sat : Bool) {cs : List Nat}
include ht

/-- The first NaN is the result. -/
theorem redFlt_add_nan {pre post : List Nat} {c : Nat} (hc : c < 2 ^ tyWidth t) (hpre : ∀ d ∈ pre, valIsNan (decodeF (tyFmt t) d) = false)
    (hnan : valIsNan (decodeF (tyFmt t) c) = true) : (redFlt t 0 r sat (pre ++ c :: post)).1 = c := by
  have hsum : sumResult (modeOf r) ((pre ++ c :: post).map (decodeF (tyFmt t))) = (decodeF (tyFmt t) c, 0) := by
    rw [List.map_append, List.map_cons, sumResult, firstNan_append (List.forall_mem_map.mpr hpre) hnan]
  rw [tyWidth_of_float ht] at hc
  rw [redFlt_add, hsum, encodeF_decodeF_nan (fmtOk (tyFmt_mem ht)) (modeOf r) sat hc hnan]

/-- Finite codes give Encode of their exact sum. -/
theorem redFlt_add_finite (hfin : ∀ c ∈ cs, IsFinite (decodeF (tyFmt t) c)) :
    Exactly (tyFmt t) (modeOf r) sat (cs.map (fun c => valQ (decodeF (tyFmt t) c))).sum
      (decide (cs ≠ [] ∧ ((∀ c ∈ cs, decodeF (tyFmt t) c = .zero true) ∨ (modeOf r = .rm ∧ 1 < cs.length))))
      (redFlt t 0 r sat cs).1 := by
  have hf : FmtOk (tyFmt t) := fmtOk (tyFmt_mem ht)
  have hvs : ∀ v ∈ cs.map (decodeF (tyFmt t)), IsFinite v := List.forall_mem_map.mpr hfin
  have hsum : sumResult (modeOf r) (cs.map (decodeF (tyFmt t))) = sumVals (modeOf r) (cs.map (decodeF (tyFmt t))) := by
    refine sumResult_of_oneSided (fun v hv => (hvs v hv).1) (n := true) fun hinf => ?_
    exact absurd (hvs _ hinf).2 (by decide)
  rw [redFlt_add, hsum]
  by_cases hnil : cs = []
  · subst hnil
    exact exactly_of_value hf (modeOf r) sat (v := .zero false) ⟨rfl, rfl⟩ trivial (by simp)
  · have hfinite := finiteSum_sumVals (mode := modeOf r) (by simpa using hnil) hvs (List.forall_mem_map.mpr fun c _ => valOk_decodeF hf c)
    have hvalue : valQ (sumVals (modeOf r) (cs.map (decodeF (tyFmt t)))).1 = (cs.map (fun c => valQ (decodeF (tyFmt t) c))).sum := by
      rw [hfinite.value, List.map_map]
      rfl
    rw [← hvalue]
    refine exactly_of_value hf (modeOf r) sat hfinite.finite hfinite.ok fun hzero => ?_
    rw [hfinite.sign, decide_eq_true_eq, List.length_map, List.forall_mem_map]
    simp only [hzero, hnil, true_and, ne_eq, not_false_eq_true]

omit ht in
/-- Infinities of both signs give the default NaN. -/
theorem redFlt_add_both (hnan : ∀ c ∈ cs, valIsNan (decodeF (tyFmt t) c) = false) {n : Bool} (hn : ∃ c ∈ cs, decodeF (tyFmt t) c = .inf n)
    (hopp : ∃ c ∈ cs, decodeF (tyFmt t) c = .inf (!n)) :
    (redFlt t 0 r sat cs).1 = defaultNan (tyFmt t) ∧ (redFlt t 0 r sat cs).2.getLsbD 0 = true := by
  have hsum := sumResult_of_both (mode := modeOf r) (List.forall_mem_map.mpr hnan) (List.mem_map.mpr hn) (List.mem_map.mpr hopp)
  rw [redFlt_add, hsum]
  exact ⟨rfl, by simp [flNV]⟩

/-- Infinities of one sign give that infinity. -/
theorem redFlt_add_inf (hcs : ∀ c ∈ cs, c < 2 ^ tyWidth t) (hnan : ∀ c ∈ cs, valIsNan (decodeF (tyFmt t) c) = false) {n : Bool}
    (hn : ∃ c ∈ cs, decodeF (tyFmt t) c = .inf n) (hopp : ∀ c ∈ cs, decodeF (tyFmt t) c ≠ .inf (!n)) :
    decodeF (tyFmt t) (redFlt t 0 r false cs).1 = .inf n := by
  obtain ⟨c, hc, hcn⟩ := hn
  have hside : ∀ v ∈ cs.map (decodeF (tyFmt t)), OneSided n v := List.forall_mem_map.mpr fun d hd => oneSided_of (hnan d hd) (hopp d hd)
  have hnone : .inf (!n) ∉ cs.map (decodeF (tyFmt t)) := by
    rintro hmem
    obtain ⟨d, hd, hdn⟩ := List.mem_map.mp hmem
    exact hopp d hd hdn
  have hsum : (sumResult (modeOf r) (cs.map (decodeF (tyFmt t)))).1 = decodeF (tyFmt t) c := by
    rw [sumResult_of_oneSided (List.forall_mem_map.mpr hnan) hnone, hcn]
    exact sumVals_inf hside (List.mem_map.mpr ⟨c, hc, hcn⟩)
  have hlt := hcs c hc
  rw [tyWidth_of_float ht] at hlt
  rw [redFlt_add, hsum, encodeF_decodeF (fmtOk (tyFmt_mem ht)) (modeOf r) hlt, hcn]

end Sum

/-! ### min and max from left to right (R43, R115) -/

/-- The identity of min and max is the end of the range: an infinity, or the largest magnitude. -/
theorem redEnd_eq {t : Ty} (ht : tyIsFloat t = true) (mx : Bool) : valNeg (decodeF (tyFmt t) (redEnd t mx)) = mx ∧
    ((tyFmt t).inf = true → valIsInf (decodeF (tyFmt t) (redEnd t mx)) = true) ∧
    ((tyFmt t).inf = false → redEnd t mx % 2 ^ ((tyFmt t).eb + (tyFmt t).m) = (tyFmt t).max) := by
  have hf : FmtOk (tyFmt t) := fmtOk (tyFmt_mem ht)
  unfold redEnd
  dsimp only
  generalize tyFmt t = f at hf ⊢
  rw [infCode, fmtSign_eq hf]
  cases hinf : f.inf with
  | false =>
    rw [if_neg (by decide), decodeF_add_sign hf mx le_rfl, valNeg_numberOf]
    exact ⟨rfl, fun h => absurd h (by decide), fun _ => codeMag_add mx hf.max_lt⟩
  | true =>
    have hmax : f.max + 1 = (2 ^ f.eb - 1) * 2 ^ f.m := by
      rcases hf.top with ⟨-, -, hmax⟩ | ⟨-, hno, -⟩ | ⟨-, hno, -⟩
      · exact hmax
      · exact absurd (hinf.symm.trans hno) (by decide)
      · exact absurd (hinf.symm.trans hno) (by decide)
    have hmag : codeMag f ((2 ^ f.eb - 1) * 2 ^ f.m + signBit f mx) = (2 ^ f.eb - 1) * 2 ^ f.m := codeMag_add mx topCode_lt
    have hneg : codeNeg f ((2 ^ f.eb - 1) * 2 ^ f.m + signBit f mx) = mx := codeNeg_add mx topCode_lt
    have hcase := decoded hf ((2 ^ f.eb - 1) * 2 ^ f.m + signBit f mx)
    rw [if_pos rfl]
    generalize decodeF f ((2 ^ f.eb - 1) * 2 ^ f.m + signBit f mx) = v at hcase ⊢
    cases hcase with
    | number h =>
      rw [hmag] at h
      omega
    | inf => exact ⟨hneg, fun _ => rfl, fun h => absurd h (by decide)⟩
    | nan hbig mant sig hk h hpos hlt =>
      rw [hmag] at h
      omega

section Pick
variable (t : Ty) {op : Nat} (hop : op ≠ 0) (r : Rnd) (sat : Bool)
include hop

theorem redFlt_pick_nil : redFlt t op r sat [] = (redEnd t (op == 2), 0) := if_neg hop

theorem redFlt_pick_cons (c : Nat) (cs : List Nat) : redFlt t op r sat (c :: cs) =
    (cs.foldl (fun a x => (fminCode [] t (op == 2) a x).1) c, snanFlag ((c :: cs).map (decodeF (tyFmt t)))) := if_neg hop

end Pick

theorem tyCount_pos (t : Ty) : 0 < tyCount t := by cases t <;> decide

/-- A code of a type is element 0 of its own word. -/
theorem elemN_ofNat {t : Ty} {c : Nat} (hc : c < 2 ^ tyWidth t) : elemN t (BitVec.ofNat 64 c) 0 = c := by
  have hle : tyWidth t ≤ 64 := (Nat.le_mul_of_pos_right _ (tyCount_pos t)).trans (width_mul_count_le t)
  have hc64 : c < 2 ^ 64 := hc.trans_le (Nat.pow_le_pow_right (by decide) hle)
  rw [elemN, elemOf, elemW, BitVec.toNat_ofNat, Nat.mod_eq_of_lt hc64, Nat.mul_zero, Nat.pow_zero, Nat.div_one, Nat.mod_eq_of_lt hc]

/-- The code that min and max pick is an element of fmin and fmax. -/
theorem elemN_fminOp_ofNat {t : Ty} (ht : tyIsFloat t = true) (mx : Bool) {c d : Nat} (hc : c < 2 ^ tyWidth t) (hd : d < 2 ^ tyWidth t) :
    elemN t (fminOp [] t mx (BitVec.ofNat 64 c) (BitVec.ofNat 64 d)).1 0 = (fminCode [] t mx c d).1 := by
  have hlt : (fminCode [] t mx c d).1 < 2 ^ tyWidth t := by
    rw [fminCode, if_neg (not_c4_of_float ht)]
    dsimp only
    split
    · exact hc
    · exact hd
  rw [fminOp, elemN_eachElem t _ (tyCount_pos t), elemN_ofNat hc, elemN_ofNat hd, Nat.mod_eq_of_lt hlt]

/-- A signalling NaN raises NV. -/
theorem redFlt_snan (t : Ty) (op : Nat) (r : Rnd) (sat : Bool) {cs : List Nat}
    (h : ∃ c ∈ cs, valIsSnan (decodeF (tyFmt t) c) = true) : (redFlt t op r sat cs).2.getLsbD 0 = true := by
  obtain ⟨c, hc, hsnan⟩ := h
  have hflag : (snanFlag (cs.map (decodeF (tyFmt t)))).getLsbD 0 = true := by
    rw [snanFlag_of_mem (List.mem_map_of_mem hc) hsnan]
    rfl
  by_cases hop : op = 0
  · rw [hop, redFlt_add, BitVec.getLsbD_or, BitVec.getLsbD_or, hflag]
    rfl
  · cases cs with
    | nil => exact absurd hc (by simp)
    | cons d ds =>
      rw [redFlt_pick_cons t hop]
      exact hflag

/-! ### The combinations (R115) -/

theorem combinationsOfCodes : CombinationsOfCodes := by
  intro x cs hcs w i lo hi r op ones
  refine ⟨fun ht => ?int, fun ht => ?float⟩
  case int =>
    have hw : 0 < w := tyWidth_pos x.ty
    have hr : r = redInt x.ty op x.sat cs := redCodes_int ht cs
    clear_value r op
    subst hr
    refine ⟨redInt_lt x.ty op x.sat hcs, ?sum, ?min, ?max, fun b hb => ⟨?and, ?or, ?xor⟩⟩
    case sum =>
      rintro rfl
      rw [redInt_add]
      refine ⟨?_, narrowInt_snd ..⟩
      rw [narrowInt_eq _ _ hw, wrapInt_cast]
      rfl
    case min =>
      rintro rfl
      obtain ⟨hle, hnil, hmem⟩ := least_code (signed := tySigned x.ty) hw hcs
      exact ⟨hle, hnil, hmem, rfl⟩
    case max =>
      rintro rfl
      obtain ⟨hle, hnil, hmem⟩ := greatest_code (signed := tySigned x.ty) hw hcs
      exact ⟨hle, hnil, hmem, rfl⟩
    case and =>
      rintro rfl
      refine (testBit_foldl_and cs (2 ^ w - 1) b).trans ?_
      rw [Nat.testBit_two_pow_sub_one, decide_eq_true hb, Bool.true_and]
      rfl
    case or =>
      rintro rfl
      refine (testBit_foldl_or cs 0 b).trans ?_
      rw [Nat.zero_testBit, Bool.false_or]
      rfl
    case xor =>
      rintro rfl
      refine (testBit_foldl_xor cs 0 b).trans ?_
      rw [Nat.zero_testBit, Bool.false_xor]
      rfl
  case float =>
    intro f m v zeroNeg
    have hr : r = redFlt x.ty op x.rnd x.sat cs := redCodes_float ht cs
    refine ⟨fun hs => hr ▸ redFlt_snan x.ty op x.rnd x.sat hs, fun hop => ?sum, fun hop => ?pick⟩
    case sum =>
      rw [hop] at hr
      rw [hr]
      refine ⟨fun pre c post hsplit hpre hnan => ?_, fun hfin => redFlt_add_finite ht x.rnd x.sat hfin,
        fun hnan n hn => ⟨fun hopp => redFlt_add_both x.rnd x.sat hnan hn hopp, fun hopp hsat => ?_⟩⟩
      · rw [hsplit]
        exact redFlt_add_nan ht x.rnd x.sat (hcs c (by simp [hsplit])) hpre hnan
      · rw [hsat]
        exact redFlt_add_inf ht x.rnd hcs hnan hn hopp
    case pick =>
      have hne : op ≠ 0 := by omega
      have hmx : (op == 2) = decide (op = 2) := rfl
      refine ⟨fun hnil => ?_, fun c hone => ?_, fun c d rest hmany => ?_⟩
      · rw [hr, hnil, redFlt_pick_nil x.ty hne, hmx]
        exact redEnd_eq ht _
      · rw [hr, hone, redFlt_pick_cons x.ty hne]
        rfl
      · have hc : c < 2 ^ w := hcs c (by simp [hmany])
        have hd : d < 2 ^ w := hcs d (by simp [hmany])
        rw [hr, hmany, redFlt_pick_cons x.ty hne, elemN_fminOp_ofNat ht _ hc hd, redCodes_float ht, redFlt_pick_cons x.ty hne]
        rfl

/-- Settles O36: ballots and votes count the active lanes with a predicate, scans and reductions combine their codes in flat order,
match gathers the lanes of equal code. -/
theorem crossLaneCombinations : Obligations.CrossLaneCombinations := ⟨ballotsAndVotes, scansReductionsMatches, combinationsOfCodes⟩

end Sys2Proof.Machine
end

section
/-! PROOFS. Control instructions: what moves the lanes of a run, what blocks it at its instruction, and what traps it, one rule for
each (R77, R121, R288), and from them the transfers and the traps raised on purpose (R124, R126-R132, R139, R140). -/

open Host Sys2Proof Sys2Proof.Machine Sys2Proof.Claims

namespace Sys2Proof.Machine

/-! ### The group that issues -/

theorem groupAt_of_find {s : State} {gid : Nat} {g : Group} (h : mapFind s.groups gid = some g) : groupAt s gid = g := by
  simp [groupAt, mapGet, h]

@[simp] theorem groupAt_putGroup (s : State) (gid : Nat) (g : Group) : groupAt (putGroup s gid g) gid = g :=
  mapGet_put_self ({} : Group) s.groups gid g

@[simp] theorem groupAt_unfocus (s : State) (gid : Nat) : groupAt (unfocus s) gid = groupAt s gid := rfl

@[simp] theorem putGroup_putGroup (s : State) (gid : Nat) (g h : Group) :
    putGroup (putGroup s gid g) gid h = putGroup s gid h := by
  simp [putGroup, mapPut_put]

theorem putGroup_unfocus (s : State) (gid : Nat) (g : Group) : putGroup (unfocus s) gid g = unfocus (putGroup s gid g) := rfl

/-- A change of the group that the state has just been given. -/
theorem updGroup_unfocus_putGroup (s : State) (gid : Nat) (g : Group) (f : Group → Group) :
    updGroup (unfocus (putGroup s gid g)) gid f = unfocus (putGroup s gid (f g)) := by
  rw [updGroup, groupAt_unfocus, groupAt_putGroup, putGroup_unfocus, putGroup_putGroup]

section Outcomes
variable {s : State} {f : Focus} {g : Group}

/-- A control instruction that changes only counters moves the lanes of its run. -/
theorem doneAt_moves {G : Group} {go : Nat → Pc} (hG : G = { g with pcs := G.pcs })
    (hpc : ∀ l, l < 32 → pcGet G l = if f.lanes.getLsbD l = true then go l else pcGet g l) :
    ∃ t, doneAt f G s = .next t ∧ Moves s f g go t := by
  refine ⟨_, rfl, _, rfl, ?_, hpc⟩
  rw [hG]
  rfl

/-- All lanes of the run go to one counter. -/
theorem doneAt_pcSet_moves (pc : Pc) : ∃ t, doneAt f (pcSet g f.lanes pc) s = .next t ∧ Moves s f g (fun _ => pc) t :=
  doneAt_moves rfl fun l hl => pcGet_pcSet g f.lanes pc l hl

/-- A wait blocks the run at its instruction (R121). -/
theorem waits_blocks (why : Why) (hi : Issues s f g) : Blocks s f g why (waits f why s) := by
  rw [Blocks, waits, waitOn, updGroup, groupAt_of_find hi.2]
  rfl

/-- A cause of a run that nothing holds up is taken (R77, R288). -/
theorem trap_traps (code info : Nat) (hi : Issues s f g) (hc : Clear f g) : Traps s f code info (trap f code info s) :=
  trap_taken code info hi.2 hc.1 hc.2

end Outcomes

/-! ### Relative transfers (R65, R126) -/

/-- Adding the sign-extended word count times four is adding it as an integer. -/
theorem relTarget_eq_target (pc : Pc) (imm : BitVec 32) : relTarget pc imm = target pc imm := by
  have hpc : BitVec.ofInt 56 (pc.toNat : Int) = pc := by simp
  have hfour : BitVec.twoPow 56 2 = BitVec.ofInt 56 4 := rfl
  rw [relTarget, target, BitVec.ofInt_add, BitVec.ofInt_mul, hpc, BitVec.signExtend, BitVec.shiftLeft_eq_mul_twoPow, hfour,
    BitVec.mul_comm]

section Branches
variable {s : State} {f : Focus} {g : Group}

theorem bra_moves (x : BraArgs) (hi : Issues s f g) :
    ∃ t, exec (.bra x) s = .next t ∧ Moves s f g (fun _ => target f.pc x.imm) t := by
  rw [exec_bra, execBra, issuer_focus _ hi.1 hi.2, relTarget_eq_target]
  exact doneAt_pcSet_moves _

/-- The lanes of the run go on, and then those that the predicate takes go to the target. -/
theorem brp_moves (x : BrpArgs) (hi : Issues s f g) :
    ∃ t, exec (.brp x) s = .next t ∧
      Moves s f g (fun l => if pGet (seen f g) x.p.toNat l ≠ x.neg then target f.pc x.imm else f.npc) t := by
  rw [exec_brp, execBrp, issuer_focus _ hi.1 hi.2, relTarget_eq_target]
  refine doneAt_moves rfl fun l hl => ?_
  rw [pcGet_pcSet _ _ _ _ hl, pcGet_pcSet _ _ _ _ hl, getLsbD_maskWhere]
  cases f.lanes.getLsbD l <;> simp

theorem call_uniform_moves {x : CallArgs} (hi : Issues s f g) (hu : x.u = true) :
    ∃ t, exec (.call x) s = .next t ∧ Moves s f (sSet g x.d.toNat (f.npc.zeroExtend 64)) (fun _ => target f.pc x.imm) t := by
  rw [exec_call, execCall, issuer_focus _ hi.1 hi.2, relTarget_eq_target]
  simp only [hu, if_true]
  exact doneAt_pcSet_moves _

/-- call with a vector link: every lane of the run receives next(PC) in its register. -/
theorem call_vector_moves {x : CallArgs} (hi : Issues s f g) (hu : x.u = false) (hin : InAllot (seen f g) [x.d]) :
    ∃ t, exec (.call x) s = .next t ∧
      ∃ g1, (∀ j l, l < 32 → vGet g1 j l =
          if j = vReg (seen f g) x.d ∧ f.lanes.getLsbD l = true then f.npc.zeroExtend 64 else vGet g j l) ∧
        g1 = { g with vregs := g1.vregs } ∧ Moves s f g1 (fun _ => target f.pc x.imm) t := by
  rw [exec_call, execCall, issuer_focus _ hi.1 hi.2, relTarget_eq_target]
  simp only [hu, Bool.false_eq_true, if_false]
  rw [withRegs_inside f g _ s _ hin]
  obtain ⟨t, ht, hmoves⟩ := doneAt_pcSet_moves (s := s) (f := f) (g := writeLanes g (vReg (seen f g) x.d)
    ((lanesOf f.lanes).map (fun l => (l, f.npc.zeroExtend 64)))) (target f.pc x.imm)
  refine ⟨t, ht, _, fun j l hl => ?_, writeLanes_rest .., hmoves⟩
  rw [vGet_writeLanes_fun _ _ _ _ _ _ (fun a ha => (mem_lanesOf.mp ha).1) hl (lanesOf_nodup _)]
  simp only [mem_lanesOf, hl, true_and]

theorem branchesMove : BranchesMove := by
  intro s f g hi
  refine ⟨fun x => bra_moves x hi, fun x => brp_moves x hi, fun x => call_uniform_moves hi, fun x => call_vector_moves hi,
    fun x => ⟨?nop, ?yield⟩⟩
  case nop =>
    rw [exec_nop, execNop, goOn, issuer_focus _ hi.1 hi.2]
    exact doneAt_pcSet_moves _
  case yield =>
    rw [exec_yield, execYield, issuer_focus _ hi.1 hi.2]
    exact doneAt_pcSet_moves _

end Branches

/-! ### Transfers through a register (R124, R128) -/

/-- The word that a transfer through a register reads in a lane. -/
def jumpWord (x : R3L) (v : Group) (l : Nat) : Word := if x.b.getLsbD 0 = true then sGet v x.a.toNat else readV v x.a l

theorem jumpTarget_eq (x : R3L) (v : Group) (l : Nat) : jumpTarget x v l = (jumpWord x v l).setWidth 56 := by
  simp only [jumpTarget, jumpWord, readReg]
  cases x.b.getLsbD 0 <;> rfl

/-- Bits 1:0 of a target are the remainder of its word by four. -/
theorem low_bits_setWidth (w : Word) : (w.setWidth 56).extractLsb' 0 2 = 0 ↔ w.toNat % 4 = 0 := by
  rw [← BitVec.toNat_inj, BitVec.extractLsb'_toNat, BitVec.toNat_setWidth, Nat.shiftRight_zero,
    Nat.mod_mod_of_dvd w.toNat (by decide : 2 ^ 2 ∣ 2 ^ 56)]
  rfl

theorem any_misaligned (x : R3L) (v : Group) (m : LaneMask) :
    (lanesOf m).any (fun l => (jumpTarget x v l).extractLsb' 0 2 != 0) = true ↔
      ∃ l, l < 32 ∧ m.getLsbD l = true ∧ (jumpWord x v l).toNat % 4 ≠ 0 := by
  simp only [List.any_eq_true, mem_lanesOf, bne_iff_ne, jumpTarget_eq, ne_eq, low_bits_setWidth, and_assoc]

/-- Lanes moved one after another, each to its own counter. -/
theorem foldl_pcSet_rest (dest : Nat → Pc) (ls : List Nat) (g : Group) :
    ls.foldl (fun g l => pcSet g (laneBit l) (dest l)) g =
      { g with pcs := (ls.foldl (fun g l => pcSet g (laneBit l) (dest l)) g).pcs } := by
  induction ls generalizing g with
  | nil => rfl
  | cons a ls ih => exact ih (pcSet g (laneBit a) (dest a))

theorem pcGet_foldl_pcSet (dest : Nat → Pc) {ls : List Nat} (hls : ∀ a ∈ ls, a < 32) (g : Group) {l : Nat} (hl : l < 32) :
    pcGet (ls.foldl (fun g a => pcSet g (laneBit a) (dest a)) g) l = if l ∈ ls then dest l else pcGet g l := by
  induction ls generalizing g with
  | nil => rfl
  | cons a ls ih =>
    obtain ⟨ha, hls⟩ := List.forall_mem_cons.mp hls
    rw [List.foldl_cons, ih hls, pcGet_pcSet _ _ _ _ hl, getLsbD_laneBit a l ha]
    by_cases hla : l = a <;> simp [hla]

section Jumps
variable {x : R3L} {s : State} {f : Focus} {g : Group}

/-- A transfer whose register lies in the allotment checks its targets and moves the lanes. -/
theorem jumpOp_inside (hi : Issues s f g) (hin : x.b.getLsbD 0 = false → InAllot (seen f g) [x.a]) :
    jumpOp x s =
      if (lanesOf f.lanes).any (fun l => (jumpTarget x (seen f g) l).extractLsb' 0 2 != 0) then trap f 0x07 0 s
      else doneAt f ((lanesOf f.lanes).foldl (fun h l => pcSet h (laneBit l) (jumpTarget x (seen f g) l)) g) s := by
  have hns : InAllot (seen f g) (if x.b.getLsbD 0 then [] else [x.a]) := by
    cases hb : x.b.getLsbD 0 with
    | true => exact fun n hn => absurd hn List.not_mem_nil
    | false => exact hin hb
  exact (issuer_focus _ hi.1 hi.2).trans (withRegs_inside f g _ s _ hns)

theorem jumpOp_moves (hi : Issues s f g) (hin : x.b.getLsbD 0 = false → InAllot (seen f g) [x.a])
    (hal : ∀ l, l < 32 → f.lanes.getLsbD l = true → (jumpWord x (seen f g) l).toNat % 4 = 0) :
    ∃ t, jumpOp x s = .next t ∧ Moves s f g (fun l => (jumpWord x (seen f g) l).setWidth 56) t := by
  have hnone : ¬ (lanesOf f.lanes).any (fun l => (jumpTarget x (seen f g) l).extractLsb' 0 2 != 0) = true := by
    rw [any_misaligned]
    rintro ⟨l, hl, hlane, hbad⟩
    exact hbad (hal l hl hlane)
  rw [jumpOp_inside hi hin, if_neg hnone]
  refine doneAt_moves (foldl_pcSet_rest (jumpTarget x (seen f g)) _ g) fun l hl => ?_
  rw [pcGet_foldl_pcSet _ (fun a ha => (mem_lanesOf.mp ha).1) g hl, jumpTarget_eq]
  simp only [mem_lanesOf, hl, true_and]

theorem jumpOp_traps (hi : Issues s f g) (hin : x.b.getLsbD 0 = false → InAllot (seen f g) [x.a]) (hc : Clear f g)
    (hbad : ∃ l, l < 32 ∧ f.lanes.getLsbD l = true ∧ (jumpWord x (seen f g) l).toNat % 4 ≠ 0) :
    Traps s f 0x07 0 (jumpOp x s) := by
  rw [jumpOp_inside hi hin, if_pos ((any_misaligned x _ _).mpr hbad)]
  exact trap_traps 0x07 0 hi hc

end Jumps

theorem registerJumps : RegisterJumps := by
  intro x s f g hi hin dest i hmem
  have hexec : exec i s = jumpOp x s := by
    fin_cases hmem <;> rfl
  rw [hexec]
  exact ⟨jumpOp_moves hi hin, fun hc => jumpOp_traps hi hin hc⟩

/-- Settles O10: the branches give all lanes of the run their counters at once, a register jump gives each lane its own once the
targets are checked. -/
theorem branchesAndJumpsMove : Obligations.BranchesAndJumpsMove := ⟨branchesMove, registerJumps⟩

/-! ### Traps raised on purpose (R139, R140) -/

theorem trapNext_taken {s : State} {f : Focus} {g : Group} (code info : Nat) (hi : Issues s f g) (hc : Clear f g)
    (hm : hmode g = false) : trapNext f code info false s =
      .next (unfocus (takeTrap (clearSkip f (putGroup s f.gid (pcSet g f.lanes f.npc))) f.gid f.lanes code info
        (epcWord f.npc none))) := by
  obtain ⟨hquiet, hpends⟩ := hc
  have hpends' : pendsOf (pcSet g f.lanes f.npc) f.lanes = [] := hpends
  simp [trapNext, trapAt, groupAt_of_find hi.2, hquiet, hpends, hpends', hm]

/-- Settles O17: brk is a trap at its own counter, trap one at the next, where the counters then stand. -/
theorem trapAndBrkTrap : Obligations.TrapAndBrkTrap := by
  intro x s f g hi hc hm
  have himm : (x.imm.extractLsb' 0 8).toNat = x.imm.toNat % 256 := by simp
  constructor
  · rw [exec_brk, execBrk, issuer_focus _ hi.1 hi.2]
    exact trap_traps 0x11 x.imm.toNat hi hc
  · rw [exec_trap, execTrap, issuer_focus _ hi.1 hi.2, himm]
    exact trapNext_taken 0x10 _ hi hc hm

end Sys2Proof.Machine
end

section
/-! PROOFS. The register window and the start of a repeat (R73, R75, R133, R283): what a rep finds at the instruction after it decides
whether its run repeats, waits or traps. -/

open Host Sys2Proof Sys2Proof.Machine Sys2Proof.Claims

namespace Sys2Proof.Machine

/-! ### win (R133) -/

theorem winSetsWindow : WinSetsWindow := by
  intro x s f g hi
  have hexec : exec (.win x) s = if g.rep.active then waits f .repEnd s
      else if g.allot ≤ x.imm.toNat then trap f 0x06 x.imm.toNat s
      else doneAt f (pcSet { g with winbase := x.imm.setWidth 9 } f.lanes f.npc) s :=
    (exec_win x s).trans (issuer_focus _ hi.1 hi.2)
  refine ⟨fun hrep => ⟨fun hin => ?inside, fun hout hc => ?outside⟩, fun hrep => ?repeating⟩
  case inside =>
    simp only [hexec, hrep, Bool.false_eq_true, if_false, Nat.not_le.mpr hin]
    exact doneAt_pcSet_moves _
  case outside =>
    simp only [hexec, hrep, Bool.false_eq_true, if_false, hout, if_true]
    exact trap_traps 0x06 _ hi hc
  case repeating =>
    simp only [hexec, hrep, if_true]
    exact waits_blocks .repEnd hi

/-! ### The checks of a rep (R73, R75) -/

/-- A field of an instruction word as a number. -/
theorem fD_toNat (w : IWord) : (Dec.fD w).toNat = w.toNat / 2 ^ 18 % 128 := by
  simp [Dec.fD, Nat.shiftRight_eq_div_pow]
theorem fA_toNat (w : IWord) : (Dec.fA w).toNat = w.toNat / 2 ^ 11 % 128 := by
  simp [Dec.fA, Nat.shiftRight_eq_div_pow]
theorem fB_toNat (w : IWord) : (Dec.fB w).toNat = w.toNat / 2 ^ 4 % 128 := by
  simp [Dec.fB, Nat.shiftRight_eq_div_pow]

/-- A step on a field that is no register, or a register past 127. -/
theorem repMisuse_iff (x : RepArgs) (w : IWord) (i : Instr) : repMisuse x w i = true ↔
    (x.sd ≠ 0 ∧ (stepFields i).1 = false) ∨ (x.sa ≠ 0 ∧ (stepFields i).2.1 = false) ∨
      (x.sb ≠ 0 ∧ (stepFields i).2.2 = false) ∨
      127 < w.toNat / 2 ^ 18 % 128 + x.cnt.toNat * repStep x.sd ∨
      127 < w.toNat / 2 ^ 11 % 128 + x.cnt.toNat * repStep x.sa ∨
      127 < w.toNat / 2 ^ 4 % 128 + x.cnt.toNat * repStep x.sb := by
  simp only [repMisuse, Bool.or_eq_true, Bool.and_eq_true, Bool.not_eq_true', bne_iff_ne, decide_eq_true_eq, fD_toNat, fA_toNat,
    fB_toNat, or_assoc]

section Check
variable {s : State} {f : Focus} {g : Group} {w v : IWord}

/-- What a rep reads as the second word of the instruction after it, 0 where the first calls for none (R55). -/
theorem second_word (h : NextWords s f g w v) :
    (if hasSecond w then fetchWord s (gidCore f.gid) (groupCtx s g) (pcPlus f.npc 1).toNat else .word 0) = .word v := by
  obtain ⟨-, hnone, hsecond⟩ := h
  cases hs : hasSecond w with
  | true => exact hsecond hs
  | false => rw [hnone hs]; rfl

theorem repCheck_ok {x : RepArgs} {i : Instr} (h : NextWords s f g w v) (hr : repeatable w v = true)
    (hd : decodeFor s (ctxPart (groupCtx s g)) w v = .ok i) (hm : repMisuse x w i = false) :
    repCheck s (gidCore f.gid) (groupCtx s g) x f.npc = .ok := by
  simp only [repCheck, h.1, second_word h, hr, hd, hm, Bool.not_true, Bool.false_eq_true, if_false]

theorem repCheck_not_repeatable (x : RepArgs) (h : NextWords s f g w v) (hr : repeatable w v = false) :
    repCheck s (gidCore f.gid) (groupCtx s g) x f.npc = .misuse := by
  simp only [repCheck, h.1, second_word h, hr, Bool.not_false, if_true]

/-- Words that cannot be repeated are misuse whatever they decode to, and so are steps that leave the registers. -/
theorem repCheck_misuse {x : RepArgs} {i : Instr} (h : NextWords s f g w v)
    (hd : decodeFor s (ctxPart (groupCtx s g)) w v = .ok i) (hm : repMisuse x w i = true) :
    repCheck s (gidCore f.gid) (groupCtx s g) x f.npc = .misuse := by
  cases hr : repeatable w v with
  | false => exact repCheck_not_repeatable x h hr
  | true => simp only [repCheck, h.1, second_word h, hr, hd, hm, Bool.not_true, Bool.false_eq_true, if_false, if_true]

end Check

/-! ### rep (R73, R283) -/

theorem repStarts : RepStarts := by
  intro x s f g w v i hi
  have hexec := (exec_rep x s).trans (issuer_focus _ hi.1 hi.2)
  refine ⟨fun hm hw => ⟨fun hr hd hok => ?repeats, fun hc hbad => ?misuse⟩, fun hm hc => ?handler⟩
  case repeats =>
    simp only [hexec, hm, repCheck_ok hw hr hd hok, Bool.false_eq_true, if_false]
    refine ⟨fun hidle => ?starts, fun hactive hother => ?waits⟩
    case starts => simp [hidle]
    case waits =>
      have hwait : (g.rep.active && g.rep.lanes != f.lanes) = true := by simp [hactive, hother]
      simp only [hwait, if_true]
      exact waits_blocks .repEnd hi
  case misuse =>
    have hcheck : repCheck s (gidCore f.gid) (groupCtx s g) x f.npc = .misuse :=
      hbad.elim (repCheck_not_repeatable x hw) fun ⟨hd, hfields⟩ => repCheck_misuse hw hd ((repMisuse_iff x w i).mpr hfields)
    simp only [hexec, hm, hcheck, Bool.false_eq_true, if_false]
    exact trap_traps 0x04 0 hi hc
  case handler =>
    have htrap : exec (.rep x) s = trap f 0x04 0 s := by simp only [hexec, hm, if_true]
    have hmode' : hmode (groupAt (clearSkip f s) f.gid) = true := by
      rw [clearSkip, updGroup, groupAt_putGroup, groupAt_of_find hi.2]
      exact hm
    rw [htrap, trap_traps 0x04 0 hi hc, takeTrap]
    simp only [hmode', if_true]

/-- Settles O12: win checks its base against the allotment, rep the words of the instruction after it. -/
theorem windowBaseAndRepeats : Obligations.WindowBaseAndRepeats := ⟨winSetsWindow, repStarts⟩

end Sys2Proof.Machine
end

section
/-! PROOFS. The barriers of a group (R134-R136): the checks of a gsync, its arrival, and the release of a barrier that is complete. -/

open Host Sys2Proof Sys2Proof.Machine Sys2Proof.Claims

namespace Sys2Proof.Machine

/-! ### Arrival and release (R135) -/

theorem arrive_first {g : Group} (m lanes : LaneMask) (h : g.barriers = []) :
    arrive m lanes g = { g with barriers := [{ mask := m, arrived := lanes }] } := by
  simp [arrive, h]

/-- Where no barrier is complete none is released. -/
theorem releaseBarriers_incomplete {s : State} {gid : Nat} (n : Nat) (h : fullBarrier (groupAt s gid) = none) :
    releaseBarriers n gid s = s := by
  cases n with
  | zero => rfl
  | succ n => simp only [releaseBarriers, h]

theorem fullBarrier_of_no_barriers {g : Group} (h : g.barriers = []) : fullBarrier g = none := by
  simp [fullBarrier, h]

/-- A group without barriers releases none. -/
theorem releaseBarriers_none {s : State} {gid : Nat} (n : Nat) (h : (groupAt s gid).barriers = []) :
    releaseBarriers n gid s = s :=
  releaseBarriers_incomplete n (fullBarrier_of_no_barriers h)

theorem fullBarrier_single {g : Group} {b : Barrier} (h : g.barriers = [b]) :
    fullBarrier g = if b.mask &&& ~~~(b.arrived ||| g.exited) = 0 then some b.mask else none := by
  by_cases hfull : b.mask &&& ~~~(b.arrived ||| g.exited) = 0 <;> simp [fullBarrier, h, hfull]

/-- The group of a run that has passed the instruction at which it was blocked. -/
def passGroup (b : Block) (g : Group) : Group :=
  { pcSet (countWindow b.lanes { g with blocks := g.blocks.filter (fun c => c != b) }) b.lanes b.npc with
    skipBp := g.skipBp &&& ~~~b.lanes }

theorem passBlock_none (s : State) (gid : Nat) (b : Block) : passBlock s gid b none = updGroup s gid (passGroup b) := rfl

/-- The only barrier of a group is complete, and the only blocked run waits for it: the run goes on. -/
theorem releaseBarriers_single {s : State} {gid : Nat} {g : Group} {b : Barrier} {k : Block} (n : Nat)
    (hbarriers : g.barriers = [b]) (hblocks : g.blocks = [k]) (hwhy : k.why = .gsync b.mask)
    (hfull : b.mask &&& ~~~(b.arrived ||| g.exited) = 0) :
    releaseBarriers (n + 1) gid (unfocus (putGroup s gid g)) =
      unfocus (putGroup s gid (passGroup k { g with barriers := [] })) := by
  have hbarrier : fullBarrier g = some b.mask := by rw [fullBarrier_single hbarriers, if_pos hfull]
  simp only [releaseBarriers, groupAt_unfocus, groupAt_putGroup, hbarrier, hbarriers, hblocks, hwhy, BEq.rfl, bne_self_eq_false,
    List.filter_cons_of_pos, List.filter_cons_of_neg, List.filter_nil, List.foldl_cons, List.foldl_nil, passBlock_none,
    putGroup_unfocus, putGroup_putGroup, updGroup_unfocus_putGroup, Bool.false_eq_true, not_false_eq_true]
  exact releaseBarriers_none n (by simp [passGroup])

/-! ### gsync (R135, R136) -/

/-- The mask that a gsync reads in a lane. -/
def gsyncMask (x : R3L) (v : Group) (l : Nat) : LaneMask := (readV v x.a l).setWidth 32

section Gsync
variable {x : R3L} {s : State} {f : Focus} {g : Group}

/-- The checks of a gsync whose register lies in the allotment, and the arrival that they lead to. -/
theorem exec_gsync_checks (hi : Issues s f g) (hin : InAllot (seen f g) [x.a]) {m : LaneMask}
    (hm : gsyncMask x (seen f g) (lowLane f.lanes) = m) :
    exec (.gsync x) s =
      if (lanesOf f.lanes).any (fun l => gsyncMask x (seen f g) l != m) then trap f 0x70 m.toNat s
      else if meets f.lanes (~~~m) then trap f 0x71 m.toNat s
      else if g.barriers.any (fun b => b.mask != m && meets b.mask m) then trap f 0x70 m.toNat s
      else ordered f g [] 0 (some .grp) s fun s =>
        .next (releaseBarriers 32 f.gid (waitOn f (.gsync m) (putGroup s f.gid (arrive m f.lanes g)))) := by
  subst hm
  exact (exec_gsync x s).trans ((issuer_focus _ hi.1 hi.2).trans (withRegs_inside f g _ s _ hin))

theorem any_gsyncMask_ne (v : Group) (lanes m : LaneMask) :
    (lanesOf lanes).any (fun l => gsyncMask x v l != m) = true ↔
      ∃ l, l < 32 ∧ lanes.getLsbD l = true ∧ gsyncMask x v l ≠ m := by
  simp only [List.any_eq_true, mem_lanesOf, bne_iff_ne, and_assoc]

theorem any_gsyncMask_eq {v : Group} {lanes m : LaneMask} (h : ∀ l, l < 32 → lanes.getLsbD l = true → gsyncMask x v l = m) :
    (lanesOf lanes).any (fun l => gsyncMask x v l != m) = false := by
  rw [Bool.eq_false_iff, ne_eq, any_gsyncMask_ne]
  rintro ⟨l, hl, hlane, hne⟩
  exact hne (h l hl hlane)

/-- A release at .grp with nothing to wait for goes on from the same state. -/
theorem ordered_grp {k : State → Result} (hacq : openAcq s g f.lanes = false) (hrel : releaseWaits s f.gid g f.lanes .grp = false) :
    ordered f g [] 0 (some .grp) s k = k s := by
  simp [ordered, hacq, hrel, walksAsleep, wideScope]

/-- The run's lanes are at the barrier of a mask, alone, and blocked there. -/
def atBarrier (f : Focus) (m : LaneMask) (g : Group) : Group :=
  { g with
    barriers := [{ mask := m, arrived := f.lanes }]
    blocks := [{ lanes := f.lanes, pc := f.pc, npc := f.npc, why := .gsync m }] }

/-- A gsync whose checks pass, in a group without barriers and blocked runs, arrives and releases what is complete. -/
theorem exec_gsync_arrives {m : LaneMask} (hi : Issues s f g) (hin : InAllot (seen f g) [x.a]) (hlanes : f.lanes ≠ 0)
    (hself : f.lanes &&& ~~~m = 0) (hacq : openAcq s g f.lanes = false) (hrel : releaseWaits s f.gid g f.lanes .grp = false)
    (hmask : ∀ l, l < 32 → f.lanes.getLsbD l = true → gsyncMask x (seen f g) l = m) (hbarriers : g.barriers = [])
    (hblocks : g.blocks = []) :
    exec (.gsync x) s = .next (releaseBarriers 32 f.gid (unfocus (putGroup s f.gid (atBarrier f m g)))) := by
  obtain ⟨hlow, hlowLane⟩ := lowLane_mem hlanes
  have hinside : meets f.lanes (~~~m) = false := by simp [meets, hself]
  have hnone : g.barriers.any (fun b => b.mask != m && meets b.mask m) = false := by simp [hbarriers]
  rw [exec_gsync_checks hi hin (hmask _ hlow hlowLane), any_gsyncMask_eq hmask, hinside, hnone]
  simp only [Bool.false_eq_true, if_false, ordered_grp hacq hrel, arrive_first m f.lanes hbarriers, waitOn, updGroup,
    groupAt_putGroup, putGroup_putGroup, addBlock, hblocks]
  rfl

end Gsync

theorem gsyncArrives : GsyncArrives := by
  intro x s f g m hi hin hlanes hself hacq hrel hmask hbarriers hblocks
  rw [exec_gsync_arrives hi hin hlanes hself hacq hrel hmask hbarriers hblocks]
  refine ⟨fun hfull => ?released, fun hopen => ?blocked⟩
  case released =>
    rw [releaseBarriers_single (g := atBarrier f m g) 31 rfl rfl rfl hfull]
    refine ⟨_, rfl, _, rfl, ?_, fun l hl => pcGet_pcSet g f.lanes f.npc l hl⟩
    simp [passGroup, atBarrier, countWindow, pcSet, hbarriers, hblocks]
  case blocked =>
    have hincomplete : fullBarrier (atBarrier f m g) = none := (fullBarrier_single rfl).trans (if_neg hopen)
    rw [releaseBarriers_incomplete 32 (by rwa [groupAt_unfocus, groupAt_putGroup])]
    rfl

theorem gsyncMisuse : GsyncMisuse := by
  intro x s f g hi hc hin mask
  have hexec := exec_gsync_checks (m := mask (lowLane f.lanes)) hi hin rfl
  refine ⟨fun hdiffer => ?differ, fun hsame hout => ?leftOut⟩
  case differ =>
    rw [hexec, if_pos ((any_gsyncMask_ne _ _ _).mpr hdiffer)]
    exact trap_traps 0x70 _ hi hc
  case leftOut =>
    have hmeets : meets f.lanes (~~~(mask (lowLane f.lanes))) = true := bne_iff_ne.mpr hout
    rw [hexec, any_gsyncMask_eq hsame, hmeets]
    exact trap_traps 0x71 _ hi hc

/-- Settles O11: the checks of gsync in turn, then its arrival at a barrier that is complete with it or not. -/
theorem gsyncArrivesOrTraps : Obligations.GsyncArrivesOrTraps := ⟨gsyncArrives, gsyncMisuse⟩

end Sys2Proof.Machine
end

section
/-! PROOFS. Waits (R138), and exit: the marks on the group, what the exit of its last lane lets go (R129, R204, R319, R321), and the
lanes of a run (R120). -/

open Host Sys2Proof Sys2Proof.Machine Sys2Proof.Claims

namespace Sys2Proof.Machine

/-! ### wait and wait.clk (R138) -/

theorem waitsEndOrBlock : WaitsEndOrBlock := by
  intro x s f g hi
  have hwait : exec (.wait x) s =
      if (pendsOf g f.lanes).isEmpty then doneAt f (pcSet g f.lanes f.npc) s else waits f .results s :=
    (exec_wait x s).trans (issuer_focus _ hi.1 hi.2)
  have hclk : exec (.waitClk x) s =
      if (sGet (seen f g) x.a.toNat).toNat ≤ s.clk.clock.toNat then doneAt f (pcSet g f.lanes f.npc) s
      else waits f (.clk (sGet (seen f g) x.a.toNat)) s :=
    (exec_waitClk x s).trans (issuer_focus _ hi.1 hi.2)
  refine ⟨fun hclosed => ?closed, fun hopen => ?stillOpen, fun hdue => ?due, fun hearly => ?early⟩
  case closed =>
    rw [hwait, if_pos (List.isEmpty_iff.mpr hclosed)]
    exact doneAt_pcSet_moves f.npc
  case stillOpen =>
    rw [hwait, if_neg (fun h => hopen (List.isEmpty_iff.mp h))]
    exact waits_blocks .results hi
  case due =>
    rw [hclk, if_pos hdue]
    exact doneAt_pcSet_moves f.npc
  case early =>
    rw [hclk, if_neg (Nat.not_le.mpr hearly)]
    exact waits_blocks _ hi

/-! ### The marks of an exit on the group (R129, R144, R288) -/

/-- The group of lanes that have exited, the handler left aside. -/
def markExited (lanes : LaneMask) (g : Group) : Group :=
  { g with exited := g.exited ||| lanes, rep := repAfterExit g.rep lanes }

theorem exitLanes_eq (lanes : LaneMask) (g : Group) : exitLanes lanes g =
    if hmode g && !meets g.hlanes (~~~(g.exited ||| lanes)) then
      { markExited lanes g with
        trapbase := g.trapbase &&& ~~~2, hlanes := 0, pends := g.pends.map (fun p => { p with held := false }) }
    else markExited lanes g := rfl

/-- Outside the handler, or with a lane of the handler left, the exit marks the lanes. -/
theorem exitLanes_stays {lanes : LaneMask} {g : Group}
    (h : hmode g = false ∨ g.hlanes &&& ~~~(g.exited ||| lanes) ≠ 0) : exitLanes lanes g = markExited lanes g := by
  rw [exitLanes_eq, if_neg]
  rcases h with hm | hleft
  · simp [hm]
  · have hmeets : meets g.hlanes (~~~(g.exited ||| lanes)) = true := bne_iff_ne.mpr hleft
    simp [hmeets]

/-- The exit of the handler's last lane leaves the handler too. -/
theorem exitLanes_leaves {lanes : LaneMask} {g : Group} (hm : hmode g = true)
    (hnone : g.hlanes &&& ~~~(g.exited ||| lanes) = 0) : exitLanes lanes g = { markExited lanes g with
      trapbase := g.trapbase &&& ~~~2, hlanes := 0, pends := g.pends.map (fun p => { p with held := false }) } := by
  rw [exitLanes_eq, if_pos]
  simp [hm, meets, hnone]

theorem exitLanes_exited (lanes : LaneMask) (g : Group) : (exitLanes lanes g).exited = g.exited ||| lanes := by
  rw [exitLanes_eq]
  split <;> rfl

theorem exitLanes_barriers (lanes : LaneMask) (g : Group) : (exitLanes lanes g).barriers = g.barriers := by
  rw [exitLanes_eq]
  split <;> rfl

/-- What every instruction that has issued does to the windows and the breakpoints of its lanes (R76, R143). -/
def afterIssue (f : Focus) (g : Group) : Group := { countWindow f.lanes g with skipBp := g.skipBp &&& ~~~f.lanes }

/-- Counting the windows opens and closes none. -/
theorem pend_ids_countWindow (lanes : LaneMask) (g : Group) :
    (countWindow lanes g).pends.map (·.id) = g.pends.map (·.id) := by
  rw [countWindow, List.map_map]
  refine List.map_congr_left fun p _ => ?_
  rw [Function.comp_apply]
  split <;> rfl

/-! ### What an exit lets go keeps the lanes that have exited and the bytes at home (R204, R319, R321) -/

/-- Every group is still there with the lanes that had exited, no byte at home has changed, nor what the home slices hold of a line
besides their proxy copies, and the local SRAM is as it was. -/
structure KeepsExited (s t : State) : Prop where
  groups : ∀ gid g, mapFind s.groups gid = some g → ∃ g', mapFind t.groups gid = some g' ∧ g'.exited = g.exited
  mem : t.mem = { s.mem with proxies := t.mem.proxies }
  sram : t.sram = s.sram

theorem KeepsExited.refl (s : State) : KeepsExited s s := ⟨fun _ g h => ⟨g, h, rfl⟩, rfl, rfl⟩

theorem KeepsExited.trans {s t u : State} (h : KeepsExited s t) (h' : KeepsExited t u) : KeepsExited s u := by
  refine ⟨fun gid g hg => ?_, ?_, h'.sram.trans h.sram⟩
  · obtain ⟨g', hg', he⟩ := h.groups gid g hg
    obtain ⟨g'', hg'', he'⟩ := h'.groups gid g' hg'
    exact ⟨g'', hg'', he'.trans he⟩
  · rw [h'.mem, h.mem]

/-- A step that leaves the groups alone. -/
theorem KeepsExited.of_groups {s t : State} (hg : t.groups = s.groups) (hm : t.mem = { s.mem with proxies := t.mem.proxies })
    (hs : t.sram = s.sram) : KeepsExited s t :=
  ⟨fun gid g h => ⟨g, by rwa [hg], rfl⟩, hm, hs⟩

theorem keepsExited_foldl {α : Type} {step : State → α → State} (h : ∀ s e, KeepsExited s (step s e)) (l : List α) (s : State) :
    KeepsExited s (l.foldl step s) := by
  induction l generalizing s with
  | nil => exact .refl s
  | cons e l ih => exact (h s e).trans (ih _)

/-- A blocked run that passes its instruction: its group's exited lanes stay. -/
theorem keepsExited_passBlock (s : State) (gid : Nat) (b : Block) : KeepsExited s (passBlock s gid b none) := by
  refine ⟨fun i g hg => ?_, rfl, rfl⟩
  rw [passBlock_none, updGroup_groups]
  by_cases h : i = gid
  · subst h
    exact ⟨_, mapFind_put_self .., by rw [groupAt_of_find hg]; rfl⟩
  · exact ⟨g, (mapFind_put_ne _ _ h).trans hg, rfl⟩

theorem keepsExited_acquireAt (s : State) (gid : Nat) (sc : Scope) : KeepsExited s (acquireAt s gid sc) := by
  have h := issueFrame_acquireAt s gid sc
  exact .of_groups h.groups (by rw [h.mem]) h.sram

theorem keepsExited_proxyFill (s : State) (die line : Nat) : KeepsExited s (proxyFill s die line).2 := by
  unfold proxyFill
  split
  · exact .refl s
  · exact .of_groups rfl rfl rfl

theorem keepsExited_drainCopy (s : State) (core : Nat) (x : Copy) : KeepsExited s (drainCopy s core x) := by
  unfold drainCopy
  split
  · exact .refl s
  · exact (keepsExited_proxyFill s (coreDie core) x.line).trans (.of_groups rfl rfl rfl)

theorem keepsExited_drainL1 (s : State) (cores : List Nat) : KeepsExited s (drainL1 s cores) :=
  keepsExited_foldl (fun _ c => keepsExited_foldl (fun s x => keepsExited_drainCopy s c x) _ _) cores s

theorem keepsExited_putBar (s : State) (tuid name : Nat) (b : Bar) : KeepsExited s (putBar s tuid name b) := by
  unfold putBar
  split <;> exact .of_groups rfl rfl rfl

theorem keepsExited_wakeRidge (s : State) (tuid name : Nat) : KeepsExited s (wakeRidge s tuid name) := by
  refine keepsExited_foldl (fun s e => ?_) _ s
  split
  · split
    · exact (keepsExited_passBlock ..).trans (keepsExited_acquireAt ..)
    · exact .refl s
  · exact .refl s

theorem keepsExited_advanceBar (s : State) (tuid name : Nat) : KeepsExited s (advanceBar s tuid name) := by
  unfold advanceBar
  dsimp only
  split
  · refine KeepsExited.trans ?_ ((keepsExited_putBar ..).trans (keepsExited_wakeRidge ..))
    split
    · exact .refl s
    · exact keepsExited_drainL1 ..
  · exact .refl s

theorem keepsExited_advanceAll (s : State) (tuid uid : Nat) : KeepsExited s (advanceAll s tuid uid) := by
  refine keepsExited_foldl (fun s n => ?_) _ s
  split
  · exact keepsExited_advanceBar ..
  · exact .refl s

theorem keepsExited_wakeLead (s : State) (node cluster : Nat) : KeepsExited s (wakeLead s node cluster) := by
  refine keepsExited_foldl (fun s e => ?_) _ s
  split
  · exact (keepsExited_passBlock ..).trans (keepsExited_acquireAt ..)
  · exact .refl s

section AfterExit
variable {s : State} {gid : Nat}

/-- The exit of some lanes of a group without barriers lets nothing go. -/
theorem afterExit_some (hb : (groupAt s gid).barriers = []) (hout : (groupAt s gid).exited ≠ 0xFFFFFFFF) : afterExit s gid = s := by
  simp only [afterExit, releaseBarriers_none 32 hb, hout, if_false]

/-- What the exit of the last lane of a group without barriers lets go. -/
theorem keepsExited_afterExit (hb : (groupAt s gid).barriers = []) : KeepsExited s (afterExit s gid) := by
  simp only [afterExit, releaseBarriers_none 32 hb]
  split
  · exact (keepsExited_advanceAll ..).trans (keepsExited_wakeLead ..)
  · exact .refl s

end AfterExit

/-! ### The lanes of a run (R120) -/

theorem mem_insertRun {r x : Run} {rs : List Run} : x ∈ insertRun r rs ↔ x = r ∨ x ∈ rs := by
  induction rs with
  | nil => simp [insertRun]
  | cons y ys ih =>
    rw [insertRun]
    split
    · simp
    · simp only [List.mem_cons, ih]
      tauto

theorem mem_foldl_insertRun {x : Run} (ls rs : List Run) :
    x ∈ ls.foldl (fun rs r => insertRun r rs) rs ↔ x ∈ ls ∨ x ∈ rs := by
  induction ls generalizing rs with
  | nil => simp
  | cons r ls ih =>
    rw [List.foldl_cons, ih, mem_insertRun, List.mem_cons]
    tauto

/-- The lanes of a run are among those of a mask, and stand at its counter where it does not repeat. -/
def StandsIn (g : Group) (m : LaneMask) (r : Run) : Prop :=
  ∀ l, l < 32 → r.lanes.getLsbD l = true → m.getLsbD l = true ∧ (r.rep = false → pcGet g l = r.pc)

section Runs
variable {g : Group} {m : LaneMask}

/-- A lane of the mask joins the run of its counter, or makes one. -/
theorem standsIn_addLane {l : Nat} (hl : l < 32) (hm : m.getLsbD l = true) {rs : List Run} (h : ∀ r ∈ rs, StandsIn g m r) :
    ∀ r ∈ addLane g l rs, StandsIn g m r := by
  induction rs with
  | nil =>
    refine List.forall_mem_singleton.mpr fun i hi hlane => ?_
    rw [getLsbD_laneBit l i hl, decide_eq_true_eq] at hlane
    subst hlane
    exact ⟨hm, fun _ => rfl⟩
  | cons x xs ih =>
    obtain ⟨hx, hxs⟩ := List.forall_mem_cons.mp h
    rw [addLane]
    split
    next hpc =>
      refine List.forall_mem_cons.mpr ⟨fun i hi hlane => ?_, hxs⟩
      rw [BitVec.getLsbD_or, Bool.or_eq_true, getLsbD_laneBit l i hl, decide_eq_true_eq] at hlane
      rcases hlane with hlane | rfl
      · exact hx i hi hlane
      · exact ⟨hm, fun _ => hpc.symm⟩
    next => exact List.forall_mem_cons.mpr ⟨hx, ih hxs⟩

theorem standsIn_foldl_addLane {ls : List Nat} (hls : ∀ l ∈ ls, l < 32 ∧ m.getLsbD l = true) {rs : List Run}
    (h : ∀ r ∈ rs, StandsIn g m r) : ∀ r ∈ ls.foldl (fun rs l => addLane g l rs) rs, StandsIn g m r := by
  induction ls generalizing rs with
  | nil => exact h
  | cons l ls ih =>
    obtain ⟨⟨hl, hm⟩, hls⟩ := List.forall_mem_cons.mp hls
    exact ih hls (standsIn_addLane hl hm h)

/-- Every run of some lanes, the repeating one among them. -/
theorem standsIn_runsAmong : ∀ r ∈ runsAmong g m, StandsIn g m r := by
  have hothers : ∀ (skip : LaneMask), ∀ r ∈ ((lanesOf (m &&& ~~~skip)).foldl (fun rs l => addLane g l rs) []).foldl
      (fun rs r => insertRun r rs) [], StandsIn g m r := by
    intro skip r hr
    refine standsIn_foldl_addLane (fun l hl => ?_) (fun _ h => absurd h List.not_mem_nil) r
      (((mem_foldl_insertRun _ _).mp hr).resolve_right List.not_mem_nil)
    obtain ⟨hl, hlane⟩ := mem_lanesOf.mp hl
    rw [BitVec.getLsbD_and, Bool.and_eq_true] at hlane
    exact ⟨hl, hlane.1⟩
  intro r hr
  unfold runsAmong at hr
  generalize hskip : (if g.rep.active && !hmode g then g.rep.lanes &&& m else 0) = skip at hr
  have hsub : ∀ l, skip.getLsbD l = true → m.getLsbD l = true := by
    intro l hlane
    subst hskip
    split at hlane
    · rw [BitVec.getLsbD_and, Bool.and_eq_true] at hlane
      exact hlane.2
    · simp at hlane
  dsimp only at hr
  split at hr
  · exact hothers skip r hr
  · rcases mem_insertRun.mp hr with rfl | hr
    · exact fun l _ hlane => ⟨hsub l hlane, fun h => nomatch h⟩
    · exact hothers skip r hr

/-- No lanes, no runs. -/
theorem runsAmong_zero : runsAmong g 0 = [] := by
  simp [runsAmong, lanesOf]

end Runs

theorem freeLanes_unexited {s : State} {gid : Nat} {g : Group} {l : Nat} (hl : l < 32)
    (h : (freeLanes s gid g).getLsbD l = true) : g.exited.getLsbD l = false := by
  simp only [freeLanes, BitVec.getLsbD_and, BitVec.getLsbD_not, hl, decide_true, Bool.true_and, Bool.and_eq_true,
    Bool.not_eq_true'] at h
  exact h.1.1.2

/-- A group whose lanes have all exited has no run. -/
theorem runsOf_all_exited (s : State) (gid : Nat) {g : Group} (h : g.exited = 0xFFFFFFFF) : runsOf s gid g = [] := by
  have hfree : freeLanes s gid g = 0 := by
    rw [freeLanes, h]
    exact BitVec.eq_of_getLsbD_eq fun i hi => by simp
  rw [runsOf, hfree, runsAmong_zero]

/-! ### exit (R129) -/

section Exit
variable {s : State} {f : Focus} {g : Group}

theorem exec_exit_marks (x : R3L) (hi : Issues s f g) :
    exec (.exit x) s = .next (afterExit (unfocus (putGroup s f.gid (exitLanes f.lanes (afterIssue f g)))) f.gid) :=
  (exec_exit x s).trans (issuer_focus _ hi.1 hi.2)

theorem exitLanes_afterIssue_exited (f : Focus) (g : Group) : (exitLanes f.lanes (afterIssue f g)).exited = f.lanes ||| g.exited :=
  (exitLanes_exited _ _).trans (BitVec.or_comm _ _)

theorem exitLanes_afterIssue_barriers (hb : g.barriers = []) : (exitLanes f.lanes (afterIssue f g)).barriers = [] :=
  (exitLanes_barriers _ _).trans hb

/-- Some lanes of the group are left: the exit is its marks. -/
theorem exec_exit_some (x : R3L) (hi : Issues s f g) (hb : g.barriers = []) (hout : f.lanes ||| g.exited ≠ 0xFFFFFFFF) :
    exec (.exit x) s = .next (unfocus (putGroup s f.gid (exitLanes f.lanes (afterIssue f g)))) := by
  rw [exec_exit_marks x hi, afterExit_some]
  · rw [groupAt_unfocus, groupAt_putGroup, exitLanes_afterIssue_barriers hb]
  · rwa [groupAt_unfocus, groupAt_putGroup, exitLanes_afterIssue_exited]

/-- Every lane of the group has exited. -/
theorem exec_exit_all (x : R3L) (hi : Issues s f g) (hb : g.barriers = []) (hout : f.lanes ||| g.exited = 0xFFFFFFFF) :
    ∃ t g', exec (.exit x) s = .next t ∧ mapFind t.groups f.gid = some g' ∧ g'.exited = 0xFFFFFFFF ∧ runsOf t f.gid g' = [] ∧
      t.mem = { s.mem with proxies := t.mem.proxies } ∧ t.sram = s.sram := by
  have hkeep : KeepsExited (unfocus (putGroup s f.gid (exitLanes f.lanes (afterIssue f g)))) _ := keepsExited_afterExit (gid := f.gid)
    (by rw [groupAt_unfocus, groupAt_putGroup, exitLanes_afterIssue_barriers hb])
  obtain ⟨g', hg', he⟩ := hkeep.groups f.gid _ (mapFind_put_self ..)
  have hall : g'.exited = 0xFFFFFFFF := he.trans ((exitLanes_afterIssue_exited f g).trans hout)
  exact ⟨_, g', exec_exit_marks x hi, hg', hall, runsOf_all_exited _ _ hall, hkeep.mem, hkeep.sram⟩

end Exit

theorem exitLeaves : ExitLeaves := by
  constructor
  · intro x s f g hi hb out g1
    refine ⟨fun hout hstay => ?stays, fun hout hm hnone => ?leaves, exec_exit_all x hi hb⟩
    case stays =>
      rw [show out = g.exited ||| f.lanes from BitVec.or_comm _ _] at hstay
      rw [exec_exit_some x hi hb hout, exitLanes_stays (g := afterIssue f g) hstay]
      rfl
    case leaves =>
      rw [show out = g.exited ||| f.lanes from BitVec.or_comm _ _] at hnone
      refine ⟨_, exec_exit_some x hi hb hout, ?_⟩
      rw [exitLanes_leaves (g := afterIssue f g) hm hnone]
      refine ⟨rfl, by simp [hmode], by simp [handlerOn, afterIssue], by simp, ?_⟩
      rw [← pend_ids_countWindow f.lanes g]
      simp [afterIssue]
  · intro s gid g r hr l hl hlane
    obtain ⟨hfree, hpc⟩ := standsIn_runsAmong r hr l hl hlane
    exact ⟨freeLanes_unexited hl hfree, hpc⟩

/-- Settles O14: wait and wait.clk go on or block; exit marks its lanes, and what the last lane's exit lets go keeps the marks. -/
theorem waitsAndExits : Obligations.WaitsAndExits := ⟨waitsEndOrBlock, exitLeaves⟩

end Sys2Proof.Machine
end

section
/-! PROOFS. Two statements about requests and transfers fail at one point each. A copy into a window one of whose pages failed reports
cause 0x79 to the supervisor where its issuing group has left (R251), and the record of that raises counter 15 of the supervisor
context (R297): a copy of the supervisor's own that counts in that counter raises it by more than its length. And RequestsProceed
speaks of any list of requests, also of one in which two requests have one number, which no machine makes. -/

open Host Sys2Proof Sys2Proof.Machine Sys2Proof.Claims

namespace Sys2Proof.Machine

/-! ### A copy whose issuing group has left (R251, R263) -/

/-- A copy of the supervisor's context, of which the page at 0x70000 of its window failed. -/
def lostCopy : EngOp :=
  { id := 8, core := 0, gid := 0, uid := 7, team := 7, ctx := 0, press := false, kind := .s2w 0 3 0 15 4, tx := none, txTeams := []
    parts := [], block := 0, done := true, lost := [0x70000] }

/-- Its transfer, which the target has to acknowledge still, with counter 15 of die 0. -/
def lostTransfer : Xfer :=
  { id := 9, get := false, core := 0, gid := 0, uid := 7, team := 7, ctx := 0, lanes := 1, win := 3, off := 0, loc := 0, len := 4
    ctr := 15, op := some 8, stage := 1, waits := [], rel := none }

/-- The group that issued the copy has left, and the supervisor has no event ring. -/
def issuerLeft : State := { ops := [lostCopy], xfers := [lostTransfer] }

/-- Counter 15 of die 0 of the supervisor context after a step. -/
def eventCounter (r : Result) : Option Word :=
  match r with
  | .next t => some (mapGet 0 (ctxAt t 0).ctrs 15)
  | _ => none

/-- The counter rises by the four bytes of the copy and by 1 for the record of cause 0x79. -/
theorem eventCounter_issuerLeft : eventCounter (exec (.putAcknowledged 9) issuerLeft) = some 5 := by decide +kernel

/-- Refutes O32: the acknowledgement of a copy raises its counter by more than its length where its failed page is reported to the
supervisor and the counter is that of the supervisor's event ring. -/
theorem not_transfersRaiseCounters : ¬ Obligations.TransfersRaiseCounters := by
  intro h
  obtain ⟨hcopy, -⟩ := h issuerLeft 9 lostTransfer rfl
  obtain ⟨t, ht, -, -, -, hctr, -⟩ := hcopy 8 lostCopy rfl rfl rfl rfl
  have hfour : mapGet 0 (ctxAt t 0).ctrs 15 = 4 := hctr
  have hfive := eventCounter_issuerLeft
  rw [ht, eventCounter, hfour] at hfive
  exact absurd hfive (by decide)

/-! ### Two requests of one number (R155, R179) -/

/-- A request of some lanes to the four bytes at 0x200 of context 1, which lie at that address. -/
def wordReq (id : Nat) (lanes : LaneMask) (pend : Nat) (kind : ReqKind) : Req :=
  { id, core := 0, gid := 0, uid := 7, team := 7, ctx := 1, lanes, pend, va := 0x200, pa := 0x200, size := 4, gen := 0
    attr := { w := true }, kind, rel := false, stage := .queued, data := [], poison := false, fill := false, cover := 0, acq := false
    tag := 0 }

/-- A load of lane 0. -/
def laneLoad : Req := wordReq 10 1 5 .load

/-- Lane 0 has stored to the bytes before its load; the same load's request of lane 1 for them has the number of that store. -/
def sharedNumber : State :=
  { bins := [(0, { alloc := true, state := 0 })]
    parts := [(0, { masks := [(0, 1)] })]
    reqs := [wordReq 9 1 0 (.store [1, 2, 3, 4]), wordReq 9 2 5 .load, laneLoad]
    out := { binOwner := [(0, 0x80)] } }

theorem atItsHome_laneLoad : AtItsHome sharedNumber laneLoad := by
  unfold AtItsHome
  decide +kernel

/-- The first byte that each request of a number has read after a step. -/
def firstRead (r : Result) (id : Nat) : List (Option Byte) :=
  match r with
  | .next t => (t.reqs.filter (fun q => q.id == id)).map (fun q => q.data[0]?)
  | _ => []

/-- The store counts as accepted with the load's other request, so that the load does not read it. -/
theorem firstRead_laneLoad : firstRead (exec (.requestAtHomeSlice 10) sharedNumber) 10 = [some 0] := by decide +kernel

/-- In the write queue it finds the store. -/
theorem overlayQueue_laneLoad :
    (overlayQueue sharedNumber laneLoad (homeRead sharedNumber.mem (128 * (laneLoad.pa / 128)) 128))[0]? = some 1 := by decide +kernel

theorem not_homePerformsRequests : ¬ HomePerformsRequests := by
  intro h
  obtain ⟨-, -, hload⟩ := h sharedNumber laneLoad atItsHome_laneLoad (by decide)
  obtain ⟨t, ht, -, -, -, q, hq, hid, -, hplain, -⟩ := hload rfl
  obtain ⟨-, hdata, -⟩ := hplain rfl
  have hread : q.data[0]? ∈ firstRead (.next t) 10 := List.mem_map_of_mem (List.mem_filter.mpr ⟨hq, beq_iff_eq.mpr hid⟩)
  rw [hdata, overlayQueue_laneLoad, ← ht] at hread
  change some 1 ∈ firstRead (exec (.requestAtHomeSlice 10) sharedNumber) 10 at hread
  rw [firstRead_laneLoad] at hread
  exact absurd hread (by decide)

/-- Refutes O28: HomePerformsRequests gives a load what the earlier stores of its core have left in the write queue, in any list of
requests. Where such a store has the number of the load's request for another lane, it counts as accepted with that one, and the load
reads the line without it. -/
theorem not_requestsProceed : ¬ Obligations.RequestsProceed := by
  rintro ⟨hhome, -⟩
  exact not_homePerformsRequests hhome

end Sys2Proof.Machine
end

section
/-! PROOFS. An access to global memory with a misaligned lane (R170, R171): every such instruction comes to the checks of its accesses,
and of causes that are all 0x42 the first is reported. -/

open Host Sys2Proof Sys2Proof.Machine Sys2Proof.Claims

namespace Sys2Proof.Machine

/-! ### Causes that are all one (R171) -/

/-- Of elements with one measure the first is the least. -/
theorem leastBy_same {α : Type} {measure : α → Nat} {c : Nat} {l : List α} (h : ∀ e ∈ l, measure e = c) :
    leastBy measure l = l.head? := by
  induction l with
  | nil => rfl
  | cons x xs ih =>
    obtain ⟨hx, hxs⟩ := List.forall_mem_cons.mp h
    rw [leastBy, ih hxs]
    cases hhead : xs.head? with
    | none => rfl
    | some y => simp [hx, hxs y (List.mem_of_head? hhead)]

/-- Of causes that are all one, for the handler, the first is reported. -/
theorem reported_same {c : Nat} {l : List (Nat × Nat)} (hc : supCause c = false) (h : ∀ e ∈ l, e.1 = c) : reported l = l.head? := by
  have hall : l.filter (fun e => !supCause e.1) = l := List.filter_eq_self.mpr fun e he => by simp [h e he, hc]
  rw [reported, hall, leastBy_same h]
  cases l with
  | nil => rfl
  | cons e l => rfl

/-! ### Lanes in order -/

/-- No lane has two accesses. -/
theorem accsOf_sorted (x : MArgs) (v : Group) (run act : LaneMask) : (accsOf x v run act).Pairwise (fun a b => a.lane < b.lane) := by
  unfold accsOf
  split
  · exact List.pairwise_singleton _ _
  · exact List.pairwise_map.mpr (lanesOf_sorted act)

/-- Where every access passes or fails with 0x42, the first that fails is the one reported. -/
theorem reported_first {check : Acc → Except Nat Trans} {pre post : List Acc} {a : Acc} (hpre : ∀ b ∈ pre, ∃ t, check b = .ok t)
    (ha : check a = .error 0x42) (hpost : ∀ b ∈ post, (∃ t, check b = .ok t) ∨ check b = .error 0x42) :
    reported (failures ((pre ++ a :: post).map (fun b => (b, check b)))) = some (0x42, a.addr % 2 ^ 56) := by
  have hnone : failures (pre.map (fun b => (b, check b))) = [] := by
    refine List.filterMap_eq_nil_iff.mpr (List.forall_mem_map.mpr fun b hb => ?_)
    obtain ⟨t, ht⟩ := hpre b hb
    rw [ht]
  have hall : ∀ e ∈ failures (post.map (fun b => (b, check b))), e.1 = 0x42 := by
    intro e he
    obtain ⟨d, hd, hde⟩ := List.mem_filterMap.mp he
    obtain ⟨b, hb, rfl⟩ := List.mem_map.mp hd
    rcases hpost b hb with ⟨t, ht⟩ | hb
    · simp [ht] at hde
    · simp only [hb, Option.some.injEq] at hde
      rw [← hde]
  have hsplit : failures ((pre ++ a :: post).map (fun b => (b, check b))) =
      (0x42, a.addr % 2 ^ 56) :: failures (post.map (fun b => (b, check b))) := by
    rw [List.map_append, failures, List.filterMap_append]
    rw [failures] at hnone
    rw [hnone, List.nil_append, List.map_cons, List.filterMap_cons, ha]
    rfl
  rw [hsplit, reported_same (c := 0x42) (by decide) (List.forall_mem_cons.mpr ⟨rfl, hall⟩)]
  rfl

/-! ### The checks of an access (R170) -/

theorem globalCheck_misaligned {s : State} {core k : Nat} {u : Use} {n va : Nat} (hva : va < 2 ^ 56) (h : va % n ≠ 0) :
    globalCheck s core k u n va n = .error 0x42 := by
  rw [globalCheck, if_neg (Nat.not_le.mpr hva), if_pos h]

section Rows
variable {x : MArgs} {s : State} {f : Focus} {g : Group}

/-- The checks of the accesses of a row. -/
def rowChecks (x : MArgs) (s : State) (f : Focus) (g : Group) (row : AccessRow) : List (Acc × Except Nat Trans) :=
  (accsOf x (seen f g) f.lanes row.lanes).map
    (fun a => (a, globalCheck s (gidCore f.gid) (groupCtx s g) row.u (accSize x.ty) a.addr (accSize x.ty)))

/-- A cause for the handler that is no missing translation traps the run (R170, R171). -/
theorem withChecks_traps {l : List (Nat × Nat)} {c info : Nat} {k : Result} (hl : reported l = some (c, info))
    (hsup : supCause c = false) (hwalk : c ≠ 0x40) : withChecks f l s k = trap f c info s := by
  simp [withChecks, hl, trapOr, hsup, reportWalk, hwalk]

/-- Past its waits a load comes to its checks. -/
theorem loadOp_traps {const : Bool} {c info : Nat} {u : AccessRow} (hi : Issues s f g) (hu : u.lanes = f.lanes ∧ u.u = {})
    (hready : Ready { x with ord := .rlx } s f g) (hfit : MemFits x (seen f g) true false)
    (hawake : TablesAwake s f g (spans (accsOf x (seen f g) f.lanes f.lanes) (accSize x.ty)))
    (hl : reported (failures (rowChecks x s f g u)) = some (c, info)) (hsup : supCause c = false) (hwalk : c ≠ 0x40) :
    loadOp const x s = trap f c info s := by
  obtain ⟨hacq, hedits, -⟩ := hready
  rw [rowChecks, hu.1, hu.2] at hl
  refine (issuer_focus _ hi.1 hi.2).trans ?_
  rw [withRegs_inside f g _ s _ (inAllot_memVecs hfit), ordered_ready hacq hedits (tablesAwake_byAddr hawake)]
  exact withChecks_traps hl hsup hwalk

/-- Past its waits every access of global memory comes to its checks. -/
theorem exec_accessRow_traps {row : AccessRow} {c info : Nat} (hi : Issues s f g) (hrow : row ∈ accessRows x f (seen f g))
    (hready : Ready row.ready s f g) (hfit : MemFits x (seen f g) row.dest row.data)
    (hawake : TablesAwake s f g (spans (accsOf x (seen f g) f.lanes row.lanes) (accSize x.ty)))
    (hl : reported (failures (rowChecks x s f g row)) = some (c, info)) (hsup : supCause c = false) (hwalk : c ≠ 0x40) :
    exec row.i s = trap f c info s := by
  simp only [accessRows, List.mem_cons, List.not_mem_nil, or_false] at hrow
  rcases hrow with rfl | rfl | rfl | rfl
  case inl => exact loadOp_traps hi ⟨rfl, rfl⟩ hready hfit hawake hl hsup hwalk
  case inr.inl => exact loadOp_traps hi ⟨rfl, rfl⟩ hready hfit hawake hl hsup hwalk
  case inr.inr.inl =>
    refine (issuer_focus _ hi.1 hi.2).trans ?_
    rw [withRegs_inside f g _ s _ (inAllot_memVecs hfit), ordered_relOf hready hawake]
    exact withChecks_traps hl hsup hwalk
  case inr.inr.inr =>
    refine (issuer_focus _ hi.1 hi.2).trans ?_
    rw [withRegs_inside f g _ s _ (inAllot_memVecs hfit), ordered_relOf hready hawake]
    exact withChecks_traps hl hsup hwalk

end Rows

/-- Settles O24: the lanes before the lowest misaligned one pass, so that its address is the one reported. -/
theorem misalignedTraps : Obligations.MisalignedTraps := by
  intro x s f g hi hclear hsize row hrow hready hfit accs n hawake hcanon haligned a ha hmis hlow
  have hfails : ∀ b ∈ accs, b.addr % n ≠ 0 →
      globalCheck s (gidCore f.gid) (groupCtx s g) row.u n b.addr n = .error 0x42 :=
    fun b hb h => globalCheck_misaligned (hcanon b hb) h
  obtain ⟨pre, post, hsplit⟩ := List.append_of_mem ha
  have hbefore : ∀ b ∈ pre, b.lane < a.lane := by
    have hsorted := accsOf_sorted x (seen f g) f.lanes row.lanes
    rw [show accsOf x (seen f g) f.lanes row.lanes = pre ++ a :: post from hsplit] at hsorted
    exact fun b hb => (List.pairwise_append.mp hsorted).2.2 b hb a List.mem_cons_self
  have hreport : reported (failures (rowChecks x s f g row)) = some (0x42, a.addr) := by
    rw [rowChecks, show accsOf x (seen f g) f.lanes row.lanes = pre ++ a :: post from hsplit, reported_first (a := a)]
    · rw [Nat.mod_eq_of_lt (hcanon a ha)]
    · intro b hb
      have hmem : b ∈ accs := hsplit ▸ List.mem_append_left _ hb
      exact haligned b hmem (hlow b hmem (hbefore b hb))
    · exact hfails a ha hmis
    · intro b hb
      have hmem : b ∈ accs := hsplit ▸ List.mem_append_right _ (List.mem_cons_of_mem _ hb)
      by_cases h : b.addr % n = 0
      · exact .inl (haligned b hmem h)
      · exact .inr (hfails b hmem h)
  rw [exec_accessRow_traps hi hrow hready hfit hawake hreport (by decide) (by decide)]
  exact trap_traps 0x42 a.addr hi hclear

end Sys2Proof.Machine
end

section
/-! PROOFS. put, get and ctrw at issue (R166-R169, R210, R212): a transfer with what it waits for, or a counter that is read, waited for
or refused. -/

open Host Sys2Proof Sys2Proof.Machine Sys2Proof.Claims

namespace Sys2Proof.Machine

/-! ### Bins that are touched (R345) -/

/-- The states differ in the times of their bins' last accesses and in the numbers that they have given. -/
structure Touched (s t : State) : Prop where
  rest : t = { s with bins := t.bins, fresh := t.fresh }
  bins : ∀ b, binAt t b = { binAt s b with last := (binAt t b).last }

theorem Touched.refl (s : State) : Touched s s := ⟨rfl, fun _ => rfl⟩

theorem Touched.trans {s t u : State} (h : Touched s t) (h' : Touched t u) : Touched s u :=
  ⟨by rw [h'.rest, h.rest], fun b => by rw [h'.bins b, h.bins b]⟩

theorem touched_foldl {α : Type} {step : State → α → State} (h : ∀ s e, Touched s (step s e)) (l : List α) (s : State) :
    Touched s (l.foldl step s) := by
  induction l generalizing s with
  | nil => exact .refl s
  | cons e l ih => exact (h s e).trans (ih _)

theorem binAt_putBin (s : State) (b c : Nat) (x : Bin) : binAt (putBin s b x) c = if c = b then x else binAt s c := by
  split
  · rename_i h
    rw [h]
    exact mapGet_set_self ..
  · rename_i h
    exact mapGet_set_ne _ _ _ h

theorem touched_touchBin (s : State) (pa : Nat) : Touched s (touchBin s pa) := by
  refine ⟨rfl, fun b => ?_⟩
  rw [touchBin, updBin, binAt_putBin]
  split
  · rename_i h
    rw [h]
  · rfl

theorem touched_touchWalk (s : State) (core k va : Nat) : Touched s (touchWalk s core k va) := by
  unfold touchWalk
  split
  · exact .refl s
  · exact touched_foldl touched_touchBin _ s

theorem touched_touchWalks (s : State) (core k : Nat) (l : List (Nat × Nat)) : Touched s (touchWalks s core k l) := by
  unfold touchWalks
  exact touched_foldl (fun (s : State) (r : Nat × Nat) =>
    touched_foldl (fun (s : State) (pc : Nat × Nat) => touched_touchWalk s core k pc.1) (piecesOf r.1 r.2) s) l s

section Transfers
variable {x : MArgs} {s : State} {f : Focus} {g : Group}

/-! ### put and get (R167, R168) -/

/-- The window address, the local address and the length that a put or get reads. -/
def xferWin (x : MArgs) (v : Group) (get : Bool) : Nat := (sGet v (if get = true then x.a else x.d).toNat).toNat
def xferLoc (x : MArgs) (v : Group) (get : Bool) : Nat := (sGet v (if get = true then x.d else x.a).toNat).toNat
def xferLen (x : MArgs) (v : Group) : Nat := (sGet v x.b.toNat).toNat

/-- The transfer that a put or get leaves. -/
def issuedXfer (x : MArgs) (s : State) (f : Focus) (g : Group) (k : Nat) (get : Bool) : Xfer :=
  { id := s.fresh, get, core := gidCore f.gid, gid := f.gid, uid := g.uid, team := g.team, ctx := k, lanes := f.lanes
    win := winNum (xferWin x (seen f g) get), off := winOff (xferWin x (seen f g) get), loc := xferLoc x (seen f g) get
    len := xferLen x (seen f g), ctr := winCtr (xferWin x (seen f g) get), op := none, stage := 0
    waits := xferWaits s g f.lanes k (xferLoc x (seen f g) get) (xferLen x (seen f g)) (ordRel x.ord)
    rel := if ordRel x.ord then
      some (xferScope (winAt s k (winNum (xferWin x (seen f g) get))) (coreDie (gidCore f.gid)) x.sc) else none }

/-- A put or get whose checks pass leaves its transfer. -/
theorem xferOp_issues {get : Bool} (hi : Issues s f g) (hacq : openAcq s g f.lanes = false) (hedits : NoEdits s g)
    (hcause : xferCause s (gidCore f.gid) (groupCtx s g) (xferWin x (seen f g) get) (xferLoc x (seen f g) get)
      (xferLen x (seen f g)) get = none)
    (hawake : TablesAwake s f g [(xferLoc x (seen f g) get, xferLen x (seen f g))]) :
    let t := touchWalks s (gidCore f.gid) (groupCtx s g) [(xferLoc x (seen f g) get, xferLen x (seen f g))]
    xferOp get x s =
      done f g { t with fresh := t.fresh + 1, xfers := t.xfers ++ [issuedXfer x t f g (groupCtx s g) get] } := by
  intro t
  refine (issuer_focus _ hi.1 hi.2).trans ((ordered_ready
    (accs := [{ lanes := f.lanes, lane := 0, addr := xferLoc x (seen f g) get }]) (n := xferLen x (seen f g))
    hacq hedits hawake).trans ?_)
  change trapOr f (xferCause s (gidCore f.gid) (groupCtx s g) (xferWin x (seen f g) get) (xferLoc x (seen f g) get)
    (xferLen x (seen f g)) get) s _ = _
  rw [hcause]
  rfl

/-- With a release a transfer waits for every request of the run's lanes that is not finished (R210). -/
theorem waits_issuedXfer {k : Nat} {get : Bool} (hrel : ordRel x.ord = true) {r : Req} (hr : r ∈ reqsOf s g.uid f.lanes) :
    r.id ∈ (issuedXfer x s f g k get).waits :=
  List.mem_append_left _ (List.mem_filterMap.mpr ⟨r, hr, by simp [hrel]⟩)

theorem putGetIssue : PutGetIssue := by
  intro x s f g hi hacq hedits wa loc n c hc hcause hawake
  have hexec : exec c.1 s = xferOp c.2 x s := by
    rcases List.mem_cons.mp hc with rfl | hc
    · rfl
    · cases List.mem_singleton.mp hc
      rfl
  obtain ⟨bins, fresh, htouch⟩ : ∃ bins fresh,
      touchWalks s (gidCore f.gid) (groupCtx s g) [(loc c.2, n)] = { s with bins, fresh } :=
    ⟨_, _, (touched_touchWalks s (gidCore f.gid) (groupCtx s g) [(loc c.2, n)]).rest⟩
  have hissues := hexec.trans (xferOp_issues hi hacq hedits hcause hawake)
  rw [show touchWalks s (gidCore f.gid) (groupCtx s g) [(xferLoc x (seen f g) c.2, xferLen x (seen f g))] = _
    from htouch] at hissues
  refine ⟨_, _, hissues, rfl, rfl, rfl, rfl, rfl, rfl, ?_, rfl, rfl, rfl, rfl, rfl, ?_, rfl⟩
  · exact congrArg (· % 2 ^ 48) (Nat.div_one (wa c.2))
  · exact fun hrel r hr => waits_issuedXfer hrel hr

/-! ### ctrw (R166, R169) -/

/-- A ctrw with no acquire to wait for: what its name, its counter and its threshold make of it. -/
theorem exec_ctrw_cases (hi : Issues s f g) (hacq : openAcq s g f.lanes = false) :
    let die := f.gid / 64 / 84
    let name := sGet (seen f g) x.a.toNat
    let thr := sGet (seen f g) x.b.toNat
    let c := ctrValue s (groupCtx s g) die name
    exec (.ctrw x) s =
      if badName s (groupCtx s g) die name.toNat then trap f 0x4C (name.toNat % 4096) s
      else if thr.toNat ≤ c.toNat then
        done f (sSet g x.d.toNat c) (if ordAcq x.ord then acquireAt s f.gid .die else s)
      else waits f (.ctrw die name thr x.d (ordAcq x.ord)) s := by
  intro die name thr c
  refine (issuer_focus _ hi.1 hi.2).trans ?_
  simp only [hacq, Bool.false_eq_true, if_false]
  rfl

theorem ctrwWaits : CtrwWaits := by
  intro x s f g hi hacq name thr die c
  have hexec : exec (.ctrw x) s = if badName s (groupCtx s g) die name.toNat then trap f 0x4C (name.toNat % 4096) s
      else if thr.toNat ≤ c.toNat then
        done f (sSet g x.d.toNat c) (if ordAcq x.ord then acquireAt s f.gid .die else s)
      else waits f (.ctrw die name thr x.d (ordAcq x.ord)) s := exec_ctrw_cases hi hacq
  refine ⟨fun hname hdue => ?reads, fun hname hearly => ?blocked, fun hname hclear => ?refused⟩
  case reads =>
    have hframe : IssueFrame s (if ordAcq x.ord then acquireAt s f.gid .die else s) := by
      split
      · exact issueFrame_acquireAt s f.gid .die
      · exact .refl s
    have hretire : retire f (sSet g x.d.toNat c) = { retire f g with sregs := (sSet g x.d.toNat c).sregs } :=
      (retire_sregs_flags f g (sSet g x.d.toNat c).sregs g.sticky g.raised).trans (by simp [retire_keeps f g])
    rw [hname, if_neg Bool.false_ne_true, if_pos hdue] at hexec
    exact ⟨_, _, hexec.trans (done_of_retire hretire), congrArg (fun m => mapPut m f.gid _) hframe.groups, rfl,
      sGet_sSet_self .., fun n hn => sGet_sSet_ne g c hn, hframe.mem, hframe.sram⟩
  case blocked =>
    rw [hexec, hname, if_neg Bool.false_ne_true, if_neg (Nat.not_le.mpr hearly)]
    exact waits_blocks _ hi
  case refused =>
    rw [hexec, hname, if_pos rfl]
    exact trap_traps 0x4C _ hi hclear

end Transfers

/-- Settles O26: past their waits and checks put and get leave a transfer, and ctrw reads, blocks or traps by its name and counter. -/
theorem transfersIssueAndCountersWait : Obligations.TransfersIssueAndCountersWait := ⟨putGetIssue, ctrwWaits⟩

end Sys2Proof.Machine
end

section
/-! PROOFS. lds, sts and atoms (R153, R156, R159, R189): what a write of a team's space makes of each byte of the SRAM, then the lanes
of an instruction in their order, and from it the results and the frame. -/

open Host Sys2Proof Sys2Proof.Machine Sys2Proof.Claims

namespace Sys2Proof.Machine

/-! ### Bytes of the SRAM (R23) -/

/-- The SRAM key of byte i of a reference. -/
def keyOf (s : State) (r : SramRef) (i : Nat) : Option Nat := sramByte s (teamAt s r.team) r.ob (r.off + i)

/-- Only the bytes of the SRAM differ. -/
def OnlyBytes (s t : State) : Prop := t = { s with sram := { s.sram with bytes := t.sram.bytes } }

theorem onlyBytes_sramWrite (s : State) (t : Team) (ob : Bool) (off : Nat) (bs : List Byte) :
    OnlyBytes s (sramWrite s t ob off bs) := sramWrite_eq bs s t ob off

theorem OnlyBytes.trans {s t u : State} (h : OnlyBytes s t) (h' : OnlyBytes t u) : OnlyBytes s u := by
  unfold OnlyBytes at *
  rw [h', h]

theorem onlyBytes_foldl {α : Type} {step : State → α → State} (h : ∀ s e, OnlyBytes s (step s e)) (l : List α) (s : State) :
    OnlyBytes s (l.foldl step s) := by
  induction l generalizing s with
  | nil => rfl
  | cons e l ih => exact (h s e).trans (ih _)

theorem OnlyBytes.keyOf {s t : State} (h : OnlyBytes s t) (r : SramRef) (i : Nat) : keyOf t r i = keyOf s r i := by rw [h]; rfl

theorem OnlyBytes.sramBad {s t : State} (h : OnlyBytes s t) (e : Acc × SramRef) (n : Nat) : sramBad t e n = sramBad s e n := by
  rw [h]
  rfl

theorem sramWrite_cons (s : State) (t : Team) (ob : Bool) (off : Nat) (b : Byte) (bs : List Byte) :
    ∃ s', OnlyBytes s s' ∧ sramWrite s t ob off (b :: bs) = sramWrite s' t ob (off + 1) bs ∧
      ∀ k, mapGet 0 s'.sram.bytes k = if sramByte s t ob off = some k then b else mapGet 0 s.sram.bytes k := by
  rw [sramWrite]
  refine ⟨_, ?only, rfl, fun k => ?get⟩
  case only => split <;> rfl
  case get =>
    split
    next a ha =>
      rw [ha]
      by_cases hk : a = k
      · rw [if_pos (congrArg some hk)]
        exact hk ▸ mapGet_set_self ..
      · rw [if_neg (fun h => hk (Option.some.inj h))]
        exact mapGet_set_ne _ _ _ (Ne.symm hk)
    next hnone => rw [if_neg (by simp [hnone])]

/-- A byte that a write does not name stays. -/
theorem sramWrite_miss {t : Team} {ob : Bool} {k : Nat} {bs : List Byte} {s : State} {off : Nat}
    (h : ∀ i, i < bs.length → sramByte s t ob (off + i) ≠ some k) :
    mapGet 0 (sramWrite s t ob off bs).sram.bytes k = mapGet 0 s.sram.bytes k := by
  induction bs generalizing s off with
  | nil => rfl
  | cons b bs ih =>
    obtain ⟨s', honly, hwrite, hget⟩ := sramWrite_cons s t ob off b bs
    have hrest : ∀ i, i < bs.length → sramByte s' t ob (off + 1 + i) ≠ some k := fun i hi => by
      rw [show sramByte s' t ob (off + 1 + i) = sramByte s t ob (off + (i + 1)) by rw [honly, Nat.add_right_comm]; rfl]
      exact h (i + 1) (by simpa using hi)
    rw [hwrite, ih hrest, hget, if_neg (show sramByte s t ob off ≠ some k from h 0 (Nat.succ_pos _))]

/-- A byte that a write names reads the last value written to it. -/
theorem sramWrite_hit {t : Team} {ob : Bool} {k i : Nat} {bs : List Byte} {s : State} {off : Nat} (hi : i < bs.length)
    (hkey : sramByte s t ob (off + i) = some k)
    (hlast : ∀ j, i < j → j < bs.length → sramByte s t ob (off + j) ≠ some k) :
    some (mapGet 0 (sramWrite s t ob off bs).sram.bytes k) = bs[i]? := by
  induction bs generalizing s off i with
  | nil => exact absurd hi (Nat.not_lt_zero i)
  | cons b bs ih =>
    obtain ⟨s', honly, hwrite, hget⟩ := sramWrite_cons s t ob off b bs
    have hbyte : ∀ j, sramByte s' t ob (off + 1 + j) = sramByte s t ob (off + (j + 1)) := fun j => by
      rw [honly, Nat.add_right_comm]
      rfl
    have hlt : ∀ {j}, j < bs.length → j + 1 < (b :: bs).length := fun hj => by simpa using hj
    rw [hwrite]
    cases i with
    | zero =>
      have hmiss : ∀ j, j < bs.length → sramByte s' t ob (off + 1 + j) ≠ some k := fun j hj => by
        rw [hbyte]
        exact hlast (j + 1) (Nat.succ_pos j) (hlt hj)
      rw [sramWrite_miss hmiss, hget, if_pos (show sramByte s t ob off = some k from hkey)]
      rfl
    | succ i =>
      refine ih (by simpa using hi) ((hbyte i).trans hkey) fun j hj hjl => ?_
      rw [hbyte]
      exact hlast (j + 1) (Nat.succ_lt_succ hj) (hlt hjl)

/-- Within a granule of 4 KiB the keys follow each other (R26). -/
theorem sramByte_add (s : State) (t : Team) (ob : Bool) {off m : Nat} (h : off % 4096 + m < 4096) :
    sramByte s t ob (off + m) = (sramByte s t ob off).map (· + m) := by
  unfold sramByte
  rw [show (off + m) / 4096 = off / 4096 by omega, show (off + m) % 4096 = off % 4096 + m by omega]
  split
  · rfl
  · split
    · rfl
    · simp only [Option.map_some, Nat.add_assoc]

/-- The bytes of an aligned access lie in one granule, so that each has a key of its own. -/
theorem keyOf_injective {s : State} {r : SramRef} {n i j k : Nat} (hn : n ∈ [1, 2, 4, 8]) (halign : r.off % n = 0) (hi : i < n)
    (hj : j < n) (hki : keyOf s r i = some k) (hkj : keyOf s r j = some k) : i = j := by
  have hgranule : ∀ {m}, m < n → r.off % 4096 + m < 4096 := by
    intro m hm
    simp only [List.mem_cons, List.not_mem_nil, or_false] at hn
    rcases hn with rfl | rfl | rfl | rfl <;> omega
  unfold keyOf at hki hkj
  rw [sramByte_add _ _ _ (hgranule hi)] at hki
  rw [sramByte_add _ _ _ (hgranule hj)] at hkj
  obtain ⟨a, ha, rfl⟩ := Option.map_eq_some_iff.mp hki
  obtain ⟨b, hb, hba⟩ := Option.map_eq_some_iff.mp hkj
  cases ha.symm.trans hb
  omega

/-! ### Checks that pass (R153, R170) -/

/-- A reference has the offset of its address (R153). -/
theorem off_of_sramRef {s : State} {tuid a n : Nat} {r : SramRef} (h : sramRef s tuid a n = some r) : r.off = a % 2 ^ 20 := by
  unfold sramRef at h
  dsimp only at h
  split at h
  · cases h
  · split at h
    · cases h
    · split at h
      · cases h
        simp [bitsOf]
      · cases h

/-- An access that passes has the reference of its address, which is aligned to its size. -/
theorem sramCheck_ok {s : State} {core tuid a n : Nat} {w : Bool} {r : SramRef} (h : sramCheck s core tuid w a n = .ok r) :
    sramRef s tuid a n = some r ∧ a % n = 0 := by
  unfold sramCheck at h
  split at h
  · cases h
  next hq =>
    split at h
    · cases h
    next haligned =>
      split at h
      · cases h
      · split at h
        · cases h
        · cases h
          exact ⟨hq, by simpa using haligned⟩

theorem aligned_of_sramCheck {s : State} {core tuid a n : Nat} {w : Bool} {r : SramRef} (hn : n ∈ [1, 2, 4, 8])
    (h : sramCheck s core tuid w a n = .ok r) : r.off % n = 0 := by
  obtain ⟨href, haligned⟩ := sramCheck_ok h
  rw [off_of_sramRef href]
  simp only [List.mem_cons, List.not_mem_nil, or_false] at hn
  rcases hn with rfl | rfl | rfl | rfl <;> omega

/-- Checks that all pass give each access its reference. -/
theorem exists_refs {check : Acc → Except Nat SramRef} {accs : List Acc} {P : SramRef → Prop}
    (h : ∀ a ∈ accs, ∃ r, check a = .ok r ∧ P r) : ∃ ref : Acc → SramRef, ∀ a ∈ accs, check a = .ok (ref a) ∧ P (ref a) := by
  have : Nonempty SramRef := ⟨⟨0, false, 0⟩⟩
  choose! ref href using h
  exact ⟨ref, href⟩

theorem sramChecks_ok {s : State} {f : Focus} {g : Group} {w : Bool} {n : Nat} {accs : List Acc} {ref : Acc → SramRef}
    (h : ∀ a ∈ accs, sramCheck s (gidCore f.gid) g.team w a.addr n = .ok (ref a)) :
    sramChecks s f g w n accs = accs.map (fun a => (a, .ok (ref a))) :=
  List.map_congr_left fun a ha => by rw [h a ha]

/-! ### Writes of the lanes in their order (R156) -/

section Stores
variable {data : Acc → List Byte} {n k : Nat}

/-- The bytes of one lane stored. -/
def storeLane (data : Acc → List Byte) (s : State) (e : Acc × SramRef) : State :=
  sramWrite s (teamAt s e.2.team) e.2.ob e.2.off (data e.1)

theorem onlyBytes_storeLane (data : Acc → List Byte) (s : State) (e : Acc × SramRef) : OnlyBytes s (storeLane data s e) :=
  onlyBytes_sramWrite ..

theorem storeLanes_miss (hlen : ∀ a, (data a).length = n) (es : List (Acc × SramRef)) {s : State}
    (h : ∀ e ∈ es, ∀ i, i < n → keyOf s e.2 i ≠ some k) :
    mapGet 0 (es.foldl (storeLane data) s).sram.bytes k = mapGet 0 s.sram.bytes k := by
  induction es generalizing s with
  | nil => rfl
  | cons e es ih =>
    obtain ⟨he, hes⟩ := List.forall_mem_cons.mp h
    have hrest : ∀ d ∈ es, ∀ i, i < n → keyOf (storeLane data s e) d.2 i ≠ some k := fun d hd i hi => by
      rw [(onlyBytes_storeLane data s e).keyOf]
      exact hes d hd i hi
    exact (ih hrest).trans (sramWrite_miss fun i hi => he i (hlen e.1 ▸ hi))

/-- The highest lane that stores a byte gives it. -/
theorem storeLanes_last (hn : n ∈ [1, 2, 4, 8]) (hlen : ∀ a, (data a).length = n) {es : List (Acc × SramRef)} {s : State}
    {e : Acc × SramRef} {i j : Nat} (he : es[j]? = some e) (halign : e.2.off % n = 0) (hi : i < n) (hkey : keyOf s e.2 i = some k)
    (hlast : ∀ j' e', j < j' → es[j']? = some e' → ∀ i', i' < n → keyOf s e'.2 i' ≠ some k) :
    some (mapGet 0 (es.foldl (storeLane data) s).sram.bytes k) = (data e.1)[i]? := by
  obtain ⟨hj, rfl⟩ := List.getElem?_eq_some_iff.mp he
  have hsplit : es = es.take j ++ es[j] :: es.drop (j + 1) := by simp
  set u := (es.take j).foldl (storeLane data) s
  have honly : OnlyBytes s u := onlyBytes_foldl (onlyBytes_storeLane data) _ s
  have hlater : ∀ e' ∈ es.drop (j + 1), ∀ i', i' < n → keyOf (storeLane data u es[j]) e'.2 i' ≠ some k := by
    intro e' he' i' hi'
    obtain ⟨m, hm⟩ := List.mem_iff_getElem?.mp he'
    rw [(honly.trans (onlyBytes_storeLane data u es[j])).keyOf]
    exact hlast (j + 1 + m) e' (by omega) (by rw [← List.getElem?_drop, hm]) i' hi'
  have hfold : es.foldl (storeLane data) s = (es.drop (j + 1)).foldl (storeLane data) (storeLane data u es[j]) := by
    conv_lhs => rw [hsplit]
    rw [List.foldl_append, List.foldl_cons]
  rw [hfold, storeLanes_miss hlen _ hlater]
  refine sramWrite_hit (hlen _ ▸ hi) ((honly.keyOf es[j].2 i).trans hkey) fun i' hlt hi' hkey' => ?_
  have hsame := keyOf_injective hn halign hi (hlen es[j].1 ▸ hi') hkey ((honly.keyOf es[j].2 i').symm.trans hkey')
  omega

end Stores

/-- Clean granules change no byte and no tag. -/
theorem cleanCovered_eq (s : State) (n : Nat) (l : List SramRef) :
    ∃ poison, cleanCovered s n l = { s with sram := { s.sram with poison } } := by
  have hfold : ∀ (step : State → SramRef → State), (∀ s r, ∃ poison, step s r = { s with sram := { s.sram with poison } }) →
      ∀ (l : List SramRef) s, ∃ poison, l.foldl step s = { s with sram := { s.sram with poison } } := by
    intro step hstep l
    induction l with
    | nil => exact fun s => ⟨_, rfl⟩
    | cons r l ih =>
      intro s
      obtain ⟨p, hp⟩ := hstep s r
      obtain ⟨q, hq⟩ := ih (step s r)
      exact ⟨q, by rw [List.foldl_cons, hq, hp]⟩
  refine hfold _ (fun s r => ?_) l s
  dsimp only
  split
  · unfold setPoison
    split
    · exact ⟨_, rfl⟩
    · exact ⟨_, rfl⟩
  · exact ⟨_, rfl⟩

theorem length_leBytes (n v : Nat) : (leBytes n v).length = n := by
  induction n generalizing v with
  | zero => rfl
  | succ n ih => rw [leBytes, List.length_cons, ih]

/-! ### The instructions -/

section Scratchpad
variable {x : MArgs} {s : State} {f : Focus} {g : Group} {ref : Acc → SramRef}

/-- The word that a lane of lds reads. -/
def sramWord (x : MArgs) (s : State) (r : SramRef) : Nat := leNat (sramRead s (teamAt s r.team) r.ob r.off (accSize x.ty))

/-- lds past its waits and checks. -/
theorem execLds_issues (hi : Issues s f g) (hready : Ready { x with ord := .rlx } s f g) (hfit : MemFits x (seen f g) true false)
    (hok : ∀ a ∈ accsOf x (seen f g) f.lanes f.lanes,
      sramCheck s (gidCore f.gid) g.team false a.addr (accSize x.ty) = .ok (ref a) ∧ sramBad s (a, ref a) (accSize x.ty) = false) :
    execLds x s = startFL f g { s with fresh := s.fresh + 1 } { openPend x s f (seen f g) f.lanes false true with
      vals := (accsOf x (seen f g) f.lanes f.lanes).map (fun a => (a.lane, extendTo x.ty (sramWord x s (ref a)))), fault := none } := by
  obtain ⟨hacq, hedits, -⟩ := hready
  set accs := accsOf x (seen f g) f.lanes f.lanes with haccs
  have hclean : (accs.map (fun a => (a, ref a))).find? (fun e => sramBad s e (accSize x.ty)) = none := by
    rw [List.find?_eq_none]
    intro e he
    obtain ⟨a, ha, rfl⟩ := List.mem_map.mp he
    exact Bool.eq_false_iff.mp (hok a ha).2
  refine (issuer_focus _ hi.1 hi.2).trans ?_
  dsimp only
  rw [← haccs, withRegs_inside f g _ s _ (inAllot_memVecs hfit), ordered_ready hacq hedits rfl,
    sramChecks_ok (fun a ha => (hok a ha).1), failures_ok, withChecks_nil, passed_ok, hclean, List.map_map]
  rfl

theorem ldsReads : LdsReads := by
  intro x s f g hi hready hfit hchecks
  obtain ⟨ref, hok⟩ := exists_refs hchecks
  refine ⟨_, _, execLds_issues hi hready hfit hok, ⟨rfl, rfl, rfl, rfl, rfl, rfl, rfl, rfl⟩, rfl, rfl, rfl, rfl, rfl, rfl,
    fun a ha r hr => ?_⟩
  cases (hok a ha).1.symm.trans hr
  exact List.mem_map.mpr ⟨a, ha, rfl⟩

/-- sts past its waits and checks. -/
theorem execSts_issues (hi : Issues s f g) (hready : Ready x s f g) (hfit : MemFits x (seen f g) false true)
    (hok : ∀ a ∈ accsOf x (seen f g) f.lanes (guardLanes x f (seen f g)),
      sramCheck s (gidCore f.gid) g.team true a.addr (accSize x.ty) = .ok (ref a)) :
    let es := (accsOf x (seen f g) f.lanes (guardLanes x f (seen f g))).map (fun a => (a, ref a))
    execSts x s = done f g (cleanCovered (es.foldl (storeLane (fun a => dataBytes x (seen f g) a.lane)) s) (accSize x.ty)
      (es.map (·.2))) := by
  intro es
  refine (issuer_focus _ hi.1 hi.2).trans ?_
  dsimp only
  rw [withRegs_inside f g _ s _ (inAllot_memVecs hfit), ordered_relOf (accs := []) hready rfl, sramChecks_ok hok, failures_ok, withChecks_nil,
    passed_ok]
  rfl

theorem stsStores : StsStores := by
  intro x s f g hi hready hfit accs n hchecks hn
  obtain ⟨ref, hok⟩ := exists_refs (P := fun _ => True) fun a ha => (hchecks a ha).imp fun _ h => ⟨h, trivial⟩
  replace hok := fun a ha => (hok a ha).1
  set es := accs.map (fun a => (a, ref a))
  set u := es.foldl (storeLane (fun a => dataBytes x (seen f g) a.lane)) s
  have hu : OnlyBytes s u := onlyBytes_foldl (onlyBytes_storeLane _) es s
  have hlen : ∀ a : Acc, (dataBytes x (seen f g) a.lane).length = n := fun a => length_leBytes ..
  have hget : ∀ {j a}, accs[j]? = some a → es[j]? = some (a, ref a) := fun h => by rw [List.getElem?_map, h]; rfl
  have href : ∀ {a r}, a ∈ accs → sramCheck s (gidCore f.gid) g.team true a.addr n = .ok r → r = ref a := fun ha hr =>
    (Except.ok.inj ((hok _ ha).symm.trans hr)).symm
  obtain ⟨poison, hclean⟩ := cleanCovered_eq u (accSize x.ty) (es.map (·.2))
  have hexec : exec (.sts x) s = .next _ := execSts_issues hi hready hfit hok
  rw [show cleanCovered (List.foldl _ s _) _ _ = _ from hclean] at hexec
  refine ⟨_, hexec, ?groups, rfl, ?mem, ?reqs, ?tags, fun key hmiss => ?frame, fun j i key a ha hwrite hlast => ?stored⟩
  case groups => rw [hu]; rfl
  case mem => rw [hu]; rfl
  case reqs => rw [hu]; rfl
  case tags => rw [hu]; rfl
  case frame =>
    refine storeLanes_miss hlen es fun e he i hi => ?_
    obtain ⟨a, ha, rfl⟩ := List.mem_map.mp he
    exact hmiss a ha _ (hok a ha) i hi
  case stored =>
    obtain ⟨a', r, ha', hr, hi, hkey⟩ := hwrite
    cases ha.symm.trans ha'
    have hmem := List.mem_of_getElem? ha
    cases href hmem hr
    refine storeLanes_last hn hlen (hget ha) (aligned_of_sramCheck hn hr) hi hkey fun j' e' hj' he' i' hi' hkey' => ?_
    obtain ⟨b, hb, rfl⟩ := List.getElem?_map .. ▸ he' |> Option.map_eq_some_iff.mp
    exact hlast j' i' hj' ⟨b, _, hb, hok b (List.mem_of_getElem? hb), hi', hkey'⟩

/-! ### atoms (R159) -/

/-- The bytes that a lane of atoms stores. -/
def atomBytes (x : MArgs) (v : Group) (s : State) (e : Acc × SramRef) : List Byte :=
  leBytes (accSize x.ty) (atomNew x.aop.toNat x.ty (sramWord x s e.2) (readReg (x.form != .s) v x.b e.1.lane).toNat
    (readReg (x.form != .s) v x.d e.1.lane).toNat)

/-- One lane of atoms. -/
def atomLane (x : MArgs) (v : Group) (s : State) (e : Acc × SramRef) : State := storeLane (fun _ => atomBytes x v s e) s e

/-- The results of the lanes, each from what the lanes before it have left. -/
def atomVals (x : MArgs) (v : Group) : State → List (Acc × SramRef) → List (Nat × Word)
  | _, [] => []
  | s, e :: es => (e.1.lane, extendTo x.ty (sramWord x s e.2)) :: atomVals x v (atomLane x v s e) es

theorem onlyBytes_atomLane (x : MArgs) (v : Group) (s : State) (e : Acc × SramRef) : OnlyBytes s (atomLane x v s e) :=
  onlyBytes_storeLane ..

theorem length_atomVals (x : MArgs) (v : Group) (es : List (Acc × SramRef)) (s : State) : (atomVals x v s es).length = es.length := by
  induction es generalizing s with
  | nil => rfl
  | cons e es ih => exact congrArg (· + 1) (ih _)

theorem getElem?_atomVals {v : Group} {es : List (Acc × SramRef)} {j : Nat} {e : Acc × SramRef} (he : es[j]? = some e) :
    (atomVals x v s es)[j]? =
      some (e.1.lane, extendTo x.ty (sramWord x ((es.take j).foldl (atomLane x v) s) e.2)) := by
  induction es generalizing s j with
  | nil => cases he
  | cons d es ih =>
    cases j with
    | zero =>
      cases he
      rfl
    | succ j => exact ih he

/-- The fold of atoms over lanes that meet no poison. -/
theorem foldl_atomLane {v : Group} {step : State × List (Nat × Word) × Option (Nat × Nat) → Acc × SramRef →
      State × List (Nat × Word) × Option (Nat × Nat)}
    (hstep : ∀ s l e, sramBad s e (accSize x.ty) = false →
      step (s, l, none) e = (atomLane x v s e, l ++ [(e.1.lane, extendTo x.ty (sramWord x s e.2))], none))
    (es : List (Acc × SramRef)) (l : List (Nat × Word)) (hclean : ∀ e ∈ es, sramBad s e (accSize x.ty) = false) :
    es.foldl step (s, l, none) = (es.foldl (atomLane x v) s, l ++ atomVals x v s es, none) := by
  induction es generalizing s l with
  | nil => simp [atomVals]
  | cons e es ih =>
    obtain ⟨he, hes⟩ := List.forall_mem_cons.mp hclean
    rw [List.foldl_cons, hstep s l e he,
      ih _ fun d hd => ((onlyBytes_atomLane x v s e).sramBad d _).trans (hes d hd)]
    simp [atomVals]

/-- atoms past its waits and checks. -/
theorem execAtoms_issues (hi : Issues s f g) (hready : Ready x s f g) (hfit : MemFits x (seen f g) true true)
    (hok : ∀ a ∈ accsOf x (seen f g) f.lanes f.lanes,
      sramCheck s (gidCore f.gid) g.team true a.addr (accSize x.ty) = .ok (ref a) ∧ sramBad s (a, ref a) (accSize x.ty) = false) :
    let es := (accsOf x (seen f g) f.lanes f.lanes).map (fun a => (a, ref a))
    let u := es.foldl (atomLane x (seen f g)) s
    execAtoms x s = startFL f g { u with fresh := u.fresh + 1 } { openPend x s f (seen f g) f.lanes true true with
      vals := atomVals x (seen f g) s es, fault := none } := by
  intro es u
  have hclean : ∀ e ∈ es, sramBad s e (accSize x.ty) = false := by
    intro e he
    obtain ⟨a, ha, rfl⟩ := List.mem_map.mp he
    exact (hok a ha).2
  refine (issuer_focus _ hi.1 hi.2).trans ?_
  dsimp only
  rw [withRegs_inside f g _ s _ (inAllot_memVecs hfit), ordered_relOf (accs := []) hready rfl, sramChecks_ok (fun a ha => (hok a ha).1),
    failures_ok, withChecks_nil, passed_ok, foldl_atomLane (v := seen f g) ?step es [] hclean]
  · rfl
  case step =>
    intro s l e he
    rw [if_neg (by rw [he]; exact Bool.false_ne_true)]
    rfl

theorem atomsUpdates : AtomsUpdates := by
  intro x s f g hi hready hfit n accs check word hchecks hn
  obtain ⟨ref, hok⟩ := exists_refs hchecks
  set es := accs.map (fun a => (a, ref a)) with hes
  set m := fun j => ((es.take j).foldl (atomLane x (seen f g)) s).sram with hm
  have honly : ∀ j, (es.take j).foldl (atomLane x (seen f g)) s = { s with sram := m j } := fun j => by
    have h := onlyBytes_foldl (onlyBytes_atomLane x (seen f g)) (es.take j) s
    unfold OnlyBytes at h
    rw [hm]
    dsimp only
    rw [h]
  have hall : es.foldl (atomLane x (seen f g)) s = { s with sram := m accs.length } := by
    rw [← honly, List.take_of_length_le (by simp [hes])]
  have hexec := execAtoms_issues hi hready hfit hok
  dsimp only at hexec
  rw [show (List.foldl _ s (List.map _ _)) = _ from hall] at hexec
  refine ⟨_, _, hexec, ⟨rfl, rfl, rfl, rfl, rfl, rfl, rfl, rfl⟩, rfl, rfl, rfl, ?_, rfl, rfl, m, rfl, rfl, fun j a r ha hr => ?_⟩
  · exact (length_atomVals ..).trans (List.length_map _)
  intro key old
  have hmem := List.mem_of_getElem? ha
  cases (hok a hmem).1.symm.trans hr
  have hget : es[j]? = some (a, ref a) := by rw [hes, List.getElem?_map, ha]; rfl
  have hnext : m (j + 1) = (atomLane x (seen f g) { s with sram := m j } (a, ref a)).sram := by
    rw [← honly, hm]
    dsimp only
    rw [List.take_add_one, hget, Option.toList_some, List.foldl_append]
    rfl
  refine ⟨?value, fun i b hib hkey => ?stored, fun b hmiss => ?frame⟩
  case value => rw [getElem?_atomVals hget, honly]; rfl
  case stored =>
    rw [hnext]
    refine sramWrite_hit (by rw [atomBytes, length_leBytes]; exact hib) hkey fun i' hlt hi' hkey' => ?_
    rw [atomBytes, length_leBytes] at hi'
    exact absurd (keyOf_injective (s := s) hn (aligned_of_sramCheck hn hr) hib hi' hkey hkey') (by omega)
  case frame =>
    rw [hnext]
    exact sramWrite_miss fun i hi => hmiss i (by rw [atomBytes, length_leBytes] at hi; exact hi)

end Scratchpad

/-- Settles O23: lds reads each lane's bytes, sts and atoms write those of their lanes in ascending order and leave every other. -/
theorem scratchpadAccesses : Obligations.ScratchpadAccesses := ⟨ldsReads, stsStores, atomsUpdates⟩

end Sys2Proof.Machine
end

section
/-! PROOFS. The answers of loads and atomics (R152, R155, R160, R171-R173): what a response fills or updates leaves the groups and both
memories alone, and the pending result ends with the values of its lanes or with the fault that R171 reports. -/

open Host Sys2Proof Sys2Proof.Machine Sys2Proof.Claims

namespace Sys2Proof.Machine

/-! ### L1 copies and the fills in flight (R182, R187) -/

/-- Only what the cores hold, and which requests still fill an L1, differ. -/
structure FillsOnly (s t : State) : Prop where
  rest : t = { s with cores := t.cores, reqs := t.reqs }
  fills : ∃ fill : Req → Bool, t.reqs = s.reqs.map (fun r => { r with fill := fill r })

theorem FillsOnly.of_cores (s : State) (cores : SMap Core) : FillsOnly s { s with cores } :=
  ⟨rfl, (·.fill), (List.map_id s.reqs).symm⟩

theorem FillsOnly.refl (s : State) : FillsOnly s s := .of_cores s s.cores

theorem FillsOnly.trans {s t u : State} (h : FillsOnly s t) (h' : FillsOnly t u) : FillsOnly s u := by
  obtain ⟨fill, hfill⟩ := h.fills
  obtain ⟨fill', hfill'⟩ := h'.fills
  exact ⟨by rw [h'.rest, h.rest], fun r => fill' { r with fill := fill r }, by rw [hfill', hfill, List.map_map]; rfl⟩

theorem fillsOnly_foldl {α : Type} {step : State → α → State} (h : ∀ s e, FillsOnly s (step s e)) (l : List α) (s : State) :
    FillsOnly s (l.foldl step s) := by
  induction l generalizing s with
  | nil => exact .refl s
  | cons e l ih => exact (h s e).trans (ih _)

theorem fillsOnly_clearFills (s : State) (core : Nat) (p : Req → Bool) : FillsOnly s (clearFills s core p) := by
  refine ⟨rfl, fun r => if r.stage = .accepted ∧ reqL1 s r = core ∧ p r then false else r.fill, List.map_congr_left fun r _ => ?_⟩
  dsimp only
  split <;> rfl

theorem fillsOnly_dropClean (s : State) (core : Nat) : FillsOnly s (dropClean s core) :=
  (FillsOnly.of_cores s _).trans (fillsOnly_clearFills ..)

/-- An acquire drops the clean lines of some cores' L1s. -/
theorem exists_acquireAt_cores (s : State) (gid : Nat) (sc : Scope) :
    ∃ cores : List Nat, acquireAt s gid sc = cores.foldl dropClean s := by
  cases sc with
  | grp | team => exact ⟨[], rfl⟩
  | clu =>
    unfold acquireAt
    dsimp only
    split
    · exact ⟨[], rfl⟩
    · exact ⟨[gidCore gid], rfl⟩
  | die | pkg | sys => exact ⟨l1Cores s gid, rfl⟩

theorem fillsOnly_acquireAt (s : State) (gid : Nat) (sc : Scope) : FillsOnly s (acquireAt s gid sc) := by
  obtain ⟨cores, h⟩ := exists_acquireAt_cores s gid sc
  exact h ▸ fillsOnly_foldl fillsOnly_dropClean cores s

theorem fillsOnly_l1Drop (s : State) (core line : Nat) : FillsOnly s (l1Drop s core line) :=
  (FillsOnly.of_cores s _).trans (fillsOnly_clearFills ..)

theorem fillsOnly_l1Fill (s : State) (core line : Nat) (gen : BitVec 16) (tag : Nat) (manual shadow : Bool) (data : List Byte) :
    FillsOnly s (l1Fill s core line gen tag manual shadow data) := by
  unfold l1Fill
  dsimp only
  generalize (if shadow = true then data else overlayStores s core line tag gen data) = d
  split
  · exact .refl s
  · split
    · split
      · split
        · exact fillsOnly_l1Drop s core line
        · exact .refl s
      · split
        · exact .refl s
        · exact .of_cores s _
    · split
      · exact .of_cores s _
      · exact .refl s

theorem fillsOnly_fillFrom (s : State) (r : Req) : FillsOnly s (fillFrom s r) := by
  have hline : ∀ u, FillsOnly s u →
      FillsOnly s (if r.attr.zero then u else clearFills u (reqL1 s r) (fun q => lineOf q.pa == lineOf r.pa && decide (q.tag < r.tag))) := by
    intro u hu
    split
    · exact hu
    · exact hu.trans (fillsOnly_clearFills ..)
  unfold fillFrom
  split
  · split
    · exact .of_cores s _
    · exact .refl s
  · refine hline _ ?_
    split
    · exact fillsOnly_l1Fill ..
    · split
      · split
        · exact fillsOnly_l1Drop ..
        · exact .refl s
      · exact .refl s

theorem fillsOnly_l1Atom (s : State) (r : Req) : FillsOnly s (l1Atom s r) := by
  unfold l1Atom
  split
  · split
    · exact .refl s
    · exact (FillsOnly.of_cores s _).trans (fillsOnly_clearFills ..)
  · exact .refl s

/-- A result has its requests whatever they fill. -/
theorem FillsOnly.pendReqs_nil {s t : State} (h : FillsOnly s t) {id : Nat} (hnone : pendReqs s id = []) : pendReqs t id = [] := by
  obtain ⟨fill, hfill⟩ := h.fills
  have hreqs := List.filter_eq_nil_iff.mp hnone
  refine List.filter_eq_nil_iff.mpr fun r hr => ?_
  rw [hfill] at hr
  obtain ⟨q, hq, rfl⟩ := List.mem_map.mp hr
  exact hreqs q hq

/-! ### The fault that is reported (R171) -/

theorem leastBy_spec {α : Type} {measure : α → Nat} {l : List α} {x : α} (h : leastBy measure l = some x) :
    x ∈ l ∧ ∀ y ∈ l, measure x ≤ measure y := by
  induction l generalizing x with
  | nil => cases h
  | cons a l ih =>
    rw [leastBy] at h
    cases hrest : leastBy measure l with
    | none =>
      have hnil : l = [] := by
        cases l with
        | nil => rfl
        | cons b l => rw [leastBy] at hrest; split at hrest <;> cases hrest
      rw [hrest] at h
      cases h
      simp [hnil]
    | some y =>
      obtain ⟨hy, hleast⟩ := ih hrest
      rw [hrest] at h
      have hx := Option.some.inj h
      split at hx
      · next hle =>
        exact hx ▸ ⟨List.mem_cons_self, List.forall_mem_cons.mpr ⟨le_refl _, fun z hz => hle.trans (hleast z hz)⟩⟩
      · next hlt =>
        exact hx ▸ ⟨List.mem_cons_of_mem _ hy, List.forall_mem_cons.mpr ⟨(Nat.not_le.mp hlt).le, hleast⟩⟩

theorem leastBy_isSome {α : Type} {measure : α → Nat} {l : List α} (h : l ≠ []) : ∃ x, leastBy measure l = some x := by
  cases l with
  | nil => exact absurd rfl h
  | cons a l =>
    rw [leastBy]
    split
    · exact ⟨_, rfl⟩
    · exact ⟨_, rfl⟩

/-- Of several causes one is reported: the lowest of those for the handler, where there is one. -/
theorem reported_spec {l : List (Nat × Nat)} (hl : l ≠ []) :
    ∃ e ∈ l, reported l = some e ∧ ∀ d ∈ l, supCause d.1 = false → supCause e.1 = false ∧ e.1 ≤ d.1 := by
  have hmem : ∀ {d}, d ∈ l → supCause d.1 = false → d ∈ l.filter (fun e => !supCause e.1) := fun hd hs =>
    List.mem_filter.mpr ⟨hd, by simp [hs]⟩
  unfold reported
  by_cases hown : l.filter (fun e => !supCause e.1) = []
  · obtain ⟨e, he⟩ := leastBy_isSome (measure := fun e : Nat × Nat => 2 ^ 8 - e.1) hl
    rw [hown]
    exact ⟨e, (leastBy_spec he).1, he, fun d hd hs => absurd (hmem hd hs) (hown ▸ List.not_mem_nil)⟩
  · obtain ⟨e, he⟩ := leastBy_isSome (measure := fun e : Nat × Nat => e.1) hown
    obtain ⟨hin, hleast⟩ := leastBy_spec he
    obtain ⟨hel, hes⟩ := List.mem_filter.mp hin
    rw [he]
    exact ⟨e, hel, rfl, fun d hd hs => ⟨by simpa using hes, hleast d (hmem hd hs)⟩⟩

theorem pendFault_none {rs : List Req} (h : ∀ r ∈ rs, r.poison = false) : pendFault rs = none := by
  rw [pendFault, List.filter_eq_nil_iff.mpr fun r hr => by simp [h r hr]]
  rfl

theorem pendFault_some {rs : List Req} (h : ∃ r ∈ rs, r.poison = true) :
    ∃ r ∈ rs, r.poison = true ∧ pendFault rs = some (r.tag, if r.tag = 0xB1 then r.va / 128 * 128 else r.va % 2 ^ 56) ∧
      ∀ r' ∈ rs, r'.poison = true → r'.tag ≠ 0x47 → r'.tag ≠ 0x4A → r.tag ≠ 0x47 ∧ r.tag ≠ 0x4A ∧ r.tag ≤ r'.tag := by
  obtain ⟨b, hb, hbad⟩ := h
  have hne : (rs.filter (fun r => r.poison)).map
      (fun r => (r.tag, if r.tag = 0xB1 then r.va / 128 * 128 else r.va % 2 ^ 56)) ≠ [] :=
    List.ne_nil_of_mem (List.mem_map_of_mem (List.mem_filter.mpr ⟨hb, hbad⟩))
  obtain ⟨e, he, hreported, hleast⟩ := reported_spec hne
  obtain ⟨r, hr, rfl⟩ := List.mem_map.mp he
  obtain ⟨hin, hpoison⟩ := List.mem_filter.mp hr
  refine ⟨r, hin, hpoison, hreported, fun r' hr' hpoison' h47 h4A => ?_⟩
  obtain ⟨hsup, hle⟩ := hleast _ (List.mem_map_of_mem (List.mem_filter.mpr ⟨hr', hpoison'⟩)) (by simp [supCause, h47, h4A])
  simp only [supCause, Bool.or_eq_false_iff, beq_eq_false_iff_ne] at hsup
  exact ⟨hsup.1, hsup.2, hle⟩

/-! ### The end of a pending result -/

/-- The group of a result that ends. -/
def endPend (g : Group) (p : Pend) (vals : List (Nat × Word)) : Option (Nat × Nat) → Group
  | some x => { g with pends := g.pends.map (fun q => if q.id = p.id then { q with fault := some x } else q) }
  | none => writeDest { g with pends := g.pends.filter (fun q => q.id != p.id) } p.dest vals

theorem finishPend_effect {s : State} {gid : Nat} {g : Group} (hg : mapFind s.groups gid = some g) (p : Pend)
    (vals : List (Nat × Word)) (fault : Option (Nat × Nat)) :
    let t := finishPend s gid p vals fault
    mapFind t.groups gid = some (endPend g p vals fault) ∧ t.mem = s.mem ∧ t.sram = s.sram ∧ pendReqs t p.id = [] := by
  intro t
  set u := putGroup { s with reqs := s.reqs.filter (fun r => r.pend != p.id) } gid (endPend g p vals fault) with hu
  have hupd : updGroup { s with reqs := s.reqs.filter (fun r => r.pend != p.id) } gid (fun g => endPend g p vals fault) = u :=
    congrArg (fun x => putGroup _ gid (endPend x p vals fault)) (groupAt_of_find hg)
  have hfills : FillsOnly u t := by
    cases fault with
    | some x =>
      have ht : t = u := by
        refine Eq.trans ?_ hupd
        show finishPend s gid p vals (some x) = _
        unfold finishPend
        cases p.acq <;> rfl
      exact ht ▸ .refl u
    | none =>
      have ht : t = p.acq.elim u (acquireAt u gid) := by
        rw [← hupd]
        show finishPend s gid p vals none = _
        unfold finishPend
        cases p.acq <;> rfl
      rw [ht]
      cases p.acq with
      | none => exact .refl u
      | some sc => exact fillsOnly_acquireAt u gid sc
  have hnone : pendReqs u p.id = [] := List.filter_eq_nil_iff.mpr fun r hr => by
    have := (List.mem_filter.mp hr).2
    simpa using this
  refine ⟨?_, by rw [hfills.rest]; rfl, by rw [hfills.rest]; rfl, hfills.pendReqs_nil hnone⟩
  rw [hfills.rest]
  exact mapFind_put_self ..

theorem writeDest_keeps (g : Group) (d : Dest) (vals : List (Nat × Word)) :
    writeDest g d vals = { g with vregs := (writeDest g d vals).vregs, sregs := (writeDest g d vals).sregs } := by
  cases d with
  | vec j =>
    rw [writeDest, writeLanes_rest]
  | uni n =>
    rw [writeDest]
    split <;> rfl

/-! ### The values of the lanes (R155, R160) -/

/-- The lanes that an answer reaches. -/
def answerLanes (p : Pend) (r : Req) : LaneMask := if p.atom then r.lanes else r.lanes &&& p.active

/-- The value that an answer gives its lanes. -/
def answerValue (p : Pend) (r : Req) : Word :=
  extendTo p.ty (leNat (if p.atom = true then r.data else (r.data.drop (r.va % 128)).take r.size))

/-- The values of all lanes. -/
def answerVals (p : Pend) (rs : List Req) : List (Nat × Word) :=
  (rs.map (fun r => (lanesOf (answerLanes p r)).map (fun l => (l, answerValue p r)))).flatten

theorem mem_answerVals {p : Pend} {rs : List Req} {e : Nat × Word} :
    e ∈ answerVals p rs ↔ ∃ r ∈ rs, e.1 ∈ lanesOf (answerLanes p r) ∧ e.2 = answerValue p r := by
  obtain ⟨l, w⟩ := e
  simp only [answerVals, List.mem_flatten, List.mem_map]
  constructor
  · rintro ⟨_, ⟨r, hr, rfl⟩, hin⟩
    obtain ⟨l', hl', heq⟩ := List.mem_map.mp hin
    cases heq
    exact ⟨r, hr, hl', rfl⟩
  · rintro ⟨r, hr, hl, rfl⟩
    exact ⟨_, ⟨r, hr, rfl⟩, List.mem_map.mpr ⟨l, hl, rfl⟩⟩

theorem answerLanes_sub {p : Pend} {r : Req} {l : Nat} (h : (answerLanes p r).getLsbD l = true) : r.lanes.getLsbD l = true := by
  unfold answerLanes at h
  split at h
  · exact h
  · exact (Bool.and_eq_true_iff.mp (BitVec.getLsbD_and ▸ h)).1

theorem answerLanes_of {p : Pend} {r : Req} {l : Nat} (h : r.lanes.getLsbD l = true)
    (hact : p.atom = true ∨ p.active.getLsbD l = true) : (answerLanes p r).getLsbD l = true := by
  unfold answerLanes
  split
  · exact h
  next hload => rw [BitVec.getLsbD_and, h, hact.resolve_left hload, Bool.and_self]

/-- Answers of separate lanes give each lane one value. -/
theorem answerVals_nodup {p : Pend} {rs : List Req} (h : rs.Pairwise (fun a b => a.lanes &&& b.lanes = 0)) :
    ((answerVals p rs).map (·.1)).Nodup := by
  have hkeys : (answerVals p rs).map (·.1) = (rs.map (fun r => lanesOf (answerLanes p r))).flatten := by
    simp [answerVals, List.map_flatten, Function.comp_def]
  rw [hkeys]
  refine List.nodup_flatten.mpr ⟨List.forall_mem_map.mpr fun r _ => lanesOf_nodup _, List.pairwise_map.mpr (h.imp ?_)⟩
  intro a b hab l hla hlb
  have hbit := BitVec.getLsbD_and (x := a.lanes) (y := b.lanes) (i := l)
  rw [hab, answerLanes_sub (mem_lanesOf.mp hla).2, answerLanes_sub (mem_lanesOf.mp hlb).2] at hbit
  simp at hbit

theorem find?_key {l : List (Nat × Word)} (hl : (l.map (·.1)).Nodup) {e : Nat × Word} (he : e ∈ l) :
    l.find? (fun d => d.1 == e.1) = some e := by
  induction l with
  | nil => cases he
  | cons d l ih =>
    obtain ⟨hd, hrest⟩ := List.nodup_cons.mp hl
    rcases List.mem_cons.mp he with rfl | he
    · simp
    · have hne : d.1 ≠ e.1 := fun heq => hd (List.mem_map.mpr ⟨e, he, heq.symm⟩)
      rw [List.find?_cons_of_neg (by simpa using hne)]
      exact ih hrest he

section Ends
variable {s : State} {id gid : Nat} {p : Pend} {g : Group}

theorem id_of_pendAt (h : pendAt s id = some (gid, p)) : p.id = id := by
  obtain ⟨e, -, he⟩ := List.exists_of_findSome?_eq_some h
  obtain ⟨q, hq, heq⟩ := Option.map_eq_some_iff.mp he
  cases heq
  simpa using List.find?_some hq

/-- An answered load or atomic ends with the values of its answers, or their fault. -/
theorem exec_response (hat : pendAt s id = some (gid, p)) (hfault : p.fault = none) (hsram : p.sram = false)
    (hdone : ∀ r ∈ pendReqs s id, r.stage = .accepted) :
    ∃ u, FillsOnly s u ∧ exec (if p.atom = true then .atomicResponse id else .loadResponse id) s =
      .next (finishPend u gid p (answerVals p (pendReqs s id)) (pendFault (pendReqs s id))) := by
  have hready : pendReady s p = true := by
    rw [pendReady, id_of_pendAt hat, hfault]
    simpa using hdone
  cases hatom : p.atom with
  | true =>
    refine ⟨_, fillsOnly_foldl fillsOnly_l1Atom (pendReqs s id) s, ?_⟩
    show execAtomicResponse id s = _
    simp [execAtomicResponse, hat, hatom, hready, hsram, answerVals, answerLanes, answerValue]
  | false =>
    refine ⟨if (pendFault (pendReqs s id)).isSome then s else (pendReqs s id).foldl fillFrom s, ?_, ?_⟩
    · split
      · exact .refl s
      · exact fillsOnly_foldl fillsOnly_fillFrom (pendReqs s id) s
    · show execLoadResponse id s = _
      simp [execLoadResponse, hat, hatom, hready, hsram, answerVals, answerLanes, answerValue, reqBytes]

/-- The lanes of a vector register after the answers. -/
theorem vGet_answers (rs : List Req) (h : rs.Pairwise (fun a b => a.lanes &&& b.lanes = 0)) (j i l : Nat) (hl : l < 32) :
    (∀ r ∈ rs, r.lanes.getLsbD l = true → (p.atom = true ∨ p.active.getLsbD l = true) →
      vGet (writeLanes g j (answerVals p rs)) j l = answerValue p r) ∧
    ((i ≠ j ∨ ∀ r ∈ rs, r.lanes.getLsbD l = false) → vGet (writeLanes g j (answerVals p rs)) i l = vGet g i l) := by
  have hget := vGet_writeLanes (answerVals p rs) g j (m := l) (hm := hl)
    (hl := fun e he => by obtain ⟨r, -, hin, -⟩ := mem_answerVals.mp he; exact (mem_lanesOf.mp hin).1) (hn := answerVals_nodup h)
  constructor
  · intro r hr hlane hact
    have hmem : (l, answerValue p r) ∈ answerVals p rs :=
      mem_answerVals.mpr ⟨r, hr, mem_lanesOf.mpr ⟨hl, answerLanes_of hlane hact⟩, rfl⟩
    rw [hget, if_pos rfl, find?_key (answerVals_nodup h) hmem]
    rfl
  · rintro (hne | hnone)
    · rw [hget, if_neg hne]
    · have hmiss : (answerVals p rs).find? (fun e => e.1 == l) = none := by
        refine List.find?_eq_none.mpr fun e he heq => ?_
        obtain ⟨r, hr, hin, -⟩ := mem_answerVals.mp he
        have hbit := answerLanes_sub (mem_lanesOf.mp hin).2
        rw [eq_of_beq heq, hnone r hr] at hbit
        cases hbit
      rw [hget, hmiss, Option.map_none, Option.getD_none, ite_self]

/-- The one answer of a uniform register. -/
theorem writeDest_uni {r : Req} {l : Nat} (n : Nat) (hl : l < 32) (hlane : r.lanes.getLsbD l = true)
    (hact : p.atom = true ∨ p.active.getLsbD l = true) : writeDest g (.uni n) (answerVals p [r]) = sSet g n (answerValue p r) := by
  have hne : answerVals p [r] ≠ [] := List.ne_nil_of_mem
    (mem_answerVals.mpr ⟨r, List.mem_singleton_self r, mem_lanesOf.mpr ⟨hl, answerLanes_of hlane hact⟩, rfl⟩ :
      (l, answerValue p r) ∈ answerVals p [r])
  obtain ⟨q, hq, -, hvalue⟩ := mem_answerVals.mp (List.getLast_mem hne)
  cases List.mem_singleton.mp hq
  rw [writeDest, List.getLast?_eq_some_getLast hne]
  exact congrArg (sSet g n) hvalue

end Ends

/-- Settles O27: the values of the answers reach the lanes or the uniform register, or the fault that R171 reports is kept. -/
theorem responsesWriteRegisters : Obligations.ResponsesWriteRegisters := by
  intro s id gid p g hat hg hp hfault hsram hdone hlanes value
  obtain ⟨u, hu, hexec⟩ := exec_response hat hfault hsram hdone
  have hid := id_of_pendAt hat
  obtain ⟨hgroup, hmem, hsr, hnone⟩ := finishPend_effect (s := u) (gid := gid) (g := g) (by rw [hu.rest]; exact hg) p
    (answerVals p (pendReqs s id)) (pendFault (pendReqs s id))
  rw [hid] at hnone
  have hkeeps : ∀ fault, (endPend g p (answerVals p (pendReqs s id)) fault).pcs = g.pcs ∧
      (endPend g p (answerVals p (pendReqs s id)) fault).preds = g.preds ∧
      (endPend g p (answerVals p (pendReqs s id)) fault).sticky = g.sticky := by
    intro fault
    cases fault with
    | some x => exact ⟨rfl, rfl, rfl⟩
    | none => rw [endPend, writeDest_keeps]; exact ⟨rfl, rfl, rfl⟩
  obtain ⟨hpcs, hpreds, hsticky⟩ := hkeeps (pendFault (pendReqs s id))
  refine ⟨_, _, hexec, hgroup, hmem.trans (by rw [hu.rest]), hsr.trans (by rw [hu.rest]), hnone, hpcs, hpreds, hsticky,
    fun hclean => ?clean, fun hbad => ?poisoned⟩
  case clean =>
    rw [pendFault_none hclean, endPend]
    refine ⟨fun q hq => ?gone, fun j hj => ?vec, fun n r l hn hone hl hlane hact => ?uni⟩
    case gone =>
      rw [writeDest_keeps] at hq
      have hne := (List.mem_filter.mp hq).2
      rw [hid] at hne
      exact bne_iff_ne.mp hne
    case vec =>
      rw [hj, writeDest]
      refine ⟨by rw [writeLanes_rest], fun r hr l hl hlane hact => ?_, fun i l hl hrest => ?_⟩
      · exact (vGet_answers (pendReqs s id) hlanes j j l hl).1 r hr hlane hact
      · exact (vGet_answers (pendReqs s id) hlanes j i l hl).2 hrest
    case uni =>
      rw [hn, hone, writeDest_uni n hl hlane hact]
      exact ⟨sGet_sSet_self .., fun m hm => sGet_sSet_ne _ _ hm, rfl⟩
  case poisoned =>
    obtain ⟨r, hr, hpoison, hreported, hleast⟩ := pendFault_some hbad
    rw [hreported, endPend]
    exact ⟨rfl, rfl, _, List.mem_map.mpr ⟨p, hp, if_pos rfl⟩, hid, r, hr, hpoison, rfl, hleast⟩

end Sys2Proof.Machine
end

section
/-! PROOFS. Prefetches, fences and range operations (R161-R165): what they leave in the L1s, which requests they make, and that they
retire with every register and every byte of memory as it was. -/

open Host Sys2Proof Sys2Proof.Machine Sys2Proof.Claims

namespace Sys2Proof.Machine

/-! ### L1 copies that go -/

theorem coreAt_updCore (s : State) (c d : Nat) (f : Core → Core) :
    coreAt (updCore s c f) d = if d = c then f (coreAt s c) else coreAt s d := by
  split
  next h =>
    rw [h]
    exact mapGet_set_self ..
  next h => exact mapGet_set_ne _ _ _ h

/-- No L1 holds a copy that it did not hold before. -/
structure L1Shrinks (s t : State) : Prop where
  sub : ∀ c, (coreAt t c).l1 ⊆ (coreAt s c).l1

theorem L1Shrinks.of_cores {s t : State} (h : t.cores = s.cores) : L1Shrinks s t := ⟨fun c y hy => by
  unfold coreAt at hy ⊢
  rwa [h] at hy⟩

theorem L1Shrinks.refl (s : State) : L1Shrinks s s := .of_cores rfl

theorem L1Shrinks.trans {s t u : State} (h : L1Shrinks s t) (h' : L1Shrinks t u) : L1Shrinks s u :=
  ⟨fun c => List.Subset.trans (h'.sub c) (h.sub c)⟩

/-- A step that begins by leaving the cores alone. -/
theorem L1Shrinks.after {s t u : State} (h : L1Shrinks t u) (hcores : t.cores = s.cores) : L1Shrinks s u :=
  (L1Shrinks.of_cores hcores).trans h

theorem l1Shrinks_foldl {α : Type} {step : State → α → State} (h : ∀ s e, L1Shrinks s (step s e)) (l : List α) (s : State) :
    L1Shrinks s (l.foldl step s) := by
  induction l generalizing s with
  | nil => exact .refl s
  | cons e l ih => exact (h s e).trans (ih _)

theorem coreAt_dropClean (s : State) (c d : Nat) : coreAt (dropClean s c) d =
    if d = c then { coreAt s c with l1 := (coreAt s c).l1.filter (fun y => y.mask != 0) } else coreAt s d :=
  coreAt_updCore s c d (fun c => { c with l1 := c.l1.filter (fun y => y.mask != 0) })

theorem l1Shrinks_dropClean (s : State) (core : Nat) : L1Shrinks s (dropClean s core) := by
  refine ⟨fun c => ?_⟩
  rw [coreAt_dropClean]
  split
  next h => exact h ▸ List.filter_subset_self _
  next => exact List.Subset.refl _

theorem l1Shrinks_acquireAt (s : State) (gid : Nat) (sc : Scope) : L1Shrinks s (acquireAt s gid sc) := by
  obtain ⟨cores, h⟩ := exists_acquireAt_cores s gid sc
  exact h ▸ l1Shrinks_foldl l1Shrinks_dropClean cores s

/-- The L1s whose clean lines are dropped hold dirty ones only (R187). -/
theorem dirty_of_dropClean {cores : List Nat} {s : State} {core : Nat} (h : core ∈ cores) :
    ∀ y ∈ (coreAt (cores.foldl dropClean s) core).l1, y.mask ≠ 0 := by
  induction cores generalizing s with
  | nil => cases h
  | cons c cores ih =>
    by_cases hin : core ∈ cores
    · exact ih hin
    · intro y hy
      obtain rfl : core = c := (List.mem_cons.mp h).resolve_right hin
      have hy' := l1Shrinks_foldl l1Shrinks_dropClean cores (dropClean s core) |>.sub core hy
      rw [coreAt_dropClean, if_pos rfl] at hy'
      exact bne_iff_ne.mp (List.mem_filter.mp hy').2

/-! ### Dirty bytes that move (R204) -/

/-- Moving a copy's dirty bytes leaves the L1 with no dirty copy but its others. -/
theorem drainCopy_own {s : State} {c : Nat} {x y : Copy} (hy : y ∈ (coreAt (drainCopy s c x) c).l1) (hdirty : y.mask ≠ 0) :
    y ∈ (coreAt s c).l1 ∧ y ≠ x := by
  unfold drainCopy at hy
  split at hy
  next hclean => exact ⟨hy, fun h => hdirty (h ▸ hclean)⟩
  next =>
    dsimp only at hy
    rw [coreAt_updCore, if_pos rfl] at hy
    obtain ⟨z, hz, rfl⟩ := List.mem_map.mp hy
    split at hdirty
    · exact absurd rfl hdirty
    next hline =>
      rw [if_neg hline]
      have hcores : (coreAt s c).l1 = (coreAt (proxyFill s (coreDie c) x.line).2 c).l1 := by
        unfold proxyFill
        split <;> rfl
      exact ⟨hcores ▸ hz, fun h => hline (h ▸ rfl)⟩

theorem drainCopy_other {s : State} {c d : Nat} (h : d ≠ c) (x : Copy) : coreAt (drainCopy s c x) d = coreAt s d := by
  unfold drainCopy
  split
  · rfl
  · dsimp only
    rw [coreAt_updCore, if_neg h]
    unfold proxyFill
    split <;> rfl

theorem drainCopies_own {c : Nat} {l : List Copy} {s : State} {y : Copy}
    (hy : y ∈ (coreAt (l.foldl (fun s x => drainCopy s c x) s) c).l1) (hdirty : y.mask ≠ 0) : y ∈ (coreAt s c).l1 ∧ y ∉ l := by
  induction l generalizing s with
  | nil => exact ⟨hy, List.not_mem_nil⟩
  | cons x l ih =>
    obtain ⟨hin, hrest⟩ := ih hy
    obtain ⟨hold, hne⟩ := drainCopy_own hin hdirty
    exact ⟨hold, List.not_mem_cons_of_ne_of_not_mem hne hrest⟩

theorem drainCopies_other {c d : Nat} (h : d ≠ c) (l : List Copy) (s : State) :
    coreAt (l.foldl (fun s x => drainCopy s c x) s) d = coreAt s d := by
  induction l generalizing s with
  | nil => rfl
  | cons x l ih => exact (ih _).trans (drainCopy_other h x)

/-- Once the L1s of some cores have drained, no copy in them is dirty. -/
theorem clean_drainL1 {cores : List Nat} {s : State} {core : Nat} (h : core ∈ cores ∨ ∀ y ∈ (coreAt s core).l1, y.mask = 0) :
    ∀ y ∈ (coreAt (drainL1 s cores) core).l1, y.mask = 0 := by
  induction cores generalizing s with
  | nil => exact h.resolve_left List.not_mem_nil
  | cons c cores ih =>
    refine ih ?_
    by_cases hcore : core = c
    · subst hcore
      refine .inr fun y hy => by_contra fun hdirty => ?_
      obtain ⟨hin, hout⟩ := drainCopies_own hy hdirty
      exact hout hin
    · refine h.imp (fun hin => (List.mem_cons.mp hin).resolve_left hcore) fun hclean => ?_
      rwa [drainCopies_other hcore]

/-! ### Evictions of proxy lines (R205) -/

theorem cores_touchTables (s : State) (k va : Nat) : (touchTables s k va).cores = s.cores := by
  unfold touchTables
  exact List.foldlRecOn (motive := fun t : State => t.cores = s.cores) _ _ rfl fun _ h _ _ => h

theorem l1Shrinks_wakeCtrw (s : State) : L1Shrinks s (wakeCtrw s) := by
  refine l1Shrinks_foldl (fun s e => ?_) _ s
  split
  · dsimp only
    split
    · split
      · exact (l1Shrinks_acquireAt ..).after rfl
      · exact .of_cores rfl
    · exact .refl s
  · exact .refl s

theorem l1Shrinks_raiseCtr (s : State) (k die l n : Nat) : L1Shrinks s (raiseCtr s k die l n) := by
  unfold raiseCtr
  exact (l1Shrinks_wakeCtrw _).after rfl

theorem cores_zeroEvent (s : State) (k va : Nat) : (zeroEvent s k va).cores = s.cores := by
  unfold zeroEvent
  split <;> rfl

theorem l1Shrinks_settleEvents (p : Nat) (l : List (List Byte)) (s : State) : L1Shrinks s (settleEvents p l s) := by
  induction l generalizing s with
  | nil => exact .of_cores rfl
  | cons r l ih =>
    unfold settleEvents
    split
    · refine L1Shrinks.trans ?_ (ih _)
      exact (l1Shrinks_raiseCtr ..).after (cores_touchTables ..)
    · refine L1Shrinks.trans ?_ (ih _)
      exact (l1Shrinks_raiseCtr ..).after rfl
    · exact .of_cores rfl
    · exact .of_cores (cores_zeroEvent ..)

theorem l1Shrinks_postFabric (s : State) (p pa : Nat) (c : Option Nat) : L1Shrinks s (postFabric s p pa c) := by
  unfold postFabric
  split
  · exact l1Shrinks_settleEvents ..
  · exact .refl s

theorem l1Shrinks_evictProxy (s : State) (die line : Nat) : L1Shrinks s (evictProxy s die line) := by
  unfold evictProxy
  split
  · split
    · exact .of_cores rfl
    · split
      · exact .of_cores rfl
      · exact (l1Shrinks_postFabric ..).after rfl
      · exact .refl s
  · exact .of_cores rfl

/-! ### pref and the fences (R161-R163) -/

section Fences
variable {x : MArgs} {s : State} {f : Focus} {g : Group}

theorem prefAddrs_canonical (h : ∀ l, l < 32 → (addrOf x (seen f g) l).toNat < 2 ^ 56) :
    ∀ a ∈ prefAddrs x f (seen f g), a.addr < 2 ^ 56 := by
  have haccs : ∀ a ∈ accsOf x (seen f g) f.lanes f.lanes, a.addr < 2 ^ 56 := by
    unfold accsOf
    split
    · exact List.forall_mem_singleton.mpr (h _ (lowLane_lt _))
    · exact List.forall_mem_map.mpr fun l hl => h l (mem_lanesOf.mp hl).1
  unfold prefAddrs
  split
  · exact List.forall_mem_map.mpr fun l hl => h l (List.mem_range.mp hl)
  · exact haccs

/-- pref makes requests that are prefetches, and no other. -/
theorem exec_pref_done (hi : Issues s f g) (hfit : MemFits x (seen f g) false false)
    (hcanonical : ∀ l, l < 32 → (addrOf x (seen f g) l).toNat < 2 ^ 56) :
    ∃ u, exec (.pref x) s = done f g u ∧ IssueFrame s u ∧ ∀ r ∈ u.reqs, r ∈ s.reqs ∨ isPref r = true := by
  have hfar : (prefAddrs x f (seen f g)).filter (fun a => decide (2 ^ 56 ≤ a.addr)) = [] :=
    List.filter_eq_nil_iff.mpr fun a ha => by
      rw [decide_eq_true_eq]
      exact Nat.not_le.mpr (prefAddrs_canonical hcanonical a ha)
  rw [show exec (.pref x) s = _ from issuer_focus _ hi.1 hi.2]
  dsimp only
  rw [withRegs_inside f g _ s _ (inAllot_memVecs hfit), hfar, List.map_nil, withChecks_nil]
  refine ⟨_, rfl, ?_⟩
  refine List.foldlRecOn (motive := fun u => IssueFrame s u ∧ ∀ r ∈ u.reqs, r ∈ s.reqs ∨ isPref r = true) _ _
    ⟨.refl s, fun _ hr => .inl hr⟩ ?_
  rintro u ⟨hframe, hreqs⟩ a -
  split
  · exact ⟨hframe, hreqs⟩
  · split
    · exact ⟨hframe, hreqs⟩
    · refine ⟨hframe.trans (issueFrame_addReq u _), fun r hr => ?_⟩
      rcases List.mem_append.mp hr with hr | hr
      · exact hreqs r hr
      · exact .inr (List.mem_singleton.mp hr ▸ rfl)

/-- fence retires, as an acquire where its order has one. -/
theorem exec_fence_done (hi : Issues s f g) (hready : Ready x s f g) (hloads : ordAcq x.ord = true → loadsOpen s g f.lanes = false) :
    exec (.fence x) s = done f g (if ordAcq x.ord then acquireAt s f.gid x.sc else s) := by
  refine (issuer_focus _ hi.1 hi.2).trans ?_
  rw [ordered_relOf (accs := []) hready rfl]
  have hgo : (ordAcq x.ord && loadsOpen s g f.lanes) = false := by
    cases hord : ordAcq x.ord with
    | false => rfl
    | true => exact hloads hord
  rw [hgo]
  rfl

/-- fence.eng once every request has been accepted and no bin of a line sleeps. -/
theorem exec_fenceEng_done (hi : Issues s f g) (hacq : openAcq s g f.lanes = false) (hreqs : ∀ r ∈ s.reqs, r.stage = .accepted)
    (hawake : ∀ l ∈ dirtyManual (drainL1 s (l1Cores s f.gid)) (ctxPart (groupCtx s g)) (coreDie (gidCore f.gid)),
      atHome (drainL1 s (l1Cores s f.gid)) (ctxPart (groupCtx s g)) (128 * l) ≠ .asleep) :
    exec (.fenceEng x) s = done f g ((dirtyManual (drainL1 s (l1Cores s f.gid)) (ctxPart (groupCtx s g)) (coreDie (gidCore f.gid))).foldl
      (fun s l => evictProxy s (coreDie (gidCore f.gid)) l) (drainL1 s (l1Cores s f.gid))) := by
  have hperformed : (reqsOf s g.uid f.lanes).any (fun r => (isStore r || isAtom r) && r.stage != .accepted) = false := by
    rw [List.any_eq_false]
    intro r hr
    simp [hreqs r (List.mem_filter.mp hr).1]
  have hnone : (dirtyManual (drainL1 s (l1Cores s f.gid)) (ctxPart (groupCtx s g)) (coreDie (gidCore f.gid))).filter
      (fun l => atHome (drainL1 s (l1Cores s f.gid)) (ctxPart (groupCtx s g)) (128 * l) == .asleep) = [] :=
    List.filter_eq_nil_iff.mpr fun l hl => by simpa using hawake l hl
  refine (issuer_focus _ hi.1 hi.2).trans ?_
  rw [hacq, if_neg Bool.false_ne_true, hperformed, if_neg Bool.false_ne_true]
  dsimp only
  rw [hnone]
  rfl

theorem prefetchAndFencesRetire : PrefetchAndFencesRetire := by
  intro x s f g hi hready
  refine ⟨fun hfit hcanonical => ?pref, fun hloads => ?fence, fun hreqs => ⟨fun hclean hproxies => ?quiet, fun hawake => ?drains⟩⟩
  case pref =>
    obtain ⟨u, hexec, hframe, hreqs⟩ := exec_pref_done hi hfit hcanonical
    exact ⟨_, hexec, congrArg (fun m => mapPut m f.gid _) hframe.groups, hframe.mem, hframe.sram, hreqs⟩
  case fence =>
    have hframe : IssueFrame s (if ordAcq x.ord then acquireAt s f.gid x.sc else s) := by
      split
      · exact issueFrame_acquireAt ..
      · exact .refl s
    exact ⟨_, exec_fence_done hi hready hloads, congrArg (fun m => mapPut m f.gid _) hframe.groups, hframe.mem, hframe.sram⟩
  case quiet =>
    have hdrain := drainL1_clean hclean (l1Cores s f.gid)
    have hnone : dirtyManual s (ctxPart (groupCtx s g)) (coreDie (gidCore f.gid)) = [] := by
      rw [dirtyManual, List.filter_eq_nil_iff.mpr fun e he => by simp [hproxies e he]]
      rfl
    rw [exec_fenceEng_done hi hready.1 hreqs (by rw [hdrain, hnone]; exact fun l hl => absurd hl List.not_mem_nil), hdrain, hnone]
    rfl
  case drains =>
    refine ⟨_, exec_fenceEng_done hi hready.1 hreqs hawake, mapFind_put_self .., fun c hc y hy => ?_⟩
    exact clean_drainL1 (.inl hc) y (l1Shrinks_foldl (fun s l => l1Shrinks_evictProxy s _ l) _ _ |>.sub c hy)

/-! ### wbr and invr (R164, R165) -/

theorem walk_touched {s t : State} (h : Touched s t) (k va : Nat) : walk t k va = walk s k va := by
  have hmine : tableMine t k = tableMine s k := by
    funext slot
    unfold tableMine
    rw [h.bins]
    congr 1
    rw [h.rest]
    rfl
  unfold walk walkCtx
  rw [hmine, h.rest]
  rfl

theorem manualLines_touched {s t : State} (h : Touched s t) (f : Focus) (g : Group) (k lo n : Nat) :
    manualLines t f g k lo n = manualLines s f g k lo n := by
  have htrans : translate t = translate s := by
    funext core k va
    unfold translate
    rw [walk_touched h]
    rw [h.rest]
    rfl
  unfold manualLines
  rw [htrans, h.rest]
  rfl

/-- An acquire does the same whatever the bins' last accesses. -/
theorem acquireAt_touched {s t : State} (h : Touched s t) (gid : Nat) (sc : Scope) :
    Touched (acquireAt s gid sc) (acquireAt t gid sc) := by
  have hfold : ∀ (cores : List Nat) (s t : State), Touched s t → Touched (cores.foldl dropClean s) (cores.foldl dropClean t) := by
    intro cores
    induction cores with
    | nil => exact fun _ _ h => h
    | cons c cores ih =>
      refine fun s t h => ih _ _ ⟨?_, h.bins⟩
      rw [h.rest]
      rfl
  have hcores : ∀ cores : State → List Nat, cores t = cores s →
      Touched ((cores s).foldl dropClean s) ((cores t).foldl dropClean t) := fun cores heq => heq ▸ hfold _ s t h
  cases sc with
  | grp | team => exact h
  | clu =>
    unfold acquireAt
    dsimp only
    have hfused : teamFused t (teamAt t (groupAt t gid).team) = teamFused s (teamAt s (groupAt s gid).team) := by
      rw [h.rest]
      rfl
    rw [hfused]
    split
    · exact h
    · exact hfold [gidCore gid] s t h
  | die | pkg | sys => exact hcores (fun s => l1Cores s gid) (by rw [h.rest]; rfl)

theorem mem_piecesOf {lo n : Nat} {pc : Nat × Nat} (h : pc ∈ piecesOf lo n) : lo ≤ pc.1 ∧ pc.1 + pc.2 ≤ lo + n := by
  unfold piecesOf at h
  split at h
  · cases h
  · obtain ⟨i, hi, rfl⟩ := List.mem_map.mp h
    rw [List.mem_range] at hi
    dsimp only
    omega

/-- The lines of a range lie in it. -/
theorem mem_manualLines {f : Focus} {g : Group} {k lo n : Nat} {l : Nat × Trans} (h : l ∈ manualLines s f g k lo n) :
    lo ≤ l.1 ∧ l.1 < lo + n := by
  unfold manualLines at h
  dsimp only at h
  generalize List.dedup (_ : List Nat) = held at h
  have hpieces : ∀ pc ∈ piecesOf lo n, lo ≤ pc.1 ∧ pc.1 + pc.2 ≤ lo + n := fun _ => mem_piecesOf
  generalize piecesOf lo n = pieces at h hpieces
  induction pieces with
  | nil => cases h
  | cons pc pieces ih =>
    obtain ⟨hpc, hrest⟩ := List.forall_mem_cons.mp hpieces
    rw [List.foldr_cons] at h
    split at h
    · exact ih h hrest
    · split at h
      · rcases List.mem_append.mp h with h | h
        · obtain ⟨line, hline, rfl⟩ := List.mem_map.mp h
          have hin := of_decide_eq_true (List.mem_filter.mp hline).2
          dsimp only
          omega
        · exact ih h hrest
      · exact ih h hrest

/-- The request that wbr or invr makes for a line. -/
def LineReq (inv : Bool) (acq : Option Scope) (f : Focus) (l : Nat × Trans) (r : Req) : Prop :=
  r.kind = .wb inv acq ∧ r.stage = .queued ∧ r.lanes = f.lanes ∧ r.va = l.1

/-- The requests of wbr or invr for some lines. -/
def addLines (inv : Bool) (acq : Option Scope) (f : Focus) (g : Group) (iid : Nat) (s : State) (l : List (Nat × Trans)) : State :=
  l.foldl (fun s l => addReq s { newReq s f g f.lanes l.1 128 l.2 (.wb inv acq) with iid }) s

theorem addLines_adds (inv : Bool) (acq : Option Scope) (iid : Nat) (l : List (Nat × Trans)) (s : State) :
    IssueFrame s (addLines inv acq f g iid s l) ∧ Requests (LineReq inv acq f) l s (addLines inv acq f g iid s l) ∧
      (addLines inv acq f g iid s l).cores = s.cores :=
  ⟨issueFrame_foldl (fun _ _ => issueFrame_addReq ..) l s, requests_foldl (fun _ _ => ⟨_, rfl, rfl, rfl, rfl, rfl⟩) l s,
    List.foldlRecOn (motive := fun t : State => t.cores = s.cores) l _ rfl fun _ h _ _ => h⟩

/-- The range operations and what they acquire. -/
theorem exec_rangeRow {c : Instr × Bool × Option Scope}
    (hc : c ∈ [(Instr.wbr x, false, none), (Instr.invr x, true, if ordAcq x.ord = true then some x.sc else none)]) :
    exec c.1 s = rangeOp c.2.1 x s ∧ c.2.2 = if c.2.1 && ordAcq x.ord then some x.sc else none := by
  rcases List.mem_cons.mp hc with rfl | hc
  · exact ⟨rfl, rfl⟩
  · cases List.mem_singleton.mp hc
    exact ⟨rfl, rfl⟩

/-- The state after the acquire of a range operation. -/
def acquired (acq : Option Scope) (gid : Nat) (s : State) : State := acq.elim s (acquireAt s gid)

theorem fillsOnly_acquired (acq : Option Scope) (gid : Nat) (s : State) : FillsOnly s (acquired acq gid s) := by
  cases acq with
  | none => exact .refl s
  | some sc => exact fillsOnly_acquireAt s gid sc

theorem touched_acquired {s t : State} (h : Touched s t) (acq : Option Scope) (gid : Nat) :
    Touched (acquired acq gid s) (acquired acq gid t) := by
  cases acq with
  | none => exact h
  | some sc => exact acquireAt_touched h gid sc

/-- A range operation past its waits and checks makes its requests after its acquire. -/
theorem rangeOp_issues {inv : Bool} {start n lo m : Nat} (hi : Issues s f g) (hready : Ready x s f g)
    (hstart : start = (sGet (seen f g) x.a.toNat).toNat) (hn : n = (sGet (seen f g) x.b.toNat).toNat) (hlo : lo = start / 128 * 128)
    (hm : m = (start + n + 127) / 128 * 128 - lo) (hne : n ≠ 0)
    (hcause : rangeCause s (gidCore f.gid) (groupCtx s g) start n lo m = none) (hawake : TablesAwake s f g [(lo, m)]) :
    let acq := if inv && ordAcq x.ord then some x.sc else none
    ∃ w, Touched s w ∧ rangeOp inv x s =
      done f g (addLines inv acq f g s.fresh (acquired acq f.gid w) (manualLines (acquired acq f.gid w) f g (groupCtx s g) lo m)) := by
  intro acq
  have hfresh : Touched s { s with fresh := s.fresh + 1 } := ⟨rfl, fun _ => rfl⟩
  refine ⟨_, hfresh.trans (touched_touchWalks _ (gidCore f.gid) (groupCtx s g) [(lo, m)]), ?_⟩
  subst hm hlo hn hstart
  refine (issuer_focus _ hi.1 hi.2).trans ((if_neg hne).trans ?_)
  refine (ordered_relOf (accs := [{ lanes := f.lanes, lane := 0, addr := _ }]) hready hawake).trans ?_
  rw [show rangeCause s _ _ _ _ _ _ = none from hcause]
  rfl

theorem rangeOpsRetire : RangeOpsRetire := by
  intro x s f g hi hready start n lo m hchecks c hc after
  obtain ⟨hexec, hacq⟩ := exec_rangeRow (s := s) hc
  by_cases hn : n = 0
  · have hdone : rangeOp c.2.1 x s = done f g s := (issuer_focus _ hi.1 hi.2).trans (if_pos hn)
    exact ⟨_, hexec.trans hdone, rfl, rfl, rfl, fun _ _ hr => hr, fun r hr => ⟨r, hr, rfl⟩, fun r hr => .inl ⟨r, hr, rfl⟩,
      fun h => absurd hn h, fun h => absurd hn h⟩
  obtain ⟨hcause, hawake⟩ := hchecks hn
  obtain ⟨w, hw, hissues⟩ := rangeOp_issues (inv := c.2.1) hi hready rfl rfl rfl rfl hn hcause hawake
  rw [← hacq] at hissues
  set u := acquired c.2.2 f.gid w with hu
  have hlines : manualLines u f g (groupCtx s g) lo m = manualLines after f g (groupCtx s g) lo m :=
    manualLines_touched (touched_acquired hw c.2.2 f.gid) f g _ lo m
  have hfills := fillsOnly_acquired c.2.2 f.gid w
  obtain ⟨fill, hfill⟩ := hfills.fills
  rw [show w.reqs = s.reqs by rw [hw.rest]] at hfill
  obtain ⟨hframe, ⟨hold, hmade, honly⟩, hcores⟩ := addLines_adds (f := f) (g := g) c.2.1 c.2.2 s.fresh
    (manualLines u f g (groupCtx s g) lo m) u
  refine ⟨_, hexec.trans hissues, ?groups, ?mem, ?sram, fun hnone r hr => ?kept, fun r hr => ?old, fun r hr => ?only,
    fun _ l hl => ?made, fun _ hdie core hcore y hy => ?dropped⟩
  case groups =>
    refine congrArg (fun groups => mapPut groups f.gid _) (hframe.groups.trans ?_)
    rw [hu, hfills.rest, hw.rest]
  case mem => exact hframe.mem.trans (by rw [hu, hfills.rest, hw.rest])
  case sram => exact hframe.sram.trans (by rw [hu, hfills.rest, hw.rest])
  case kept =>
    refine hold r ?_
    rw [hu, hnone]
    show r ∈ w.reqs
    rwa [hw.rest]
  case old => exact ⟨_, hold _ (hfill ▸ List.mem_map_of_mem hr), rfl⟩
  case only =>
    rcases honly r hr with hr | ⟨l, hl, hkind, hstage, hlanes, hva⟩
    · obtain ⟨q, hq, rfl⟩ := List.mem_map.mp (hfill ▸ hr)
      exact .inl ⟨q, hq, rfl⟩
    · obtain ⟨hlow, hhigh⟩ := mem_manualLines hl
      exact .inr ⟨hkind, hstage, hlanes, hva ▸ hlow, hva ▸ hhigh⟩
  case made =>
    obtain ⟨r, hr, hkind, -, -, hva⟩ := hmade l (hlines ▸ hl)
    exact ⟨r, hr, hkind, hva⟩
  case dropped =>
    have hy' : y ∈ (coreAt u core).l1 := (L1Shrinks.of_cores hcores).sub core hy
    rw [hu, hdie] at hy'
    refine dirty_of_dropClean (cores := l1Cores w f.gid) (s := w) ?_ y hy'
    rw [hw.rest]
    exact hcore

end Fences

/-- Settles O25: pref and the fences retire over the frames of their requests, acquires and evictions, and the range operations
over one request for each line. -/
theorem fencesPrefetchesAndRanges : Obligations.FencesPrefetchesAndRanges := ⟨prefetchAndFencesRetire, rangeOpsRetire⟩

end Sys2Proof.Machine
end

section
/-! PROOFS. The renaming instructions at issue: the checks of an edit, its acceptance with the frames that it takes, and what refuses it
(R223, R232, R238, R239); and map.query (R246). -/

open Host Sys2Proof Sys2Proof.Machine Sys2Proof.Claims

namespace Sys2Proof.Machine

/-! ### Frames from the pool (R232) -/

/-- So many frames have been taken at HEAD of a context's pool. -/
structure FramesTaken (s : State) (k n : Nat) (q : List Nat × State) : Prop where
  length : q.1.length = n
  groups : q.2.groups = s.groups
  mem : q.2.mem = s.mem
  sram : q.2.sram = s.sram
  edits : q.2.edits = s.edits
  head : (ctxAt q.2 k).pool.head = (ctxAt s k).pool.head + BitVec.ofNat 32 n

theorem head_takeFrame (s : State) (k : Nat) : (ctxAt (takeFrame s k).2 k).pool.head = (ctxAt s k).pool.head + 1 :=
  congrArg (fun c : Ctx => c.pool.head) (mapGet_set_self ..)

theorem framesTaken_takeFrames (s : State) (k n : Nat) : FramesTaken s k n (takeFrames s k n) := by
  induction n generalizing s with
  | zero => exact ⟨rfl, rfl, rfl, rfl, rfl, by simp [takeFrames]⟩
  | succ n ih =>
    obtain ⟨length, groups, mem, sram, edits, head⟩ := ih (takeFrame s k).2
    refine ⟨congrArg (· + 1) length, groups, mem, sram, edits, head.trans ?_⟩
    rw [head_takeFrame, Nat.add_comm n 1, BitVec.ofNat_add, BitVec.add_assoc]
    rfl

/-! ### An edit's checks and its acceptance (R239) -/

section Edit
variable {x : MArgs} {s : State} {f : Focus} {g : Group} {sc : Scope} {plan : Group → Plan} {early : Group → Bool}

/-- The edit that an accepted instruction leaves, with the frames that it takes. -/
def acceptedEdit (sc : Scope) (p : Plan) (f : Focus) (g : Group) (k : Nat) (frames : List Nat) (s : State) : Edit :=
  { id := s.fresh, ctx := k, die := coreDie (gidCore f.gid), core := gidCore f.gid, gid := f.gid, uid := g.uid
    lanes := f.lanes, scope := sc, op := p.op, ranges := editRanges s k p, frames
    waits := ((reqsOf s g.uid f.lanes).filter (fun r => (editRanges s k p).any (fun a => overlaps a.1 a.2 r.va r.size))).map (·.id)
    committed := false, upTo := 0, pte := false }

/-- The pages of a plan as ranges. -/
def planRanges (p : Plan) : List (Nat × Nat) := p.pages.map (fun a => (a, pageP))

/-- What precedes the checks of R239 on the operands has passed: a list of map.perm in the registers (R242), no open acquire (R184),
canonical addresses. -/
structure Operands (s : State) (f : Focus) (g : Group) (p : Plan) (early : Bool) : Prop where
  issues : Issues s f g
  early : early = false
  acquired : openAcq s g f.lanes = false
  addrs : ∀ a ∈ p.addrs, a < 2 ^ 56

theorem addrs_canonical {p : Plan} (h : ∀ a ∈ p.addrs, a < 2 ^ 56) :
    p.addrs.find? (fun a => decide (2 ^ 56 ≤ a)) = none ∧ p.addrs.headD 0 % 2 ^ 56 = p.addrs.headD 0 := by
  constructor
  · exact List.find?_eq_none.mpr fun a ha => by simpa using h a ha
  · refine Nat.mod_eq_of_lt ?_
    cases hp : p.addrs with
    | nil => exact Nat.two_pow_pos 56
    | cons a as => exact h a (hp ▸ List.mem_cons_self)

/-- The tables of the pages and, where the edit needs frames, the ring's next entry are awake (R345). -/
def EditAwake (s : State) (f : Focus) (g : Group) (p : Plan) : Prop :=
  TablesAwake s f g (planRanges p) ∧
    (framesNeeded s (groupCtx s g) p = 0 ∨ poolAsleep s (groupCtx s g) = none)

theorem editAwake_none {p : Plan} (h : EditAwake s f g p) :
    (walksAsleep s (gidCore f.gid) (groupCtx s g) (planRanges p)).or
      (if framesNeeded s (groupCtx s g) p = 0 then none else poolAsleep s (groupCtx s g)) = none := by
  obtain ⟨htables, hpool⟩ := h
  rw [show walksAsleep s (gidCore f.gid) (groupCtx s g) (planRanges p) = none from htables]
  rcases hpool with hzero | hnone
  · simp [hzero]
  · simp [hnone]

theorem editOp_bad (h : Operands s f g (plan (seen f g)) (early (seen f g))) (hbad : (plan (seen f g)).bad = true) :
    editOp sc plan early s = trap f 0x51 ((plan (seen f g)).addrs.headD 0) s := by
  obtain ⟨hi, hearly, hacq, haddrs⟩ := h
  obtain ⟨hnone, hfirst⟩ := addrs_canonical haddrs
  refine (issuer_focus _ hi.1 hi.2).trans ?_
  simp only [hearly, hacq, hnone, hbad, hfirst, Bool.false_eq_true, if_false, if_true]

theorem editOp_seam (h : Operands s f g (plan (seen f g)) (early (seen f g))) (hbad : (plan (seen f g)).bad = false)
    (hseam : (plan (seen f g)).seam = true) :
    editOp sc plan early s = trap f 0x50 ((plan (seen f g)).addrs.headD 0) s := by
  obtain ⟨hi, hearly, hacq, haddrs⟩ := h
  obtain ⟨hnone, hfirst⟩ := addrs_canonical haddrs
  refine (issuer_focus _ hi.1 hi.2).trans ?_
  simp only [hearly, hacq, hnone, hbad, hseam, hfirst, Bool.false_eq_true, if_false, if_true]

/-- A walk that comes to no table of another partition's bin is reported to nobody (R351). -/
theorem reportWalk_alive {c va : Nat} (hi : Issues s f g) (h : walkDead s (groupCtx s g) va = none) : reportWalk f c va s = s := by
  have hgroup : groupAt s f.gid = g := groupAt_of_find hi.2
  simp [reportWalk, hgroup, h]

/-- Operands that pass, with no edit of the pages before it and everything awake. -/
structure Checked (s : State) (f : Focus) (g : Group) (p : Plan) (early : Bool) : Prop extends Operands s f g p early where
  bad : p.bad = false
  seam : p.seam = false
  free : rangesBusy s (groupCtx s g) (planRanges p) (fun _ => true) = false
  awake : EditAwake s f g p

theorem editOp_cause (h : Checked s f g (plan (seen f g)) (early (seen f g))) {c info : Nat}
    (hcause : mapCause s (gidCore f.gid) (groupCtx s g) (plan (seen f g)) = some (c, info)) :
    editOp sc plan early s = trap f c info (reportWalk f c info s) := by
  obtain ⟨⟨hi, hearly, hacq, haddrs⟩, hbad, hseam, hfree, hawake⟩ := h
  obtain ⟨hnone, -⟩ := addrs_canonical haddrs
  have hawake := editAwake_none hawake
  unfold planRanges at hfree hawake
  refine (issuer_focus _ hi.1 hi.2).trans ?_
  simp only [hearly, hacq, hnone, hbad, hseam, hfree, hawake, hcause, Bool.false_eq_true, if_false]

/-- With a mapping that passes, too few frames in an enabled pool that holds none back, or in a disabled one, are cause 0x54. -/
theorem editOp_short (h : Checked s f g (plan (seen f g)) (early (seen f g)))
    (hcause : mapCause s (gidCore f.gid) (groupCtx s g) (plan (seen f g)) = none)
    (hheld : (ctxAt s (groupCtx s g)).pool.en = false ∨ (ctxAt s (groupCtx s g)).pool.heldFrames = [])
    (hshort : framesFree s (groupCtx s g) < framesNeeded s (groupCtx s g) (plan (seen f g))) :
    editOp sc plan early s = superTrap f 0x54 0 s := by
  obtain ⟨⟨hi, hearly, hacq, haddrs⟩, hbad, hseam, hfree, hawake⟩ := h
  obtain ⟨hnone, -⟩ := addrs_canonical haddrs
  have hawake := editAwake_none hawake
  unfold planRanges at hfree hawake
  have hgo : ((ctxAt s (groupCtx s g)).pool.en && !(ctxAt s (groupCtx s g)).pool.heldFrames.isEmpty) = false := by
    rcases hheld with h | h <;> simp [h]
  refine (issuer_focus _ hi.1 hi.2).trans ?_
  simp only [hearly, hacq, hnone, hbad, hseam, hfree, hawake, hcause, Bool.and_assoc, hgo, Bool.and_false, hshort,
    Bool.false_eq_true, if_false, if_true]

/-- With enough frames the edit is accepted. -/
theorem editOp_accepts (h : Checked s f g (plan (seen f g)) (early (seen f g)))
    (hcause : mapCause s (gidCore f.gid) (groupCtx s g) (plan (seen f g)) = none)
    (hheld : framesNeeded s (groupCtx s g) (plan (seen f g)) = 0 ∨ (ctxAt s (groupCtx s g)).pool.heldFrames = [])
    (hroom : framesNeeded s (groupCtx s g) (plan (seen f g)) ≤ framesFree s (groupCtx s g)) :
    let t := touchWalks s (gidCore f.gid) (groupCtx s g) (planRanges (plan (seen f g)))
    let q := takeFrames t (groupCtx s g) (framesNeeded s (groupCtx s g) (plan (seen f g)))
    editOp sc plan early s = done f g { q.2 with
      fresh := t.fresh + 1, edits := q.2.edits ++ [acceptedEdit sc (plan (seen f g)) f g (groupCtx s g) q.1 t] } := by
  obtain ⟨⟨hi, hearly, hacq, haddrs⟩, hbad, hseam, hfree, hawake⟩ := h
  obtain ⟨hnone, -⟩ := addrs_canonical haddrs
  have hawake := editAwake_none hawake
  unfold planRanges at hfree hawake
  have hgo : (decide (framesNeeded s (groupCtx s g) (plan (seen f g)) ≠ 0) && (ctxAt s (groupCtx s g)).pool.en &&
      !(ctxAt s (groupCtx s g)).pool.heldFrames.isEmpty) = false := by
    rcases hheld with h | h <;> simp [h]
  refine (issuer_focus _ hi.1 hi.2).trans ?_
  simp only [hearly, hacq, hnone, hbad, hseam, hfree, hawake, hcause, hgo, Nat.not_lt.mpr hroom, Bool.false_eq_true, if_false]
  rfl

/-! ### The six instructions (R237, R240-R245) -/

/-- Each row is one edit with its plan; a map.perm's list is in the registers. -/
theorem exec_mapRow {row : Instr × Plan} (hrow : row ∈ mapRows x (seen f g))
    (hlist : row.1 = .mapPerm x → x.b.toNat + ((sGet (seen f g) x.d.toNat).toNat + 3) / 4 ≤ 128) :
    ∃ plan early, exec row.1 s = editOp x.sc plan early s ∧ plan (seen f g) = row.2 ∧ early (seen f g) = false := by
  simp only [mapRows, List.mem_cons, List.not_mem_nil, or_false] at hrow
  rcases hrow with rfl | rfl | rfl | rfl | rfl | rfl <;>
    simp only [exec_mapCat, exec_mapSplit, exec_mapXchg, exec_mapAlias, exec_mapDrop, exec_mapPerm]
  case inr.inr.inr.inr.inr =>
    refine ⟨_, permPast x, rfl, rfl, decide_eq_false ?_⟩
    have hlist := hlist rfl
    have hn : sNat (seen f g) x.d 0 = (sGet (seen f g) x.d.toNat).toNat := rfl
    omega
  all_goals exact ⟨_, fun _ => false, rfl, rfl, rfl⟩

end Edit

theorem renamingAccepted : RenamingAccepted := by
  intro x s f g hi hacq row hrow hlist haddrs hbad hseam hfree htables hcause hpool hroom
  obtain ⟨plan, early, hexec, hplan, hearly⟩ := exec_mapRow (s := s) hrow hlist
  rw [← hplan] at haddrs hbad hseam hfree htables hcause hpool hroom ⊢
  have hchecked : Checked s f g (plan (seen f g)) (early (seen f g)) :=
    ⟨⟨hi, hearly, hacq, haddrs⟩, hbad, hseam, hfree, htables, hpool.imp id And.right⟩
  have haccepts := hexec.trans (editOp_accepts (sc := x.sc) hchecked hcause (hpool.imp id And.left) hroom)
  have htouch := (touched_touchWalks s (gidCore f.gid) (groupCtx s g) (planRanges (plan (seen f g)))).rest
  obtain ⟨length, groups, mem, sram, edits, head⟩ :=
    framesTaken_takeFrames (touchWalks s (gidCore f.gid) (groupCtx s g) (planRanges (plan (seen f g)))) (groupCtx s g)
      (framesNeeded s (groupCtx s g) (plan (seen f g)))
  rw [htouch] at groups mem sram edits head length haccepts
  refine ⟨_, acceptedEdit x.sc (plan (seen f g)) f g (groupCtx s g) _ _, haccepts,
    congrArg (fun m => mapPut m f.gid (retire f g)) groups, mem, sram, congrArg (· ++ [_]) edits, rfl, rfl, rfl, rfl, rfl, length, head⟩

theorem renamingRefused : RenamingRefused := by
  intro x s f g hi hc hacq row hrow haddrs hlist
  obtain ⟨plan, early, hexec, hplan, hearly⟩ := exec_mapRow (s := s) hrow hlist
  rw [hexec, ← hplan]
  rw [← hplan] at haddrs
  have hoperands : Operands s f g (plan (seen f g)) (early (seen f g)) := ⟨hi, hearly, hacq, haddrs⟩
  have htrap := fun code info => trap_traps (s := s) (f := f) (g := g) code info hi hc
  refine ⟨fun hbad => editOp_bad hoperands hbad ▸ htrap .., fun hbad hseam => editOp_seam hoperands hbad hseam ▸ htrap ..,
    fun hbad hseam hedits htables hpool => ?_⟩
  have hchecked : Checked s f g (plan (seen f g)) (early (seen f g)) :=
    ⟨hoperands, hbad, hseam, by simp [rangesBusy, hedits], htables, hpool⟩
  refine ⟨fun a rest hmapped hentry hdead => ?_, fun hcause hheld hshort => ?_⟩
  · have hcause : mapCause s (gidCore f.gid) (groupCtx s g) (plan (seen f g)) = some (0x40, a) := by
      simp [mapCause, hmapped, hentry]
    have hquiet : reportWalk f 0x40 a s = s := reportWalk_alive hi hdead
    rw [editOp_cause hchecked hcause, hquiet]
    exact htrap ..
  · exact (editOp_short hchecked hcause hheld hshort).trans (superTrap_taken 0x54 0 hi hc)

/-- Settles O29: each renaming instruction is one edit with its plan, and the checks of an edit, taken in their order, end in its
acceptance or in the cause of the first that fails. -/
theorem renamingAcceptedOrRefused : Obligations.RenamingAcceptedOrRefused := ⟨renamingAccepted, renamingRefused⟩


/-! ### map.query (R246) -/

section Query
variable {s : State} {f : Focus} {g : Group} {k va : Nat} {tr : Trans}

theorem queryWord_unmapped (h : walk s k va = none) : queryWord s k va = 0 := by simp [queryWord, h]

/-- The word of a mapped page: below the generation the frame, bit 11, and the attributes one bit each, over the count bit and the
page size. -/
theorem queryWord_mapped (h : walk s k va = some tr) : ∃ frame low : Nat, frame < 2 ^ 36 ∧ low < 8 ∧
    queryWord s k va = tr.gen.toNat * 2 ^ 48 + frame * 2 ^ 12 + 2 ^ 11 + tr.attr.w.toNat * 2 ^ 10 + tr.attr.shadow.toNat * 2 ^ 9 +
      tr.attr.manual.toNat * 2 ^ 8 + tr.attr.zb.toNat * 2 ^ 7 + tr.attr.fmt.toNat * 2 ^ 6 + tr.attr.host.toNat * 2 ^ 5 +
      tr.attr.owner.toNat * 2 ^ 4 + tr.attr.zero.toNat * 2 ^ 3 + low := by
  have hflag : ∀ (b : Bool) (i : Nat), (if b = true then 2 ^ i else 0) = b.toNat * 2 ^ i := fun b i => by cases b <;> simp
  have hbit : ∀ b : Bool, b.toNat ≤ 1 := Bool.toNat_le
  have hsize : (if tr.size = pageP then 0 else if tr.size = 2 ^ 21 then 1 else 2) ≤ 2 := by split_ifs <;> omega
  simp only [queryWord, h, hflag]
  refine ⟨_, _ , Nat.mod_lt _ (Nat.two_pow_pos 36), ?_, Nat.add_assoc ..⟩
  have := hbit ((onFrame tr.attr || tr.attr.fmt) &&
    decide (1 < mapGet 0 s.mem.counts (genFrame k tr.attr (transPa tr (va / pageP * pageP)))))
  omega

theorem getLsbD_ofNat_div {n i c : Nat} (hi : i < 64) {b : Bool} (h : n / 2 ^ i % 2 = c) (hc : c = b.toNat) :
    (BitVec.ofNat 64 n).getLsbD i = b := by
  rw [BitVec.getLsbD_ofNat, Nat.testBit_eq_decide_div_mod_eq, h, hc]
  cases b <;> simp [hi]

/-- The fields of the word of a mapped page. -/
theorem queryWord_fields (h : walk s k va = some tr) :
    let w := BitVec.ofNat 64 (queryWord s k va)
    w.getLsbD 11 = true ∧ (w >>> 48).toNat = tr.gen.toNat ∧ w.getLsbD 10 = tr.attr.w ∧ w.getLsbD 3 = tr.attr.zero ∧
      w.getLsbD 9 = tr.attr.shadow ∧ w.getLsbD 8 = tr.attr.manual := by
  obtain ⟨frame, low, hframe, hlow, hword⟩ := queryWord_mapped h
  have hgen : tr.gen.toNat < 2 ^ 16 := tr.gen.isLt
  have hw := tr.attr.w.toNat_le
  have hshadow := tr.attr.shadow.toNat_le
  have hmanual := tr.attr.manual.toNat_le
  have hzb := tr.attr.zb.toNat_le
  have hfmt := tr.attr.fmt.toNat_le
  have hhost := tr.attr.host.toNat_le
  have howner := tr.attr.owner.toNat_le
  have hzero := tr.attr.zero.toNat_le
  rw [hword]
  refine ⟨getLsbD_ofNat_div (by decide) (c := 1) ?_ rfl, ?_, getLsbD_ofNat_div (by decide) ?_ rfl, getLsbD_ofNat_div (by decide) ?_ rfl,
    getLsbD_ofNat_div (by decide) ?_ rfl, getLsbD_ofNat_div (by decide) ?_ rfl⟩
  case refine_2 =>
    rw [BitVec.toNat_ushiftRight, BitVec.toNat_ofNat, Nat.shiftRight_eq_div_pow]
    omega
  all_goals omega

theorem fresh_touchWalk (s : State) (core k va : Nat) : (touchWalk s core k va).fresh = s.fresh := by
  unfold touchWalk
  split
  · rfl
  · exact List.foldlRecOn (motive := fun t : State => t.fresh = s.fresh) _ _ rfl fun _ h _ _ => h

theorem fresh_touchWalks (s : State) (core k : Nat) (l : List (Nat × Nat)) : (touchWalks s core k l).fresh = s.fresh := by
  refine List.foldlRecOn (motive := fun t : State => t.fresh = s.fresh) _ _ rfl fun t ht r _ => ?_
  exact List.foldlRecOn (motive := fun t : State => t.fresh = s.fresh) _ _ ht fun t ht pc _ => (fresh_touchWalk t core k pc.1).trans ht

/-- With the lanes' edits committed and the tables awake, map.query leaves the word of the page in its register. -/
theorem execMapQuery_reads {x : MArgs} (hi : Issues s f g) (hedits : NoEdits s g)
    (hva : (sGet (seen f g) x.a.toNat).toNat < 2 ^ 56) (htables : TablesAwake s f g [((sGet (seen f g) x.a.toNat).toNat, 1)])
    (hdead : walkDead s (groupCtx s g) (sGet (seen f g) x.a.toNat).toNat = none) :
    execMapQuery x s = done f
      (sSet g x.d.toNat (BitVec.ofNat 64 (queryWord s (groupCtx s g) (sGet (seen f g) x.a.toNat).toNat)))
      (touchWalks s (gidCore f.gid) (groupCtx s g) [((sGet (seen f g) x.a.toNat).toNat, 1)]) := by
  have hnone : (s.edits.any fun e => !e.committed && e.uid == g.uid && meets e.lanes f.lanes) = false := by
    refine List.any_eq_false.mpr fun e he => ?_
    by_cases hu : e.uid = g.uid
    · simp [hedits e he hu]
    · simp [hu]
  unfold TablesAwake at htables
  refine (issuer_focus _ hi.1 hi.2).trans ?_
  simp only [sNat, Nat.add_zero, Nat.not_le.mpr hva, hnone, htables, reportWalk_alive hi hdead, Bool.false_eq_true, if_false]

end Query

/-- Settles O30: map.query writes one word, 0 where the walk finds no page, else the fields of its translation side by side. -/
theorem mapQueryReads : Obligations.MapQueryReads := by
  intro x s f g hi hedits va hva htables hdead
  obtain ⟨bins, hbins⟩ : ∃ bins, touchWalks s (gidCore f.gid) (groupCtx s g) [(va, 1)] = { s with bins } := by
    have htouch := (touched_touchWalks s (gidCore f.gid) (groupCtx s g) [(va, 1)]).rest
    rw [fresh_touchWalks] at htouch
    exact ⟨_, htouch⟩
  refine ⟨{ s with bins }, _, BitVec.ofNat 64 (queryWord s (groupCtx s g) va),
    (execMapQuery_reads hi hedits hva htables hdead).trans (congrArg (done f _) hbins), rfl, uniDone_sSet_quiet .., fun h => ?_,
    fun tr h => queryWord_fields h⟩
  rw [queryWord_unmapped h]
  rfl

end Sys2Proof.Machine
end

section
/-! PROOFS. The way of a walk to the leaf entry of a page, and what a write of leaf entries leaves of the pages' mapping: the tables on
the way stay as they are, and each page maps what its last entry says (R233-R235, R351). -/

open Host Sys2Proof Sys2Proof.Machine Sys2Proof.Claims

namespace Sys2Proof.Machine

/-! ### Entries at home (R28, R234) -/

/-- The entry of a table at an address. -/
def entryOf (m : Mem) (slot : Nat) : Nat := leNat (homeRead m slot 8)

theorem leNat_leBytes (n v : Nat) : leNat (leBytes n v) = v % 256 ^ n := by
  induction n generalizing v with
  | zero => simp [leBytes, leNat, Nat.mod_one]
  | succ n ih =>
    rw [leBytes, leNat, ih, BitVec.toNat_ofNat, Nat.pow_succ' (m := 256), Nat.mod_mul]

theorem leNat_lt (bs : List Byte) : leNat bs < 256 ^ bs.length := by
  induction bs with
  | nil => exact Nat.one_pos
  | cons b bs ih =>
    rw [leNat, List.length_cons, pow_succ]
    have := b.isLt
    omega

theorem entryOf_lt (m : Mem) (slot : Nat) : entryOf m slot < 2 ^ 64 := by
  have h := leNat_lt (homeRead m slot 8)
  rwa [homeRead_eq_map, List.length_map, List.length_range] at h

/-- An entry is the bytes at it. -/
theorem entryOf_congr {m m' : Mem} {slot : Nat} (h : ∀ i, i < 8 → homeByte m' (slot + i) = homeByte m (slot + i)) :
    entryOf m' slot = entryOf m slot := by
  unfold entryOf
  rw [homeRead_eq_map, homeRead_eq_map]
  exact congrArg leNat (List.map_congr_left fun i hi => h i (List.mem_range.mp hi))

/-- A written entry reads as written. -/
theorem entryOf_homeWrite_self (m : Mem) (slot : Nat) {e : Nat} (he : e < 2 ^ 64) : entryOf (homeWrite m slot (leBytes 8 e)) slot = e := by
  have h := homeRead_homeWrite m slot (leBytes 8 e)
  rw [length_leBytes] at h
  rw [entryOf, h, leNat_leBytes]
  exact Nat.mod_eq_of_lt he

/-- An entry apart from the written one is as it was. -/
theorem entryOf_homeWrite_ne (m : Mem) {slot q : Nat} (e : Nat) (hslot : slot % 8 = 0) (hq : q % 8 = 0) (hne : q ≠ slot) :
    entryOf (homeWrite m slot (leBytes 8 e)) q = entryOf m q := by
  refine entryOf_congr fun i hi => homeByte_homeWrite_out _ _ ?_
  rw [length_leBytes]
  omega

/-! ### The way to a leaf entry (R233) -/

/-- The valid entries of non-leaf tables lead from a table of a level to the leaf entry at slot. -/
def LeadsTo (mine : Nat → Bool) (m : Mem) (va slot : Nat) : Nat → Nat → Prop
  | 0, table => pteSlot 0 table va = slot
  | level + 1, table =>
    let q := pteSlot (level + 1) table va
    mine q = true ∧ pteV (entryOf m q) = true ∧ pteLeaf (entryOf m q) = false ∧ tableOk (entryOf m q) = true ∧
      LeadsTo mine m va slot level (pteAddr (entryOf m q))

section Way
variable {mine : Nat → Bool} {m : Mem} {va slot : Nat}

/-- The entry that a walk reads: nothing where the partition does not reach it (R351). -/
def reachedEntry (mine : Nat → Bool) (m : Mem) (slot : Nat) : Nat := if mine slot = true then entryOf m slot else 0

/-- A walk in a table of 64 KiB leaves ends at their entry. -/
theorem walkFrom_zero (zb manual : Bool) (table : Nat) : walkFrom zb manual mine m va 0 table =
    ({ level := 0, slot := pteSlot 0 table va, entry := reachedEntry mine m (pteSlot 0 table va) },
      pteV (reachedEntry mine m (pteSlot 0 table va)) && pteLeaf (reachedEntry mine m (pteSlot 0 table va)) &&
        leafOk zb manual 0 (reachedEntry mine m (pteSlot 0 table va))) := by
  unfold walkFrom reachedEntry entryOf
  dsimp only
  generalize (if mine (pteSlot 0 table va) = true then leNat (homeRead m (pteSlot 0 table va) 8) else 0) = e
  cases hv : pteV e <;> cases hl : pteLeaf e <;> simp

/-- In a table of a higher level it goes on from a valid entry of a table, or ends. -/
theorem walkFrom_succ (zb manual : Bool) (level table : Nat) : walkFrom zb manual mine m va (level + 1) table =
    let q := pteSlot (level + 1) table va
    let e := reachedEntry mine m q
    if (pteV e && !pteLeaf e && tableOk e) = true then walkFrom zb manual mine m va level (pteAddr e)
    else ({ level := level + 1, slot := q, entry := e }, pteV e && pteLeaf e && leafOk zb manual (level + 1) e) := by
  rw [walkFrom]
  unfold reachedEntry entryOf
  dsimp only
  generalize (if mine (pteSlot (level + 1) table va) = true then leNat (homeRead m (pteSlot (level + 1) table va) 8) else 0) = e
  cases hv : pteV e <;> cases hl : pteLeaf e <;> simp

theorem pteV_zero : pteV 0 = false := by decide

/-- Where a table's entry leads on, it is reached. -/
theorem reached_of_pteV {q : Nat} (h : pteV (reachedEntry mine m q) = true) : mine q = true ∧ reachedEntry mine m q = entryOf m q := by
  unfold reachedEntry at h ⊢
  split at h
  · exact ⟨‹_›, if_pos ‹_›⟩
  · simp [pteV_zero] at h

/-- A walk that ends in a table of 64 KiB leaves has been led there. -/
theorem leadsTo_of_walkFrom {zb manual : Bool} {level table : Nat} (h : (walkFrom zb manual mine m va level table).1.level = 0) :
    LeadsTo mine m va (walkFrom zb manual mine m va level table).1.slot level table := by
  induction level generalizing table with
  | zero =>
    rw [walkFrom_zero]
    rfl
  | succ level ih =>
    rw [walkFrom_succ] at h ⊢
    dsimp only at h ⊢
    split at h
    next hon =>
      rw [if_pos hon]
      simp only [Bool.and_eq_true, Bool.not_eq_true'] at hon
      obtain ⟨⟨hv, hl⟩, ht⟩ := hon
      obtain ⟨hmine, he⟩ := reached_of_pteV hv
      rw [he] at hv hl ht h ⊢
      exact ⟨hmine, hv, hl, ht, ih h⟩
    next => exact absurd h (Nat.succ_ne_zero level)

/-- Where it is led, a walk ends at the leaf entry. -/
theorem walkFrom_of_leadsTo (zb manual : Bool) {level table : Nat} (h : LeadsTo mine m va slot level table) :
    walkFrom zb manual mine m va level table = ({ level := 0, slot, entry := reachedEntry mine m slot },
      pteV (reachedEntry mine m slot) && pteLeaf (reachedEntry mine m slot) && leafOk zb manual 0 (reachedEntry mine m slot)) := by
  induction level generalizing table with
  | zero =>
    rw [walkFrom_zero, show pteSlot 0 table va = slot from h]
  | succ level ih =>
    obtain ⟨hmine, hv, hl, ht, h⟩ := h
    have he : reachedEntry mine m (pteSlot (level + 1) table va) = entryOf m (pteSlot (level + 1) table va) := if_pos hmine
    rw [walkFrom_succ]
    dsimp only
    rw [he, hv, hl, ht]
    exact ih h

/-- With the entries above the leaf as they were, the way is as it was. -/
theorem way_congr {m' : Mem} {level table : Nat} (h : ∀ q ∈ entriesAbove m va level table, entryOf m' q = entryOf m q) :
    entriesAbove m' va level table = entriesAbove m va level table ∧
      (LeadsTo mine m va slot level table → LeadsTo mine m' va slot level table) := by
  induction level generalizing table with
  | zero => exact ⟨rfl, fun h => h⟩
  | succ level ih =>
    obtain ⟨hfirst, hrest⟩ := List.forall_mem_cons.mp h
    obtain ⟨hway, hlead⟩ := ih hrest
    change entryOf m' (pteSlot (level + 1) table va) = entryOf m (pteSlot (level + 1) table va) at hfirst
    constructor
    · change _ :: entriesAbove m' va level (pteAddr (entryOf m' _)) = _
      rw [hfirst]
      exact congrArg (_ :: ·) hway
    · rintro ⟨hmine, hv, hl, ht, hon⟩
      unfold LeadsTo
      dsimp only
      rw [hfirst]
      exact ⟨hmine, hv, hl, ht, hlead hon⟩

/-- The entries of a walk lie at multiples of 8. -/
theorem aligned_of_leadsTo {level table : Nat} (htable : table % 8 = 0) (h : LeadsTo mine m va slot level table) : slot % 8 = 0 := by
  induction level generalizing table with
  | zero =>
    rw [← show pteSlot 0 table va = slot from h, pteSlot]
    omega
  | succ level ih =>
    obtain ⟨-, -, -, -, h⟩ := h
    exact ih (by rw [pteAddr]; omega) h

theorem aligned_entriesAbove {level table q : Nat} (htable : table % 8 = 0) (h : q ∈ entriesAbove m va level table) : q % 8 = 0 := by
  induction level generalizing table with
  | zero => exact absurd h List.not_mem_nil
  | succ level ih =>
    rcases List.mem_cons.mp h with rfl | h
    · rw [pteSlot]
      omega
    · exact ih (by rw [pteAddr]; omega) h

/-- Every entry of the way is reached, where the leaf's is. -/
theorem walkSlots_mine {level table : Nat} (h : LeadsTo mine m va slot level table) (hslot : mine slot = true) :
    ∀ q ∈ walkSlots mine m va level table, mine q = true := by
  induction level generalizing table with
  | zero =>
    have hq : pteSlot 0 table va = slot := h
    simpa [walkSlots, hq] using hslot
  | succ level ih =>
    obtain ⟨hmine, hv, hl, ht, h⟩ := h
    unfold entryOf at hv hl ht
    unfold walkSlots
    simp only [hmine, hv, hl, ht, if_true, Bool.not_false, Bool.and_self]
    exact List.forall_mem_cons.mpr ⟨hmine, ih h⟩

/-- The tables on the way are there: a descent to the leaf entry makes none (R235). -/
theorem descend_of_leadsTo {k level table : Nat} {w : Work} (h : LeadsTo mine w.s.mem va slot level table) :
    Work.descend k va 0 level table w = (slot, w) := by
  induction level generalizing table with
  | zero => exact Prod.ext h rfl
  | succ level ih =>
    obtain ⟨-, hv, hl, -, h⟩ := h
    unfold entryOf at hv hl
    unfold Work.descend
    simp only [Nat.add_one_ne_zero, if_false, hv, hl, Bool.not_false, Bool.and_self, if_true]
    exact ih h

end Way

/-! ### The leaf entries of a context's pages (R233-R235) -/

/-- What walks of a context depend on beside the bytes of its tables: the root, the features that leaves need, and the bins that the
partition reaches. -/
structure SameTables (s t : State) (k : Nat) : Prop where
  ptbase : (ctxAt t k).ptbase = (ctxAt s k).ptbase
  features : ∀ b, feature t (ctxPart k) b = feature s (ctxPart k) b
  mine : tableMine t k = tableMine s k

theorem SameTables.trans {s t u : State} {k : Nat} (h : SameTables s t k) (h' : SameTables t u k) : SameTables s u k :=
  ⟨h'.ptbase.trans h.ptbase, fun b => (h'.features b).trans (h.features b), h'.mine.trans h.mine⟩

/-- Only the cores and the memory differ. -/
theorem sameTables_of_cores_mem (s : State) (k : Nat) (cores : SMap Core) (mem : Mem) : SameTables s { s with cores, mem } k :=
  ⟨rfl, fun _ => rfl, rfl⟩

theorem sameTables_of_touched {s t : State} (h : Touched s t) (k : Nat) : SameTables s t k := by
  refine ⟨?_, fun b => ?_, ?_⟩
  · rw [h.rest]
    rfl
  · rw [h.rest]
    rfl
  · funext slot
    unfold tableMine
    rw [h.bins, h.rest]
    rfl

/-- What a leaf entry of 64 KiB maps. -/
def leafEntry (s : State) (k e : Nat) : Option (Nat × Nat) :=
  if (pteV e && pteLeaf e && leafOk (feature s (ctxPart k) 5) (feature s (ctxPart k) 9) 0 e) = true then some (0, e) else none

theorem SameTables.leafEntry {s t : State} {k : Nat} (h : SameTables s t k) (e : Nat) : leafEntry t k e = leafEntry s k e := by
  unfold Machine.leafEntry
  rw [h.features, h.features]

theorem leafEntry_zero (s : State) (k : Nat) : leafEntry s k 0 = none := by simp [leafEntry, pteV_zero]

theorem leafEntry_some {s : State} {k e : Nat} {x : Nat × Nat} (h : leafEntry s k e = some x) : x = (0, e) ∧ pteV e = true ∧
    pteLeaf e = true ∧ leafOk (feature s (ctxPart k) 5) (feature s (ctxPart k) 9) 0 e = true := by
  unfold leafEntry at h
  split at h
  next hok =>
    simp only [Bool.and_eq_true] at hok
    exact ⟨(Option.some.inj h).symm, hok.1.1, hok.1.2, hok.2⟩
  next => exact absurd h (by simp)

section Leaf
variable {s t : State} {k va slot : Nat}

theorem leafSlot_iff_leadsTo : LeafSlot s k va slot ↔ (ctxAt s k).ptbase.getLsbD 0 = true ∧
    LeadsTo (tableMine s k) s.mem va slot 4 (rootTable s k) ∧ tableMine s k slot = true := by
  constructor
  · rintro ⟨f, b, hwalk, hlevel, rfl, hmine⟩
    unfold walkCtx at hwalk
    dsimp only at hwalk
    split at hwalk
    next hbase =>
      have hf : (walkFrom (feature s (ctxPart k) 5) (feature s (ctxPart k) 9) (tableMine s k) s.mem va 4 (rootTable s k)).1 = f :=
        congrArg Prod.fst (Option.some.inj hwalk)
      refine ⟨hbase, ?_, hmine⟩
      rw [← hf]
      exact leadsTo_of_walkFrom ((congrArg Found.level hf).trans hlevel)
    next => exact absurd hwalk (by simp)
  · rintro ⟨hbase, hlead, hmine⟩
    refine ⟨_, _, (if_pos hbase).trans (congrArg some (walkFrom_of_leadsTo _ _ hlead)), rfl, rfl, hmine⟩

theorem leadsTo_of_leafSlot (h : LeafSlot s k va slot) : LeadsTo (tableMine s k) s.mem va slot 4 (rootTable s k) := by
  obtain ⟨-, hlead, -⟩ := leafSlot_iff_leadsTo.mp h
  exact hlead

/-- A page with a leaf entry maps what the entry says. -/
theorem pageEntry_of_leafSlot (h : LeafSlot s k va slot) : pageEntry s k va = leafEntry s k (entryOf s.mem slot) := by
  obtain ⟨hbase, hlead, hmine⟩ := leafSlot_iff_leadsTo.mp h
  have hwalk : walkCtx s k va = _ := (if_pos hbase).trans (congrArg some (walkFrom_of_leadsTo _ _ hlead))
  unfold pageEntry
  rw [hwalk, show reachedEntry (tableMine s k) s.mem slot = entryOf s.mem slot from if_pos hmine]
  unfold leafEntry
  cases hok : (pteV (entryOf s.mem slot) && pteLeaf (entryOf s.mem slot) &&
    leafOk (feature s (ctxPart k) 5) (feature s (ctxPart k) 9) 0 (entryOf s.mem slot)) <;> simp [smallEntry]

theorem rootTable_aligned (s : State) (k : Nat) : rootTable s k % 8 = 0 := by
  rw [rootTable]
  omega

theorem leafSlot_aligned (h : LeafSlot s k va slot) : slot % 8 = 0 :=
  aligned_of_leadsTo (rootTable_aligned s k) (leadsTo_of_leafSlot h)

/-- No walk of the page comes to a table that the partition does not reach. -/
theorem walkDead_of_leafSlot (h : LeafSlot s k va slot) : walkDead s k va = none := by
  obtain ⟨hbase, hlead, hmine⟩ := leafSlot_iff_leadsTo.mp h
  refine List.find?_eq_none.mpr fun q hq => ?_
  rw [tableSlots] at hq
  simp only [hbase, if_true] at hq
  simp [walkSlots_mine hlead hmine q hq]

theorem SameTables.leafSlot (h : SameTables s t k)
    (habove : ∀ q ∈ entriesAbove s.mem va 4 (rootTable s k), entryOf t.mem q = entryOf s.mem q) (hleaf : LeafSlot s k va slot) :
    LeafSlot t k va slot := by
  obtain ⟨hbase, hlead, hmine⟩ := leafSlot_iff_leadsTo.mp hleaf
  have hroot : rootTable t k = rootTable s k := by rw [rootTable, h.ptbase, rootTable]
  refine leafSlot_iff_leadsTo.mpr ⟨by rw [h.ptbase]; exact hbase, ?_, by rw [h.mine]; exact hmine⟩
  rw [h.mine, hroot]
  exact (way_congr habove).2 hlead

/-- An entry of 64 KiB is written in its place, and nothing else (R235). -/
theorem setEntry_of_leafSlot {w : Work} (h : LeafSlot w.s k va slot) (e : Nat) :
    w.setEntry k va 0 e = { w with s := writeEntry w.s slot e } := by
  unfold Work.setEntry
  rw [walkDead_of_leafSlot h, descend_of_leadsTo (leadsTo_of_leafSlot h)]
  rfl

end Leaf

/-! ### Pages apart -/

/-- Some pages have leaf entries at the addresses that slot gives, no two at one address and none on the way to another. -/
structure Apart (s : State) (k : Nat) (pages : List Nat) (slot : Nat → Nat) : Prop where
  leaf : ∀ a ∈ pages, LeafSlot s k a (slot a)
  above : ∀ a ∈ pages, ∀ c ∈ pages, slot a ∉ entriesAbove s.mem c 4 (rootTable s k)
  distinct : ∀ a ∈ pages, ∀ c ∈ pages, c ≠ a → slot c ≠ slot a

theorem exists_apart {s : State} {k : Nat} {pages : List Nat} (h : PagesApart s k pages) : ∃ slot, Apart s k pages slot := by
  have hslot : ∀ a, ∃ q, a ∈ pages → LeafSlot s k a q ∧
      ∀ c ∈ pages, q ∉ entriesAbove s.mem c 4 (rootTable s k) ∧ (c ≠ a → ¬ LeafSlot s k c q) := by
    intro a
    by_cases ha : a ∈ pages
    · obtain ⟨q, hq⟩ := h a ha
      exact ⟨q, fun _ => hq⟩
    · exact ⟨0, fun h => absurd h ha⟩
  choose slot hslot using hslot
  refine ⟨slot, fun a ha => (hslot a ha).1, fun a ha c hc => ((hslot a ha).2 c hc).1, fun a ha c hc hne heq => ?_⟩
  exact ((hslot a ha).2 c hc).2 hne (heq ▸ (hslot c hc).1)

section Apart
variable {s t : State} {k : Nat} {pages : List Nat} {slot : Nat → Nat}

/-- Where the entries above the leaves are as they were, the pages have their leaf entries where they had them. -/
theorem Apart.congr (h : Apart s k pages slot) (hsame : SameTables s t k)
    (habove : ∀ c ∈ pages, ∀ q ∈ entriesAbove s.mem c 4 (rootTable s k), entryOf t.mem q = entryOf s.mem q) :
    Apart t k pages slot := by
  have hroot : rootTable t k = rootTable s k := by rw [rootTable, hsame.ptbase, rootTable]
  refine ⟨fun a ha => hsame.leafSlot (habove a ha) (h.leaf a ha), fun a ha c hc => ?_, h.distinct⟩
  rw [hroot, (way_congr (mine := fun _ => true) (slot := 0) (habove c hc)).1]
  exact h.above a ha c hc

/-- Writes of the pages' entries have left everything else but the memory and the translation caches: each page maps what its entry
says, and every byte outside the entries is as it was. -/
structure Wrote (s t : State) (k : Nat) (pages : List Nat) (slot : Nat → Nat) (maps : Nat → Option (Nat × Nat)) : Prop where
  rest : t = { s with cores := t.cores, mem := t.mem }
  apart : Apart t k pages slot
  maps : ∀ a ∈ pages, pageEntry t k a = maps a
  bytes : ∀ b, (∀ a ∈ pages, b < slot a ∨ slot a + 8 ≤ b) → homeByte t.mem b = homeByte s.mem b

theorem Wrote.sameTables {maps : Nat → Option (Nat × Nat)} (h : Wrote s t k pages slot maps) : SameTables s t k := by
  rw [h.rest]
  exact sameTables_of_cores_mem ..

/-- What a page maps after changes of pages of 64 KiB, the last of them counting. -/
def mapsAfter (s : State) (k : Nat) (old : Option (Nat × Nat)) (cs : List Chg) (a : Nat) : Option (Nat × Nat) :=
  cs.foldl (fun old c => if c.va = a then leafEntry s k c.entry else old) old

/-- The changes are of pages of 64 KiB among some, with entries of 64 bits. -/
def SmallChgs (pages : List Nat) (cs : List Chg) : Prop := ∀ c ∈ cs, c.level = 0 ∧ c.va ∈ pages ∧ c.entry < 2 ^ 64

theorem wrote_writeEntry (h : Apart s k pages slot) {a e : Nat} (ha : a ∈ pages) (he : e < 2 ^ 64) :
    Wrote s (writeEntry s (slot a) e) k pages slot (fun c => if a = c then leafEntry s k e else pageEntry s k c) := by
  have hslot : ∀ c ∈ pages, slot c % 8 = 0 := fun c hc => leafSlot_aligned (h.leaf c hc)
  have hsame : SameTables s (writeEntry s (slot a) e) k := sameTables_of_cores_mem s k s.cores _
  have hapart : Apart (writeEntry s (slot a) e) k pages slot := by
    refine h.congr hsame fun c hc q hq => entryOf_homeWrite_ne _ _ (hslot a ha) (aligned_entriesAbove (rootTable_aligned s k) hq) ?_
    rintro rfl
    exact h.above a ha c hc hq
  refine ⟨rfl, hapart, fun c hc => ?_, fun b hb => ?_⟩
  · rw [pageEntry_of_leafSlot (hapart.leaf c hc), hsame.leafEntry]
    split
    next hac =>
      subst hac
      exact congrArg (leafEntry s k) (entryOf_homeWrite_self _ _ he)
    next hac =>
      rw [pageEntry_of_leafSlot (h.leaf c hc)]
      exact congrArg (leafEntry s k) (entryOf_homeWrite_ne _ _ (hslot a ha) (hslot c hc) (h.distinct a ha c hc (Ne.symm hac)))
  · refine homeByte_homeWrite_out _ _ ?_
    rw [length_leBytes]
    exact hb a ha

theorem Wrote.refl (h : Apart s k pages slot) : Wrote s s k pages slot (pageEntry s k) := ⟨rfl, h, fun _ _ => rfl, fun _ _ => rfl⟩

theorem Wrote.trans {u : State} {maps maps' : Nat → Option (Nat × Nat)} (h : Wrote s t k pages slot maps)
    (h' : Wrote t u k pages slot maps') : Wrote s u k pages slot maps' :=
  ⟨by rw [h'.rest, h.rest], h'.apart, h'.maps, fun b hb => (h'.bytes b hb).trans (h.bytes b hb)⟩

theorem Wrote.congr {maps maps' : Nat → Option (Nat × Nat)} (h : Wrote s t k pages slot maps) (heq : ∀ a ∈ pages, maps a = maps' a) :
    Wrote s t k pages slot maps' := ⟨h.rest, h.apart, fun a ha => (h.maps a ha).trans (heq a ha), h.bytes⟩

/-- The entries of an edit are written one after another, and no table is made. -/
theorem wrote_writeAll {w : Work} {cs : List Chg} (h : Apart w.s k pages slot) (hcs : SmallChgs pages cs) :
    (w.writeAll k cs).avail = w.avail ∧
      Wrote w.s (w.writeAll k cs).s k pages slot (fun a => mapsAfter w.s k (pageEntry w.s k a) cs a) := by
  induction cs generalizing w with
  | nil => exact ⟨rfl, .refl h⟩
  | cons c cs ih =>
    obtain ⟨hc, hcs⟩ := List.forall_mem_cons.mp hcs
    obtain ⟨hlevel, hpage, hentry⟩ := hc
    have hstep : ∃ v : Work, (Work.writeAll w k (c :: cs)) = v.writeAll k cs ∧ v.avail = w.avail ∧
        Wrote w.s v.s k pages slot (fun a => if c.va = a then leafEntry w.s k c.entry else pageEntry w.s k a) := by
      refine ⟨_, rfl, ?_⟩
      dsimp only
      split
      next hnone =>
        simp only [Bool.and_eq_true, decide_eq_true_eq, Option.isNone_iff_eq_none] at hnone
        refine ⟨rfl, (Wrote.refl h).congr fun a _ => ?_⟩
        split
        next hac => rw [← hac, hnone.1, hnone.2, leafEntry_zero]
        next => rfl
      next =>
        rw [hlevel, setEntry_of_leafSlot (h.leaf c.va hpage)]
        exact ⟨rfl, wrote_writeEntry h hpage hentry⟩
    obtain ⟨v, hv, havail, hwrote⟩ := hstep
    obtain ⟨havail', hwrote'⟩ := ih (w := v) hwrote.apart hcs
    rw [hv]
    refine ⟨havail'.trans havail, hwrote.trans (hwrote'.congr fun a ha => ?_)⟩
    rw [hwrote.maps a ha]
    have hleaf : leafEntry v.s k = leafEntry w.s k := funext hwrote.sameTables.leafEntry
    unfold mapsAfter
    rw [hleaf]
    rfl

/-- Cores and memory may change as long as every byte stays. -/
theorem wrote_of_sameBytes (h : Apart s k pages slot) (hrest : t = { s with cores := t.cores, mem := t.mem })
    (hbytes : ∀ b, homeByte t.mem b = homeByte s.mem b) : Wrote s t k pages slot (pageEntry s k) := by
  have hsame : SameTables s t k := by
    rw [hrest]
    exact sameTables_of_cores_mem ..
  have hentry : ∀ q, entryOf t.mem q = entryOf s.mem q := fun q => entryOf_congr fun i _ => hbytes _
  have hapart := h.congr hsame fun c _ q _ => hentry q
  refine ⟨hrest, hapart, fun a ha => ?_, fun b _ => hbytes b⟩
  rw [pageEntry_of_leafSlot (hapart.leaf a ha), pageEntry_of_leafSlot (h.leaf a ha), hentry, hsame.leafEntry]

theorem homeByte_foldl {α : Type} {step : Mem → α → Mem} (h : ∀ m e b, homeByte (step m e) b = homeByte m b) (l : List α) (m : Mem)
    (b : Nat) : homeByte (l.foldl step m) b = homeByte m b :=
  List.foldlRecOn (motive := fun m' => homeByte m' b = homeByte m b) l step rfl fun m' hm' e _ => (h m' e b).trans hm'

theorem homeByte_setGen_unless (m : Mem) (fr : Nat) (g : BitVec 16) (b : Nat) :
    homeByte (if mapGet 0 m.gens fr = g then m else setGen m fr g) b = homeByte m b := by
  split <;> rfl

theorem homeByte_bumpFrames (old m : Mem) (frames blocks : List Nat) (b : Nat) :
    homeByte (bumpFrames old m frames blocks) b = homeByte m b := by
  unfold bumpFrames
  rw [homeByte_foldl, homeByte_foldl]
  · exact fun m fr b => rfl
  · intro m block b
    exact homeByte_foldl (fun m fr b => homeByte_setGen_unless m fr _ b) _ m b

theorem homeByte_countShadow (m : Mem) (up : Bool) (e b : Nat) : homeByte (countShadow m up e) b = homeByte m b := by
  unfold countShadow
  split
  · split <;> rfl
  · rfl

theorem homeByte_countGain (k : Nat) (m : Mem) (c : Nat × Nat × Nat) (b : Nat) : homeByte (countGain k m c) b = homeByte m b := by
  unfold countGain
  split <;> rfl

theorem homeByte_countLoss (k : Nat) (m : Mem) (c : Nat × Nat × Nat) (b : Nat) : homeByte (countLoss k m c) b = homeByte m b := by
  unfold countLoss
  split <;> rfl

/-- The commit of changes writes their entries; the generations and the counts are no bytes (R223, R227, R231). -/
theorem wrote_commitChanges {w : Work} {attrs : Bool} {cs : List Chg} (h : Apart w.s k pages slot) (hcs : SmallChgs pages cs) :
    (commitChanges w k attrs cs).avail = w.avail ∧
      Wrote w.s (commitChanges w k attrs cs).s k pages slot (fun a => mapsAfter w.s k (pageEntry w.s k a) cs a) := by
  obtain ⟨v, hv⟩ : ∃ v : Work, v = if wrapsGen w.s k attrs cs = true then { w with s := dropTlbAll w.s k } else w := ⟨_, rfl⟩
  have hdrop : v.avail = w.avail ∧ Wrote w.s v.s k pages slot (pageEntry w.s k) := by
    rw [hv]
    split
    · exact ⟨rfl, wrote_of_sameBytes h rfl fun _ => rfl⟩
    · exact ⟨rfl, .refl h⟩
  obtain ⟨havail, hdrop⟩ := hdrop
  obtain ⟨havail', hwrote⟩ := wrote_writeAll hdrop.apart hcs
  have hcommit : ∃ mem, commitChanges w k attrs cs = { v.writeAll k cs with s := { (v.writeAll k cs).s with mem } } ∧
      ∀ b, homeByte mem b = homeByte (v.writeAll k cs).s.mem b := by
    refine ⟨_, by rw [hv]; rfl, fun b => ?_⟩
    rw [homeByte_foldl (homeByte_countLoss k), homeByte_foldl (homeByte_countGain k), homeByte_foldl, homeByte_bumpFrames]
    · rw [hv]
      rfl
    · exact fun m c b => (homeByte_countShadow ..).trans (homeByte_countShadow ..)
  obtain ⟨mem, hcommit, hbytes⟩ := hcommit
  rw [hcommit]
  refine ⟨havail'.trans havail, (hdrop.trans (hwrote.trans (wrote_of_sameBytes hwrote.apart rfl hbytes))).congr fun a ha => ?_⟩
  have hleaf : leafEntry v.s k = leafEntry w.s k := funext hdrop.sameTables.leafEntry
  rw [hwrote.maps a ha, hdrop.maps a ha]
  unfold mapsAfter
  rw [hleaf]

end Apart

end Sys2Proof.Machine
end

section
/-! PROOFS. The changes that an edit of whole pages makes, operation by operation, and what each page maps after them
(R236, R238, R240-R245). -/

open Host Sys2Proof Sys2Proof.Machine Sys2Proof.Claims

namespace Sys2Proof.Machine

/-! ### The last change of a page counts -/

section After
variable {s : State} {k a : Nat} {old : Option (Nat × Nat)} {cs ds : List Chg}

theorem mapsAfter_append : mapsAfter s k old (cs ++ ds) a = mapsAfter s k (mapsAfter s k old cs a) ds a := List.foldl_append

/-- A page that no change names maps what it mapped. -/
theorem mapsAfter_of_none (h : ∀ c ∈ cs, c.va ≠ a) : mapsAfter s k old cs a = old :=
  List.foldlRecOn (motive := fun m => m = old) cs _ rfl fun m hm c hc => by rw [if_neg (h c hc), hm]

/-- A page whose changes all say one thing maps that. -/
theorem mapsAfter_of_all {x : Option (Nat × Nat)} (h : ∀ c ∈ cs, c.va = a → leafEntry s k c.entry = x)
    (hex : ∃ c ∈ cs, c.va = a) : mapsAfter s k old cs a = x := by
  induction cs generalizing old with
  | nil => exact absurd hex (by simp)
  | cons c cs ih =>
    obtain ⟨hc, hcs⟩ := List.forall_mem_cons.mp h
    change mapsAfter s k (if c.va = a then leafEntry s k c.entry else old) cs a = x
    by_cases hmore : ∃ d ∈ cs, d.va = a
    · exact ih hcs hmore
    · rw [mapsAfter_of_none fun d hd hda => hmore ⟨d, hd, hda⟩]
      obtain ⟨d, hd, hda⟩ := hex
      rcases List.mem_cons.mp hd with rfl | hd
      · rw [if_pos hda, hc hda]
      · exact absurd ⟨d, hd, hda⟩ hmore

end After

/-! ### Pages of 64 KiB moved from one range to another (R238) -/

/-- A range of whole 64 KiB pages from an address lies among some pages. -/
def RunIn (pages : List Nat) (lo n : Nat) : Prop := ∀ i, 65536 * i < n → lo + 65536 * i ∈ pages

theorem mem_moveChgs {s : State} {k : Nat} {whole : Bool} {src dst n : Nat} {f : Nat → Nat} {c : Chg}
    (hwhole : whole = true → n % 2 ^ 21 = 0) (hsmall : ∀ i, 65536 * i < n → levelAt s k (src + 65536 * i) = 0) :
    c ∈ moveChgs s k whole src dst n f ↔
      ∃ i, 65536 * i < n ∧ c = { va := dst + 65536 * i, level := 0, entry := f (entryAt s k (src + 65536 * i)) } := by
  have hpages : ∀ src dst n, c ∈ (List.range ((n + pageP - 1) / pageP)).map (fun i =>
      ({ va := dst + i * pageP, level := 0, entry := f (entryAt s k (src + i * pageP)) } : Chg)) ↔
      ∃ i, 65536 * i < n ∧ c = { va := dst + 65536 * i, level := 0, entry := f (entryAt s k (src + 65536 * i)) } := by
    intro src dst n
    simp only [List.mem_map, List.mem_range, pageP]
    constructor
    · rintro ⟨i, hi, rfl⟩
      exact ⟨i, by omega, by simp [Nat.mul_comm]⟩
    · rintro ⟨i, hi, rfl⟩
      exact ⟨i, by omega, by simp [Nat.mul_comm]⟩
  cases whole with
  | false => exact hpages src dst n
  | true =>
    have hn := hwhole rfl
    unfold moveChgs
    dsimp only
    rw [if_pos rfl]
    simp only [List.mem_flatten, List.mem_map, List.mem_range, exists_exists_and_eq_and]
    constructor
    · rintro ⟨i, hi, hc⟩
      have hlevel := hsmall (32 * i) (by omega)
      rw [show src + 65536 * (32 * i) = src + i * 2 ^ 21 by omega] at hlevel
      rw [hlevel, if_neg (by decide)] at hc
      obtain ⟨j, hj, rfl⟩ := (hpages _ _ _).mp hc
      refine ⟨32 * i + j, by omega, ?_⟩
      rw [show dst + 65536 * (32 * i + j) = dst + i * 2 ^ 21 + 65536 * j by omega,
        show src + 65536 * (32 * i + j) = src + i * 2 ^ 21 + 65536 * j by omega]
    · rintro ⟨i, hi, rfl⟩
      refine ⟨i / 32, by omega, ?_⟩
      have hlevel := hsmall (32 * (i / 32)) (by omega)
      rw [show src + 65536 * (32 * (i / 32)) = src + i / 32 * 2 ^ 21 by omega] at hlevel
      rw [hlevel, if_neg (by decide)]
      refine (hpages _ _ _).mpr ⟨i % 32, by omega, ?_⟩
      rw [show dst + 65536 * i = dst + i / 32 * 2 ^ 21 + 65536 * (i % 32) by omega,
        show src + 65536 * i = src + i / 32 * 2 ^ 21 + 65536 * (i % 32) by omega]

/-- Pages that lie in a range of whole pages. -/
theorem mem_pagesIn {lo n a : Nat} (hlo : lo % 65536 = 0) (h : a ∈ pagesIn lo n) : ∃ i, 65536 * i < n ∧ a = lo + 65536 * i := by
  unfold pagesIn pageP at h
  split at h
  · exact absurd h List.not_mem_nil
  · obtain ⟨i, hi, rfl⟩ := List.mem_map.mp h
    have := List.mem_range.mp hi
    exact ⟨i, by omega, by omega⟩

section Leaf
variable {s : State} {k va slot : Nat}

theorem leafEntry_entryAt (h : LeafSlot s k va slot) : leafEntry s k (entryAt s k va) = pageEntry s k va := by
  unfold entryAt
  rw [pageEntry_of_leafSlot h]
  cases hleaf : leafEntry s k (entryOf s.mem slot) with
  | none => exact leafEntry_zero s k
  | some x =>
    obtain ⟨rfl, -⟩ := leafEntry_some hleaf
    exact hleaf

theorem levelAt_of_leafSlot (h : LeafSlot s k va slot) : levelAt s k va = 0 := by
  unfold levelAt
  rw [pageEntry_of_leafSlot h]
  cases hleaf : leafEntry s k (entryOf s.mem slot) with
  | none => rfl
  | some x => rw [(leafEntry_some hleaf).1]

theorem entryAt_lt (h : LeafSlot s k va slot) : entryAt s k va < 2 ^ 64 := by
  unfold entryAt
  rw [pageEntry_of_leafSlot h]
  cases hleaf : leafEntry s k (entryOf s.mem slot) with
  | none => exact Nat.two_pow_pos 64
  | some x =>
    rw [(leafEntry_some hleaf).1]
    exact entryOf_lt s.mem slot

end Leaf

/-! ### Leaves without W, and leaves of ZERO pages (R222, R234, R244, R245) -/

/-- Without its W bit an entry keeps every field from bit 3 on. -/
theorem bitsOf_clearW (e : Nat) {lo : Nat} (w : Nat) (hlo : 3 ≤ lo) : bitsOf (e - bitsOf e 2 1 * 4) lo w = bitsOf e lo w := by
  have hhigh : (e - bitsOf e 2 1 * 4) / 2 ^ 3 = e / 2 ^ 3 := by
    unfold bitsOf
    omega
  unfold bitsOf at hhigh ⊢
  rw [← Nat.add_sub_of_le hlo, pow_add, ← Nat.div_div_eq_div_mul, ← Nat.div_div_eq_div_mul, hhigh]

/-- The W bit in its place. -/
theorem bitsOf_w_mul (e : Nat) : bitsOf e 2 1 * 4 = if (pteAttr e).w = true then 4 else 0 := by
  have : bitsOf e 2 1 < 2 := Nat.mod_lt _ (by decide)
  simp only [pteAttr, beq_iff_eq]
  split <;> omega

/-- A leaf without its W bit maps what it maps, without W. -/
theorem leafEntry_clearW (s : State) (k e : Nat) : leafEntry s k (e - bitsOf e 2 1 * 4) =
    (leafEntry s k e).map (fun x => (0, x.2 - if (pteAttr x.2).w = true then 4 else 0)) := by
  have hlow : bitsOf (e - bitsOf e 2 1 * 4) 0 1 = bitsOf e 0 1 ∧ bitsOf (e - bitsOf e 2 1 * 4) 1 1 = bitsOf e 1 1 := by
    unfold bitsOf
    omega
  have hok : (pteV (e - bitsOf e 2 1 * 4) && pteLeaf (e - bitsOf e 2 1 * 4) &&
      leafOk (feature s (ctxPart k) 5) (feature s (ctxPart k) 9) 0 (e - bitsOf e 2 1 * 4)) =
      (pteV e && pteLeaf e && leafOk (feature s (ctxPart k) 5) (feature s (ctxPart k) 9) 0 e) := by
    simp (disch := decide) only [pteV, pteLeaf, leafOk, attrOk, pteAttr, pteAddr, hlow, bitsOf_clearW]
    rfl
  unfold leafEntry
  rw [hok]
  split
  · rw [Option.map_some, ← bitsOf_w_mul]
  · rfl

/-- A dropped page is a ZERO page with its W. -/
theorem leafEntry_dropLeaf {s : State} {k e : Nat} {x : Nat × Nat} (h : leafEntry s k e = some x) : leafEntry s k (dropLeaf e) =
    some (0, 3 + (if (pteAttr x.2).w = true then 4 else 0) + 2 ^ 57) := by
  obtain ⟨rfl, hv, -⟩ := leafEntry_some h
  have hne : e ≠ 0 := by
    rintro rfl
    exact absurd hv (by decide)
  have hok : ∀ zb manual : Bool, ∀ w ∈ [0, 1], (pteV (3 + w * 4 + 2 ^ 57) && pteLeaf (3 + w * 4 + 2 ^ 57) &&
      leafOk zb manual 0 (3 + w * 4 + 2 ^ 57)) = true := by decide
  have hw : bitsOf e 2 1 ∈ [0, 1] := by
    have : bitsOf e 2 1 < 2 := Nat.mod_lt _ (by decide)
    simp only [List.mem_cons, List.not_mem_nil, or_false]
    omega
  rw [dropLeaf, if_neg hne, leafEntry, if_pos (hok _ _ _ hw), bitsOf_w_mul]

section Ops
variable {s : State} {k : Nat} {pages : List Nat} {slot : Nat → Nat}

/-- The changes of some pages of 64 KiB leave each page with what maps says of it. -/
structure ChgsMap (s : State) (k : Nat) (pages : List Nat) (cs : List Chg) (maps : Option (Nat × Nat) → Nat → Option (Nat × Nat)) :
    Prop where
  small : SmallChgs pages cs
  maps : ∀ old, ∀ a ∈ pages, mapsAfter s k old cs a = maps old a

theorem ChgsMap.append {cs ds : List Chg} {maps maps' : Option (Nat × Nat) → Nat → Option (Nat × Nat)} (h : ChgsMap s k pages cs maps)
    (h' : ChgsMap s k pages ds maps') : ChgsMap s k pages (cs ++ ds) (fun old a => maps' (maps old a) a) :=
  ⟨List.forall_mem_append.mpr ⟨h.small, h'.small⟩, fun old a ha => by rw [mapsAfter_append, h.maps old a ha, h'.maps _ a ha]⟩

theorem chgsMap_nil : ChgsMap s k pages [] (fun old _ => old) := ⟨fun _ h => absurd h List.not_mem_nil, fun _ _ _ => rfl⟩

variable (hapart : Apart s k pages slot) (haligned : ∀ a ∈ pages, a % 65536 = 0)
include hapart haligned

/-- The pages of a range get what another range's pages map, changed by f. -/
theorem chgsMap_moveChgs {whole : Bool} {src dst n : Nat} {f : Nat → Nat} (hwhole : whole = true → n % 2 ^ 21 = 0)
    (hsrc : RunIn pages src n) (hdst : RunIn pages dst n) (hbase : dst % 65536 = 0) (hf : ∀ e, e < 2 ^ 64 → f e < 2 ^ 64) :
    ChgsMap s k pages (moveChgs s k whole src dst n f)
      (fun old a => if dst ≤ a ∧ a < dst + n then leafEntry s k (f (entryAt s k (a - dst + src))) else old) := by
  have hmem := fun c => mem_moveChgs (s := s) (k := k) (dst := dst) (f := f) (c := c) hwhole
    fun i hi => levelAt_of_leafSlot (hapart.leaf _ (hsrc i hi))
  refine ⟨fun c hc => ?_, fun old a ha => ?_⟩
  · obtain ⟨i, hi, rfl⟩ := (hmem c).mp hc
    exact ⟨rfl, hdst i hi, hf _ (entryAt_lt (hapart.leaf _ (hsrc i hi)))⟩
  · split
    next hin =>
      have hmod := haligned a ha
      refine mapsAfter_of_all (fun c hc hca => ?_) ⟨_, (hmem _).mpr ⟨(a - dst) / 65536, by omega, rfl⟩, ?_⟩
      · obtain ⟨i, hi, rfl⟩ := (hmem c).mp hc
        dsimp only at hca ⊢
        rw [show a - dst + src = src + 65536 * i by omega]
      · dsimp only
        omega
    next hout =>
      refine mapsAfter_of_none fun c hc hca => hout ?_
      obtain ⟨i, hi, rfl⟩ := (hmem c).mp hc
      dsimp only at hca
      omega

/-- Moved as they are, the pages map what the others mapped. -/
theorem chgsMap_move_id {whole : Bool} {src dst n : Nat} (hwhole : whole = true → n % 2 ^ 21 = 0)
    (hsrc : RunIn pages src n) (hdst : RunIn pages dst n) (hbase : dst % 65536 = 0) :
    ChgsMap s k pages (moveChgs s k whole src dst n id)
      (fun old a => if dst ≤ a ∧ a < dst + n then pageEntry s k (a - dst + src) else old) := by
  obtain ⟨small, maps⟩ := chgsMap_moveChgs (f := id) hapart haligned hwhole hsrc hdst hbase fun _ h => h
  refine ⟨small, fun old a ha => (maps old a ha).trans (if_ctx_congr Iff.rfl (fun hin => ?_) fun _ => rfl)⟩
  have hmod := haligned a ha
  have hpage := hsrc ((a - dst) / 65536) (by omega)
  rw [show src + 65536 * ((a - dst) / 65536) = a - dst + src by omega] at hpage
  exact leafEntry_entryAt (hapart.leaf _ hpage)

/-- Pages that are unmapped. -/
theorem chgsMap_unmapChgs {whole : Bool} {lo n : Nat} (hwhole : whole = true → n % 2 ^ 21 = 0) (hrun : RunIn pages lo n)
    (hbase : lo % 65536 = 0) :
    ChgsMap s k pages (unmapChgs s k whole lo n) (fun old a => if lo ≤ a ∧ a < lo + n then none else old) := by
  have hlo : lo / pageP * pageP = lo := by
    rw [pageP]
    omega
  unfold unmapChgs
  rw [hlo, show lo % pageP + n = n by rw [pageP, hbase, Nat.zero_add]]
  obtain ⟨small, maps⟩ := chgsMap_moveChgs (f := fun _ => 0) hapart haligned hwhole hrun hrun hbase fun _ _ => Nat.two_pow_pos 64
  exact ⟨small, fun old a ha => (maps old a ha).trans (if_congr Iff.rfl (leafEntry_zero s k) rfl)⟩

/-- Pages that move to a range where nothing is mapped, and leave their old places unmapped. -/
theorem chgsMap_relocate {whole : Bool} {src dst n : Nat} (hwhole : whole = true → n % 2 ^ 21 = 0) (hs : RunIn pages src n)
    (hd : RunIn pages dst n) (hsrc : src % 65536 = 0) (hdst : dst % 65536 = 0)
    (hmapped : ∀ i, 65536 * i < n → pageEntry s k (src + 65536 * i) ≠ none)
    (hempty : ∀ i, 65536 * i < n → pageEntry s k (dst + 65536 * i) = none) :
    ChgsMap s k pages (moveChgs s k whole src dst n id ++ unmapChgs s k whole src n) (fun old a =>
      if dst ≤ a ∧ a < dst + n then pageEntry s k (a - dst + src) else if src ≤ a ∧ a < src + n then none else old) := by
  obtain ⟨small, maps⟩ := (chgsMap_move_id hapart haligned hwhole hs hd hdst).append (chgsMap_unmapChgs hapart haligned hwhole hs hsrc)
  refine ⟨small, fun old a ha => (maps old a ha).trans ?_⟩
  have hmod := haligned a ha
  by_cases hin : src ≤ a ∧ a < src + n
  · have hout : ¬ (dst ≤ a ∧ a < dst + n) := by
      rintro ⟨hlo, hhi⟩
      refine hmapped ((a - src) / 65536) (by omega) ?_
      rw [← hempty ((a - dst) / 65536) (by omega)]
      congr 1
      omega
    rw [if_pos hin, if_neg hout, if_pos hin]
  · simp only [if_neg hin]

/-- The changes of an edit leave each page with the mapping that its operation gives it. -/
def EditMaps (s : State) (k : Nat) (pages : List Nat) (op : EditOp) : Prop :=
  SmallChgs pages (editChgs s k op 0) ∧
    ∀ a ∈ pages, mapsAfter s k (pageEntry s k a) (editChgs s k op 0) a = renamed op (pageEntry s k) a

omit haligned in
/-- No larger page is touched. -/
theorem touchChgs_nil {op : EditOp} (h : ∀ a ∈ touchedPages op, a ∈ pages) : touchChgs s k op = [] := by
  have hnone : (touchedPages op).filter (fun a => levelAt s k a == 1) = [] :=
    List.filter_eq_nil_iff.mpr fun a ha => by simp [levelAt_of_leafSlot (hapart.leaf a (h a ha))]
  unfold touchChgs
  rw [hnone]
  split <;> rfl

omit hapart haligned in
theorem runIn_of_subset {lo n : Nat} (h : ∀ a ∈ (List.range ((n + 65535) / 65536)).map (fun i => lo + 65536 * i), a ∈ pages) :
    RunIn pages lo n := fun i hi => h _ (List.mem_map.mpr ⟨i, List.mem_range.mpr (by omega), rfl⟩)

theorem editMaps_cat {x la y lb : Nat} (h : WholePages s k (.cat x la y lb)) (hpages : ∀ a ∈ opPages (.cat x la y lb), a ∈ pages) :
    EditMaps s k pages (.cat x la y lb) := by
  obtain ⟨haddr, hmapped, hempty⟩ := h
  obtain ⟨hdst, hsrc⟩ : (x + la) % 65536 = 0 ∧ y % 65536 = 0 := by simpa using haddr
  obtain ⟨hd, hs⟩ := List.forall_mem_append.mp hpages
  have hcut : min ((pageP - y % pageP) % pageP) lb = 0 := by simp [pageP, hsrc]
  have htouch : touchChgs s k (.cat x la y lb) = [] := touchChgs_nil hapart (by simp [touchedPages, hcut])
  have hchgs : editChgs s k (.cat x la y lb) 0 = moveChgs s k (wholeOp (.cat x la y lb)) y (x + la) lb id ++
      unmapChgs s k (wholeOp (.cat x la y lb)) y lb := by simp [editChgs, htouch, hcut]
  obtain ⟨small, maps⟩ := chgsMap_relocate (whole := wholeOp (.cat x la y lb)) hapart haligned (by simp [wholeOp])
    (runIn_of_subset hs) (runIn_of_subset hd) hsrc hdst hmapped hempty
  exact ⟨hchgs ▸ small, fun a ha => by rw [hchgs, maps _ a ha, renamed]⟩

theorem editMaps_split {x l o z : Nat} (h : WholePages s k (.split x l o z)) (hpages : ∀ a ∈ opPages (.split x l o z), a ∈ pages) :
    EditMaps s k pages (.split x l o z) := by
  obtain ⟨haddr, hmapped, hempty⟩ := h
  obtain ⟨hsrc, hdst⟩ : (x + o) % 65536 = 0 ∧ z % 65536 = 0 := by simpa using haddr
  obtain ⟨hs, hd⟩ := List.forall_mem_append.mp hpages
  have hwhole : wholeOp (.split x l o z) = true → (l - o) % 2 ^ 21 = 0 := by
    simp only [wholeOp, List.all_cons, List.all_nil, Bool.and_true, Bool.and_eq_true, beq_iff_eq]
    omega
  have htouch : touchChgs s k (.split x l o z) = [] := touchChgs_nil hapart (by simp [touchedPages, pageP, hsrc])
  have hchgs : editChgs s k (.split x l o z) 0 = moveChgs s k (wholeOp (.split x l o z)) (x + o) z (l - o) id ++
      unmapChgs s k (wholeOp (.split x l o z)) (x + o) (l - o) := by simp [editChgs, htouch, pageP, hsrc]
  obtain ⟨small, maps⟩ := chgsMap_relocate hapart haligned hwhole (runIn_of_subset hs) (runIn_of_subset hd) hsrc hdst hmapped hempty
  refine ⟨hchgs ▸ small, fun a ha => ?_⟩
  have hrange : x + o ≤ a ∧ a < x + o + (l - o) ↔ x + o ≤ a ∧ a < x + l := by omega
  rw [hchgs, maps _ a ha, renamed, if_congr hrange rfl rfl]

theorem editMaps_xchg {x y n : Nat} (h : WholePages s k (.xchg x y n)) (hpages : ∀ a ∈ opPages (.xchg x y n), a ∈ pages) :
    EditMaps s k pages (.xchg x y n) := by
  obtain ⟨haddr, -, -, hdisjoint⟩ := h
  obtain ⟨hx, hy, -⟩ : x % 65536 = 0 ∧ y % 65536 = 0 ∧ n % 65536 = 0 := by simpa using haddr
  obtain ⟨hxs, hys⟩ := List.forall_mem_append.mp hpages
  have hxs := runIn_of_subset hxs
  have hys := runIn_of_subset hys
  have hwhole : wholeOp (.xchg x y n) = true → n % 2 ^ 21 = 0 := by simp [wholeOp]
  obtain ⟨small, maps⟩ := (chgsMap_move_id hapart haligned hwhole hys hxs hx).append
    (chgsMap_move_id hapart haligned hwhole hxs hys hy)
  have hchgs : editChgs s k (.xchg x y n) 0 = moveChgs s k (wholeOp (.xchg x y n)) y x n id ++
      moveChgs s k (wholeOp (.xchg x y n)) x y n id := by
    have htouch : touchChgs s k (.xchg x y n) = [] := touchChgs_nil hapart (by simp [touchedPages])
    simp [editChgs, htouch]
  refine ⟨hchgs ▸ small, fun a ha => ?_⟩
  rw [hchgs, maps _ a ha]
  simp only [renamed]
  by_cases hin : y ≤ a ∧ a < y + n
  · rw [if_pos hin, if_neg (by omega), if_pos hin]
  · simp only [if_neg hin]

theorem editMaps_alias {d x n : Nat} {rw' : Bool} (h : WholePages s k (.renameAlias d x n rw'))
    (hpages : ∀ a ∈ opPages (.renameAlias d x n rw'), a ∈ pages) : EditMaps s k pages (.renameAlias d x n rw') := by
  obtain ⟨haddr, -, -⟩ := h
  obtain ⟨hd, hx, -⟩ : d % 65536 = 0 ∧ x % 65536 = 0 ∧ n % 65536 = 0 := by simpa using haddr
  obtain ⟨hds, hxs⟩ := List.forall_mem_append.mp hpages
  have hds := runIn_of_subset hds
  have hxs := runIn_of_subset hxs
  have hwhole : wholeOp (.renameAlias d x n rw') = true → n % 2 ^ 21 = 0 := by simp [wholeOp]
  have htouch : touchChgs s k (.renameAlias d x n rw') = [] := touchChgs_nil hapart fun a ha => by
    obtain ⟨i, hi, rfl⟩ := mem_pagesIn hx ha
    exact hxs i hi
  obtain ⟨small, maps⟩ := chgsMap_moveChgs (f := fun e => if rw' = true then e else e - bitsOf e 2 1 * 4) hapart haligned hwhole
    hxs hds hd fun e he => by split <;> omega
  have hchgs : editChgs s k (.renameAlias d x n rw') 0 = moveChgs s k (wholeOp (.renameAlias d x n rw')) x d n
      (fun e => if rw' = true then e else e - bitsOf e 2 1 * 4) := by
    simp [editChgs, htouch]
  refine ⟨hchgs ▸ small, fun a ha => ?_⟩
  rw [hchgs, maps _ a ha]
  simp only [renamed]
  refine if_ctx_congr Iff.rfl (fun hin => ?_) fun _ => rfl
  have hmod := haligned a ha
  have hpage := hxs ((a - d) / 65536) (by omega)
  rw [show x + 65536 * ((a - d) / 65536) = a - d + x by omega] at hpage
  rw [← leafEntry_entryAt (hapart.leaf _ hpage)]
  cases rw' with
  | false => exact leafEntry_clearW s k _
  | true =>
    cases hleaf : leafEntry s k (entryAt s k (a - d + x)) with
    | none => exact hleaf
    | some e =>
      obtain ⟨rfl, -⟩ := leafEntry_some hleaf
      exact hleaf

theorem editMaps_drop {x n : Nat} (h : WholePages s k (.drop x n)) (hpages : ∀ a ∈ opPages (.drop x n), a ∈ pages) :
    EditMaps s k pages (.drop x n) := by
  obtain ⟨haddr, hmapped⟩ := h
  obtain ⟨hx, hn⟩ : x % 65536 = 0 ∧ n % 65536 = 0 := by simpa using haddr
  have hxs : RunIn pages x n := runIn_of_subset hpages
  have hwhole : wholeOp (.drop x n) = true → n % 2 ^ 21 = 0 := by simp [wholeOp]
  have htouch : touchChgs s k (.drop x n) = [] := touchChgs_nil hapart fun a ha => by
    obtain ⟨i, hi, rfl⟩ := mem_pagesIn hx (List.mem_of_mem_filter ha)
    exact hxs i hi
  obtain ⟨small, maps⟩ := chgsMap_moveChgs (f := dropLeaf) hapart haligned hwhole hxs hxs hx fun e _ => by
    have : bitsOf e 2 1 < 2 := Nat.mod_lt _ (by decide)
    unfold dropLeaf
    split <;> omega
  have hchgs : editChgs s k (.drop x n) 0 = moveChgs s k (wholeOp (.drop x n)) x x n dropLeaf := by
    have hlo : (x + pageP - 1) / pageP * pageP = x := by
      rw [pageP]
      omega
    have hhi : (x + n) / pageP * pageP = x + n := by
      rw [pageP]
      omega
    simp only [editChgs, htouch, hlo, hhi, List.nil_append, Nat.add_sub_cancel_left]
    split
    next hzero =>
      obtain rfl : n = 0 := by omega
      simp [moveChgs, pageP]
    next => rfl
  refine ⟨hchgs ▸ small, fun a ha => ?_⟩
  rw [hchgs, maps _ a ha]
  simp only [renamed]
  refine if_ctx_congr Iff.rfl (fun hin => ?_) fun _ => rfl
  have hmod := haligned a ha
  have hmapped := hmapped ((a - x) / 65536) (by omega)
  rw [show x + 65536 * ((a - x) / 65536) = a by omega] at hmapped
  rw [show a - x + x = a by omega]
  obtain ⟨e, he⟩ := Option.ne_none_iff_exists'.mp hmapped
  rw [he, Option.map_some]
  rw [← leafEntry_entryAt (hapart.leaf a ha)] at he
  exact leafEntry_dropLeaf he

omit haligned in
theorem editMaps_perm {base : Nat} {list : List Nat} (h : WholePages s k (.perm base list))
    (hpages : ∀ a ∈ opPages (.perm base list), a ∈ pages) (haligned : ∀ a ∈ pages, a % 65536 = 0) :
    EditMaps s k pages (.perm base list) := by
  obtain ⟨haddr, -, hlist⟩ := h
  have hbase : base % 65536 = 0 := by simpa using haddr
  obtain ⟨hrun, hlists⟩ := List.forall_mem_append.mp hpages
  have hrun := runIn_of_subset hrun
  have htouch : touchChgs s k (.perm base list) = [] := touchChgs_nil hapart (by simp [touchedPages])
  have hplace : ∀ j, j < list.length → list.getD j 0 < list.length := fun j hj => by
    rw [List.getD_eq_getElem _ _ hj]
    exact hlist _ (List.getElem_mem hj)
  have hmem : ∀ c, c ∈ editChgs s k (.perm base list) 0 ↔ ∃ j, j < list.length ∧ list.getD j 0 ≠ j ∧
      c = { va := base + 65536 * j, level := 0, entry := entryAt s k (base + 65536 * list.getD j 0) } := by
    intro c
    simp only [editChgs, htouch, List.nil_append, List.mem_filterMap, List.mem_range, pageP, Nat.mul_comm _ 65536]
    constructor
    · rintro ⟨j, hj, hc⟩
      split at hc
      · exact absurd hc (by simp)
      · exact ⟨j, hj, ‹_›, (Option.some.inj hc).symm⟩
    · rintro ⟨j, hj, hne, rfl⟩
      exact ⟨j, hj, if_neg hne⟩
  refine ⟨fun c hc => ?_, fun a ha => ?_⟩
  · obtain ⟨j, hj, -, rfl⟩ := (hmem c).mp hc
    exact ⟨rfl, hrun j (by omega), entryAt_lt (hapart.leaf _ (hrun _ (by have := hplace j hj; omega)))⟩
  · simp only [renamed]
    have hmod := haligned a ha
    split
    next hin =>
      obtain ⟨j, hj, rfl⟩ : ∃ j, j < list.length ∧ a = base + 65536 * j := ⟨(a - base) / 65536, by omega, by omega⟩
      rw [show (base + 65536 * j - base) / 65536 = j by omega]
      by_cases hne : list.getD j 0 = j
      · rw [hne]
        refine mapsAfter_of_none fun c hc hca => ?_
        obtain ⟨i, -, hi, rfl⟩ := (hmem c).mp hc
        obtain rfl : i = j := by
          dsimp only at hca
          omega
        exact hi hne
      · refine mapsAfter_of_all (fun c hc hca => ?_) ⟨_, (hmem _).mpr ⟨j, hj, hne, rfl⟩, rfl⟩
        obtain ⟨i, -, -, rfl⟩ := (hmem c).mp hc
        obtain rfl : i = j := by
          dsimp only at hca
          omega
        exact leafEntry_entryAt (hapart.leaf _ (hrun _ (by have := hplace i hj; omega)))
    next hout =>
      refine mapsAfter_of_none fun c hc hca => hout ?_
      obtain ⟨i, hi, -, rfl⟩ := (hmem c).mp hc
      dsimp only at hca
      omega

omit haligned in
theorem editMaps_install {x n : Nat} {leaf : Word} (h : WholePages s k (.install x n leaf))
    (hpages : ∀ a ∈ opPages (.install x n leaf), a ∈ pages) : EditMaps s k pages (.install x n leaf) := by
  obtain ⟨-, rfl, hv, hl, hok, -⟩ := h
  have hx : x ∈ pages := hpages x (List.mem_singleton_self x)
  have htouch : touchChgs s k (.install x 65536 leaf) = [] := touchChgs_nil hapart (by simp [touchedPages])
  have hchgs : editChgs s k (.install x 65536 leaf) 0 = [{ va := x, level := 0, entry := leaf.toNat }] := by
    simp [editChgs, htouch, pageP]
  have hleaf : leafEntry s k leaf.toNat = some (0, leaf.toNat) := if_pos (by rw [hv, hl, hok]; rfl)
  rw [EditMaps, hchgs]
  refine ⟨List.forall_mem_singleton.mpr ⟨rfl, hx, leaf.isLt⟩, fun a _ => ?_⟩
  simp only [mapsAfter, List.foldl_cons, List.foldl_nil, renamed, hleaf, eq_comm]

omit haligned in
theorem editMaps_remove {x n : Nat} (h : WholePages s k (.remove x n)) (hpages : ∀ a ∈ opPages (.remove x n), a ∈ pages) :
    EditMaps s k pages (.remove x n) := by
  obtain ⟨-, rfl⟩ := h
  have hx : x ∈ pages := hpages x (List.mem_singleton_self x)
  have htouch : touchChgs s k (.remove x 65536) = [] := touchChgs_nil hapart (by simp [touchedPages])
  have hchgs : editChgs s k (.remove x 65536) 0 = [{ va := x, level := 0, entry := 0 }] := by
    simp [editChgs, htouch, pageP]
  rw [EditMaps, hchgs]
  refine ⟨List.forall_mem_singleton.mpr ⟨rfl, hx, Nat.two_pow_pos 64⟩, fun a _ => ?_⟩
  simp only [mapsAfter, List.foldl_cons, List.foldl_nil, renamed, leafEntry_zero, eq_comm]

/-- Every edit of whole pages. -/
theorem editMaps_of_wholePages {op : EditOp} (h : WholePages s k op) (hpages : ∀ a ∈ opPages op, a ∈ pages) :
    EditMaps s k pages op := by
  cases op with
  | cat => exact editMaps_cat hapart haligned h hpages
  | split => exact editMaps_split hapart haligned h hpages
  | perm => exact editMaps_perm hapart h hpages haligned
  | xchg => exact editMaps_xchg hapart haligned h hpages
  | renameAlias => exact editMaps_alias hapart haligned h hpages
  | drop => exact editMaps_drop hapart haligned h hpages
  | install => exact editMaps_install hapart h hpages
  | remove => exact editMaps_remove hapart h hpages
  | zeroPage => exact absurd h id

end Ops
end Sys2Proof.Machine
end

section
/-! PROOFS. What the commit of an edit leaves of the other edits, and the frames (R222-R226, R231, R232). -/

open Host Sys2Proof Sys2Proof.Machine Sys2Proof.Claims

namespace Sys2Proof.Machine

/-! ### The edits stay through an event record (R296, R297) -/

theorem edits_foldl {α : Type} {step : State → α → State} (h : ∀ s e, s.edits ⊆ (step s e).edits) (l : List α) (s : State) :
    s.edits ⊆ (l.foldl step s).edits :=
  List.foldlRecOn (motive := fun t : State => s.edits ⊆ t.edits) l step (List.Subset.refl _) fun _ ht e _ =>
    List.Subset.trans ht (h _ e)

theorem edits_touchTables (s : State) (k va : Nat) : (touchTables s k va).edits = s.edits := (issueFrame_touchTables s k va).edits

theorem edits_wakeCtrw (s : State) : s.edits ⊆ (wakeCtrw s).edits := by
  refine edits_foldl (fun s e => ?_) _ s
  split
  · dsimp only
    split
    · split
      · rw [(issueFrame_acquireAt ..).edits]
        exact List.Subset.refl _
      · exact List.Subset.refl _
    · exact List.Subset.refl _
  · exact List.Subset.refl _

theorem edits_raiseCtr (s : State) (k die l n : Nat) : s.edits ⊆ (raiseCtr s k die l n).edits := edits_wakeCtrw (updCtx s k _)

theorem edits_zeroEvent (s : State) (k va : Nat) : s.edits ⊆ (zeroEvent s k va).edits := by
  unfold zeroEvent
  split
  · exact List.Subset.refl _
  · exact List.subset_append_left _ _

theorem edits_settleEvents (p : Nat) (l : List (List Byte)) (s : State) : s.edits ⊆ (settleEvents p l s).edits := by
  induction l generalizing s with
  | nil => exact List.Subset.refl _
  | cons r l ih =>
    unfold settleEvents
    split
    · refine List.Subset.trans ?_ (ih _)
      refine List.Subset.trans ?_ (edits_raiseCtr ..)
      rw [edits_touchTables]
      exact List.Subset.refl _
    · refine List.Subset.trans ?_ (ih _)
      exact edits_raiseCtr (updPart s p _) ..
    · exact List.Subset.refl _
    · exact edits_zeroEvent (updPart s p _) ..

theorem edits_postNoGroup (s : State) (k code info : Nat) : s.edits ⊆ (postNoGroup s k code info).edits := edits_settleEvents ..

theorem edits_postFabric (s : State) (p pa : Nat) (c : Option Nat) : s.edits ⊆ (postFabric s p pa c).edits := by
  unfold postFabric
  split
  · exact edits_postNoGroup ..
  · exact List.Subset.refl _

theorem edits_resumeEvents (s : State) (p : Nat) : s.edits ⊆ (resumeEvents s p).edits := by
  unfold resumeEvents
  split
  · exact List.Subset.refl _
  · exact edits_settleEvents ..

/-! ### They stay through frames and tables (R232, R235) -/

theorem edits_take (w : Work) (k : Nat) : (w.take k).2.s.edits = w.s.edits := by
  unfold Work.take
  split <;> rfl

theorem edits_table (w : Work) (k level : Nat) : (w.table k level).2.s.edits = w.s.edits := by
  unfold Work.table
  dsimp only
  split
  · rfl
  · exact edits_take w k

theorem edits_writeEntries (entry : Nat → Nat) (slots : Nat → Nat) (l : List Nat) (s : State) :
    (l.foldl (fun s i => writeEntry s (slots i) (entry i)) s).edits = s.edits :=
  List.foldlRecOn (motive := fun t : State => t.edits = s.edits) l _ rfl fun _ h _ _ => h

theorem edits_descend (k va target level table : Nat) (w : Work) : (Work.descend k va target level table w).2.s.edits = w.s.edits := by
  induction level generalizing table w with
  | zero => rfl
  | succ level ih =>
    unfold Work.descend
    split
    · rfl
    · dsimp only
      split
      · exact ih ..
      · rw [ih]
        split
        · exact (edits_writeEntries ..).trans (edits_table w k level)
        · exact edits_table w k level

theorem edits_setEntry (w : Work) (k va level e : Nat) : (w.setEntry k va level e).s.edits = w.s.edits := by
  unfold Work.setEntry
  split
  · rfl
  · exact edits_descend ..

theorem edits_writeAll (w : Work) (k : Nat) (cs : List Chg) : (w.writeAll k cs).s.edits = w.s.edits := by
  unfold Work.writeAll
  refine List.foldlRecOn (motive := fun v : Work => v.s.edits = w.s.edits) cs _ rfl fun v hv c _ => ?_
  split
  · exact hv
  · exact (edits_setEntry ..).trans hv

theorem edits_commitChanges (w : Work) (k : Nat) (attrs : Bool) (cs : List Chg) :
    (commitChanges w k attrs cs).s.edits = w.s.edits := by
  refine (edits_writeAll (if wrapsGen w.s k attrs cs = true then { w with s := dropTlbAll w.s k } else w) k cs).trans ?_
  split <;> rfl

theorem edits_commitZero (w : Work) (k va : Nat) : (commitZero w k va).s.edits = w.s.edits := by
  unfold commitZero
  split
  · split
    · exact (edits_commitChanges ..).trans (edits_take w k)
    · rfl
  · rfl

theorem edits_writeRing (s : State) (k slot frame : Nat) : s.edits ⊆ (writeRing s k slot frame).edits := by
  unfold writeRing
  dsimp only
  split
  · exact List.Subset.refl _
  · exact List.Subset.refl _
  · exact edits_postFabric ..

theorem edits_giveFrame (s : State) (k frame : Nat) : s.edits ⊆ (giveFrame s k frame).edits := by
  unfold giveFrame
  dsimp only
  split
  · exact edits_postNoGroup (updCtx s k _) ..
  · exact edits_writeRing ..

theorem edits_returnFrames (w : Work) (k : Nat) : w.s.edits ⊆ (returnFrames w k).edits :=
  edits_foldl (fun s a => edits_giveFrame s k a) _ _

/-! ### They stay through the bytes that a commit moves (R216, R225, R245) -/

theorem edits_holdView (s : State) (l : ViewLine) : (holdView s l).edits = s.edits :=
  List.foldlRecOn (motive := fun t : State => t.edits = s.edits) _ (fun s n => touchBin s (128 * n)) rfl fun _ h _ _ => h

theorem edits_viewGet (s : State) (p w v : Nat) : s.edits ⊆ (viewGet s p w v).2.edits := by
  unfold viewGet
  split
  · exact List.Subset.refl _
  · split
    · exact edits_postNoGroup ..
    · rw [edits_holdView]
      exact List.Subset.refl _

theorem edits_readView (s : State) (p pa n : Nat) : s.edits ⊆ (readView s p pa n).2.edits := by
  induction n generalizing s pa with
  | zero => exact List.Subset.refl _
  | succ n ih => exact List.Subset.trans (edits_viewGet ..) (ih _ _)

theorem edits_readPiece (s : State) (k : Nat) (t : Trans) (va n : Nat) : s.edits ⊆ (readPiece s k t va n).2.edits := by
  rw [← edits_touchTables s k va]
  unfold readPiece
  dsimp only
  split
  · exact List.Subset.refl _
  · split
    · exact edits_readView ..
    · exact edits_postFabric ..

theorem edits_writeFrame (s : State) (p pa : Nat) (bs : List PByte) : s.edits ⊆ (writeFrame s p pa bs).edits := by
  unfold writeFrame
  split
  · exact edits_postFabric ..
  · exact List.Subset.refl _

theorem edits_dropTlbEvery (s : State) (k : Nat) (rs : List (Nat × Nat)) : (dropTlbEvery s k rs).edits = s.edits :=
  List.foldlRecOn (motive := fun t : State => t.edits = s.edits) _ _ rfl fun _ h _ _ => h

theorem edits_writePiece (s : State) (k va : Nat) (bs : List PByte) : s.edits ⊆ (writePiece s k va bs).edits := by
  unfold writePiece
  split
  · exact List.Subset.refl _
  · rw [← edits_touchTables s k va]
    dsimp only
    split
    · rw [← edits_commitZero { s := touchTables s k va, avail := [] } k va, ← edits_dropTlbEvery _ k [(va / 65536 * 65536, 65536)]]
      split
      · exact edits_writeFrame ..
      · exact List.Subset.refl _
    · exact edits_writeFrame ..

theorem edits_remainder (s : State) (k : Nat) (op : EditOp) (fresh : Nat) : s.edits ⊆ (remainder s k op fresh).edits := by
  unfold remainder
  split
  · exact List.Subset.refl _
  · split
    · exact List.Subset.refl _
    · dsimp only
      split
      · exact List.Subset.trans (edits_readPiece ..) (edits_writePiece ..)
      · exact List.Subset.trans (edits_readPiece ..) (edits_writeFrame ..)

theorem edits_dropLines (s : State) (k : Nat) (op : EditOp) : s.edits ⊆ (dropLines s k op).edits := by
  unfold dropLines
  split
  · refine edits_foldl (fun s q => ?_) _ s
    split
    · exact List.Subset.refl _
    · split
      · exact List.Subset.refl _
      · split
        · exact List.Subset.refl _
        · refine edits_foldl (fun s l => ?_) _ s
          exact List.Subset.refl _
  · exact List.Subset.refl _

theorem edits_takePages (old s : State) (k va size leaf : Nat) : s.edits ⊆ (takePages old s k va size leaf).edits := by
  unfold takePages
  dsimp only
  split
  · refine edits_foldl (fun s x => ?_) _ s
    split <;> exact List.Subset.refl _
  · exact List.Subset.refl _

/-- A commit takes no edit away. -/
theorem edits_commitEdit (s : State) (e : Edit) : s.edits ⊆ (commitEdit s e).edits := by
  have hfinish : ∀ (w : Work) (fresh : Nat) (avail : List Nat) (attrs : Bool) (cs : List Chg), s.edits ⊆ w.s.edits →
      s.edits ⊆ (returnFrames (commitChanges { s := dropLines (remainder w.s e.ctx e.op fresh) e.ctx e.op, avail } e.ctx attrs cs)
        e.ctx).edits := by
    intro w fresh avail attrs cs hw
    refine List.Subset.trans ?_ (edits_returnFrames ..)
    rw [edits_commitChanges]
    exact List.Subset.trans hw (List.Subset.trans (edits_remainder ..) (edits_dropLines ..))
  have hcut : s.edits ⊆
      (if cutsPage e.op = true then Work.take { s, avail := e.frames } e.ctx else (0, { s, avail := e.frames })).2.s.edits := by
    split
    · rw [edits_take]
      exact List.Subset.refl _
    · exact List.Subset.refl _
  have hzero : ∀ w : Work, s.edits ⊆ w.s.edits →
      s.edits ⊆ (match editCopy e.op with | some (_, _, .inl va) => commitZero w e.ctx va | _ => w).s.edits := by
    intro w hw
    split
    · rwa [edits_commitZero]
    · exact hw
  unfold commitEdit
  dsimp only
  split
  · exact List.Subset.trans (hfinish _ _ _ _ _ (hzero _ hcut)) (edits_takePages ..)
  · exact hfinish _ _ _ _ _ (hzero _ hcut)

end Sys2Proof.Machine
end

section
/-! PROOFS. The step in which an edit commits: the edit is marked, its core's translations are gone, and each page maps what the
operation gives it (R223-R228, R236, R240-R245). -/

open Host Sys2Proof Sys2Proof.Machine Sys2Proof.Claims

namespace Sys2Proof.Machine

/-! ### An edit in the list -/

theorem editAt_mem {s : State} {id : Nat} {e : Edit} (h : editAt s id = some e) : e ∈ s.edits ∧ e.id = id :=
  ⟨List.mem_of_find?_eq_some h, by simpa using List.find?_some h⟩

/-- A replaced edit is in the list in its new form. -/
theorem mem_putEdit {s : State} {e q : Edit} (h : e ∈ s.edits) (hid : q.id = e.id) : q ∈ (putEdit s q).edits :=
  List.mem_map.mpr ⟨e, h, if_pos hid.symm⟩

/-! ### Translations that a core no longer holds (R228) -/

/-- A core holds no translation of a context's pages in some ranges. -/
def Untranslated (s : State) (k : Nat) (rs : List (Nat × Nat)) (c : Nat) : Prop :=
  ∀ u ∈ (coreAt s c).tlb, u.ctx = k → ∀ r ∈ rs, overlaps u.va u.size r.1 r.2 = false

section Untranslated
variable {s : State} {k : Nat} {rs : List (Nat × Nat)} {c : Nat}

theorem coreAt_dropTlb (s : State) (d k : Nat) (rs : List (Nat × Nat)) (c : Nat) : (coreAt (dropTlb s d k rs) c).tlb =
    if c = d then (coreAt s d).tlb.filter (fun t => !(t.ctx == k && rs.any (fun r => overlaps t.va t.size r.1 r.2)))
    else (coreAt s c).tlb := by
  rw [dropTlb, coreAt_updCore]
  split <;> rfl

theorem untranslated_dropTlb_self : Untranslated (dropTlb s c k rs) k rs c := by
  intro u hu hctx r hr
  rw [coreAt_dropTlb, if_pos rfl, List.mem_filter] at hu
  have hout : rs.any (fun r => overlaps u.va u.size r.1 r.2) = false := by simpa only [hctx, beq_self_eq_true, Bool.true_and,
    Bool.not_eq_true'] using hu.2
  exact Bool.eq_false_iff.mpr (List.any_eq_false.mp hout r hr)

theorem Untranslated.dropTlb (h : Untranslated s k rs c) (d : Nat) : Untranslated (dropTlb s d k rs) k rs c := by
  intro u hu
  rw [coreAt_dropTlb] at hu
  split at hu
  next heq => exact h u (heq ▸ List.mem_of_mem_filter hu)
  next => exact h u hu

theorem Untranslated.foldl_dropTlb (h : Untranslated s k rs c) (l : List Nat) :
    Untranslated (l.foldl (fun s d => Machine.dropTlb s d k rs) s) k rs c :=
  List.foldlRecOn (motive := fun t => Untranslated t k rs c) l _ h fun _ ht d _ => ht.dropTlb d

theorem untranslated_foldl_dropTlb {l : List Nat} (hc : c ∈ l) :
    Untranslated (l.foldl (fun s d => dropTlb s d k rs) s) k rs c := by
  induction l generalizing s with
  | nil => exact absurd hc List.not_mem_nil
  | cons d l ih =>
    rcases List.mem_cons.mp hc with rfl | hc
    · exact untranslated_dropTlb_self.foldl_dropTlb l
    · exact ih hc

theorem mapFind_eq_none_of_not_mem_keys {α : Type} {m : SMap α} {a : Nat} (h : a ∉ mapKeys m) : mapFind m a = none := by
  induction m with
  | nil => rfl
  | cons e m ih =>
    exact (if_neg (List.ne_of_not_mem_cons h)).trans (ih (List.not_mem_of_not_mem_cons h))

/-- After every core has dropped the ranges, none holds a translation of them. -/
theorem untranslated_dropTlbEvery : Untranslated (dropTlbEvery s k rs) k rs c := by
  by_cases hc : c ∈ mapKeys s.cores
  · exact untranslated_foldl_dropTlb hc
  · have hempty : Untranslated s k rs c := by
      intro u hu
      rw [coreAt, mapGet, mapFind_eq_none_of_not_mem_keys hc] at hu
      exact absurd hu List.not_mem_nil
    exact hempty.foldl_dropTlb _

end Untranslated

/-! ### What a state with the same tables maps -/

theorem touched_touchTables (s : State) (k va : Nat) : Touched s (touchTables s k va) := touched_foldl touched_touchBin _ s

theorem touched_touchEdit (s : State) (e : Edit) : Touched s (touchEdit s e) :=
  touched_foldl (fun s (r : Nat × Nat) => touched_foldl (fun s (pc : Nat × Nat) => touched_touchTables s e.ctx pc.1) (piecesOf r.1 r.2) s)
    e.ranges s

section Congr
variable {s t : State} {k : Nat}

theorem Touched.mem_eq (h : Touched s t) : t.mem = s.mem := by rw [h.rest]
theorem Touched.edits_eq (h : Touched s t) : t.edits = s.edits := by rw [h.rest]

theorem SameTables.pageEntry (h : SameTables s t k) (hmem : t.mem = s.mem) (va : Nat) : pageEntry t k va = pageEntry s k va := by
  have hwalk : walkCtx t k va = walkCtx s k va := by
    unfold walkCtx
    dsimp only
    rw [h.ptbase, h.features, h.features, h.mine, hmem]
  unfold Machine.pageEntry
  rw [hwalk]

theorem Apart.of_sameMem {pages : List Nat} {slot : Nat → Nat} (h : Apart s k pages slot) (hsame : SameTables s t k)
    (hmem : t.mem = s.mem) : Apart t k pages slot :=
  h.congr hsame fun _ _ _ _ => by rw [hmem]

theorem SameTables.wholePages (h : SameTables s t k) (hmem : t.mem = s.mem) {op : EditOp} (hop : WholePages s k op) :
    WholePages t k op := by
  unfold WholePages at hop ⊢
  simpa only [h.pageEntry hmem, h.features] using hop

end Congr

/-! ### The commit of whole pages (R238, R240-R245) -/

section Whole
variable {s : State} {k : Nat} {op : EditOp}

theorem cutsPage_of_wholePages (h : WholePages s k op) : cutsPage op = false := by
  cases op with
  | split x l o z =>
    have hcut : (x + o) % 65536 = 0 := h.1 _ (List.mem_cons_self ..)
    simp [cutsPage, pageP, hcut]
  | _ => rfl

theorem editCopy_of_wholePages (h : WholePages s k op) : editCopy op = none := by
  cases op with
  | split x l o z =>
    have hcut : (x + o) % 65536 = 0 := h.1 _ (List.mem_cons_self ..)
    simp [editCopy, pageP, hcut]
  | cat x la y lb =>
    have hcut : y % 65536 = 0 := h.1 _ (List.mem_cons_of_mem _ (List.mem_cons_self ..))
    simp [editCopy, pageP, hcut]
  | _ => rfl

theorem dropLines_of_wholePages (h : WholePages s k op) (t : State) : dropLines t k op = t := by
  cases op with
  | drop a n =>
    obtain ⟨haddr, -⟩ := h
    obtain ⟨ha, hn⟩ : a % 65536 = 0 ∧ n % 65536 = 0 := by simpa using haddr
    refine List.foldlRecOn (motive := fun u => u = t) _ _ rfl fun u hu q hq => ?_
    obtain ⟨i, hi, rfl⟩ := mem_pagesIn ha hq
    rw [if_pos (by rw [pageP]; omega)]
    exact hu
  | _ => rfl

theorem takePages_of_guest (old t : State) (va size : Nat) {leaf : Nat} (h : (pteAttr leaf).host = false) :
    takePages old t k va size leaf = t := by
  unfold takePages
  simp [h]

/-- Without frames the commit of an edit of whole pages is that of its changes. -/
theorem commitEdit_of_wholePages {e : Edit} (h : WholePages s e.ctx e.op) (hframes : e.frames = []) :
    commitEdit s e =
      returnFrames (commitChanges { s, avail := [] } e.ctx (setsAttrs e.op) (editChgs s e.ctx e.op 0)) e.ctx := by
  have hremainder : remainder s e.ctx e.op 0 = s := by
    unfold remainder
    rw [editCopy_of_wholePages h]
  unfold commitEdit
  dsimp only
  simp only [cutsPage_of_wholePages h, editCopy_of_wholePages h, hframes, Bool.false_eq_true, if_false, hremainder,
    dropLines_of_wholePages h]
  split
  next hop =>
    rw [hop] at h
    obtain ⟨-, -, -, -, -, hguest⟩ := h
    exact takePages_of_guest _ _ _ _ hguest
  next => rfl

/-- It gives each page the mapping that the operation gives it. -/
theorem wrote_commitEdit {e : Edit} {pages : List Nat} {slot : Nat → Nat} (hapart : Apart s e.ctx pages slot)
    (haligned : ∀ a ∈ pages, a % 65536 = 0) (h : WholePages s e.ctx e.op) (hframes : e.frames = [])
    (hpages : ∀ a ∈ opPages e.op, a ∈ pages) :
    Wrote s (commitEdit s e) e.ctx pages slot (renamed e.op (pageEntry s e.ctx)) := by
  obtain ⟨small, maps⟩ := editMaps_of_wholePages hapart haligned h hpages
  obtain ⟨havail, hwrote⟩ := wrote_commitChanges (w := { s, avail := [] }) (attrs := setsAttrs e.op) hapart small
  rw [commitEdit_of_wholePages h hframes, returnFrames, havail]
  exact hwrote.congr maps

end Whole

/-! ### EDIT_COMMIT -/

/-- The state after an edit's commit. -/
def editCommitted (s : State) (e : Edit) : State :=
  putEdit (dropTlb (commitEdit (touchEdit s e) e) e.core e.ctx e.ranges) { e with committed := true, upTo := 1, back := returning s e }

theorem exec_editCommit_eq {s : State} {id : Nat} {e : Edit} (hat : editAt s id = some e) (hzero : isZeroEdit e = false)
    (hmay : mayCommit s e = true) (hawake : editAsleep s e = []) : exec (.editCommit id) s = .next (editCommitted s e) := by
  simp [execEditCommit, hat, hzero, hmay, hawake, whenAwake, editCommitted]

theorem editsCommit : EditsCommit := by
  intro s id e hat hzero hmay hawake
  obtain ⟨hmem, hid⟩ := editAt_mem hat
  have htouched := touched_touchEdit s e
  have hsame := sameTables_of_touched htouched e.ctx
  refine ⟨_, exec_editCommit_eq hat hzero hmay hawake, ⟨_, mem_putEdit (e := e) ?_ rfl, hid, rfl, rfl, rfl⟩,
    untranslated_dropTlb_self, ?_⟩
  · exact edits_commitEdit _ e (by rwa [htouched.edits_eq])
  · intro pages hwhole hframes hpages hapart haligned a ha
    obtain ⟨slot, hapart⟩ := exists_apart hapart
    have hwrote := wrote_commitEdit (hapart.of_sameMem hsame htouched.mem_eq) haligned (hsame.wholePages htouched.mem_eq hwhole)
      hframes hpages
    have hpage : pageEntry (editCommitted s e) e.ctx a = pageEntry (commitEdit (touchEdit s e) e) e.ctx a :=
      SameTables.pageEntry ⟨rfl, fun _ => rfl, rfl⟩ rfl a
    rw [hpage, hwrote.maps a ha, funext (hsame.pageEntry htouched.mem_eq)]

end Sys2Proof.Machine
end

section
/-! PROOFS. The commit of a first-written ZERO page's edit: the page gets the edit's frame, filled with zeros (R222, R226). -/

open Host Sys2Proof Sys2Proof.Machine Sys2Proof.Claims

namespace Sys2Proof.Machine

/-! ### Maps that are kept in part, changed all over, or written in a row -/

section Maps
variable {α : Type}

theorem mapFind_keep (m : SMap α) (p : Nat → Bool) (a : Nat) :
    mapFind (mapKeep m (fun b _ => p b)) a = if p a = true then mapFind m a else none := by
  induction m with
  | nil => simp [mapKeep, mapFind]
  | cons e m ih =>
    obtain ⟨b, v⟩ := e
    simp only [mapKeep, List.filter_cons] at ih ⊢
    by_cases hab : a = b
    · subst hab
      split <;> simp_all [mapFind]
    · split <;> simpa [mapFind, hab] using ih

theorem mapFind_all (m : SMap α) (f : Nat → α → α) (a : Nat) : mapFind (mapAll m f) a = (mapFind m a).map (f a) := by
  induction m with
  | nil => rfl
  | cons e m ih =>
    obtain ⟨b, v⟩ := e
    rw [mapAll, List.map_cons, mapFind, mapFind]
    split
    next hab => rw [hab, Option.map_some]
    next => exact ih

variable [DecidableEq α] {d : α}

theorem mapGet_setList_lt (vs : List α) (m : SMap α) {a b : Nat} (h : b < a) : mapGet d (mapSetList d m a vs) b = mapGet d m b := by
  induction vs generalizing m a with
  | nil => rfl
  | cons v vs ih => exact (ih _ (Nat.lt_succ_of_lt h)).trans (mapGet_set_ne d m v (Nat.ne_of_lt h))

theorem mapGet_setList (vs : List α) (m : SMap α) (a : Nat) {i : Nat} (hi : i < vs.length) :
    mapGet d (mapSetList d m a vs) (a + i) = vs[i] := by
  induction vs generalizing m a i with
  | nil => exact absurd hi (Nat.not_lt_zero i)
  | cons v vs ih =>
    cases i with
    | zero => exact (mapGet_setList_lt vs _ (Nat.lt_succ_self a)).trans (mapGet_set_self d m a v)
    | succ i =>
      have h := ih (mapSet d m a v) (a + 1) (Nat.lt_of_succ_lt_succ hi)
      rwa [show a + 1 + i = a + (i + 1) by omega] at h

end Maps

theorem partAt_updPart (s : State) (p : Nat) (f : Partition → Partition) : partAt (updPart s p f) p = f (partAt s p) :=
  mapGet_set_self ..

theorem ctxAt_updCtx (s : State) (k : Nat) (f : Ctx → Ctx) : ctxAt (updCtx s k f) k = f (ctxAt s k) := mapGet_set_self ..

/-! ### A frame filled with zeros (R226) -/

theorem homeByte_zeroFill (m : Mem) (frame a : Nat) : homeByte (zeroFill m frame) a = if a / 65536 = frame then 0 else homeByte m a := by
  have hin : (frame * 65536 ≤ a ∧ a < frame * 65536 + 65536) ↔ a / 65536 = frame := by omega
  unfold zeroFill
  dsimp only
  rw [homeByte_foldl fun m i b => homeByte_bumpTag m _ b]
  unfold homeByte cellarByte mapGet
  dsimp only
  rw [mapFind_keep m.dirty (fun a => !decide (frame * 65536 ≤ a ∧ a < frame * 65536 + 65536)),
    mapFind_keep m.cellar (fun a => !decide (frame * 65536 ≤ a ∧ a < frame * 65536 + 65536))]
  simp only [hin]
  by_cases h : a / 65536 = frame
  · simp [h]
  · simp [h]

/-! ### The leaf that a written ZERO page gets (R222) -/

/-- The leaf of a ZERO page has no address and no flag but ZERO and W. -/
structure ZeroPte (w : Nat) : Prop where
  low : w % 2 ^ 57 < 8
  zero : w / 2 ^ 57 % 2 = 1

theorem zeroPte_of_leafEntry {s : State} {k w : Nat} {x : Nat × Nat} (h : leafEntry s k w = some x) (hzero : (pteAttr w).zero = true) :
    ZeroPte w := by
  obtain ⟨-, -, -, hok⟩ := leafEntry_some h
  simp only [leafOk, attrOk, hzero, Bool.true_and, Bool.true_or, Bool.and_eq_true, Bool.not_eq_true', Bool.or_eq_false_iff,
    Bool.and_eq_false_imp, beq_iff_eq, bne_eq_false_iff_eq] at hok
  obtain ⟨⟨⟨⟨⟨-, h4⟩, h8⟩, -⟩, hattr⟩, haddr⟩ := hok
  obtain ⟨⟨⟨⟨⟨⟨⟨⟨⟨hfmt, hhost⟩, hzb⟩, hmanual⟩, hshadow⟩, -⟩, -⟩, howner⟩, -⟩, -⟩ := hattr
  have howner : (pteAttr w).owner = false := by
    by_contra hne
    simp [hhost] at howner
    exact hne howner
  simp only [pteAttr, bitsOf, beq_eq_false_iff_ne, beq_iff_eq, Nat.reducePow] at hzero hfmt hhost hzb hmanual hshadow howner
  simp only [pteAddr, bitsOf, Nat.reducePow] at h4 h8 haddr
  constructor
  · simp only [Nat.reducePow]
    omega
  · simpa using hzero

/-- The frame takes the place of the ZERO bit. -/
theorem zeroLeaf_eq {w fr : Nat} (h : ZeroPte w) : zeroLeaf w fr = w - 2 ^ 57 + fr := by
  obtain ⟨hlow, hzero⟩ := h
  unfold zeroLeaf
  omega

/-- With its frame the page maps it, and keeps its W. -/
theorem leafEntry_zeroLeaf {s : State} {k w fr : Nat} {x : Nat × Nat} (h : leafEntry s k w = some x) (hzero : (pteAttr w).zero = true)
    (haligned : fr % 65536 = 0) (hfr : fr < 2 ^ 52) : leafEntry s k (zeroLeaf w fr) = some (0, w - 2 ^ 57 + fr) := by
  obtain ⟨hlow, hz⟩ := zeroPte_of_leafEntry h hzero
  obtain ⟨-, hv, hl, -⟩ := leafEntry_some h
  have hlows : zeroLeaf w fr % 2 ^ 16 = w % 2 ^ 16 ∧ zeroLeaf w fr % 2 ^ 16 < 8 ∧ zeroLeaf w fr / 2 ^ 52 % 2 ^ 6 = 0 := by
    unfold zeroLeaf
    simp only [Nat.reducePow] at *
    omega
  have hflags : pteV (zeroLeaf w fr) = true ∧ pteLeaf (zeroLeaf w fr) = true := by
    simp only [pteV, pteLeaf, bitsOf, beq_iff_eq, Nat.reducePow] at *
    omega
  have hattr : pteAttr (zeroLeaf w fr) = { w := (pteAttr w).w } := by
    have hlow : bitsOf (zeroLeaf w fr) 2 1 = bitsOf w 2 1 ∧ bitsOf (zeroLeaf w fr) 3 1 = 0 := by
      simp only [bitsOf, Nat.reducePow] at *
      omega
    have hhigh : ∀ i ∈ [0, 1, 2, 3, 4, 5], bitsOf (zeroLeaf w fr) (52 + i) 1 = 0 := by
      obtain ⟨-, -, hhigh⟩ := hlows
      simp only [bitsOf, pow_add, ← Nat.div_div_eq_div_mul]
      generalize zeroLeaf w fr / 2 ^ 52 = q at hhigh
      simp only [List.forall_mem_cons, List.not_mem_nil, false_imp_iff, implies_true, and_true, Nat.reducePow] at hhigh ⊢
      omega
    obtain ⟨h52, h53, h54, h55, h56, h57, -⟩ := by simpa only [List.forall_mem_cons, Nat.reduceAdd] using hhigh
    simp [pteAttr, hlow, h52, h53, h54, h55, h56, h57]
  have hok : leafOk (feature s (ctxPart k) 5) (feature s (ctxPart k) 9) 0 (zeroLeaf w fr) = true := by
    have hfields : bitsOf (zeroLeaf w fr) 4 4 = 0 ∧ bitsOf (zeroLeaf w fr) 8 8 = 0 ∧ pteAddr (zeroLeaf w fr) % 65536 = 0 := by
      simp only [pteAddr, bitsOf, Nat.reducePow] at *
      omega
    obtain ⟨h4, h8, haddr⟩ := hfields
    simp [leafOk, attrOk, hattr, h4, h8, haddr, levelSize]
  rw [leafEntry, hflags.1, hflags.2, hok, ← zeroLeaf_eq ⟨hlow, hz⟩]
  rfl

/-! ### ZERO_PAGE_COMMIT (R222, R226) -/

/-- The state after the commit of a first-written ZERO page's edit. -/
def zeroPageCommitted (s : State) (e : Edit) (va : Nat) : State :=
  resumeEvents (putEdit (dropTlb (returnFrames (commitZero { s := touchEdit s e, avail := e.frames } e.ctx va) e.ctx) e.core e.ctx e.ranges)
    { e with committed := true, upTo := 1 }) (ctxPart e.ctx)

theorem exec_zeroPageCommit_eq {s : State} {id va : Nat} {e : Edit} (hat : editAt s id = some e) (hop : e.op = .zeroPage va)
    (hcommitted : e.committed = false) (hbusy : rangesBusy s e.ctx e.ranges (fun y => decide (y.id < e.id)) = false)
    (hneed : zeroNeed s e.ctx [va / 65536] ≤ e.frames.length + framesFree s e.ctx) (hawake : tableAsleep s e.ctx va = none)
    (hwaits : zeroWaits s e.ctx va (e.frames.headD 0) = false) :
    exec (.zeroPageCommit id) s = .next (zeroPageCommitted s e va) := by
  simp only [exec_zeroPageCommit, execZeroPageCommit, hat, hcommitted, hop, hbusy, decide_eq_false (Nat.not_lt.mpr hneed), hawake, hwaits,
    Bool.or_self, Bool.false_eq_true, if_false, zeroPageCommitted]
  rfl

theorem edits_zeroPageCommitted {s : State} {e : Edit} (va : Nat) (h : e ∈ s.edits) :
    { e with committed := true, upTo := 1 } ∈ (zeroPageCommitted s e va).edits := by
  refine edits_resumeEvents _ _ (mem_putEdit (e := e) (edits_returnFrames _ _ ?_) rfl)
  rw [edits_commitZero, (touched_touchEdit s e).edits_eq]
  exact h

section ZeroPage
variable {s : State} {k va fr w : Nat} {slot : Nat → Nat}

/-- The tables of a page apart from a frame stay where the frame is filled with zeros. -/
theorem Apart.zeroFill (h : Apart s k [va] slot) (hway : ∀ q ∈ entriesAbove s.mem va 4 (rootTable s k), q / 65536 ≠ fr / 65536) :
    Apart { s with mem := Machine.zeroFill s.mem (fr / 65536) } k [va] slot := by
  refine h.congr (sameTables_of_cores_mem s k s.cores _) fun c hc q hq => entryOf_congr fun i hi => ?_
  obtain rfl := List.mem_singleton.mp hc
  have haligned := aligned_entriesAbove (rootTable_aligned s k) hq
  have hout : (q + i) / 65536 ≠ fr / 65536 := by
    have := hway q hq
    omega
  rw [homeByte_zeroFill, if_neg hout]

/-- The ZERO page gets the frame that its edit holds: no other frame is taken, the page maps it, and it is all zeros. -/
theorem wrote_commitZero (hapart : Apart s k [va] slot) (hpage : pageEntry s k va = some (0, w)) (hzero : (pteAttr w).zero = true)
    (haligned : va % 65536 = 0) (hframe : fr % 65536 = 0) (hfr : fr < 2 ^ 52) (hslot : slot va / 65536 ≠ fr / 65536)
    (hway : ∀ q ∈ entriesAbove s.mem va 4 (rootTable s k), q / 65536 ≠ fr / 65536) :
    (commitZero { s, avail := [fr] } k va).avail = [] ∧
      Wrote { s with mem := zeroFill s.mem (fr / 65536) } (commitZero { s, avail := [fr] } k va).s k [va] slot
        (fun _ => some (0, w - 2 ^ 57 + fr)) := by
  have hva : va / 65536 * 65536 = va := by omega
  have hleafslot := hapart.leaf va (List.mem_singleton_self va)
  have hleaf : leafEntry s k w = some (0, w) := by
    rw [← hpage, ← leafEntry_entryAt hleafslot, entryAt, hpage]
  have hnew := leafEntry_zeroLeaf hleaf hzero hframe hfr
  have hlt : zeroLeaf w fr < 2 ^ 64 := by
    have hw := entryAt_lt hleafslot
    obtain ⟨hlow, hz⟩ := zeroPte_of_leafEntry hleaf hzero
    rw [entryAt, hpage] at hw
    change w < 2 ^ 64 at hw
    unfold zeroLeaf
    omega
  have hcommit : commitZero { s, avail := [fr] } k va =
      commitChanges { s := { s with mem := zeroFill s.mem (fr / 65536) }, avail := [] } k false
        [{ va := va, level := 0, entry := zeroLeaf w fr }] := by
    simp [commitZero, hpage, hzero, hva, Work.take]
  obtain ⟨havail, hwrote⟩ := wrote_commitChanges (w := { s := { s with mem := zeroFill s.mem (fr / 65536) }, avail := [] })
    (attrs := false) (cs := [{ va := va, level := 0, entry := zeroLeaf w fr }]) (hapart.zeroFill hway)
    (List.forall_mem_singleton.mpr ⟨rfl, List.mem_singleton_self va, hlt⟩)
  rw [hcommit]
  refine ⟨havail, hwrote.congr fun a ha => ?_⟩
  obtain rfl := List.mem_singleton.mp ha
  exact (if_pos rfl).trans (((sameTables_of_cores_mem s k s.cores _).leafEntry _).trans hnew)

end ZeroPage

/-- Where no event record waits, the committed ZERO page maps its frame of zeros. -/
theorem zeroPageCommitted_maps {s : State} {e : Edit} {va fr w : Nat} (hevents : (partAt s (ctxPart e.ctx)).sevWait = [])
    (hframes : e.frames = [fr]) (hframe : fr % 65536 = 0) (hfr : fr < 2 ^ 52) (haligned : va % 65536 = 0)
    (hpage : pageEntry s e.ctx va = some (0, w)) (hzero : (pteAttr w).zero = true) (hapart : PagesApart s e.ctx [va])
    (hslot : ∀ slot, LeafSlot s e.ctx va slot → slot / 65536 ≠ fr / 65536)
    (hway : ∀ q ∈ entriesAbove s.mem va 4 (rootTable s e.ctx), q / 65536 ≠ fr / 65536) :
    pageEntry (zeroPageCommitted s e va) e.ctx va = some (0, w - 2 ^ 57 + fr) ∧
      ∀ i, i < 65536 → homeByte (zeroPageCommitted s e va).mem (fr + i) = 0 := by
  obtain ⟨slot, hapart⟩ := exists_apart hapart
  have hslot := hslot _ (hapart.leaf va (List.mem_singleton_self va))
  have haligned8 := leafSlot_aligned (hapart.leaf va (List.mem_singleton_self va))
  have htouched := touched_touchEdit s e
  have hsame := sameTables_of_touched htouched e.ctx
  have hroot : rootTable (touchEdit s e) e.ctx = rootTable s e.ctx := by rw [rootTable, hsame.ptbase, rootTable]
  obtain ⟨havail, hwrote⟩ := wrote_commitZero (hapart.of_sameMem hsame htouched.mem_eq)
    ((hsame.pageEntry htouched.mem_eq va).trans hpage) hzero haligned hframe hfr hslot (by rwa [hroot, htouched.mem_eq])
  obtain ⟨w', hw'⟩ : ∃ w', w' = commitZero { s := touchEdit s e, avail := [fr] } e.ctx va := ⟨_, rfl⟩
  rw [← hw'] at havail hwrote
  have hstate : zeroPageCommitted s e va = putEdit (dropTlb w'.s e.core e.ctx e.ranges) { e with committed := true, upTo := 1 } := by
    have hwait : (partAt w'.s (ctxPart e.ctx)).sevWait = [] := by
      rw [hwrote.rest, htouched.rest]
      exact hevents
    rw [zeroPageCommitted, hframes, ← hw', returnFrames, havail]
    exact if_pos (List.isEmpty_iff.mpr hwait)
  rw [hstate]
  constructor
  · rw [← hwrote.maps va (List.mem_singleton_self va)]
    exact SameTables.pageEntry ⟨rfl, fun _ => rfl, rfl⟩ rfl va
  · intro i hi
    have hzeros : homeByte (zeroFill (touchEdit s e).mem (fr / 65536)) (fr + i) = 0 := by
      rw [homeByte_zeroFill, if_pos (by omega)]
    have hout : ∀ a ∈ [va], fr + i < slot a ∨ slot a + 8 ≤ fr + i := by
      intro a ha
      obtain rfl := List.mem_singleton.mp ha
      omega
    have hbytes := hwrote.bytes (fr + i) hout
    dsimp only at hbytes
    rw [hzeros] at hbytes
    exact hbytes

end Sys2Proof.Machine
end

section
/-! PROOFS. The completion of an edit: at one scope after the other, then pages back to the host, then the end (R216, R223, R228-R230,
R362). -/

open Host Sys2Proof Sys2Proof.Machine Sys2Proof.Claims

namespace Sys2Proof.Machine

/-! ### EDIT_COMPLETE at one scope (R229) -/

/-- A drop of translations changes the cores alone. -/
theorem foldl_dropTlb_rest (s : State) (k : Nat) (rs : List (Nat × Nat)) (l : List Nat) :
    l.foldl (fun s c => dropTlb s c k rs) s = { s with cores := (l.foldl (fun s c => dropTlb s c k rs) s).cores } :=
  List.foldlRecOn (motive := fun t : State => t = { s with cores := t.cores }) l _ rfl fun t ht c _ => by
    rw [ht]
    rfl

/-- The state after an edit's completion at its next scope. -/
def scopeCompleted (s : State) (e : Edit) : State :=
  putEdit ((scopeCores s e (e.upTo + 1)).foldl (fun s c => dropTlb s c e.ctx e.ranges) s) { e with upTo := e.upTo + 1 }

theorem exec_editComplete_scope {s : State} {id : Nat} {e : Edit} (hat : editAt s id = some e) (hcommitted : e.committed = true)
    (hscope : e.upTo < 3) : exec (.editComplete id) s = .next (scopeCompleted s e) := by
  simp [execEditComplete, hat, hcommitted, hscope, scopeCompleted]

theorem scopeCompletes {s : State} {id : Nat} {e : Edit} (hat : editAt s id = some e) (hcommitted : e.committed = true)
    (hscope : e.upTo < 3) : ∃ t, exec (.editComplete id) s = .next t ∧
      (∃ q ∈ t.edits, q.id = id ∧ q.upTo = e.upTo + 1) ∧ t.mem = s.mem ∧ t.groups = s.groups ∧
      ∀ c ∈ scopeCores s e (e.upTo + 1), Untranslated t e.ctx e.ranges c := by
  obtain ⟨hedit, hid⟩ := editAt_mem hat
  have hrest := foldl_dropTlb_rest s e.ctx e.ranges (scopeCores s e (e.upTo + 1))
  have hmem : ((scopeCores s e (e.upTo + 1)).foldl (fun s c => dropTlb s c e.ctx e.ranges) s).mem = s.mem := by rw [hrest]
  have hgroups : ((scopeCores s e (e.upTo + 1)).foldl (fun s c => dropTlb s c e.ctx e.ranges) s).groups = s.groups := by rw [hrest]
  refine ⟨_, exec_editComplete_scope hat hcommitted hscope, ⟨_, mem_putEdit (e := e) ?_ rfl, hid, rfl⟩, hmem, hgroups,
    fun c hc => untranslated_foldl_dropTlb hc⟩
  rw [hrest]
  exact hedit

/-! ### EDIT_COMPLETE everywhere (R216, R230, R362) -/

/-- The state after an edit has given a page back to the host. -/
def returnCompleted (s : State) (e : Edit) (x : Nat × Nat × Nat) (rest : List (Nat × Nat × Nat)) : State :=
  putEdit (returnPage (dropTlbEvery s e.ctx e.ranges) e.ctx x) { e with back := rest }

/-- The context's PTE command has ended, where the edit is one (R236). -/
def endCommand (s : State) (e : Edit) : State :=
  if e.pte = true then updCtx s e.ctx (fun c => { c with pteBusy := false, pteErr := false }) else s

/-- The state after an edit's end. -/
def endCompleted (s : State) (id : Nat) (e : Edit) : State := dropEdit (endCommand (dropTlbEvery s e.ctx e.ranges) e) id

section Last
variable {s : State} {id : Nat} {e : Edit} (hat : editAt s id = some e) (hcommitted : e.committed = true) (hscope : 3 ≤ e.upTo)
  (hwaits : returnWaits s e = false)
include hat hcommitted hscope hwaits

theorem exec_editComplete_return {x : Nat × Nat × Nat} {rest : List (Nat × Nat × Nat)} (hback : e.back = x :: rest) :
    exec (.editComplete id) s = .next (returnCompleted s e x rest) := by
  rw [exec_editComplete]
  unfold execEditComplete
  rw [hat]
  dsimp only
  rw [if_neg (by simp [hcommitted]), if_neg (Nat.not_lt.mpr hscope), if_neg (by simp [hwaits]), hback]
  rfl

theorem exec_editComplete_end (hback : e.back = []) : exec (.editComplete id) s = .next (endCompleted s id e) := by
  rw [exec_editComplete]
  unfold execEditComplete
  rw [hat]
  dsimp only
  rw [if_neg (by simp [hcommitted]), if_neg (Nat.not_lt.mpr hscope), if_neg (by simp [hwaits]), hback]
  rfl

end Last

/-- A core without its cached lines of a frame. -/
def coreWithoutFrame (frame : Nat) (c : Core) : Core :=
  { c with
    l1 := c.l1.filter (fun l => !decide (frameOf (128 * l.line) = frame))
    cc := c.cc.filter (fun l => !decide (frameOf (128 * l.line) = frame)) }

theorem cores_returnPage (s : State) (k : Nat) (x : Nat × Nat × Nat) :
    (returnPage s k x).cores = mapAll s.cores (fun _ => coreWithoutFrame (x.2.2 / 65536)) := rfl

/-- A return to the host gives no core a translation. -/
theorem Untranslated.returnPage {s : State} {k : Nat} {rs : List (Nat × Nat)} {c : Nat} (h : Untranslated s k rs c)
    (x : Nat × Nat × Nat) : Untranslated (Machine.returnPage s k x) k rs c := by
  intro u hu
  refine h u ?_
  rw [coreAt, mapGet] at hu ⊢
  rw [cores_returnPage, mapFind_all] at hu
  cases hcore : mapFind s.cores c with
  | none => rwa [hcore] at hu
  | some y => rwa [hcore] at hu

/-- The bytes of a returned page are the host's. -/
theorem hostMem_returnPage (s : State) (k : Nat) (x : Nat × Nat × Nat) {i : Nat} (hi : i < 65536) :
    mapGet 0 (returnPage s k x).out.mem (x.2.1 + i) = homeByte s.mem (x.2.2 + i) := by
  have hout : (returnPage s k x).out.mem = mapSetList 0 s.out.mem x.2.1 (homeRead s.mem x.2.2 65536) := by
    simp only [returnPage, updPart, putPart, askHost]
  rw [hout, homeRead_eq_map, mapGet_setList _ _ _ (by rwa [List.length_map, List.length_range]), List.getElem_map, List.getElem_range]

/-- One message tells the host of it. -/
theorem msgs_returnPage (s : State) (k : Nat) (x : Nat × Nat × Nat) : ∃ m,
    (partAt (returnPage s k x) (ctxPart k)).msgs = (partAt s (ctxPart k)).msgs ++ [m] ∧ m.kind = 3 ∧ m.va = x.1 := by
  refine ⟨{ kind := 3, ctx := ctxNum k, tag := (partAt s (ctxPart k)).nextTag, va := x.1, d0 := BitVec.ofNat 64 x.2.1, d1 := 0 }, ?_,
    rfl, rfl⟩
  rw [returnPage, partAt_updPart, askHost, partAt_updPart]
  rfl

/-- The end of a PTE command changes its context alone. -/
theorem endCommand_rest (s : State) (e : Edit) : endCommand s e = { s with ctxs := (endCommand s e).ctxs } := by
  unfold endCommand
  split <;> rfl

theorem ctxAt_endCommand {s : State} {e : Edit} (h : e.pte = true) : (ctxAt (endCommand s e) e.ctx).pteBusy = false ∧
    (ctxAt (endCommand s e) e.ctx).pteErr = false := by
  rw [endCommand, if_pos h, ctxAt_updCtx]
  exact ⟨rfl, rfl⟩

/-- The last steps of an edit. -/
theorem lastCompletes {s : State} {id : Nat} {e : Edit} (hat : editAt s id = some e) (hcommitted : e.committed = true)
    (hscope : 3 ≤ e.upTo) (hwaits : returnWaits s e = false) : ∃ t, exec (.editComplete id) s = .next t ∧ t.groups = s.groups ∧
      (e.back = [] → (∀ q ∈ t.edits, q.id ≠ id) ∧ t.mem = s.mem ∧
        (e.pte = true → (ctxAt t e.ctx).pteBusy = false ∧ (ctxAt t e.ctx).pteErr = false)) ∧
      (∀ x rest, e.back = x :: rest → (∃ q ∈ t.edits, q.id = id ∧ q.back = rest) ∧
        (∀ i, i < 65536 → mapGet 0 t.out.mem (x.2.1 + i) = homeByte s.mem (x.2.2 + i)) ∧
        ∃ m, (partAt t (ctxPart e.ctx)).msgs = (partAt s (ctxPart e.ctx)).msgs ++ [m] ∧ m.kind = 3 ∧ m.va = x.1) ∧
      ∀ c, Untranslated t e.ctx e.ranges c := by
  obtain ⟨hedit, hid⟩ := editAt_mem hat
  obtain ⟨d, hd⟩ : ∃ d, d = dropTlbEvery s e.ctx e.ranges := ⟨_, rfl⟩
  have hrest : d = { s with cores := d.cores } := by
    rw [hd]
    exact foldl_dropTlb_rest ..
  have hgroups : d.groups = s.groups := by rw [hrest]
  have hmem : d.mem = s.mem := by rw [hrest]
  have hedits : d.edits = s.edits := by rw [hrest]
  have hparts : partAt d = partAt s := by rw [hrest]; rfl
  have hclean : ∀ c, Untranslated d e.ctx e.ranges c := fun c => hd ▸ untranslated_dropTlbEvery
  cases hback : e.back with
  | nil =>
    have hend := endCommand_rest d e
    have hgroups' : (endCommand d e).groups = s.groups := by rw [hend, ← hgroups]
    have hmem' : (endCommand d e).mem = s.mem := by rw [hend, ← hmem]
    have hcores : (endCommand d e).cores = d.cores := by rw [hend]
    refine ⟨dropEdit (endCommand d e) id, hd ▸ exec_editComplete_end hat hcommitted hscope hwaits hback, hgroups',
      fun _ => ⟨fun q hq => ?_, hmem', ctxAt_endCommand⟩, fun x rest h => absurd h (by simp), fun c u hu => hclean c u ?_⟩
    · simpa using (List.mem_filter.mp hq).2
    · change u ∈ (mapGet {} (endCommand d e).cores c).tlb at hu
      rwa [hcores] at hu
  | cons x rest =>
    refine ⟨putEdit (returnPage d e.ctx x) { e with back := rest },
      hd ▸ exec_editComplete_return hat hcommitted hscope hwaits hback, hgroups,
      fun h => absurd h (by simp), fun y l h => ?_, fun c => (hclean c).returnPage x⟩
    obtain ⟨rfl, rfl⟩ := List.cons.inj h
    refine ⟨⟨_, mem_putEdit (e := e) ?_ rfl, hid, rfl⟩, fun i hi => ?_, ?_⟩
    · change e ∈ d.edits
      rwa [hedits]
    · rw [← hmem]
      exact hostMem_returnPage d e.ctx x hi
    · rw [← hparts]
      exact msgs_returnPage d e.ctx x

theorem editsComplete : EditsComplete := by
  intro s id e hat
  refine ⟨fun va hop hcommitted hbusy hneed hawake hwaits => ?_, scopeCompletes hat, lastCompletes hat⟩
  obtain ⟨hedit, hid⟩ := editAt_mem hat
  exact ⟨_, exec_zeroPageCommit_eq hat hop hcommitted hbusy hneed hawake hwaits, ⟨_, edits_zeroPageCommitted va hedit, hid, rfl⟩,
    fun fr w hevents hframes hframe hfr haligned hpage hzero hapart hslot hway =>
      zeroPageCommitted_maps hevents hframes hframe hfr haligned hpage hzero hapart hslot hway⟩

end Sys2Proof.Machine
end

section
/-! PROOFS. The release of a frame that nothing maps (R231, R232). -/

open Host Sys2Proof Sys2Proof.Machine Sys2Proof.Claims

namespace Sys2Proof.Machine

theorem releasing_homePutList (bs : List Byte) (m : Mem) (a : Nat) : (homePutList m a bs).releasing = m.releasing := by
  induction bs generalizing m a with
  | nil => rfl
  | cons b bs ih => exact ih (homePut m a b) (a + 1)

/-- A write at home releases no frame. -/
theorem releasing_homeWrite (m : Mem) (a : Nat) (bs : List Byte) : (homeWrite m a bs).releasing = m.releasing := by
  have hfold : ∀ (step : Mem → Nat → Mem) (l : List Nat) (m : Mem), (∀ m l, (step m l).releasing = m.releasing) →
      (l.foldl step m).releasing = m.releasing := fun step l m h =>
    List.foldlRecOn (motive := fun m' => m'.releasing = m.releasing) l step rfl fun m' hm' n _ => (h m' n).trans hm'
  rw [homeWrite, hfold bumpTag _ _ fun _ _ => rfl, releasing_homePutList]
  refine hfold keepShadow _ _ fun m l => ?_
  rw [keepShadow_eq]

/-- Outside a dropped frame every byte is as it was. -/
theorem homeByte_dropFrame {s : State} {frame a : Nat} (h : a / 65536 ≠ frame) :
    homeByte (dropFrame s frame).mem a = homeByte s.mem a := by
  have hkeep : mapFind (dropFrame s frame).mem.dirty a = mapFind s.mem.dirty a := by
    refine (mapFind_keep s.mem.dirty (fun a => frameOf a != frame) a).trans (if_pos ?_)
    simpa [frameOf] using h
  unfold homeByte
  rw [hkeep]
  rfl

/-! ### FRAME_RELEASE -/

/-- The state in which a frame is no longer to be released. -/
def unreleased (s : State) (frame : Nat) : State :=
  { s with mem := { s.mem with releasing := s.mem.releasing.filter (fun e => e.2 != frame) } }

theorem ne_of_mem_unreleased {s : State} {frame : Nat} {e : Nat × Nat} (h : e ∈ (unreleased s frame).mem.releasing) : e.2 ≠ frame := by
  simpa using (List.mem_filter.mp h).2

section Release
variable {s : State} {frame k fr : Nat} (hfind : s.mem.releasing.find? (fun e => e.2 == frame) = some (k, fr))
  (hback : ∀ e ∈ s.edits, e.back = [])
include hfind hback

theorem exec_frameRelease_eq : exec (.frameRelease frame) s = if mapGet 0 s.mem.counts frame ≠ 0 then .next (unreleased s frame)
    else .next (giveFrame (dropFrame (unreleased s frame) frame) k (frame * 65536)) := by
  have hkept : frameKept s frame = false := List.any_eq_false.mpr fun e he => by simp [hback e he]
  rw [exec_frameRelease]
  unfold execFrameRelease
  rw [hfind]
  dsimp only
  rw [if_neg (by simp [hkept])]
  rfl

end Release

/-- A frame is written at the tail of its pool's ring (R232). -/
def frameGiven (s : State) (k fr : Nat) : State :=
  let slot := poolSlot (ctxAt s k).pool (ctxAt s k).pool.tail
  updCtx (touchBin { s with mem := homeWrite s.mem slot (leBytes 8 fr) } slot) k
    (fun c => { c with pool := { c.pool with tail := c.pool.tail + 1, waiting := false } })

section Given
variable {s : State} {k fr : Nat}

/-- With room in the ring, and its slot reached. -/
theorem giveFrame_of_room (hroom : ringRefuses (ctxAt s k).pool = false)
    (hhome : atHome s (ctxPart k) (poolSlot (ctxAt s k).pool (ctxAt s k).pool.tail) = .ok) : giveFrame s k fr = frameGiven s k fr := by
  unfold giveFrame
  dsimp only
  rw [if_neg (by simp [hroom]), appendFrame]
  unfold writeRing
  dsimp only
  rw [hhome]
  rfl

theorem mem_frameGiven : (frameGiven s k fr).mem =
    homeWrite s.mem (poolSlot (ctxAt s k).pool (ctxAt s k).pool.tail) (leBytes 8 fr) := rfl

theorem tail_frameGiven : (ctxAt (frameGiven s k fr) k).pool.tail = (ctxAt s k).pool.tail + 1 := by
  rw [frameGiven, ctxAt_updCtx]
  rfl

theorem homeRead_frameGiven : homeRead (frameGiven s k fr).mem (poolSlot (ctxAt s k).pool (ctxAt s k).pool.tail) 8 = leBytes 8 fr := by
  have hread := homeRead_homeWrite s.mem (poolSlot (ctxAt s k).pool (ctxAt s k).pool.tail) (leBytes 8 fr)
  rwa [length_leBytes] at hread

theorem homeByte_frameGiven_out {a : Nat} (h : a < poolSlot (ctxAt s k).pool (ctxAt s k).pool.tail ∨
    poolSlot (ctxAt s k).pool (ctxAt s k).pool.tail + 8 ≤ a) : homeByte (frameGiven s k fr).mem a = homeByte s.mem a :=
  homeByte_homeWrite_out _ _ (by rwa [length_leBytes])

end Given

theorem framesReturnToPool : FramesReturnToPool := by
  intro s frame k fr hfind hback
  have hexec := exec_frameRelease_eq hfind hback
  constructor
  · intro hmapped
    exact ⟨_, hexec.trans (if_pos hmapped), fun e => ne_of_mem_unreleased, rfl, rfl, rfl⟩
  · intro hunmapped hroom hhome
    obtain ⟨d, hd⟩ : ∃ d, d = dropFrame (unreleased s frame) frame := ⟨_, rfl⟩
    have hctx : ctxAt d k = ctxAt s k := by
      rw [hd]
      rfl
    have hat : ∀ pa, atHome d (ctxPart k) pa = atHome s (ctxPart k) pa := by
      rw [hd]
      exact fun _ => rfl
    have hgroups : d.groups = s.groups := by
      rw [hd]
      rfl
    have hgive : giveFrame d k (frame * 65536) = frameGiven d k (frame * 65536) :=
      giveFrame_of_room (by rwa [hctx]) (by rwa [hctx, hat])
    have htail := tail_frameGiven (s := d) (k := k) (fr := frame * 65536)
    have hread := homeRead_frameGiven (s := d) (k := k) (fr := frame * 65536)
    rw [hctx] at htail hread
    refine ⟨frameGiven d k (frame * 65536), ?_, fun e he => ?_, hgroups, htail, hread, fun a ha hout => ?_⟩
    · rw [hexec, if_neg (not_not_intro hunmapped), ← hd, hgive]
    · rw [mem_frameGiven, releasing_homeWrite, hd] at he
      exact ne_of_mem_unreleased he
    · rw [homeByte_frameGiven_out (by rwa [hctx]), hd]
      exact homeByte_dropFrame ha

/-- Settles O31: an edit of whole pages writes one leaf entry for each page that it changes, on ways that no entry lies on; a ZERO page
gets its edit's frame of zeros; the translations go scope by scope; and a frame that nothing maps is written at the tail of its ring. -/
theorem editsAndFramesProceed : Obligations.EditsAndFramesProceed := ⟨editsCommit, editsComplete, framesReturnToPool⟩

end Sys2Proof.Machine
end
